-- ==== Sys2Proof/Word.lean ====
section
/-! DEFINITION. The words of the device: bytes, 32-bit and 64-bit words, and sparse tables keyed by numbers. -/

namespace Sys2Proof

/-- One byte of memory (R6). -/
abbrev Byte := BitVec 8

/-- A Compositor register or instruction word (R153). -/
abbrev W32 := BitVec 32

/-- A register word of the device-local map, and one parameter word of a command (R392). -/
abbrev W64 := BitVec 64

/-- A sparse table: entries by number. What an unlisted number holds is said where the table is read. -/
abbrev Tab (α : Type) := List (Nat × α)

end Sys2Proof
end

