-- ==== Sys2Proof/Config.lean ====
section
/-! DEFINITION. What an implementation or the outside fixes: free values with no body, and the external
signature schemes that the spec names without giving them. -/

namespace Sys2Proof.Config

/-- A value the spec leaves open (log entry 10): number n of the run's free values. No body, so no proof can
see it; the machine reads it at State.freeCtr and advances that counter. -/
opaque free : Nat → Nat

/-- RSASSA-PSS verification with SHA-384 (R416, R419 reason 8; log entry 7): modulus bytes, signed bytes, signature bytes. -/
opaque rsaVerify : List Byte → List Byte → List Byte → Bool

/-- SLH-DSA-SHA2-192s verification (R416, R419 reason 9; log entry 7): public key, signed bytes, signature. -/
opaque slhVerify : List Byte → List Byte → List Byte → Bool

/-- The RSA signature by the device's identity key (R415, R425; log entry 7). -/
opaque rsaSign : List Byte → List Byte

/-- The SLH-DSA-SHA2-192f signature by the device's identity key (R415, R425; log entry 7). -/
opaque slhSign : List Byte → List Byte

/-- The identity certificates of the device, stored by the vendor (R415; log entry 7). -/
opaque certificates : List Byte

/-- The module's serial number, fused (R398 IDENTIFY W1; log entry 7). -/
opaque serial : BitVec 64

/-- The fused digest of the boot ROM (R425; log entry 7). -/
opaque romDigest : BitVec 384

end Sys2Proof.Config
end

