-- ==== Sys2Proof/Syntax.lean ====
section
/-! DEFINITION. The commands of the block: one constructor per row of spec/opcode_table.json, with the row's operands. -/

namespace Sys2Proof

/-- The header of a host command packet (R392). OPCODE is the row's own. -/
structure HostHdr where
  version : BitVec 4
  rsvLo   : BitVec 4
  tag     : BitVec 16
  length  : BitVec 12
  form    : BitVec 4
  rsvHi   : BitVec 80
  deriving DecidableEq, Repr

/-- A fabric packet as it arrives: the 32-byte header (R260), the payload and the CRC-64 trailer (R262). -/
structure Pkt where
  hdr     : BitVec 256
  payload : List Byte
  crc     : BitVec 64
  deriving DecidableEq, Repr

/-- What nature did to the token position a station step works on (R141): its checks passed, a residue or
parity check failed, a correctable stone error was met at an address, or an uncorrectable error was. Of a Compositor read
(R162) it says the same of the word read, whatever address it names. -/
inductive Check where
  | pass
  | mismatch
  | corrected (addr : Nat)
  | uncorrectable (addr : Nat)
  deriving DecidableEq, Repr

/-- One assignment of a switch slice channel by the compiled schedule (R167, R479). For an output channel the
packets go to (dst, rhandle, offset onward); an input channel takes the packets for (port, rhandle, offset onward). Phase is the lane of
the collective, fmt its format code; mcast is the multicast group of the owner and its partner, for a collective with
PARTNER_MC (R234). -/
structure SliceChan where
  input   : Bool
  coll    : Nat
  bucket  : Nat
  phase   : Nat
  fmt     : Nat
  gsBase  : Nat
  gsBlocks : Nat
  dst     : Nat
  rhandle : Nat
  offset  : Nat
  port    : Nat
  mcast   : Option Nat := none
  deriving DecidableEq, Repr

/-- One group segment of a bucket (R350): where its state tiles lie. -/
structure Segment where
  group     : Nat
  base      : Nat
  tileBytes : Nat
  tiles     : Nat
  firstTile : Nat
  stats     : Nat
  statsBytes : Nat
  rowLo     : Nat
  rowCount  : Nat
  sums      : Nat
  deriving DecidableEq, Repr

/-- One bucket the device owns or replicates, as the compiled program places it (R202, R209, R220, R223). -/
structure Bucket where
  id        : Nat
  owned     : Bool
  width     : Nat
  blocks    : Nat
  segments  : List Segment
  grad      : Nat
  gradBytes : Nat
  touched   : Nat
  slot0     : Nat
  slot1     : Nat
  slotBytes : Nat
  updWord   : Nat
  repWord   : Nat
  deriving DecidableEq, Repr

/-- The tree of a commit or barrier collective on this device (R242): its children, its parent, none at the root, and for
the root every device that votes, and the multicast group of the members. -/
structure Tree where
  children : List Nat
  parent   : Option Nat
  members  : List Nat
  group    : Nat := 0
  deriving DecidableEq, Repr

/-- The compiled schedule (R49, R53, R237, R242), whose file format the spec leaves to Jexbebel (log entry 5).
It comes with START and LAUNCH_AT. Ordinal lists hold collective indices of the epoch in ascending order; a port's list also
how many scheduled packets cross the port for each, received and sent. Trees are by collective index. results gives the reservations of global
scale-phase results in stone by BASE: their blocks and the extension entries that they hold (R100, R148). slots gives the static
slot sequence of each memory controller as 16 times the logical bench plus the station (R49). sums is the address of the 16-byte
sum of the digests of sent packets, that of the received ones after it (R218, R255). psets is the conversion parameter set of each
bucket's compact copy (R77), rowSets where the masters of a layer's row set lie, by 8 times the layer plus the row set: their group, the
group's row that is logical row 0, and the column of the row set's first element. norms is, by group, the address of the record of the
norm of the group's reduced gradient over the job (R216). mcasts gives for a multicast group the egress ports of this device with the
member that a copy sent there reaches (R268), directory the signal directory's entries by address (R246). ringColls are the collectives that run over rings of devices (R267). -/
structure Schedule where
  portLists  : Tab (List (Nat × Nat)) := []
  benchLists : Tab (List Nat) := []
  reserved   : Tab Nat := []
  chans      : Tab SliceChan := []
  slowPeers  : Tab (List Nat) := []
  trees      : Tab Tree := []
  sums       : Option Nat := none
  results    : Tab (Nat × Nat) := []
  slots      : Tab (List Nat) := []
  psets      : Tab Nat := []
  rowSets    : Tab (Nat × Nat × Nat) := []
  norms      : Tab Nat := []
  mcasts     : Tab (List (Nat × Nat)) := []
  ringColls  : List Nat := []
  directory  : Tab Nat := []
  commitWords : List Nat := []
  buckets    : List Bucket := []
  jobSeed    : BitVec 128 := 0
  deriving DecidableEq, Repr

/-- The outcome of PMD training and PCS alignment of a port (R312, R322). -/
inductive TrainResult where
  | ok
  | trainFailed
  | noLock
  | laneOrder
  deriving DecidableEq, Repr

/-- A key that WAIT_ENDS names: station i of bench b, or its Compositor (R155). -/
inductive Waiter where
  | compositor (b : Nat)
  | station (b i : Nat)
  deriving DecidableEq, Repr

/-- The commands: one constructor per row of spec/opcode_table.json, in the table's order. b is a physical bench,
i a station index, p a port context, r a region (numbered as AGE_r, R431), n a forge die, m a port die. -/
inductive Instr where
  | identify (h : HostHdr) (w : List W64)
  | getFeatures (h : HostHdr) (w : List W64)
  | getStatus (h : HostHdr) (w : List W64)
  | getStatusMailbox (h : HostHdr) (w : List W64)
  | readCsr (h : HostHdr) (w : List W64)
  | writeCsr (h : HostHdr) (w : List W64)
  | loadImage (h : HostHdr) (w : List W64)
  | bulkPacket (hdr : BitVec 128) (data : List Byte)
  | swapBank (h : HostHdr) (w : List W64)
  | stop (h : HostHdr) (w : List W64)
  | stopRouting (h : HostHdr) (w : List W64)
  | start (h : HostHdr) (w : List W64) (sched : Schedule)
  | startRouting (h : HostHdr) (w : List W64)
  | setRoutes (h : HostHdr) (w : List W64)
  | launchAt (h : HostHdr) (w : List W64) (sched : Schedule)
  | launchAtCount
  | abortStep (h : HostHdr) (w : List W64)
  | abortStepCommit (h : HostHdr) (w : List W64)
  | globalStop (h : HostHdr) (w : List W64)
  | globalStopCount
  | setPair (h : HostHdr) (w : List W64)
  | setPairAdopt (h : HostHdr) (w : List W64)
  | setFailureDomain (h : HostHdr) (w : List W64)
  | impress (h : HostHdr) (w : List W64)
  | impressExport (h : HostHdr) (w : List W64)
  | impressList (h : HostHdr) (w : List W64)
  | restore (h : HostHdr) (w : List W64) (sched : Schedule)
  | retireBench (h : HostHdr) (w : List W64)
  | retireChannel (h : HostHdr) (w : List W64)
  | retireLane (h : HostHdr) (w : List W64)
  | margin (h : HostHdr) (w : List W64)
  | getCounters (h : HostHdr) (w : List W64)
  | getLog (h : HostHdr) (w : List W64)
  | clearLog (h : HostHdr) (w : List W64)
  | setTime (h : HostHdr) (w : List W64)
  | attest (h : HostHdr) (w : List W64)
  | updateFw (h : HostHdr) (w : List W64)
  | activateFw (h : HostHdr) (w : List W64)
  | confirmation
  | watchdogExpiry
  | linkControlFlit (flit : BitVec 256)
  | drerilLinkDown
  | retrain
  | freset (h : HostHdr) (b : Nat)
  | faultAck (h : HostHdr)
  | build (h : HostHdr)
  | alarmClr (h : HostHdr)
  | exportReady (h : HostHdr)
  | calendar (h : HostHdr) (value : W64)
  | ownerLock (h : HostHdr)
  | ovrEn (h : HostHdr) (r : Nat) (value : W64)
  | vset (h : HostHdr) (r : Nat) (value : W64)
  | addi (b : Nat) (rd ra : BitVec 5) (imm : BitVec 16)
  | andi (b : Nat) (rd ra : BitVec 5) (imm : BitVec 16)
  | ori (b : Nat) (rd ra : BitVec 5) (imm : BitVec 16)
  | xori (b : Nat) (rd ra : BitVec 5) (imm : BitVec 16)
  | slti (b : Nat) (rd ra : BitVec 5) (imm : BitVec 16)
  | sltiu (b : Nat) (rd ra : BitVec 5) (imm : BitVec 16)
  | lui (b : Nat) (rd : BitVec 5) (imm : BitVec 16)
  | slli (b : Nat) (rd ra : BitVec 5) (sh : BitVec 5)
  | srli (b : Nat) (rd ra : BitVec 5) (sh : BitVec 5)
  | srai (b : Nat) (rd ra : BitVec 5) (sh : BitVec 5)
  | lw (b : Nat) (rd ra : BitVec 5) (imm : BitVec 16) (c : Check := .pass)
  | sw (b : Nat) (rd ra : BitVec 5) (imm : BitVec 16)
  | ld (b : Nat) (rd ra : BitVec 5) (imm : BitVec 16) (c : Check := .pass)
  | sd (b : Nat) (rd ra : BitVec 5) (imm : BitVec 16)
  | beq (b : Nat) (ra rb : BitVec 5) (off : BitVec 16)
  | bne (b : Nat) (ra rb : BitVec 5) (off : BitVec 16)
  | blt (b : Nat) (ra rb : BitVec 5) (off : BitVec 16)
  | bge (b : Nat) (ra rb : BitVec 5) (off : BitVec 16)
  | bltu (b : Nat) (ra rb : BitVec 5) (off : BitVec 16)
  | bgeu (b : Nat) (ra rb : BitVec 5) (off : BitVec 16)
  | jal (b : Nat) (off : BitVec 26)
  | jalr (b : Nat) (rd ra : BitVec 5) (imm : BitVec 16)
  | add (b : Nat) (rd ra rb : BitVec 5)
  | sub (b : Nat) (rd ra rb : BitVec 5)
  | and (b : Nat) (rd ra rb : BitVec 5)
  | or (b : Nat) (rd ra rb : BitVec 5)
  | xor (b : Nat) (rd ra rb : BitVec 5)
  | sll (b : Nat) (rd ra rb : BitVec 5)
  | srl (b : Nat) (rd ra rb : BitVec 5)
  | sra (b : Nat) (rd ra rb : BitVec 5)
  | slt (b : Nat) (rd ra rb : BitVec 5)
  | sltu (b : Nat) (rd ra rb : BitVec 5)
  | mul (b : Nat) (rd ra rb : BitVec 5)
  | mulhu (b : Nat) (rd ra rb : BitVec 5)
  | mulh (b : Nat) (rd ra rb : BitVec 5)
  | strm (b : Nat) (ra : BitVec 5) (imm : BitVec 16)
  | swait (b : Nat) (sel : BitVec 5)
  | sigrd (b : Nat) (rd ra : BitVec 5) (hd : BitVec 10)
  | sigadd (b : Nat) (rd ra : BitVec 5) (hd : BitVec 10)
  | sigwait (b : Nat) (rd ra : BitVec 5) (hd : BitVec 10)
  | sigmon (b : Nat) (rd ra : BitVec 5) (slot : BitVec 3) (hd : BitVec 10)
  | mwait (b : Nat) (mask : BitVec 8)
  | fence (b : Nat)
  | bndry (b : Nat) (target : BitVec 13)
  | endB (b : Nat)
  | bcnt (b : Nat) (rd ra : BitVec 5) (hd : BitVec 10)
  | featq (b : Nat) (rd : BitVec 5) (sel : BitVec 4)
  | csrr (b : Nat) (rd : BitVec 5) (sel : BitVec 5)
  | illegalInstruction (b : Nat) (word : W32) (c : Check := .pass)
  | waitEnds (who : Waiter)
  | scale (b i : Nat) (c : Check)
  | sum (b i : Nat) (c : Check)
  | sumsp (b i : Nat) (c : Check)
  | norm (b i : Nat) (c : Check)
  | rowsum (b i : Nat) (c : Check)
  | colsum (b i : Nat) (c : Check)
  | max (b i : Nat) (c : Check)
  | min (b i : Nat) (c : Check)
  | update (b : Nat) (c : Check)
  | replay (b : Nat) (c : Check)
  | convert (b i : Nat) (c : Check)
  | finish (b i : Nat) (c : Check)
  | zfill (b i : Nat) (c : Check)
  | gather (b : Nat) (c : Check)
  | scatter (b : Nat) (c : Check)
  | permute (b : Nat) (c : Check)
  | strided (b : Nat) (c : Check)
  | select (b : Nat) (c : Check)
  | topk (b : Nat) (c : Check)
  | sort (b : Nat) (c : Check)
  | merge (b : Nat) (c : Check)
  | matvec (b : Nat) (c : Check)
  | outer (b : Nat) (c : Check)
  | digestPkt (b : Nat) (c : Check)
  | digestTile (b : Nat) (c : Check)
  | streamEnd (b i : Nat)
  | tileRecomputation (b i : Nat) (ok : Bool)
  | retirementHandover (b : Nat) (ok : Bool)
  | canaryCapture (r : Nat) (matched : Bool)
  | marginLower (r band : Nat)
  | bandChange (r : Nat) (temp : Int)
  | slowMarkSend (r : Nat)
  | slowMark (p : Nat) (pkt : Pkt)
  | slowMarkExpiry (src r : Nat)
  | timeMarkSend
  | timeReq (p : Nat) (blk : BitVec 256) (t1 : W64)
  | timeResp (p : Nat) (blk : BitVec 256) (t2 t3 : W64)
  | slew
  | tbLockTimeout
  | refLost
  | ppsIn
  | ppsOut
  | write (p : Nat) (pkt : Pkt) (spill : Bool := false)
  | reductionPacket (p : Nat) (pkt : Pkt)
  | signal (p : Nat) (pkt : Pkt)
  | read (p : Nat) (pkt : Pkt)
  | missReport (p : Nat) (pkt : Pkt)
  | fetch (p : Nat) (pkt : Pkt)
  | fetchWaitEnds (idx : Nat)
  | reply (p : Nat) (pkt : Pkt)
  | ack (p : Nat) (pkt : Pkt)
  | nack (p : Nat) (pkt : Pkt)
  | custody (p : Nat) (pkt : Pkt)
  | mirror (p : Nat) (pkt : Pkt)
  | transit (p : Nat) (pkt : Pkt) (spill : Bool := false)
  | poolRebuild (m pool : Nat)
  | transmit (p : Nat)
  | shareInterval (p : Nat)
  | resend (dst : Nat) (seq : W32) (src : Option Nat := none)
  | gapNack (src : Nat)
  | delivTo (dst : Nat) (seq : W32)
  | credit (p : Nat) (blk : BitVec 256) (vcs : List Nat) (ords : Tab Nat)
  | retryReq (p : Nat) (blk : BitVec 256) (frame : Nat)
  | stopMark (p : Nat) (blk : BitVec 256)
  | cutLost (p : Nat)
  | hello (p : Nat) (blk : BitVec 256)
  | helloSend (p : Nat)
  | keepalive (p : Nat) (blk : BitVec 256)
  | keepaliveSend (p : Nat)
  | peerSilent (p : Nat)
  | routeAlarm (p : Nat) (pkt : Pkt)
  | linkTraining (p : Nat) (res : TrainResult)
  | bringUpRetry (p : Nat)
  | laneFail (lane : Nat)
  | failThresh (lane : Nat) (symbols : Nat)
  | narrow (p : Nat) (blk : BitVec 256) (mask : BitVec 8)
  | narrowAck (p : Nat) (blk : BitVec 256) (mask : BitVec 8)
  | narrowFailed (p : Nat)
  | carriedFrame (p : Nat) (frame : List Byte)
  | sample (m : Nat)
  | vote
  | commitVote (p : Nat) (pkt : Pkt)
  | commitResult (p : Nat) (pkt : Pkt)
  | commitTimeout
  | clipFactorWrite (norm : W32)
  | restoreFromReplica (bucket : Nat) (whole : Bool := false)
  | heartbeat (p : Nat) (pkt : Pkt)
  | heartbeatSend
  | hbMiss (peer : Nat)
  | pair (p : Nat) (pkt : Pkt)
  | pairTimeout
  | fill (p : Nat) (pkt : Pkt)
  | refillSweeper
  | replicaDigest (p : Nat) (pkt : Pkt)
  | straggleUs (bucket : Nat) (missing : List Nat)
  | patrolScrub (addr : Nat) (check : Bool) (symbols : Nat)
  | stoneScrub (addr : Nat) (badBits : Nat)
  | migrationLineCopy (n : Nat) (symbols : Nat)
  | sweeper
  | commitRecord
  | flashProgramFailure (block : Nat)
  | lifetimeRecordWrite
  | ageUpdate (r : Nat) (meanTemp : Int) (meanMv : Nat)
  | calendarAdvance
  | powerOnReset (vin : Nat)
  | pwrEnHigh (ok : Bool)
  | pwrEnLow
  | warmReset
  | supplyExcursion (vin : Nat)
  | overvoltage (vin : Nat)
  | inputOff (vin : Nat)
  | powerMeasurement (vin iin pin pinAvg : Nat)
  | powerThrottleStep
  | thermalThrottleStep (r : Nat) (temp : Int)
  | thermN (unit : Nat) (temp : Int)
  | thermalTrip (unit : Nat) (temp : Int)
  | coolantHot (inlet : Nat)
  | trstN
  | extest
  | idcode
  | samplePreload
  | bypass
  | blockWrite (bytes : List Byte)
  | blockRead
  | traceRingWrite (r : Nat)
  | hangDetect (b i : Nat)
  | graphSample
  | resetNHigh
  | slewingEnd (r : Nat)
  | referencePresent
  | uncorrectableCodeword (p : Nat) (cut : Bool)
  | drerilCodewordUncorr
  | linkControlFlitSend
  | thermNDeassert (unit : Nat) (temp : Int)
  deriving DecidableEq, Repr

end Sys2Proof
end

