-- ==== Sys2Proof/WellFormed.lean ====
section
/-! DEFINITION. Well-formed commands: operands that name a unit the device has, packets of the length their form gives. -/

namespace Sys2Proof

/-- A host command packet carries LENGTH bytes of parameters, as whole words (R392). -/
def HostHdr.wf (h : HostHdr) (w : List W64) : Bool := w.length == h.length.toNat / 8

/-- A fabric packet's payload is at most 8,192 bytes and its header counts it (R260, R262). -/
def Pkt.wf (pkt : Pkt) : Bool := decide (pkt.payload.length ≤ 8192)

/-- The kind code of station index i (R122), 0 for the Compositor and for reserved indices. -/
def stationKind (i : Nat) : Nat := [1, 1, 2, 3, 3, 4, 5, 6, 7, 8].getD i 0

/-- A waiter names a bench of the device and a station of a bench (R122). -/
def Waiter.wf : Waiter → Bool
  | .compositor b => decide (b < 40)
  | .station b i => decide (b < 40) && decide (i < 10)

/-- The well-formedness of each command's operands. -/
def Instr.wf : Instr → Bool
  | .identify h w => h.wf w
  | .getFeatures h w => h.wf w
  | .getStatus h w => h.wf w
  | .getStatusMailbox h w => h.wf w
  | .readCsr h w => h.wf w
  | .writeCsr h w => h.wf w
  | .loadImage h w => h.wf w
  | .bulkPacket _ _ => true
  | .swapBank h w => h.wf w
  | .stop h w => h.wf w
  | .stopRouting h w => h.wf w
  | .start h w _ => h.wf w
  | .startRouting h w => h.wf w
  | .setRoutes h w => h.wf w
  | .launchAt h w _ => h.wf w
  | .launchAtCount => true
  | .abortStep h w => h.wf w
  | .abortStepCommit h w => h.wf w
  | .globalStop h w => h.wf w
  | .globalStopCount => true
  | .setPair h w => h.wf w
  | .setPairAdopt h w => h.wf w
  | .setFailureDomain h w => h.wf w
  | .impress h w => h.wf w
  | .impressExport h w => h.wf w
  | .impressList h w => h.wf w
  | .restore h w _ => h.wf w
  | .retireBench h w => h.wf w
  | .retireChannel h w => h.wf w
  | .retireLane h w => h.wf w
  | .margin h w => h.wf w
  | .getCounters h w => h.wf w
  | .getLog h w => h.wf w
  | .clearLog h w => h.wf w
  | .setTime h w => h.wf w
  | .attest h w => h.wf w
  | .updateFw h w => h.wf w
  | .activateFw h w => h.wf w
  | .confirmation => true
  | .watchdogExpiry => true
  | .linkControlFlit _ => true
  | .drerilLinkDown => true
  | .retrain => true
  | .freset _ b => decide (b < 40)
  | .faultAck _ => true
  | .build _ => true
  | .alarmClr _ => true
  | .exportReady _ => true
  | .calendar _ _ => true
  | .ownerLock _ => true
  | .ovrEn _ r _ => decide (r < 72)
  | .vset _ r _ => decide (r < 72)
  | .addi b _ _ _ => decide (b < 40)
  | .andi b _ _ _ => decide (b < 40)
  | .ori b _ _ _ => decide (b < 40)
  | .xori b _ _ _ => decide (b < 40)
  | .slti b _ _ _ => decide (b < 40)
  | .sltiu b _ _ _ => decide (b < 40)
  | .lui b _ _ => decide (b < 40)
  | .slli b _ _ _ => decide (b < 40)
  | .srli b _ _ _ => decide (b < 40)
  | .srai b _ _ _ => decide (b < 40)
  | .lw b _ _ _ _ => decide (b < 40)
  | .sw b _ _ _ => decide (b < 40)
  | .ld b _ _ _ _ => decide (b < 40)
  | .sd b _ _ _ => decide (b < 40)
  | .beq b _ _ _ => decide (b < 40)
  | .bne b _ _ _ => decide (b < 40)
  | .blt b _ _ _ => decide (b < 40)
  | .bge b _ _ _ => decide (b < 40)
  | .bltu b _ _ _ => decide (b < 40)
  | .bgeu b _ _ _ => decide (b < 40)
  | .jal b _ => decide (b < 40)
  | .jalr b _ _ _ => decide (b < 40)
  | .add b _ _ _ => decide (b < 40)
  | .sub b _ _ _ => decide (b < 40)
  | .and b _ _ _ => decide (b < 40)
  | .or b _ _ _ => decide (b < 40)
  | .xor b _ _ _ => decide (b < 40)
  | .sll b _ _ _ => decide (b < 40)
  | .srl b _ _ _ => decide (b < 40)
  | .sra b _ _ _ => decide (b < 40)
  | .slt b _ _ _ => decide (b < 40)
  | .sltu b _ _ _ => decide (b < 40)
  | .mul b _ _ _ => decide (b < 40)
  | .mulhu b _ _ _ => decide (b < 40)
  | .mulh b _ _ _ => decide (b < 40)
  | .strm b _ _ => decide (b < 40)
  | .swait b _ => decide (b < 40)
  | .sigrd b _ _ _ => decide (b < 40)
  | .sigadd b _ _ _ => decide (b < 40)
  | .sigwait b _ _ _ => decide (b < 40)
  | .sigmon b _ _ _ _ => decide (b < 40)
  | .mwait b _ => decide (b < 40)
  | .fence b => decide (b < 40)
  | .bndry b _ => decide (b < 40)
  | .endB b => decide (b < 40)
  | .bcnt b _ _ _ => decide (b < 40)
  | .featq b _ _ => decide (b < 40)
  | .csrr b _ _ => decide (b < 40)
  | .illegalInstruction b _ _ => decide (b < 40)
  | .waitEnds who => who.wf
  | .scale b i _ => decide (b < 40) && stationKind i == 1
  | .sum b i _ => decide (b < 40) && stationKind i == 1
  | .sumsp b i _ => decide (b < 40) && stationKind i == 1
  | .norm b i _ => decide (b < 40) && stationKind i == 1
  | .rowsum b i _ => decide (b < 40) && stationKind i == 1
  | .colsum b i _ => decide (b < 40) && stationKind i == 1
  | .max b i _ => decide (b < 40) && stationKind i == 1
  | .min b i _ => decide (b < 40) && stationKind i == 1
  | .update b _ => decide (b < 40)
  | .replay b _ => decide (b < 40)
  | .convert b i _ => decide (b < 40) && stationKind i == 3
  | .finish b i _ => decide (b < 40) && stationKind i == 3
  | .zfill b i _ => decide (b < 40) && stationKind i == 3
  | .gather b _ => decide (b < 40)
  | .scatter b _ => decide (b < 40)
  | .permute b _ => decide (b < 40)
  | .strided b _ => decide (b < 40)
  | .select b _ => decide (b < 40)
  | .topk b _ => decide (b < 40)
  | .sort b _ => decide (b < 40)
  | .merge b _ => decide (b < 40)
  | .matvec b _ => decide (b < 40)
  | .outer b _ => decide (b < 40)
  | .digestPkt b _ => decide (b < 40)
  | .digestTile b _ => decide (b < 40)
  | .streamEnd b i => decide (b < 40) && decide (i < 10)
  | .tileRecomputation b i _ => decide (b < 40) && decide (i < 10)
  | .retirementHandover b _ => decide (b < 40)
  | .canaryCapture r _ => decide (r < 72)
  | .marginLower r band => decide (r < 72) && decide (band < 8)
  | .bandChange r _ => decide (r < 72)
  | .slowMarkSend r => decide (r < 72)
  | .slowMark p pkt => decide (p < 512) && pkt.wf
  | .slowMarkExpiry src r => decide (src < 2 ^ 20) && decide (r < 72)
  | .timeMarkSend => true
  | .timeReq p _ _ => decide (p < 512)
  | .timeResp p _ _ _ => decide (p < 512)
  | .slew => true
  | .tbLockTimeout => true
  | .refLost => true
  | .ppsIn => true
  | .ppsOut => true
  | .write p pkt _ => decide (p < 512) && pkt.wf
  | .reductionPacket p pkt => decide (p < 512) && pkt.wf
  | .signal p pkt => decide (p < 512) && pkt.wf
  | .read p pkt => decide (p < 512) && pkt.wf
  | .missReport p pkt => decide (p < 512) && pkt.wf
  | .fetch p pkt => decide (p < 512) && pkt.wf
  | .fetchWaitEnds _ => true
  | .reply p pkt => decide (p < 512) && pkt.wf
  | .ack p pkt => decide (p < 512) && pkt.wf
  | .nack p pkt => decide (p < 512) && pkt.wf
  | .custody p pkt => decide (p < 512) && pkt.wf
  | .mirror p pkt => decide (p < 512) && pkt.wf
  | .transit p pkt _ => decide (p < 512) && pkt.wf
  | .poolRebuild m pool => decide (m < 4) && decide (pool < 8)
  | .transmit p => decide (p < 512)
  | .shareInterval p => decide (p < 512)
  | .resend dst _ src => decide (dst < 2 ^ 20) && src.all fun n => decide (n < 2 ^ 20)
  | .gapNack src => decide (src < 2 ^ 20)
  | .delivTo dst _ => decide (dst < 2 ^ 20)
  | .credit p _ _ _ => decide (p < 512)
  | .retryReq p _ _ => decide (p < 512)
  | .stopMark p _ => decide (p < 512)
  | .cutLost p => decide (p < 512)
  | .hello p _ => decide (p < 512)
  | .helloSend p => decide (p < 512)
  | .keepalive p _ => decide (p < 512)
  | .keepaliveSend p => decide (p < 512)
  | .peerSilent p => decide (p < 512)
  | .routeAlarm p pkt => decide (p < 512) && pkt.wf
  | .linkTraining p _ => decide (p < 512)
  | .bringUpRetry p => decide (p < 512)
  | .laneFail lane => decide (lane < 512)
  | .failThresh lane _ => decide (lane < 512)
  | .narrow p _ _ => decide (p < 512)
  | .narrowAck p _ _ => decide (p < 512)
  | .narrowFailed p => decide (p < 512)
  | .carriedFrame p _ => decide (p < 512)
  | .sample m => decide (m < 4)
  | .vote => true
  | .commitVote p pkt => decide (p < 512) && pkt.wf
  | .commitResult p pkt => decide (p < 512) && pkt.wf
  | .commitTimeout => true
  | .clipFactorWrite _ => true
  | .restoreFromReplica _ _ => true
  | .heartbeat p pkt => decide (p < 512) && pkt.wf
  | .heartbeatSend => true
  | .hbMiss peer => decide (peer < 2 ^ 20)
  | .pair p pkt => decide (p < 512) && pkt.wf
  | .pairTimeout => true
  | .fill p pkt => decide (p < 512) && pkt.wf
  | .refillSweeper => true
  | .replicaDigest p pkt => decide (p < 512) && pkt.wf
  | .straggleUs _ _ => true
  | .patrolScrub _ _ _ => true
  | .stoneScrub _ _ => true
  | .migrationLineCopy _ _ => true
  | .sweeper => true
  | .commitRecord => true
  | .flashProgramFailure _ => true
  | .lifetimeRecordWrite => true
  | .ageUpdate r _ _ => decide (r < 85)
  | .calendarAdvance => true
  | .powerOnReset _ => true
  | .pwrEnHigh _ => true
  | .pwrEnLow => true
  | .warmReset => true
  | .supplyExcursion _ => true
  | .overvoltage _ => true
  | .inputOff _ => true
  | .powerMeasurement _ _ _ _ => true
  | .powerThrottleStep => true
  | .thermalThrottleStep r _ => decide (r < 72)
  | .thermN unit _ => decide (unit < 85)
  | .thermalTrip unit _ => decide (unit < 85)
  | .coolantHot _ => true
  | .trstN => true
  | .extest => true
  | .idcode => true
  | .samplePreload => true
  | .bypass => true
  | .blockWrite _ => true
  | .blockRead => true
  | .traceRingWrite r => decide (r < 72)
  | .hangDetect b i => decide (b < 40) && decide (i < 10)
  | .graphSample => true
  | .resetNHigh => true
  | .slewingEnd r => decide (r < 72)
  | .referencePresent => true
  | .uncorrectableCodeword p _ => decide (p < 512)
  | .drerilCodewordUncorr => true
  | .linkControlFlitSend => true
  | .thermNDeassert unit _ => decide (unit < 85)

end Sys2Proof
end

