-- ==== Sys2Proof/Decode.lean ====
section
/-! DEFINITION. Decoding of table words. Every row of spec/opcode_table.json has an empty list of bit fields, so no
word spells a command. -/

namespace Sys2Proof

/-- The command that a word of nbits spells by the table's bits: none, since no row of the table gives bits. -/
def decodeTableWord (_nbits _w : Nat) : Option Instr := none

end Sys2Proof
end

