-- ==== Sys2Proof/Machine/Bits.lean ====
section
/-! DEFINITION. Bit fields, sign extension and byte order (R5, R6), and the sparse tables' reads and writes. -/

namespace Sys2Proof.Machine

/-- Field [lo + w - 1 : lo] of a word of any width (R5). -/
def bits (n lo w : Nat) : Nat := n / 2 ^ lo % 2 ^ w

/-- Bit i of a word (R5). -/
def bitAt (n i : Nat) : Bool := n / 2 ^ i % 2 == 1

/-- A Bool as the one-bit field that holds it. -/
def b2n (b : Bool) : Nat := if b then 1 else 0

/-- The two's-complement value of a w-bit field. -/
def sext (w n : Nat) : Int :=
  if n % 2 ^ w < 2 ^ (w - 1) then (n % 2 ^ w : Nat) else ((n % 2 ^ w : Nat) : Int) - 2 ^ w

/-- The w-bit two's-complement field of an integer. -/
def twos (w : Nat) (i : Int) : Nat := (i % (2 ^ w : Int)).toNat

/-- Bytes read least significant first (R6). -/
def leNat : List Byte → Nat
  | [] => 0
  | b :: bs => b.toNat + 256 * leNat bs

/-- The k low bytes of a number, least significant first (R6). -/
def leBytes : Nat → Nat → List Byte
  | 0, _ => []
  | k + 1, n => BitVec.ofNat 8 n :: leBytes k (n / 256)

/-- The smallest multiple of k that is at least n. -/
def roundUp (n k : Nat) : Nat := (n + k - 1) / k * k

/-- n divided by k, rounded up. -/
def ceilDiv (n k : Nat) : Nat := (n + k - 1) / k

/-- Drop zeros or pad with zero bytes to exactly k bytes. -/
def padTo (k : Nat) (bs : List Byte) : List Byte := (bs ++ List.replicate (k - bs.length) 0).take k

/-- A list cut into runs of k. -/
def chunks {α : Type} (k : Nat) (l : List α) : List (List α) :=
  (List.range (ceilDiv l.length k)).map fun j => (l.drop (k * j)).take k

/-- The entry of table t at key k, or d where none is listed. -/
def Tab.get {α : Type} (t : Tab α) (d : α) (k : Nat) : α :=
  match t with
  | [] => d
  | (k', v) :: rest => if k = k' then v else Tab.get rest d k

/-- Table t with v at key k, kept in rising order of keys. -/
def Tab.put {α : Type} (t : Tab α) (k : Nat) (v : α) : Tab α :=
  match t with
  | [] => [(k, v)]
  | (k', v') :: rest =>
    if k < k' then (k, v) :: (k', v') :: rest
    else if k = k' then (k, v) :: rest
    else (k', v') :: Tab.put rest k v

/-- Table t with nothing at key k. -/
def Tab.del {α : Type} (t : Tab α) (k : Nat) : Tab α := t.filter fun e => e.1 != k

/-- Table t with v at key k; an entry equal to the default d is not listed (one canonical form). -/
def Tab.set {α : Type} [DecidableEq α] (t : Tab α) (d : α) (k : Nat) (v : α) : Tab α :=
  if v = d then Tab.del t k else Tab.put t k v

/-- The entry at key k, if one is listed. -/
def Tab.find {α : Type} (t : Tab α) (k : Nat) : Option α :=
  match t with
  | [] => none
  | (k', v) :: rest => if k = k' then some v else Tab.find rest k

/-- Element j of a list, or a default. -/
def nth {α : Type} (d : α) : List α → Nat → α
  | [], _ => d
  | x :: _, 0 => x
  | _ :: xs, j + 1 => nth d xs j

/-- A list with element j replaced. -/
def setNth {α : Type} : List α → Nat → α → List α
  | [], _, _ => []
  | _ :: xs, 0, v => v :: xs
  | x :: xs, j + 1, v => x :: setNth xs j v

/-- The keys of a table strictly rise and no entry is the default d. -/
def Tab.wf {α : Type} [DecidableEq α] (t : Tab α) (d : α) : Bool :=
  match t with
  | [] => true
  | (k, v) :: rest => (v != d) && rest.all (fun e => k < e.1) && Tab.wf rest d

end Sys2Proof.Machine
end

