-- ==== Sys2Proof/Machine/Numbers.lean ====
section
/-! DEFINITION. Number formats, exact values and the one rounding (R64-R91). -/

namespace Sys2Proof.Machine

open Sys2Proof

/-- An exact value: NaN, an infinity, or (-1)^neg * m * 2^e. -/
inductive Val where
  | nan
  | inf (neg : Bool)
  | fin (neg : Bool) (m : Nat) (e : Int)
  deriving DecidableEq, Repr

/-- 2 to an integer power as a fraction (numerator, denominator). -/
def pow2 (e : Int) : Nat × Nat := if 0 ≤ e then (2 ^ e.toNat, 1) else (1, 2 ^ (-e).toNat)

/-- floor(log2(n / d)) for positive n and d. -/
def log2Frac (n d : Nat) : Int :=
  let k : Int := (Nat.log2 n : Int) - (Nat.log2 d : Int)
  let p := pow2 k
  if d * p.1 ≤ n * p.2 then k else k - 1

/-! ### Rounding (R84-R86) -/

/-- The rounding modes of R84; a stochastic rounding carries its random word. -/
inductive Round where
  | rne
  | rtz
  | rup
  | rdn
  | sr (r : Nat)
  deriving DecidableEq, Repr

/-- The magnitude n/d in units of 2^u rounded to an integer, and whether it was exact. -/
def roundUnits (mode : Round) (neg : Bool) (n d : Nat) (u : Int) : Nat × Bool :=
  let p := pow2 u
  let n' := n * p.2
  let d' := d * p.1
  let q := n' / d'
  let r := n' % d'
  let up := match mode with
    | .rne => decide (d' < 2 * r) || (2 * r == d' && q % 2 == 1)
    | .rtz => false
    | .rup => !neg && r != 0
    | .rdn => neg && r != 0
    | .sr w => decide (w < 2 ^ 32 * r / d')
  (if up then q + 1 else q, r == 0)

/-- An encoded element and the kinds of R91 beyond ELEMENTS that it counts. -/
structure Enc where
  code  : Nat
  kinds : List Nat
  deriving DecidableEq, Repr

/-- A binary floating-point format: precision, exponent bits. -/
structure FpFmt where
  prec : Nat
  ebits : Nat
  deriving DecidableEq, Repr

/-- FP32 (R65). -/
def fp32 : FpFmt := ⟨24, 8⟩
/-- BF16 (R65). -/
def bf16 : FpFmt := ⟨8, 8⟩
/-- FP16 (R65). -/
def fp16 : FpFmt := ⟨11, 5⟩
/-- LM48 as one 48-bit word: the high word above the extension (R68). -/
def lm48 : FpFmt := ⟨40, 8⟩

/-- Bias of a format. -/
def FpFmt.bias (f : FpFmt) : Int := 2 ^ (f.ebits - 1) - 1
/-- Exponent of the smallest normal. -/
def FpFmt.emin (f : FpFmt) : Int := 1 - f.bias
/-- The sign bit's weight. -/
def FpFmt.signBit (f : FpFmt) : Nat := 2 ^ (f.prec - 1 + f.ebits)
/-- The code of infinity. -/
def FpFmt.infCode (f : FpFmt) : Nat := (2 ^ f.ebits - 1) * 2 ^ (f.prec - 1)
/-- The canonical quiet NaN (R67). -/
def FpFmt.nanCode (f : FpFmt) : Nat := f.infCode + 2 ^ (f.prec - 2)
/-- The code of the largest finite value. -/
def FpFmt.maxCode (f : FpFmt) : Nat := f.infCode - 1
/-- The sign bit of a code. -/
def FpFmt.sgn (f : FpFmt) (neg : Bool) : Nat := if neg then f.signBit else 0

/-- The exact value of a code (R65, R66, R68). -/
def FpFmt.decode (f : FpFmt) (c : Nat) : Val :=
  let neg := decide (f.signBit ≤ c % (2 * f.signBit))
  let e := bits c (f.prec - 1) f.ebits
  let m := bits c 0 (f.prec - 1)
  if e = 2 ^ f.ebits - 1 then if m = 0 then .inf neg else .nan
  else if e = 0 then .fin neg m (f.emin - (f.prec - 1 : Nat))
  else .fin neg (m + 2 ^ (f.prec - 1)) ((e : Int) - f.bias - (f.prec - 1 : Nat))

/-- Code of the magnitude n/d rounded with unbounded exponent, and exactness. -/
def codeMag (prec : Nat) (emin : Int) (mode : Round) (neg : Bool) (n d : Nat) : Nat × Bool :=
  let e := max (log2Frac n d) emin
  let (q, exact) := roundUnits mode neg n d (e - (prec - 1 : Nat))
  ((e - emin).toNat * 2 ^ (prec - 1) + q, exact)

/-- A finite magnitude n/d rounded into a format (R66, R85). -/
def FpFmt.encodeMag (f : FpFmt) (mode : Round) (neg : Bool) (n d : Nat) : Enc :=
  if n = 0 then ⟨f.sgn neg, []⟩
  else
    -- largest finite value M, and M plus half a unit in the last place, as numerators over one power of two
    let u := pow2 (f.bias - (f.prec - 1 : Nat))
    let h := pow2 (f.bias - (f.prec : Nat))
    let above := decide ((2 ^ f.prec - 1) * u.1 * d < n * u.2)
    let ovf := decide ((2 ^ (f.prec + 1) - 1) * h.1 * d ≤ n * h.2)
    if above then
      let toInf := match mode with
        | .rne => ovf
        | .rtz => false
        | .rup => !neg
        | .rdn => neg
        | .sr _ => ovf
      ⟨f.sgn neg + (if toInf then f.infCode else f.maxCode), if ovf || toInf then [1, 4] else [1]⟩
    else
      let (c, exact) := codeMag f.prec f.emin mode neg n d
      ⟨f.sgn neg + c, (if exact then [] else [1]) ++ (if c = 0 then [2] else [])⟩

/-- A value rounded once into a floating-point format (R70, R85, R67). -/
def FpFmt.encode (f : FpFmt) (mode : Round) : Val → Enc
  | .nan => ⟨f.nanCode, []⟩
  | .inf neg => ⟨f.sgn neg + f.infCode, []⟩
  | .fin neg m e => f.encodeMag mode neg (m * (pow2 e).1) (pow2 e).2

/-! ### MX elements (R71-R73) -/

/-- An MX element type: width, precision, exponent of the smallest normal, largest code, emax, infinity, NaN. -/
structure MxFmt where
  width : Nat
  prec  : Nat
  emin  : Int
  top   : Nat
  emax  : Int
  hasInf : Bool
  hasNan : Bool
  deriving DecidableEq, Repr

/-- The MX element type of a format code 0x04-0x08 (R64, R71). -/
def mxFmt (fmt : Nat) : MxFmt :=
  match fmt with
  | 4 => ⟨8, 4, -6, 0x7E, 8, false, true⟩
  | 5 => ⟨8, 3, -14, 0x7B, 15, true, true⟩
  | 6 => ⟨6, 4, 0, 0x1F, 2, false, false⟩
  | 7 => ⟨6, 3, -2, 0x1F, 4, false, false⟩
  | _ => ⟨4, 2, 0, 0x7, 2, false, false⟩

/-- Whether a format code is an MX format. -/
def isMx (fmt : Nat) : Bool := decide (4 ≤ fmt ∧ fmt ≤ 8)

/-- The value of an MX element under a scale byte (R72). -/
def mxDecode (fmt scale c : Nat) : Val :=
  let x := mxFmt fmt
  if scale = 0xFF then .nan
  else
    let neg := bitAt c (x.width - 1)
    let c := c % 2 ^ (x.width - 1)
    let sc : Int := (scale : Int) - 127
    if x.top < c then
      if x.hasInf ∧ c = x.top + 1 then .inf neg else .nan
    else
      let e := c / 2 ^ (x.prec - 1)
      let m := c % 2 ^ (x.prec - 1)
      if e = 0 then .fin neg m (x.emin - (x.prec - 1 : Nat) + sc)
      else .fin neg (m + 2 ^ (x.prec - 1)) (x.emin + (e : Int) - 1 - (x.prec - 1 : Nat) + sc)

/-- The magnitude of a finite value as a fraction. -/
def Val.frac : Val → Nat × Nat
  | .fin _ m e => (m * (pow2 e).1, (pow2 e).2)
  | _ => (0, 1)

/-- Sign of a value. -/
def Val.neg? : Val → Bool
  | .nan => false
  | .inf n => n
  | .fin n _ _ => n

/-- Whether a value is NaN. -/
def Val.isNan : Val → Bool
  | .nan => true
  | _ => false

/-- Whether a value is infinite. -/
def Val.isInf : Val → Bool
  | .inf _ => true
  | _ => false

/-- Whether a value is a finite zero. -/
def Val.isZero : Val → Bool
  | .fin _ m _ => m == 0
  | _ => false

/-- The larger of two fractions. -/
def fracMax (a b : Nat × Nat) : Nat × Nat := if a.1 * b.2 < b.1 * a.2 then b else a

/-- The largest magnitude among the finite values. -/
def amaxOf (vs : List Val) : Nat × Nat := vs.foldl (fun m v => fracMax m v.frac) (0, 1)

/-- One element of a block under block exponent E (R73 steps 4 and 5). -/
def mxElem (x : MxFmt) (mode : Round) (E : Int) (v : Val) : Enc :=
  let sg := if v.neg? then 2 ^ (x.width - 1) else 0
  match v with
  | .nan => ⟨0, []⟩
  | .inf _ => ⟨sg + x.top + 1, []⟩
  | .fin neg m e =>
    if m = 0 then ⟨sg, []⟩
    else
      let p := pow2 (e - E)
      let (c, exact) := codeMag x.prec x.emin mode neg (m * p.1) p.2
      if x.top < c then ⟨sg + x.top, [1, 3]⟩
      else ⟨sg + c, (if exact then [] else [1]) ++ (if c = 0 then [2] else [])⟩

/-- A block of up to 32 values encoded into an MX format: scale byte and elements (R73, R475). The modes carry the
random word of each element. -/
def mxEncode (fmt : Nat) (vs : List (Val × Round)) : Nat × List Enc :=
  let x := mxFmt fmt
  let vals := vs.map (·.1)
  if vals.any Val.isNan || (vals.any Val.isInf && !x.hasInf) then (0xFF, vs.map fun _ => ⟨0, [5]⟩)
  else
    let a := amaxOf vals
    if a.1 = 0 then (0, vs.map fun v => mxElem x v.2 0 v.1)
    else
      let E := max (-127) (min 127 (log2Frac a.1 a.2 - x.emax))
      ((E + 127).toNat, vs.map fun v => mxElem x v.2 E v.1)

/-! ### Integers (R75) -/

/-- A value rounded and clamped into a two's-complement integer of w bits. -/
def intEncode (w : Nat) (mode : Round) : Val → Enc
  | .nan => ⟨0, [5]⟩
  | .inf neg => ⟨if neg then 2 ^ (w - 1) else 2 ^ (w - 1) - 1, [1, 3]⟩
  | .fin neg m e =>
    let (q, exact) := roundUnits mode neg (m * (pow2 e).1) (pow2 e).2 0
    if neg then
      if 2 ^ (w - 1) < q then ⟨2 ^ (w - 1), [1, 3]⟩
      else ⟨twos w (-(q : Int)), (if exact then [] else [1]) ++ (if q = 0 ∧ m ≠ 0 then [2] else [])⟩
    else if 2 ^ (w - 1) ≤ q then ⟨2 ^ (w - 1) - 1, [1, 3]⟩
    else ⟨q, (if exact then [] else [1]) ++ (if q = 0 ∧ m ≠ 0 then [2] else [])⟩

/-- An integer as a value. -/
def Val.ofInt (i : Int) : Val := .fin (decide (i < 0)) i.natAbs 0

/-! ### Formats by code (R64, R74) -/

/-- Whether a format code is not reserved. -/
def fmtOk (fmt : Nat) : Bool := decide (fmt ≤ 0x10)

/-- Bits of one element in the element area (R64, R74). -/
def elemWidth (fmt : Nat) : Nat :=
  nth 0 [32, 16, 16, 48, 8, 8, 6, 6, 4, 8, 4, 32, 32, 48, 56, 64, 8] fmt

/-- Bytes of a tile (R74). -/
def tileBytes (fmt : Nat) : Nat :=
  nth 0 [4096, 2048, 2048, 6144, 1056, 1056, 800, 800, 544, 1024, 512, 4096, 4096] fmt

/-- Elements that n bytes of tiles of a format hold: the scale area of an MX tile holds none (R74). -/
def elemsOf (fmt n : Nat) : Nat :=
  if isMx fmt then n / tileBytes fmt * 1024 + 8 * (n % tileBytes fmt - 32) / max 1 (elemWidth fmt) else 8 * n / max 1 (elemWidth fmt)

/-- The floating-point format of codes 0-3. -/
def fpOf (fmt : Nat) : FpFmt := nth fp32 [fp32, bf16, fp16, lm48] fmt

/-- The exact value of one element code under a scale byte (R72, R79). -/
def decodeElem (fmt scale c : Nat) : Val :=
  if fmt ≤ 3 then (fpOf fmt).decode c
  else if fmt ≤ 8 then mxDecode fmt scale c
  else if fmt = 9 then .ofInt (sext 8 c)
  else if fmt = 10 then .ofInt (sext 4 c)
  else if fmt = 11 then .ofInt (sext 32 c)
  else .fin false (c % 2 ^ 32) 0

/-- The element codes of the first n elements of a tile (R69, R74). -/
def tileCodes (fmt n : Nat) (bs : List Byte) : List Nat :=
  if fmt = 3 then
    let hi := leNat (bs.take 4096)
    let lo := leNat ((bs.drop 4096).take 2048)
    (List.range n).map fun i => bits hi (32 * i) 32 * 65536 + bits lo (16 * i) 16
  else
    let a := leNat (if isMx fmt then bs.drop 32 else bs)
    let w := elemWidth fmt
    (List.range n).map fun i => bits a (w * i) w

/-- The scale byte of element i of a tile; 0 outside the MX formats. -/
def tileScale (fmt : Nat) (bs : List Byte) (i : Nat) : Nat :=
  if isMx fmt then (nth 0 bs (i / 32)).toNat else 0

/-- The exact values of the first n elements of a tile (R79). -/
def tileVals (fmt n : Nat) (bs : List Byte) : List Val :=
  let cs := tileCodes fmt n bs
  (List.range n).map fun i => decodeElem fmt (tileScale fmt bs i) (nth 0 cs i)

/-- Codes of w bits packed least significant first. -/
def packCodes (w : Nat) : List Nat → Nat
  | [] => 0
  | c :: cs => c % 2 ^ w + 2 ^ w * packCodes w cs

/-- A tile of up to 1,024 values rounded into a format (R73-R75, R475): its bytes and the kinds of each element. -/
def encodeTile (fmt : Nat) (vs : List (Val × Round)) : List Byte × List (List Nat) :=
  if isMx fmt then
    let blocks := (chunks 32 vs).map (mxEncode fmt)
    let els := (blocks.map (·.2)).flatten
    let w := elemWidth fmt
    (padTo 32 (blocks.map fun b => BitVec.ofNat 8 b.1) ++ leBytes (128 * w) (packCodes w (els.map (·.code))),
      els.map (·.kinds))
  else
    let els := vs.map fun v =>
      if fmt ≤ 3 then (fpOf fmt).encode v.2 v.1
      else intEncode (if fmt = 9 then 8 else if fmt = 10 then 4 else 32) v.2 v.1
    let cs := els.map (·.code)
    let bytes :=
      if fmt = 3 then
        padTo 4096 (leBytes (4 * vs.length) (packCodes 32 (cs.map (· / 65536)))) ++
          padTo 2048 (leBytes (2 * vs.length) (packCodes 16 cs))
      else if fmt = 10 then leBytes 512 (packCodes 4 cs)
      else leBytes (elemWidth fmt / 8 * vs.length) (packCodes (elemWidth fmt) cs)
    (bytes, els.map (·.kinds))

/-! ### Exact arithmetic (R82, R87-R90) -/

/-- A finite value as an integer in units of 2^e, for e at or below its exponent. -/
def Val.units (e : Int) : Val → Int
  | .fin neg m e' => let k : Nat := m * 2 ^ (e' - e).toNat; if neg then -(k : Int) else k
  | _ => 0

/-- The exponent of a finite value. -/
def Val.exp : Val → Int
  | .fin _ _ e => e
  | _ => 0

/-- The exact product, and whether the operation is invalid (R82, R87). -/
def Val.mul (a b : Val) : Val × Bool :=
  match a, b with
  | .nan, _ => (.nan, false)
  | _, .nan => (.nan, false)
  | .inf n, .inf n' => (.inf (n != n'), false)
  | .inf n, .fin n' m _ => if m = 0 then (.nan, true) else (.inf (n != n'), false)
  | .fin n m _, .inf n' => if m = 0 then (.nan, true) else (.inf (n != n'), false)
  | .fin n m e, .fin n' m' e' => (.fin (n != n') (m * m') (e + e'), false)

/-- The exact sum, and whether it is invalid; an exact zero sum of opposite signs is -0 under RDN (R82). -/
def Val.add (rdn : Bool) (a b : Val) : Val × Bool :=
  match a, b with
  | .nan, _ => (.nan, false)
  | _, .nan => (.nan, false)
  | .inf n, .inf n' => if n = n' then (.inf n, false) else (.nan, true)
  | .inf n, _ => (.inf n, false)
  | _, .inf n => (.inf n, false)
  | .fin n m e, .fin n' m' e' =>
    let x := min e e'
    let t := (Val.fin n m e).units x + (Val.fin n' m' e').units x
    if t = 0 then (.fin (if m = 0 ∧ m' = 0 ∧ n = n' then n else rdn) 0 x, false)
    else (.fin (decide (t < 0)) t.natAbs x, false)

/-- The negated value; NaN stays NaN. -/
def Val.negate : Val → Val
  | .nan => .nan
  | .inf n => .inf (!n)
  | .fin n m e => .fin (!n) m e

/-- The quotient rounded once into a format (R87), with the invalid operations 0/0 and inf/inf; a finite value over
zero is an infinity. -/
def FpFmt.div (f : FpFmt) (mode : Round) (a b : Val) : Enc × Bool :=
  match a, b with
  | .nan, _ => (⟨f.nanCode, []⟩, false)
  | _, .nan => (⟨f.nanCode, []⟩, false)
  | .inf _, .inf _ => (⟨f.nanCode, []⟩, true)
  | .inf n, .fin n' _ _ => (⟨f.sgn (n != n') + f.infCode, []⟩, false)
  | .fin n _ _, .inf n' => (⟨f.sgn (n != n'), []⟩, false)
  | .fin n m e, .fin n' m' e' =>
    if m' = 0 then
      if m = 0 then (⟨f.nanCode, []⟩, true) else (⟨f.sgn (n != n') + f.infCode, []⟩, false)
    else
      let p := pow2 (e - e')
      (f.encodeMag mode (n != n') (m * p.1) (m' * p.2), false)

/-- The integer square root by Newton's steps from above, at most k of them. -/
def isqrtFrom (n : Nat) : Nat → Nat → Nat
  | 0, x => x
  | k + 1, x => let y := (x + n / x) / 2; if y < x then isqrtFrom n k y else x

/-- floor(sqrt n). -/
def isqrt (n : Nat) : Nat := if n = 0 then 0 else isqrtFrom n (2 * Nat.log2 n + 8) (2 ^ (Nat.log2 n / 2 + 1))

/-- The square root of a positive dyadic m * 2^e as a fraction close enough to round: exact where the root is, else the
root's floor at 80 more bits with a half unit added, which lies strictly between the same two neighbours. -/
def sqrtFrac (m : Nat) (e : Int) : Nat × Nat :=
  let m' := if e % 2 = 0 then m else 2 * m
  let e' := if e % 2 = 0 then e else e - 1
  let r := isqrt (m' * 2 ^ 160)
  let n := if r * r = m' * 2 ^ 160 then 2 * r else 2 * r + 1
  let p := pow2 (e' / 2 - 81)
  (n * p.1, p.2)

/-- The square root rounded once into a format; of a negative number it is invalid (R87). -/
def FpFmt.sqrt (f : FpFmt) (mode : Round) (a : Val) : Enc × Bool :=
  match a with
  | .nan => (⟨f.nanCode, []⟩, false)
  | .inf n => if n then (⟨f.nanCode, []⟩, true) else (⟨f.infCode, []⟩, false)
  | .fin n m e =>
    if m = 0 then (⟨f.sgn n, []⟩, false)
    else if n then (⟨f.nanCode, []⟩, true)
    else let p := sqrtFrac m e; (f.encodeMag mode false p.1 p.2, false)

/-- Whether a < b; false when either is NaN (R88). -/
def Val.lt (a b : Val) : Bool :=
  match a, b with
  | .nan, _ => false
  | _, .nan => false
  | .inf n, .inf n' => n && !n'
  | .inf n, .fin _ _ _ => n
  | .fin _ _ _, .inf n => !n
  | .fin n m e, .fin n' m' e' =>
    let x := min e e'
    decide ((Val.fin n m e).units x < (Val.fin n' m' e').units x)

/-- Whether a = b as numbers: -0 equals +0, NaN equals nothing (R88). -/
def Val.eq (a b : Val) : Bool := !a.isNan && !b.isNan && !a.lt b && !b.lt a

/-- a before b in the order of maximum and minimum, where -0 is less than +0 (R89). -/
def Val.below (a b : Val) : Bool := a.lt b || (a.eq b && a.neg? && !b.neg?)

/-- maximum or minimum, or with num the Number forms (R89). -/
def Val.pick (maxOp num : Bool) (a b : Val) : Val :=
  if a.isNan then if num then b else .nan
  else if b.isNan then if num then a else .nan
  else if maxOp then if a.below b then b else a
  else if b.below a then b else a

/-- A comparison by code: 0 <, 1 <=, 2 =, 3 not equal, 4 >=, 5 > (R88). -/
def Val.cmp (c : Nat) (a b : Val) : Bool :=
  match c with
  | 0 => a.lt b
  | 1 => a.lt b || a.eq b
  | 2 => a.eq b
  | 3 => !a.eq b
  | 4 => b.lt a || a.eq b
  | _ => b.lt a

/-- The key that orders codes of a format as R90: totalOrder for floating point, signed or unsigned integers. -/
def orderKey (fmt c : Nat) : Nat :=
  let w := elemWidth fmt
  let c := c % 2 ^ w
  if fmt ≤ 2 then if bitAt c (w - 1) then 2 ^ w - 1 - c else c + 2 ^ (w - 1)
  else if fmt = 12 then c
  else (c + 2 ^ (w - 1)) % 2 ^ w

/-! ### Philox4x32-10 (R86) -/

/-- One round of Philox4x32. -/
def philoxRound (c : Nat × Nat × Nat × Nat) (k : Nat × Nat) : Nat × Nat × Nat × Nat :=
  let (c0, c1, c2, c3) := c
  let p0 := 0xD2511F53 * c0
  let p1 := 0xCD9E8D57 * c2
  ((p1 / 2 ^ 32) ^^^ c1 ^^^ k.1, p1 % 2 ^ 32, (p0 / 2 ^ 32) ^^^ c3 ^^^ k.2, p0 % 2 ^ 32)

/-- n rounds of Philox4x32 with the published key schedule. -/
def philoxRounds : Nat → (Nat × Nat × Nat × Nat) → (Nat × Nat) → Nat × Nat × Nat × Nat
  | 0, c, _ => c
  | n + 1, c, k => philoxRounds n (philoxRound c k) ((k.1 + 0x9E3779B9) % 2 ^ 32, (k.2 + 0xBB67AE85) % 2 ^ 32)

/-- The random word of an element (R86). -/
def srWord (seed step bucket elem stream : Nat) : Nat :=
  let o := philoxRounds 10
    (elem / 4 % 2 ^ 32, bucket % 2 ^ 24 + stream % 256 * 2 ^ 24, bits step 0 32 ^^^ bits seed 64 32,
      bits step 32 32 ^^^ bits seed 96 32)
    (bits seed 0 32, bits seed 32 32)
  match elem % 4 with
  | 0 => o.1
  | 1 => o.2.1
  | 2 => o.2.2.1
  | _ => o.2.2.2

end Sys2Proof.Machine
end

