-- ==== Sys2Proof/Machine/Flags.lean ====
section
/-! DEFINITION. The coded values of the manual: status codes, error classes, unit types, and the packing of log details. -/

namespace Sys2Proof.Machine

/-! ### Status codes (R395) -/

/-- OK. -/
abbrev stOk : Nat := 0
/-- BUSY. -/
abbrev stBusy : Nat := 1
/-- NOT_READY. -/
abbrev stNotReady : Nat := 2
/-- BAD_OPCODE. -/
abbrev stBadOpcode : Nat := 3
/-- BAD_PARAM. -/
abbrev stBadParam : Nat := 4
/-- ACCESS_VIOLATION. -/
abbrev stAccess : Nat := 5
/-- STOP_REQUIRED. -/
abbrev stStopReq : Nat := 6
/-- AUTH_FAIL. -/
abbrev stAuth : Nat := 7
/-- ORDER_VIOLATION. -/
abbrev stOrder : Nat := 8
/-- HW_FAULT. -/
abbrev stHwFault : Nat := 9
/-- ALREADY_DONE. -/
abbrev stDone : Nat := 10

/-! ### Error classes (R433) -/

/-- RESIDUE. -/
abbrev clResidue : Nat := 1
/-- ECC_CORR. -/
abbrev clEccCorr : Nat := 2
/-- ECC_UNCORR. -/
abbrev clEccUncorr : Nat := 3
/-- SEQUENCE. -/
abbrev clSequence : Nat := 4
/-- COUNT_UNDERFLOW. -/
abbrev clCountUnder : Nat := 5
/-- COUNT_OVERFLOW. -/
abbrev clCountOver : Nat := 6
/-- ORDER_VIOLATION. -/
abbrev clOrder : Nat := 7
/-- ACCESS_VIOLATION. -/
abbrev clAccess : Nat := 8
/-- POOL_POINTER. -/
abbrev clPool : Nat := 9
/-- E2E_CHECK. -/
abbrev clE2eCheck : Nat := 10
/-- E2E_TIMEOUT. -/
abbrev clE2eTimeout : Nat := 11
/-- LINK_DOWN. -/
abbrev clLinkDown : Nat := 12
/-- THERMAL. -/
abbrev clThermal : Nat := 13
/-- SUPPLY. -/
abbrev clSupply : Nat := 14
/-- DIGEST_MISMATCH. -/
abbrev clDigest : Nat := 15
/-- AUTH. -/
abbrev clAuth : Nat := 16

/-! ### Units of log entries (R434) -/

/-- The unit at which an event occurred (R434). -/
inductive LogUnit where
  | hub
  | bench (b : Nat)
  | slice (n : Nat)
  | ring (i : Nat)
  | port (p : Nat)
  | chan (c : Nat)
  | flash (c : Nat)
  | forgeDie (n : Nat)
  | portDie (m : Nat)
  | board
  deriving DecidableEq, Repr

/-- UTYPE of a unit (R434). -/
def LogUnit.utype : LogUnit → Nat
  | .hub => 0
  | .bench _ => 1
  | .slice _ => 2
  | .ring _ => 3
  | .port _ => 4
  | .chan _ => 5
  | .flash _ => 6
  | .forgeDie _ => 7
  | .portDie _ => 8
  | .board => 9

/-- UNIT, the number within the type (R434). -/
def LogUnit.num : LogUnit → Nat
  | .hub => 0
  | .bench b => b
  | .slice n => n
  | .ring i => i
  | .port p => p
  | .chan c => c
  | .flash c => c
  | .forgeDie n => n
  | .portDie m => m
  | .board => 0

/-- The region of a unit, numbered as AGE_r (R34, R431), for units that are regions. -/
def LogUnit.region : LogUnit → Option Nat
  | .bench b => some b
  | .slice n => some (40 + n)
  | .ring i => some (48 + i)
  | _ => none

/-- The sensor of a unit that is no region, by AGE_r number (R431, R434). -/
def LogUnit.fixed : LogUnit → Nat
  | .port p => 72 + p / 128
  | .portDie m => 72 + m
  | .chan c => 76 + c / 48
  | .forgeDie n => 76 + n
  | _ => 84

/-- The unit that a region number names. -/
def LogUnit.ofRegion (r : Nat) : LogUnit :=
  if r < 40 then .bench r else if r < 48 then .slice (r - 40) else .ring (r - 48)

/-- Values packed from bit 0, each (value, width), in the order the rule names them (R435). -/
def packDetail : List (Nat × Nat) → Nat
  | [] => 0
  | (v, w) :: rest => v % 2 ^ w + 2 ^ w * packDetail rest

end Sys2Proof.Machine
end

