-- ==== Sys2Proof/Machine/Fields.lean ====
section
/-! DEFINITION. The register fields of the manual's register tables: address, bits, access, reset value, what a
reset keeps, whether the field may be written only while the device is stopped, and the check of a written value. -/

namespace Sys2Proof.Machine

open Sys2Proof

/-- The access codes of R7. -/
inductive Access where
  | ro
  | rw
  | wo
  | w1c
  deriving DecidableEq, Repr

/-- The values that a field accepts besides its reset value (R477). -/
inductive Chk where
  | any
  | range (lo hi : Nat)
  | mult (k : Nat)
  | rangeMult (lo hi k : Nat)
  | fp32Pos
  deriving DecidableEq, Repr

/-- Which resets keep a field (R9, R460): none, a warm reset, or every reset (lifetime records, identity, sensors). -/
inductive Keep where
  | none
  | warm
  | life
  deriving DecidableEq, Repr

/-- One field of a register table. -/
structure Field where
  addr  : Nat
  lo    : Nat
  width : Nat
  acc   : Access := .ro
  reset : Nat := 0
  keep  : Keep := .none
  stop  : Bool := false
  chk   : Chk := .any
  deriving DecidableEq, Repr

/-- Where a field is kept: 64 times its word's address plus its lowest bit. -/
def Field.key (f : Field) : Nat := f.addr * 64 + f.lo

/-- Whether a value is one that the field accepts (R477). -/
def Field.accepts (f : Field) (v : Nat) : Bool :=
  v == f.reset ||
  match f.chk with
  | .any => true
  | .range lo hi => decide (lo ≤ v ∧ v ≤ hi)
  | .mult k => v % k == 0
  | .rangeMult lo hi k => decide (lo ≤ v ∧ v ≤ hi) && v % k == 0
  | .fp32Pos => decide (0 < v ∧ v < 0x7F800000)

/-- Base of forge die n (R406). -/
def forgeBase (n : Nat) : Nat := 0x3F0001000000 + n * 0x1000000

/-- Base of port die m (R406). -/
def portDieBase (m : Nat) : Nat := 0x3F0009000000 + m * 0x1000000

/-- Base of physical bench b (R406, R12). -/
def benchBase (b : Nat) : Nat := forgeBase (b / 5) + b % 5 * 0x100000

/-- Base of station block i of bench b (R143); index 15 is the Compositor (R157). -/
def stnBase (b i : Nat) : Nat := if i = 15 then benchBase b + 0x10000 else benchBase b + 0x1000 * (i + 1)

/-- Base of octet j, numbered over the device (R406, R12). -/
def octBase (j : Nat) : Nat := portDieBase (j / 16) + j % 16 * 0x20000

/-- The dies in the ring's stop order (R14): true for a forge die, with its number. -/
def ringStop (i : Nat) : Bool × Nat :=
  nth (false, 0) [(false, 0), (true, 0), (true, 1), (false, 1), (true, 2), (true, 3), (false, 2), (true, 4), (true, 5),
    (false, 3), (true, 6), (true, 7)] i

/-- Base of the control block of region r, numbered as AGE_r (R34, R431): benches 0-39, slices 40-47, ring segments 48-71. -/
def rgnBase (r : Nat) : Nat :=
  if r < 40 then benchBase r + 0xF000
  else if r < 48 then forgeBase (r - 40) + 0xA0F000
  else
    let s := ringStop ((r - 48) % 12)
    (if s.1 then forgeBase s.2 + 0xB00000 else portDieBase s.2 + 0x600000) + (r - 48) / 12 * 0x1000

/-- RGN_ID.TYPE of region r. -/
def rgnType (r : Nat) : Nat := if r < 40 then 1 else if r < 48 then 2 else 3

/-- RGN_ID.NUMBER of region r (R34). -/
def rgnNumber (r : Nat) : Nat := if r < 40 then r else if r < 48 then r - 40 else r - 48

/-- EVENT_NO.STATE of a region after reset: every region rail is off in STANDBY (R456, R458). -/
def rgnStateReset (_r : Nat) : Nat := 3

/-- Kind code of station index i (R122). -/
def kindCode (i : Nat) : Nat := nth 0 [1, 1, 2, 3, 3, 4, 5, 6, 7, 8] i

/-- Default base of buffer pool i (R291). -/
def poolBaseReset (i : Nat) : Nat :=
  nth 0 [0, 0x400000, 0x800000, 0xC00000, 0x1000000, 0x1400000, 0x1C00000, 0x2800000] i

/-- Default count of buffer pool i (R291). -/
def poolCountReset (i : Nat) : Nat := nth 0 [16384, 8192, 4096, 2048, 1024, 1024, 768, 128] i

/-! ### Feat: the register block of R408 -/

/-- GEN [3:0] of R408. -/
def Feat.gen : Field := { addr := 0x3F0000000000, lo := 0, width := 4, reset := 1 }
/-- FEAT_VER [7:4] of R408. -/
def Feat.featVer : Field := { addr := 0x3F0000000000, lo := 4, width := 4, reset := 1 }
/-- PORT_DIES [11:8] of R408. -/
def Feat.portDies : Field := { addr := 0x3F0000000000, lo := 8, width := 4, reset := 4 }
/-- FORGE_DIES [15:12] of R408. -/
def Feat.forgeDies : Field := { addr := 0x3F0000000000, lo := 12, width := 4, reset := 8 }
/-- BENCHES [19:16] of R408. -/
def Feat.benches : Field := { addr := 0x3F0000000000, lo := 16, width := 4, reset := 5 }
/-- ACTIVE [23:20] of R408. -/
def Feat.active : Field := { addr := 0x3F0000000000, lo := 20, width := 4, reset := 4 }
/-- LANES [31:24] of R408. -/
def Feat.lanes : Field := { addr := 0x3F0000000000, lo := 24, width := 8, reset := 128 }
/-- OCTET [35:32] of R408. -/
def Feat.octet : Field := { addr := 0x3F0000000000, lo := 32, width := 4, reset := 8 }
/-- OCT_MODES [39:36] of R408. -/
def Feat.octModes : Field := { addr := 0x3F0000000000, lo := 36, width := 4, reset := 15 }
/-- CONTEXTS [49:40] of R408. -/
def Feat.contexts : Field := { addr := 0x3F0000000000, lo := 40, width := 10, reset := 512 }
/-- LANE_GBPS [57:50] of R408. -/
def Feat.laneGbps : Field := { addr := 0x3F0000000000, lo := 50, width := 8, reset := 200 }
/-- CHANNELS [7:0] of R408. -/
def Feat.channels : Field := { addr := 0x3F0000000000 + 0x8, lo := 0, width := 8, reset := 48 }
/-- PACKAGES [15:8] of R408. -/
def Feat.packages : Field := { addr := 0x3F0000000000 + 0x8, lo := 8, width := 8, reset := 12 }
/-- DIE_GIB [27:16] of R408. -/
def Feat.dieGib : Field := { addr := 0x3F0000000000 + 0x8, lo := 16, width := 12, reset := 168 }
/-- SPARE_GIB [35:28] of R408. -/
def Feat.spareGib : Field := { addr := 0x3F0000000000 + 0x8, lo := 28, width := 8, reset := 4 }
/-- STONE_MIB [47:36] of R408. -/
def Feat.stoneMib : Field := { addr := 0x3F0000000000 + 0x8, lo := 36, width := 12, reset := 96 }
/-- MTS [61:48] of R408. -/
def Feat.mts : Field := { addr := 0x3F0000000000 + 0x8, lo := 48, width := 14, reset := 10667 }
/-- FLASH_CH [4:0] of R408. -/
def Feat.flashCh : Field := { addr := 0x3F0000000000 + 0x10, lo := 0, width := 5, reset := 16 }
/-- IMP_GIB [17:5] of R408. -/
def Feat.impGib : Field := { addr := 0x3F0000000000 + 0x10, lo := 5, width := 13, reset := 3840 }
/-- MAILBOXES [23:18] of R408. -/
def Feat.mailboxes : Field := { addr := 0x3F0000000000 + 0x10, lo := 18, width := 6, reset := 32 }
/-- IMP_KEEP_MAX [27:24] of R408. -/
def Feat.impKeepMax : Field := { addr := 0x3F0000000000 + 0x10, lo := 24, width := 4, reset := 15 }
/-- PARAM_MAX [43:32] of R408. -/
def Feat.paramMax : Field := { addr := 0x3F0000000000 + 0x10, lo := 32, width := 12, reset := 2048 }
/-- RESULT_MAX [55:44] of R408. -/
def Feat.resultMax : Field := { addr := 0x3F0000000000 + 0x10, lo := 44, width := 12, reset := 1024 }
/-- LONG_CMDS [59:56] of R408. -/
def Feat.longCmds : Field := { addr := 0x3F0000000000 + 0x10, lo := 56, width := 4, reset := 4 }
/-- HANDLES [10:0] of R408. -/
def Feat.handles : Field := { addr := 0x3F0000000000 + 0x18, lo := 0, width := 11, reset := 1024 }
/-- QUEUES [17:11] of R408. -/
def Feat.queues : Field := { addr := 0x3F0000000000 + 0x18, lo := 11, width := 7, reset := 64 }
/-- IMEM_KIB [25:18] of R408. -/
def Feat.imemKib : Field := { addr := 0x3F0000000000 + 0x18, lo := 18, width := 8, reset := 32 }
/-- DMEM_KIB [33:26] of R408. -/
def Feat.dmemKib : Field := { addr := 0x3F0000000000 + 0x18, lo := 26, width := 8, reset := 64 }
/-- TBANK_KIB [39:34] of R408. -/
def Feat.tbankKib : Field := { addr := 0x3F0000000000 + 0x18, lo := 34, width := 6, reset := 16 }
/-- LOOP_LEVELS [42:40] of R408. -/
def Feat.loopLevels : Field := { addr := 0x3F0000000000 + 0x18, lo := 40, width := 3, reset := 6 }
/-- MON_SLOTS [46:43] of R408. -/
def Feat.monSlots : Field := { addr := 0x3F0000000000 + 0x18, lo := 43, width := 4, reset := 8 }
/-- IN_PORTS [50:47] of R408. -/
def Feat.inPorts : Field := { addr := 0x3F0000000000 + 0x18, lo := 47, width := 4, reset := 8 }
/-- OUT_PORTS [53:51] of R408. -/
def Feat.outPorts : Field := { addr := 0x3F0000000000 + 0x18, lo := 51, width := 3, reset := 4 }
/-- LOG_LOG2 [58:54] of R408. -/
def Feat.logLog2 : Field := { addr := 0x3F0000000000 + 0x18, lo := 54, width := 5, reset := 16 }
/-- TRACE_FIFO_LOG2 [61:59] of R408. -/
def Feat.traceFifoLog2 : Field := { addr := 0x3F0000000000 + 0x18, lo := 59, width := 3, reset := 6 }
/-- LAYERS [16:0] of R408. -/
def Feat.layers : Field := { addr := 0x3F0000000000 + 0x20, lo := 0, width := 17, reset := 65536 }
/-- ROW_SETS [20:17] of R408. -/
def Feat.rowSets : Field := { addr := 0x3F0000000000 + 0x20, lo := 17, width := 4, reset := 8 }
/-- ROW_TILES [25:21] of R408. -/
def Feat.rowTiles : Field := { addr := 0x3F0000000000 + 0x20, lo := 21, width := 5, reset := 16 }
/-- SKETCH [35:26] of R408. -/
def Feat.sketch : Field := { addr := 0x3F0000000000 + 0x20, lo := 26, width := 10, reset := 512 }
/-- RANK [44:36] of R408. -/
def Feat.rank : Field := { addr := 0x3F0000000000 + 0x20, lo := 36, width := 9, reset := 256 }
/-- GROUPS [57:45] of R408. -/
def Feat.groups : Field := { addr := 0x3F0000000000 + 0x20, lo := 45, width := 13, reset := 4096 }
/-- CURVE_PTS [12:0] of R408. -/
def Feat.curvePts : Field := { addr := 0x3F0000000000 + 0x28, lo := 0, width := 13, reset := 4096 }
/-- AXES [15:13] of R408. -/
def Feat.axes : Field := { addr := 0x3F0000000000 + 0x28, lo := 13, width := 3, reset := 6 }
/-- GRP_RECS [28:16] of R408. -/
def Feat.grpRecs : Field := { addr := 0x3F0000000000 + 0x28, lo := 16, width := 13, reset := 4096 }
/-- NCOLL_MAX [49:29] of R408. -/
def Feat.ncollMax : Field := { addr := 0x3F0000000000 + 0x28, lo := 29, width := 21, reset := 1048576 }
/-- DIR_ENTRIES [63:50] of R408. -/
def Feat.dirEntries : Field := { addr := 0x3F0000000000 + 0x28, lo := 50, width := 14, reset := 8192 }
/-- PAYLOAD [13:0] of R408. -/
def Feat.payload : Field := { addr := 0x3F0000000000 + 0x30, lo := 0, width := 14, reset := 8192 }
/-- UNACKED [26:14] of R408. -/
def Feat.unacked : Field := { addr := 0x3F0000000000 + 0x30, lo := 14, width := 13, reset := 4096 }
/-- RHANDLES [43:27] of R408. -/
def Feat.rhandles : Field := { addr := 0x3F0000000000 + 0x30, lo := 27, width := 17, reset := 65280 }
/-- LH_WIN_MIB [51:44] of R408. -/
def Feat.lhWinMib : Field := { addr := 0x3F0000000000 + 0x30, lo := 44, width := 8, reset := 128 }
/-- VCS [55:52] of R408. -/
def Feat.vcs : Field := { addr := 0x3F0000000000 + 0x30, lo := 52, width := 4, reset := 6 }
/-- ROUTE_SETS [58:56] of R408. -/
def Feat.routeSets : Field := { addr := 0x3F0000000000 + 0x30, lo := 56, width := 3, reset := 4 }
/-- AVOID [62:59] of R408. -/
def Feat.avoid : Field := { addr := 0x3F0000000000 + 0x30, lo := 59, width := 4, reset := 8 }
/-- POOLS [3:0] of R408. -/
def Feat.pools : Field := { addr := 0x3F0000000000 + 0x38, lo := 0, width := 4, reset := 8 }
/-- PORT_BUF_MIB [9:4] of R408. -/
def Feat.portBufMib : Field := { addr := 0x3F0000000000 + 0x38, lo := 4, width := 6, reset := 48 }
/-- POLICERS [20:10] of R408. -/
def Feat.policers : Field := { addr := 0x3F0000000000 + 0x38, lo := 10, width := 11, reset := 1024 }
/-- MIRRORS [24:21] of R408. -/
def Feat.mirrors : Field := { addr := 0x3F0000000000 + 0x38, lo := 21, width := 4, reset := 8 }
/-- PATHS [28:25] of R408. -/
def Feat.paths : Field := { addr := 0x3F0000000000 + 0x38, lo := 25, width := 4, reset := 8 }
/-- MC_MEMBERS [35:29] of R408. -/
def Feat.mcMembers : Field := { addr := 0x3F0000000000 + 0x38, lo := 29, width := 7, reset := 64 }
/-- FILL_PAR_MAX [39:36] of R408. -/
def Feat.fillParMax : Field := { addr := 0x3F0000000000 + 0x38, lo := 36, width := 4, reset := 8 }
/-- MARGIN_MAX [43:40] of R408. -/
def Feat.marginMax : Field := { addr := 0x3F0000000000 + 0x38, lo := 40, width := 4, reset := 15 }
/-- REGIONS [51:44] of R408. -/
def Feat.regions : Field := { addr := 0x3F0000000000 + 0x38, lo := 44, width := 8, reset := 72 }
/-- GRAPH_NODES_LOG2 [55:52] of R408. -/
def Feat.graphNodesLog2 : Field := { addr := 0x3F0000000000 + 0x38, lo := 52, width := 4, reset := 15 }

/-! ### Cmd: the register block of R409 -/

/-- VERSION [3:0] of R409. -/
def Cmd.version : Field := { addr := 0x3F0000010000, lo := 0, width := 4, reset := 1 }
/-- RUN_STATE [1:0] of R409. -/
def Cmd.runState : Field := { addr := 0x3F0000010000 + 0x8, lo := 0, width := 2 }
/-- ROUTING_STOPPED [2] of R409. -/
def Cmd.routingStopped : Field := { addr := 0x3F0000010000 + 0x8, lo := 2, width := 1 }
/-- POWER_STATE [4:3] of R409. -/
def Cmd.powerState : Field := { addr := 0x3F0000010000 + 0x8, lo := 3, width := 2, reset := 1 }
/-- LONG_ACTIVE [7:5] of R409. -/
def Cmd.longActive : Field := { addr := 0x3F0000010000 + 0x8, lo := 5, width := 3 }
/-- CMDS [63:0] of R409. -/
def Cmd.cmds : Field := { addr := 0x3F0000010000 + 0x10, lo := 0, width := 64 }
/-- NOT_OK [63:0] of R409. -/
def Cmd.notOk : Field := { addr := 0x3F0000010000 + 0x18, lo := 0, width := 64 }
/-- LAST_FAULT_ADDR [47:0] of R409. -/
def Cmd.lastFaultAddr : Field := { addr := 0x3F0000010000 + 0x20, lo := 0, width := 48 }
/-- LAST_FAULT_OP [55:48] of R409. -/
def Cmd.lastFaultOp : Field := { addr := 0x3F0000010000 + 0x20, lo := 48, width := 8 }
/-- BULK_ORPHAN [31:0] of R409. -/
def Cmd.bulkOrphan : Field := { addr := 0x3F0000010000 + 0x28, lo := 0, width := 32 }
/-- VIOLATION_EVT [0] of R409. -/
def Cmd.violationEvt : Field := { addr := 0x3F0000010000 + 0x30, lo := 0, width := 1, acc := .w1c }
/-- HW_FAULT_EVT [1] of R409. -/
def Cmd.hwFaultEvt : Field := { addr := 0x3F0000010000 + 0x30, lo := 1, width := 1, acc := .w1c }
/-- MB_OVERWRITE_EVT [2] of R409. -/
def Cmd.mbOverwriteEvt : Field := { addr := 0x3F0000010000 + 0x30, lo := 2, width := 1, acc := .w1c }

/-! ### Mb: the register block of R410 -/

/-- COMPLETION [63:0] of R410. -/
def Mb.completion (m : Nat) : Field := { addr := 0x3F0000020000 + 0x800 * m, lo := 0, width := 64 }
/-- MB_STATE [1:0] of R410. -/
def Mb.mbState (m : Nat) : Field := { addr := 0x3F0000020000 + 0x800 * m + 0x8, lo := 0, width := 2 }

/-! ### Tb: the register block of R61 -/

/-- COUNT [63:0] of R61. -/
def Tb.count : Field := { addr := 0x3F0000030000, lo := 0, width := 64, keep := .warm }
/-- MASTER [0] of R61. -/
def Tb.master : Field := { addr := 0x3F0000030000 + 0x8, lo := 0, width := 1, acc := .rw }
/-- PPS_EN [1] of R61. -/
def Tb.ppsEn : Field := { addr := 0x3F0000030000 + 0x8, lo := 1, width := 1, acc := .rw }
/-- TB_LOCK [0] of R61. -/
def Tb.tbLock : Field := { addr := 0x3F0000030000 + 0x10, lo := 0, width := 1 }
/-- REF_LOST [1] of R61. -/
def Tb.refLost : Field := { addr := 0x3F0000030000 + 0x10, lo := 1, width := 1, acc := .w1c }
/-- AHEAD [2] of R61. -/
def Tb.ahead : Field := { addr := 0x3F0000030000 + 0x10, lo := 2, width := 1, acc := .w1c }
/-- TB_SRC [8:0] of R61. -/
def Tb.tbSrc : Field := { addr := 0x3F0000030000 + 0x18, lo := 0, width := 9, acc := .rw }
/-- TB_INTERVAL [7:0] of R61. -/
def Tb.tbInterval : Field := { addr := 0x3F0000030000 + 0x20, lo := 0, width := 8, acc := .rw, reset := 8, chk := .range 1 128 }
/-- OFFSET [31:0] of R61. -/
def Tb.offset : Field := { addr := 0x3F0000030000 + 0x28, lo := 0, width := 32 }
/-- DELAY [63:32] of R61. -/
def Tb.delay : Field := { addr := 0x3F0000030000 + 0x28, lo := 32, width := 32 }
/-- A [31:0] of R61. -/
def Tb.a (p : Nat) : Field := { addr := 0x3F0000030000 + 0x1000 + 0x8 * p, lo := 0, width := 32, acc := .rw }
/-- LONG [32] of R61. -/
def Tb.longF (p : Nat) : Field := { addr := 0x3F0000030000 + 0x1000 + 0x8 * p, lo := 32, width := 1, acc := .rw }

/-! ### Sec: the register block of R431 -/

/-- VERSION [3:0] of R431. -/
def Sec.version : Field := { addr := 0x3F0000040000, lo := 0, width := 4, reset := 1 }
/-- ACTIVE_SLOT [0] of R431. -/
def Sec.activeSlot : Field := { addr := 0x3F0000040000 + 0x8, lo := 0, width := 1, keep := .life }
/-- SLOT_A_VALID [1] of R431. -/
def Sec.slotAValid : Field := { addr := 0x3F0000040000 + 0x8, lo := 1, width := 1, reset := 1, keep := .life }
/-- SLOT_B_VALID [2] of R431. -/
def Sec.slotBValid : Field := { addr := 0x3F0000040000 + 0x8, lo := 2, width := 1, keep := .life }
/-- BOOT_RECOVERY [3] of R431. -/
def Sec.bootRecovery : Field := { addr := 0x3F0000040000 + 0x8, lo := 3, width := 1 }
/-- CONFIRM_PENDING [4] of R431. -/
def Sec.confirmPending : Field := { addr := 0x3F0000040000 + 0x8, lo := 4, width := 1 }
/-- KEY_REVOKED [8:5] of R431. -/
def Sec.keyRevoked : Field := { addr := 0x3F0000040000 + 0x8, lo := 5, width := 4, keep := .life }
/-- OWNER_LOCK [9] of R431. -/
def Sec.ownerLock : Field := { addr := 0x3F0000040000 + 0x8, lo := 9, width := 1, acc := .rw, keep := .life }
/-- SVN_FLOOR [31:16] of R431. -/
def Sec.svnFloor : Field := { addr := 0x3F0000040000 + 0x8, lo := 16, width := 16, keep := .life }
/-- FW_VERSION_A [31:0] of R431. -/
def Sec.fwVersionA : Field := { addr := 0x3F0000040000 + 0x10, lo := 0, width := 32, keep := .life }
/-- FW_VERSION_B [63:32] of R431. -/
def Sec.fwVersionB : Field := { addr := 0x3F0000040000 + 0x10, lo := 32, width := 32, keep := .life }
/-- MONO [63:0] of R431. -/
def Sec.mono : Field := { addr := 0x3F0000040000 + 0x18, lo := 0, width := 64, keep := .life }
/-- CALENDAR [63:0] of R431. -/
def Sec.calendar : Field := { addr := 0x3F0000040000 + 0x20, lo := 0, width := 64, acc := .rw, keep := .life }
/-- CAL_VALID [0] of R431. -/
def Sec.calValid : Field := { addr := 0x3F0000040000 + 0x28, lo := 0, width := 1 }
/-- POWER_ON_S [63:0] of R431. -/
def Sec.powerOnS : Field := { addr := 0x3F0000040000 + 0x30, lo := 0, width := 64, keep := .life }
/-- THERMAL_CYCLES [31:0] of R431. -/
def Sec.thermalCycles : Field := { addr := 0x3F0000040000 + 0x38, lo := 0, width := 32, keep := .life }
/-- AUTH_FAILS [63:32] of R431. -/
def Sec.authFails : Field := { addr := 0x3F0000040000 + 0x38, lo := 32, width := 32 }
/-- AUTH_EVT [0] of R431. -/
def Sec.authEvt : Field := { addr := 0x3F0000040000 + 0x40, lo := 0, width := 1, acc := .w1c }
/-- FW_REVERT_EVT [1] of R431. -/
def Sec.fwRevertEvt : Field := { addr := 0x3F0000040000 + 0x40, lo := 1, width := 1, acc := .w1c }
/-- AGE_EVT [2] of R431. -/
def Sec.ageEvt : Field := { addr := 0x3F0000040000 + 0x40, lo := 2, width := 1, acc := .w1c }
/-- OWNER_NOT_AFTER [63:0] of R431. -/
def Sec.ownerNotAfter : Field := { addr := 0x3F0000040000 + 0x48, lo := 0, width := 64, acc := .rw, keep := .life, stop := true }
/-- OWNER_KEY_w [63:0] of R431. -/
def Sec.ownerKey (w : Nat) : Field := { addr := 0x3F0000040000 + 0x50 + 0x8 * w, lo := 0, width := 64, acc := .rw, keep := .life, stop := true }
/-- AGE_r [31:0] of R431. -/
def Sec.age (r : Nat) : Field := { addr := 0x3F0000040000 + 0x1000 + 0x8 * r, lo := 0, width := 32, keep := .life }

/-! ### Ws: the register block of R201 -/

/-- VERSION [3:0] of R201. -/
def Ws.version : Field := { addr := 0x3F0000050000, lo := 0, width := 4, reset := 1 }
/-- LT_BASE [47:0] of R201. -/
def Ws.ltBase : Field := { addr := 0x3F0000050000 + 0x8, lo := 0, width := 48, acc := .rw, stop := true, chk := .mult 128 }
/-- LT_COUNT [16:0] of R201. -/
def Ws.ltCount : Field := { addr := 0x3F0000050000 + 0x10, lo := 0, width := 17, acc := .rw, stop := true, chk := .range 0 65536 }
/-- CT_BASE [47:0] of R201. -/
def Ws.ctBase : Field := { addr := 0x3F0000050000 + 0x18, lo := 0, width := 48, acc := .rw, stop := true, chk := .mult 64 }
/-- FETCHES [63:0] of R201. -/
def Ws.fetches : Field := { addr := 0x3F0000050000 + 0x20, lo := 0, width := 64 }
/-- REFUSALS [63:0] of R201. -/
def Ws.refusals : Field := { addr := 0x3F0000050000 + 0x28, lo := 0, width := 64 }
/-- LAST_STATUS [7:0] of R201. -/
def Ws.lastStatus : Field := { addr := 0x3F0000050000 + 0x30, lo := 0, width := 8 }
/-- LAST_LAYER [23:8] of R201. -/
def Ws.lastLayer : Field := { addr := 0x3F0000050000 + 0x30, lo := 8, width := 16 }
/-- LAST_SRC [43:24] of R201. -/
def Ws.lastSrc : Field := { addr := 0x3F0000050000 + 0x30, lo := 24, width := 20 }
/-- LAST_STEP [63:0] of R201. -/
def Ws.lastStep : Field := { addr := 0x3F0000050000 + 0x38, lo := 0, width := 64 }
/-- REPORTS_DISCARDED [63:0] of R201. -/
def Ws.reportsDiscarded : Field := { addr := 0x3F0000050000 + 0x40, lo := 0, width := 64 }
/-- WAITING [23:0] of R201. -/
def Ws.waiting : Field := { addr := 0x3F0000050000 + 0x48, lo := 0, width := 24 }
/-- REFUSED_EVT [24] of R201. -/
def Ws.refusedEvt : Field := { addr := 0x3F0000050000 + 0x48, lo := 24, width := 1, acc := .w1c }

/-! ### Upd: the register block of R225 -/

/-- VERSION [3:0] of R225. -/
def Upd.version : Field := { addr := 0x3F0000060000, lo := 0, width := 4, reset := 1 }
/-- GT_BASE [47:0] of R225. -/
def Upd.gtBase : Field := { addr := 0x3F0000060000 + 0x8, lo := 0, width := 48, acc := .rw, stop := true, chk := .mult 64 }
/-- GT_COUNT [12:0] of R225. -/
def Upd.gtCount : Field := { addr := 0x3F0000060000 + 0x10, lo := 0, width := 13, acc := .rw, stop := true, chk := .range 0 4096 }
/-- SC_BASE [47:0] of R225. -/
def Upd.scBase : Field := { addr := 0x3F0000060000 + 0x18, lo := 0, width := 48, acc := .rw, stop := true, chk := .mult 64 }
/-- CLIP_MODE [1:0] of R225. -/
def Upd.clipMode : Field := { addr := 0x3F0000060000 + 0x20, lo := 0, width := 2, acc := .rw, stop := true, chk := .range 0 2 }
/-- CLIP_MAX [63:32] of R225. -/
def Upd.clipMax : Field := { addr := 0x3F0000060000 + 0x20, lo := 32, width := 32, acc := .rw, reset := 1065353216, stop := true, chk := .fp32Pos }
/-- COMMITTED [63:0] of R225. -/
def Upd.committed : Field := { addr := 0x3F0000060000 + 0x28, lo := 0, width := 64 }
/-- NORM_CUR [31:0] of R225. -/
def Upd.normCur : Field := { addr := 0x3F0000060000 + 0x30, lo := 0, width := 32 }
/-- NORM_PREV [63:32] of R225. -/
def Upd.normPrev : Field := { addr := 0x3F0000060000 + 0x30, lo := 32, width := 32 }
/-- K_CUR [31:0] of R225. -/
def Upd.kCur : Field := { addr := 0x3F0000060000 + 0x38, lo := 0, width := 32, reset := 1065353216 }
/-- SKIPPED [63:0] of R225. -/
def Upd.skipped : Field := { addr := 0x3F0000060000 + 0x40, lo := 0, width := 64 }
/-- RESTORES [63:0] of R225. -/
def Upd.restores : Field := { addr := 0x3F0000060000 + 0x48, lo := 0, width := 64 }
/-- NONFINITE_EVT [0] of R225. -/
def Upd.nonfiniteEvt : Field := { addr := 0x3F0000060000 + 0x50, lo := 0, width := 1, acc := .w1c }
/-- GROUP_ERR [1] of R225. -/
def Upd.groupErr : Field := { addr := 0x3F0000060000 + 0x50, lo := 1, width := 1, acc := .w1c }

/-! ### Coll: the register block of R256 -/

/-- VERSION [3:0] of R256. -/
def Coll.version : Field := { addr := 0x3F0000070000, lo := 0, width := 4, reset := 1 }
/-- TOPO_BASE [47:0] of R256. -/
def Coll.topoBase : Field := { addr := 0x3F0000070000 + 0x8, lo := 0, width := 48, acc := .rw, stop := true, chk := .mult 8 }
/-- NAXES [2:0] of R256. -/
def Coll.naxes : Field := { addr := 0x3F0000070000 + 0x10, lo := 0, width := 3, acc := .rw, reset := 1, stop := true, chk := .range 1 6 }
/-- SIZE_a [16a + 15 : 16a] of R256. -/
def Coll.size (a : Nat) : Field := { addr := 0x3F0000070000 + 0x18, lo := 16 * a, width := 16, acc := .rw, reset := 1, stop := true, chk := .range 1 65535 }
/-- SIZE_a [16a − 49 : 16a − 64] of R256. -/
def Coll.sizeHi (a : Nat) : Field := { addr := 0x3F0000070000 + 0x20, lo := 16 * (a - 4), width := 16, acc := .rw, reset := 1, stop := true, chk := .range 1 65535 }
/-- GRP_BASE [47:0] of R256. -/
def Coll.grpBase : Field := { addr := 0x3F0000070000 + 0x28, lo := 0, width := 48, acc := .rw, stop := true, chk := .mult 32 }
/-- GRP_COUNT [12:0] of R256. -/
def Coll.grpCount : Field := { addr := 0x3F0000070000 + 0x30, lo := 0, width := 13, acc := .rw, stop := true, chk := .range 0 4096 }
/-- COLL_BASE [47:0] of R256. -/
def Coll.collBase : Field := { addr := 0x3F0000070000 + 0x38, lo := 0, width := 48, acc := .rw, stop := true, chk := .mult 32 }
/-- NCOLL [20:0] of R256. -/
def Coll.ncoll : Field := { addr := 0x3F0000070000 + 0x40, lo := 0, width := 21, acc := .rw, stop := true, chk := .range 1 1048576 }
/-- EPOCH [63:0] of R256. -/
def Coll.epoch : Field := { addr := 0x3F0000070000 + 0x48, lo := 0, width := 64, keep := .warm }
/-- MY_POS [19:0] of R256. -/
def Coll.myPos : Field := { addr := 0x3F0000070000 + 0x50, lo := 0, width := 20 }
/-- COMMIT_TIMEOUT [31:0] of R256. -/
def Coll.commitTimeout : Field := { addr := 0x3F0000070000 + 0x58, lo := 0, width := 32, acc := .rw, reset := 20000, stop := true, chk := .range 1 0xFFFFFFFF }
/-- TRAFFIC_MODE [1:0] of R256. -/
def Coll.trafficMode : Field := { addr := 0x3F0000070000 + 0x60, lo := 0, width := 2, acc := .rw, stop := true, chk := .range 0 2 }
/-- ORD_EXPECTED [23:0] of R256. -/
def Coll.ordExpected : Field := { addr := 0x3F0000070000 + 0x68, lo := 0, width := 24 }
/-- ORD_SEEN [47:24] of R256. -/
def Coll.ordSeen : Field := { addr := 0x3F0000070000 + 0x68, lo := 24, width := 24 }
/-- ORD_UNIT [57:48] of R256. -/
def Coll.ordUnit : Field := { addr := 0x3F0000070000 + 0x68, lo := 48, width := 10 }
/-- STALE [63:0] of R256. -/
def Coll.stale : Field := { addr := 0x3F0000070000 + 0x70, lo := 0, width := 64 }
/-- CNT_ADDR [47:0] of R256. -/
def Coll.cntAddr : Field := { addr := 0x3F0000070000 + 0x78, lo := 0, width := 48 }
/-- CNT_KIND [48] of R256. -/
def Coll.cntKind : Field := { addr := 0x3F0000070000 + 0x78, lo := 48, width := 1 }
/-- DIG_STEP [63:0] of R256. -/
def Coll.digStep : Field := { addr := 0x3F0000070000 + 0x80, lo := 0, width := 64 }
/-- ORDER_EVT [0] of R256. -/
def Coll.orderEvt : Field := { addr := 0x3F0000070000 + 0x88, lo := 0, width := 1, acc := .w1c }
/-- COUNT_EVT [1] of R256. -/
def Coll.countEvt : Field := { addr := 0x3F0000070000 + 0x88, lo := 1, width := 1, acc := .w1c }
/-- DIGEST_EVT [2] of R256. -/
def Coll.digestEvt : Field := { addr := 0x3F0000070000 + 0x88, lo := 2, width := 1, acc := .w1c }
/-- COMMIT_FAIL_EVT [3] of R256. -/
def Coll.commitFailEvt : Field := { addr := 0x3F0000070000 + 0x88, lo := 3, width := 1, acc := .w1c }

/-! ### Fab: the register block of R282 -/

/-- VERSION [3:0] of R282. -/
def Fab.version : Field := { addr := 0x3F0000080000, lo := 0, width := 4, reset := 1 }
/-- DEVICE_ID [19:0] of R282. -/
def Fab.deviceId : Field := { addr := 0x3F0000080000 + 0x8, lo := 0, width := 20, acc := .rw, reset := 1048575, stop := true }
/-- LINK_MODE [1:0] of R282. -/
def Fab.linkMode : Field := { addr := 0x3F0000080000 + 0x10, lo := 0, width := 2, acc := .rw, reset := 1, chk := .range 0 2 }
/-- LR_WIN [7:4] of R282. -/
def Fab.lrWin : Field := { addr := 0x3F0000080000 + 0x10, lo := 4, width := 4, acc := .rw, reset := 4, chk := .range 1 8 }
/-- HOP_INIT [15:8] of R282. -/
def Fab.hopInit : Field := { addr := 0x3F0000080000 + 0x10, lo := 8, width := 8, acc := .rw, reset := 32, stop := true, chk := .range 1 255 }
/-- RES_MIN [19:16] of R282. -/
def Fab.resMin : Field := { addr := 0x3F0000080000 + 0x10, lo := 16, width := 4, acc := .rw, reset := 4, stop := true, chk := .range 1 15 }
/-- E2E_TO [19:0] of R282. -/
def Fab.e2eTo : Field := { addr := 0x3F0000080000 + 0x18, lo := 0, width := 20, acc := .rw, reset := 50, chk := .range 5 1000000 }
/-- RESEND_MAX [23:20] of R282. -/
def Fab.resendMax : Field := { addr := 0x3F0000080000 + 0x18, lo := 20, width := 4, acc := .rw, reset := 3, chk := .range 0 7 }
/-- GAP_WAIT [35:24] of R282. -/
def Fab.gapWait : Field := { addr := 0x3F0000080000 + 0x18, lo := 24, width := 12, acc := .rw, reset := 8, chk := .range 1 4095 }
/-- DELIV_TO [31:0] of R282. -/
def Fab.delivTo : Field := { addr := 0x3F0000080000 + 0x20, lo := 0, width := 32, acc := .rw, reset := 5000 }
/-- RT_BASE [47:0] of R282. -/
def Fab.rtBase : Field := { addr := 0x3F0000080000 + 0x28, lo := 0, width := 48, acc := .rw, stop := true, chk := .mult 16 }
/-- RT_COUNT [15:0] of R282. -/
def Fab.rtCount : Field := { addr := 0x3F0000080000 + 0x30, lo := 0, width := 16, acc := .rw, stop := true, chk := .range 0 65280 }
/-- CRC_FAIL [63:0] of R282. -/
def Fab.crcFail : Field := { addr := 0x3F0000080000 + 0x38, lo := 0, width := 64 }
/-- RESENDS [63:0] of R282. -/
def Fab.resends : Field := { addr := 0x3F0000080000 + 0x40, lo := 0, width := 64 }
/-- DUPLICATES [63:0] of R282. -/
def Fab.duplicates : Field := { addr := 0x3F0000080000 + 0x48, lo := 0, width := 64 }
/-- HOPS_EXPIRED [63:0] of R282. -/
def Fab.hopsExpired : Field := { addr := 0x3F0000080000 + 0x50, lo := 0, width := 64 }
/-- UNADDRESSED [63:0] of R282. -/
def Fab.unaddressed : Field := { addr := 0x3F0000080000 + 0x58, lo := 0, width := 64 }
/-- FAILED_DST [19:0] of R282. -/
def Fab.failedDst : Field := { addr := 0x3F0000080000 + 0x60, lo := 0, width := 20 }
/-- E2E_CHECK_EVT [0] of R282. -/
def Fab.e2eCheckEvt : Field := { addr := 0x3F0000080000 + 0x68, lo := 0, width := 1, acc := .w1c }
/-- TIMEOUT_EVT [1] of R282. -/
def Fab.timeoutEvt : Field := { addr := 0x3F0000080000 + 0x68, lo := 1, width := 1, acc := .w1c }
/-- CUT_DONE [2] of R282. -/
def Fab.cutDone : Field := { addr := 0x3F0000080000 + 0x68, lo := 2, width := 1, acc := .w1c }
/-- CUT_LOST [3] of R282. -/
def Fab.cutLost : Field := { addr := 0x3F0000080000 + 0x68, lo := 3, width := 1, acc := .w1c }
/-- LH_EN [0] of R282. -/
def Fab.lhEn (p : Nat) : Field := { addr := 0x3F0000080000 + 0x1000 + 0x10 * p, lo := 0, width := 1, acc := .rw, stop := true }
/-- LH_DIE [3:1] of R282. -/
def Fab.lhDie (p : Nat) : Field := { addr := 0x3F0000080000 + 0x1000 + 0x10 * p, lo := 1, width := 3, acc := .rw, stop := true }
/-- UPDOWN [4] of R282. -/
def Fab.updown (p : Nat) : Field := { addr := 0x3F0000080000 + 0x1000 + 0x10 * p, lo := 4, width := 1, acc := .rw, stop := true }
/-- WIN_MIB [12:5] of R282. -/
def Fab.winMib (p : Nat) : Field := { addr := 0x3F0000080000 + 0x1000 + 0x10 * p, lo := 5, width := 8, acc := .rw, stop := true, chk := .range 1 128 }
/-- LH_RTT [22:13] of R282. -/
def Fab.lhRtt (p : Nat) : Field := { addr := 0x3F0000080000 + 0x1000 + 0x10 * p, lo := 13, width := 10, acc := .rw, stop := true, chk := .range 1 1000 }
/-- CAP_MIB [27:23] of R282. -/
def Fab.capMib (p : Nat) : Field := { addr := 0x3F0000080000 + 0x1000 + 0x10 * p, lo := 23, width := 5, acc := .rw, reset := 8, stop := true, chk := .range 1 31 }
/-- CAPTURED [63:0] of R282. -/
def Fab.captured (p : Nat) : Field := { addr := 0x3F0000080000 + 0x1008 + 0x10 * p, lo := 0, width := 64 }

/-! ### Imp: the register block of R356 -/

/-- VERSION [3:0] of R356. -/
def Imp.version : Field := { addr := 0x3F0000090000, lo := 0, width := 4, reset := 1 }
/-- IMP_N [31:0] of R356. -/
def Imp.impN : Field := { addr := 0x3F0000090000 + 0x8, lo := 0, width := 32, acc := .rw, stop := true }
/-- IMP_KEEP [35:32] of R356. -/
def Imp.impKeep : Field := { addr := 0x3F0000090000 + 0x8, lo := 32, width := 4, acc := .rw, reset := 2, stop := true, chk := .range 2 15 }
/-- IMP_EFF [31:0] of R356. -/
def Imp.impEff : Field := { addr := 0x3F0000090000 + 0x10, lo := 0, width := 32 }
/-- VALID_STEP [63:0] of R356. -/
def Imp.validStep : Field := { addr := 0x3F0000090000 + 0x18, lo := 0, width := 64, reset := 18446744073709551615 }
/-- WRITING_STEP [63:0] of R356. -/
def Imp.writingStep : Field := { addr := 0x3F0000090000 + 0x20, lo := 0, width := 64, reset := 18446744073709551615 }
/-- IMP_SKIPPED [63:0] of R356. -/
def Imp.impSkipped : Field := { addr := 0x3F0000090000 + 0x28, lo := 0, width := 64 }
/-- BYTES_WRITTEN [63:0] of R356. -/
def Imp.bytesWritten : Field := { addr := 0x3F0000090000 + 0x30, lo := 0, width := 64, keep := .life }
/-- BLOCKS_RETIRED [31:0] of R356. -/
def Imp.blocksRetired : Field := { addr := 0x3F0000090000 + 0x38, lo := 0, width := 32, keep := .life }
/-- MAX_ERASE [63:32] of R356. -/
def Imp.maxErase : Field := { addr := 0x3F0000090000 + 0x38, lo := 32, width := 32, keep := .life }
/-- FLASH_EVT [0] of R356. -/
def Imp.flashEvt : Field := { addr := 0x3F0000090000 + 0x40, lo := 0, width := 1, acc := .w1c }
/-- SKIP_EVT [1] of R356. -/
def Imp.skipEvt : Field := { addr := 0x3F0000090000 + 0x40, lo := 1, width := 1, acc := .w1c }
/-- UNCOMPARED [2] of R356. -/
def Imp.uncompared : Field := { addr := 0x3F0000090000 + 0x40, lo := 2, width := 1, acc := .w1c }

/-! ### Surv: the register block of R385 -/

/-- VERSION [3:0] of R385. -/
def Surv.version : Field := { addr := 0x3F00000A0000, lo := 0, width := 4, reset := 1 }
/-- FD_TAG [63:0] of R385. -/
def Surv.fdTag : Field := { addr := 0x3F00000A0000 + 0x8, lo := 0, width := 64, acc := .rw, keep := .warm, stop := true }
/-- PARTNER [19:0] of R385. -/
def Surv.partner : Field := { addr := 0x3F00000A0000 + 0x10, lo := 0, width := 20, reset := 1048575, keep := .life }
/-- PAIR_STATE [21:20] of R385. -/
def Surv.pairState : Field := { addr := 0x3F00000A0000 + 0x10, lo := 20, width := 2, keep := .life }
/-- CORRELATED [22] of R385. -/
def Surv.correlated : Field := { addr := 0x3F00000A0000 + 0x10, lo := 22, width := 1, keep := .life }
/-- ADOPTED [23] of R385. -/
def Surv.adopted : Field := { addr := 0x3F00000A0000 + 0x10, lo := 23, width := 1 }
/-- PARTNER_TAG [63:0] of R385. -/
def Surv.partnerTag : Field := { addr := 0x3F00000A0000 + 0x18, lo := 0, width := 64, keep := .life }
/-- PM_BASE [47:0] of R385. -/
def Surv.pmBase : Field := { addr := 0x3F00000A0000 + 0x20, lo := 0, width := 48, acc := .rw, stop := true, chk := .mult 16 }
/-- PM_COUNT [23:0] of R385. -/
def Surv.pmCount : Field := { addr := 0x3F00000A0000 + 0x28, lo := 0, width := 24, acc := .rw, stop := true }
/-- FILL_PAR [27:24] of R385. -/
def Surv.fillPar : Field := { addr := 0x3F00000A0000 + 0x28, lo := 24, width := 4, acc := .rw, reset := 2, stop := true, chk := .range 1 8 }
/-- REFILL_BASE [47:0] of R385. -/
def Surv.refillBase : Field := { addr := 0x3F00000A0000 + 0x30, lo := 0, width := 48, acc := .rw, stop := true, chk := .mult 64 }
/-- REFILL_GIB [15:0] of R385. -/
def Surv.refillGib : Field := { addr := 0x3F00000A0000 + 0x38, lo := 0, width := 16, acc := .rw, stop := true }
/-- HB_US [31:16] of R385. -/
def Surv.hbUs : Field := { addr := 0x3F00000A0000 + 0x38, lo := 16, width := 16, acc := .rw, reset := 100, chk := .range 10 10000 }
/-- HB_MISS [35:32] of R385. -/
def Surv.hbMiss : Field := { addr := 0x3F00000A0000 + 0x38, lo := 32, width := 4, acc := .rw, reset := 8, chk := .range 2 15 }
/-- STRAGGLE_US [31:0] of R385. -/
def Surv.straggleUs : Field := { addr := 0x3F00000A0000 + 0x40, lo := 0, width := 32, acc := .rw, reset := 200000 }
/-- SHARED_M [47:32] of R385. -/
def Surv.sharedM : Field := { addr := 0x3F00000A0000 + 0x40, lo := 32, width := 16, acc := .rw, stop := true }
/-- PIECES_FILLED [23:0] of R385. -/
def Surv.piecesFilled : Field := { addr := 0x3F00000A0000 + 0x48, lo := 0, width := 24 }
/-- PIECES_OPEN [47:24] of R385. -/
def Surv.piecesOpen : Field := { addr := 0x3F00000A0000 + 0x48, lo := 24, width := 24 }
/-- LAST_VOTE_STEP [63:0] of R385. -/
def Surv.lastVoteStep : Field := { addr := 0x3F00000A0000 + 0x50, lo := 0, width := 64 }
/-- LAST_VOTE_OK [0] of R385. -/
def Surv.lastVoteOk : Field := { addr := 0x3F00000A0000 + 0x58, lo := 0, width := 1 }
/-- ROUTE_SET [2:1] of R385. -/
def Surv.routeSet : Field := { addr := 0x3F00000A0000 + 0x58, lo := 1, width := 2 }
/-- ALARMS [6:3] of R385. -/
def Surv.alarms : Field := { addr := 0x3F00000A0000 + 0x58, lo := 3, width := 4 }
/-- ALARM_LAST [26:7] of R385. -/
def Surv.alarmLast : Field := { addr := 0x3F00000A0000 + 0x58, lo := 7, width := 20 }
/-- ALARM_CLR [27] of R385. -/
def Surv.alarmClr : Field := { addr := 0x3F00000A0000 + 0x58, lo := 27, width := 1, acc := .wo }
/-- EXPORT_STEP [63:0] of R385. -/
def Surv.exportStep : Field := { addr := 0x3F00000A0000 + 0x60, lo := 0, width := 64, reset := 18446744073709551615 }
/-- PEER_LOST_EVT [0] of R385. -/
def Surv.peerLostEvt : Field := { addr := 0x3F00000A0000 + 0x68, lo := 0, width := 1, acc := .w1c }
/-- STRAGGLE_EVT [1] of R385. -/
def Surv.straggleEvt : Field := { addr := 0x3F00000A0000 + 0x68, lo := 1, width := 1, acc := .w1c }
/-- NO_ROUTE_SET [2] of R385. -/
def Surv.noRouteSet : Field := { addr := 0x3F00000A0000 + 0x68, lo := 2, width := 1, acc := .w1c }
/-- FILL_FAIL_EVT [3] of R385. -/
def Surv.fillFailEvt : Field := { addr := 0x3F00000A0000 + 0x68, lo := 3, width := 1, acc := .w1c }
/-- ADOPT_EVT [4] of R385. -/
def Surv.adoptEvt : Field := { addr := 0x3F00000A0000 + 0x68, lo := 4, width := 1, acc := .w1c }
/-- EXPORT_READY [5] of R385. -/
def Surv.exportReady : Field := { addr := 0x3F00000A0000 + 0x68, lo := 5, width := 1, acc := .w1c }
/-- REFILL_DONE [6] of R385. -/
def Surv.refillDone : Field := { addr := 0x3F00000A0000 + 0x68, lo := 6, width := 1, acc := .w1c }
/-- MGMT_BAD [31:0] of R385. -/
def Surv.mgmtBad : Field := { addr := 0x3F00000A0000 + 0x70, lo := 0, width := 32 }
/-- VALID [0] of R385. -/
def Surv.valid (k : Nat) : Field := { addr := 0x3F00000A0000 + 0x100 + 0x20 * k, lo := 0, width := 1 }
/-- NAVOID [4:1] of R385. -/
def Surv.navoid (k : Nat) : Field := { addr := 0x3F00000A0000 + 0x100 + 0x20 * k, lo := 1, width := 4 }
/-- AVOID0 [19:0] of R385. -/
def Surv.avoid0 (k : Nat) : Field := { addr := 0x3F00000A0000 + 0x108 + 0x20 * k, lo := 0, width := 20 }
/-- AVOID1 [39:20] of R385. -/
def Surv.avoid1 (k : Nat) : Field := { addr := 0x3F00000A0000 + 0x108 + 0x20 * k, lo := 20, width := 20 }
/-- AVOID2 [59:40] of R385. -/
def Surv.avoid2 (k : Nat) : Field := { addr := 0x3F00000A0000 + 0x108 + 0x20 * k, lo := 40, width := 20 }
/-- AVOID3 [19:0] of R385. -/
def Surv.avoid3 (k : Nat) : Field := { addr := 0x3F00000A0000 + 0x110 + 0x20 * k, lo := 0, width := 20 }
/-- AVOID4 [39:20] of R385. -/
def Surv.avoid4 (k : Nat) : Field := { addr := 0x3F00000A0000 + 0x110 + 0x20 * k, lo := 20, width := 20 }
/-- AVOID5 [59:40] of R385. -/
def Surv.avoid5 (k : Nat) : Field := { addr := 0x3F00000A0000 + 0x110 + 0x20 * k, lo := 40, width := 20 }
/-- AVOID6 [19:0] of R385. -/
def Surv.avoid6 (k : Nat) : Field := { addr := 0x3F00000A0000 + 0x118 + 0x20 * k, lo := 0, width := 20 }
/-- AVOID7 [39:20] of R385. -/
def Surv.avoid7 (k : Nat) : Field := { addr := 0x3F00000A0000 + 0x118 + 0x20 * k, lo := 20, width := 20 }
/-- AVOID8 [59:40] of R385. -/
def Surv.avoid8 (k : Nat) : Field := { addr := 0x3F00000A0000 + 0x118 + 0x20 * k, lo := 40, width := 20 }

/-! ### Side: the register block of R470 -/

/-- VERSION [3:0] of R470. -/
def Side.version : Field := { addr := 0x3F00000B0000, lo := 0, width := 4, reset := 1 }
/-- RESET_N_IN [0] of R470. -/
def Side.resetNIn : Field := { addr := 0x3F00000B0000 + 0x8, lo := 0, width := 1, reset := 1, keep := .life }
/-- PWR_EN_IN [1] of R470. -/
def Side.pwrEnIn : Field := { addr := 0x3F00000B0000 + 0x8, lo := 1, width := 1, keep := .life }
/-- PPS_IN_LVL [2] of R470. -/
def Side.ppsInLvl : Field := { addr := 0x3F00000B0000 + 0x8, lo := 2, width := 1, keep := .life }
/-- PWRGD_OUT [8] of R470. -/
def Side.pwrgdOut : Field := { addr := 0x3F00000B0000 + 0x8, lo := 8, width := 1 }
/-- FAULT_OUT [9] of R470. -/
def Side.faultOut : Field := { addr := 0x3F00000B0000 + 0x8, lo := 9, width := 1 }
/-- THERM_OUT [10] of R470. -/
def Side.thermOut : Field := { addr := 0x3F00000B0000 + 0x8, lo := 10, width := 1 }
/-- ALERT_OUT [11] of R470. -/
def Side.alertOut : Field := { addr := 0x3F00000B0000 + 0x8, lo := 11, width := 1 }
/-- ALERT_PEND [0] of R470. -/
def Side.alertPend : Field := { addr := 0x3F00000B0000 + 0x10, lo := 0, width := 1, acc := .w1c }
/-- ALERT_COUNT [63:0] of R470. -/
def Side.alertCount : Field := { addr := 0x3F00000B0000 + 0x18, lo := 0, width := 64 }
/-- FAULT_CAUSE [3:0] of R470. -/
def Side.faultCause : Field := { addr := 0x3F00000B0000 + 0x20, lo := 0, width := 4, keep := .warm }
/-- FAULT_ACK [4] of R470. -/
def Side.faultAck : Field := { addr := 0x3F00000B0000 + 0x20, lo := 4, width := 1, acc := .wo }
/-- SMB_ADDR [6:0] of R470. -/
def Side.smbAddr : Field := { addr := 0x3F00000B0000 + 0x28, lo := 0, width := 7, acc := .rw, reset := 98, keep := .warm, chk := .range 0x08 0x77 }
/-- IDCODE [31:0] of R470. -/
def Side.idcode : Field := { addr := 0x3F00000B0000 + 0x30, lo := 0, width := 32, reset := 353503851 }

/-! ### Pwr: the register block of R471 -/

/-- VERSION [3:0] of R471. -/
def Pwr.version : Field := { addr := 0x3F00000C0000, lo := 0, width := 4, reset := 1 }
/-- VIN [15:0] of R471. -/
def Pwr.vin : Field := { addr := 0x3F00000C0000 + 0x8, lo := 0, width := 16, reset := 40000, keep := .life }
/-- IIN [31:16] of R471. -/
def Pwr.iin : Field := { addr := 0x3F00000C0000 + 0x8, lo := 16, width := 16, keep := .life }
/-- PIN [42:32] of R471. -/
def Pwr.pin : Field := { addr := 0x3F00000C0000 + 0x8, lo := 32, width := 11, keep := .life }
/-- PIN_AVG [53:43] of R471. -/
def Pwr.pinAvg : Field := { addr := 0x3F00000C0000 + 0x8, lo := 43, width := 11, keep := .life }
/-- P_LIMIT [10:0] of R471. -/
def Pwr.pLimit : Field := { addr := 0x3F00000C0000 + 0x10, lo := 0, width := 11, acc := .rw, reset := 1500, chk := .range 1200 1500 }
/-- T_THROTTLE [18:11] of R471. -/
def Pwr.tThrottle : Field := { addr := 0x3F00000C0000 + 0x10, lo := 11, width := 8, acc := .rw, reset := 95, chk := .range 80 100 }
/-- HOST_VMAX [30:19] of R471. -/
def Pwr.hostVmax : Field := { addr := 0x3F00000C0000 + 0x10, lo := 19, width := 12, acc := .rw, reset := 850, chk := .rangeMult 600 850 5 }
/-- T_HOT [15:0] of R471. -/
def Pwr.tHot : Field := { addr := 0x3F00000C0000 + 0x18, lo := 0, width := 16, keep := .life }
/-- T_HOT_UNIT [22:16] of R471. -/
def Pwr.tHotUnit : Field := { addr := 0x3F00000C0000 + 0x18, lo := 16, width := 7, keep := .life }
/-- COOL_IN [15:0] of R471. -/
def Pwr.coolIn : Field := { addr := 0x3F00000C0000 + 0x20, lo := 0, width := 16, keep := .life }
/-- COOL_OUT [31:16] of R471. -/
def Pwr.coolOut : Field := { addr := 0x3F00000C0000 + 0x20, lo := 16, width := 16, keep := .life }
/-- PLIMIT_EVT [0] of R471. -/
def Pwr.plimitEvt : Field := { addr := 0x3F00000C0000 + 0x28, lo := 0, width := 1, acc := .w1c }
/-- THERM_EVT [1] of R471. -/
def Pwr.thermEvt : Field := { addr := 0x3F00000C0000 + 0x28, lo := 1, width := 1, acc := .w1c }
/-- TRIP_EVT [2] of R471. -/
def Pwr.tripEvt : Field := { addr := 0x3F00000C0000 + 0x28, lo := 2, width := 1, acc := .w1c, keep := .warm }
/-- SUPPLY_EVT [3] of R471. -/
def Pwr.supplyEvt : Field := { addr := 0x3F00000C0000 + 0x28, lo := 3, width := 1, acc := .w1c }
/-- COOL_EVT [4] of R471. -/
def Pwr.coolEvt : Field := { addr := 0x3F00000C0000 + 0x28, lo := 4, width := 1, acc := .w1c }
/-- THROTTLE_NS [63:0] of R471. -/
def Pwr.throttleNs : Field := { addr := 0x3F00000C0000 + 0x30, lo := 0, width := 64 }
/-- TRIPS [31:0] of R471. -/
def Pwr.trips : Field := { addr := 0x3F00000C0000 + 0x38, lo := 0, width := 32, keep := .warm }
/-- VCAP [11:0] of R471. -/
def Pwr.vcap (r : Nat) : Field := { addr := 0x3F00000C0000 + 0x1000 + 0x8 * r, lo := 0, width := 12, reset := 850 }
/-- CAUSE [13:12] of R471. -/
def Pwr.cause (r : Nat) : Field := { addr := 0x3F00000C0000 + 0x1000 + 0x8 * r, lo := 12, width := 2 }

/-! ### Dl: the register block of R411 -/

/-- VERSION [3:0] of R411. -/
def Dl.version : Field := { addr := 0x3F00000D0000, lo := 0, width := 4, reset := 1 }
/-- LINK_STATE [1:0] of R411. -/
def Dl.linkState : Field := { addr := 0x3F00000D0000 + 0x8, lo := 0, width := 2 }
/-- LANE_LOCK [5:2] of R411. -/
def Dl.laneLock : Field := { addr := 0x3F00000D0000 + 0x8, lo := 2, width := 4 }
/-- LINK_EVT [6] of R411. -/
def Dl.linkEvt : Field := { addr := 0x3F00000D0000 + 0x8, lo := 6, width := 1, acc := .w1c }
/-- CW_CORR [63:0] of R411. -/
def Dl.cwCorr : Field := { addr := 0x3F00000D0000 + 0x10, lo := 0, width := 64 }
/-- CW_UNCORR [63:0] of R411. -/
def Dl.cwUncorr : Field := { addr := 0x3F00000D0000 + 0x18, lo := 0, width := 64 }
/-- REPLAYS [63:0] of R411. -/
def Dl.replays : Field := { addr := 0x3F00000D0000 + 0x20, lo := 0, width := 64 }
/-- RETRAINS [31:0] of R411. -/
def Dl.retrains : Field := { addr := 0x3F00000D0000 + 0x28, lo := 0, width := 32 }

/-! ### Ben: the register block of R145 -/

/-- VERSION [3:0] of R145. -/
def Ben.version (b : Nat) : Field := { addr := benchBase b, lo := 0, width := 4, reset := 1 }
/-- PHYS [9:4] of R145. -/
def Ben.phys (b : Nat) : Field := { addr := benchBase b, lo := 4, width := 6, reset := b }
/-- LOGICAL [20:16] of R145. -/
def Ben.logical (b : Nat) : Field := { addr := benchBase b, lo := 16, width := 5, reset := if b % 5 < 4 then 4 * (b / 5) + b % 5 else 0, keep := .life }
/-- LVALID [21] of R145. -/
def Ben.lvalid (b : Nat) : Field := { addr := benchBase b, lo := 21, width := 1, reset := if b % 5 < 4 then 1 else 0, keep := .life }
/-- STATE [2:0] of R145. -/
def Ben.state (b : Nat) : Field := { addr := benchBase b + 0x8, lo := 0, width := 3, reset := if b % 5 < 4 then 0 else 4, keep := .life }
/-- CAUSE [7:4] of R145. -/
def Ben.cause (b : Nat) : Field := { addr := benchBase b + 0x8, lo := 4, width := 4, keep := .life }
/-- FRESET [0] of R145. -/
def Ben.freset (b : Nat) : Field := { addr := benchBase b + 0x10, lo := 0, width := 1, acc := .wo }
/-- STONE_WIN [26:0] of R145. -/
def Ben.stoneWin (b : Nat) : Field := { addr := benchBase b + 0x18, lo := 0, width := 27, reset := 0x1000000 + 0xE00000 * (b % 5) }

/-! ### Stn: the register block of R144 -/

/-- VERSION [3:0] of R144. -/
def Stn.version (b i : Nat) : Field := { addr := stnBase b i, lo := 0, width := 4, reset := 1 }
/-- KIND [7:4] of R144. -/
def Stn.kind (b i : Nat) : Field := { addr := stnBase b i, lo := 4, width := 4, reset := kindCode i }
/-- INDEX [11:8] of R144. -/
def Stn.index (b i : Nat) : Field := { addr := stnBase b i, lo := 8, width := 4, reset := i }
/-- STATE [1:0] of R144. -/
def Stn.state (b i : Nat) : Field := { addr := stnBase b i + 0x8, lo := 0, width := 2 }
/-- RECOMPUTING [2] of R144. -/
def Stn.recomputing (b i : Nat) : Field := { addr := stnBase b i + 0x8, lo := 2, width := 1 }
/-- REFUSED [3] of R144. -/
def Stn.refused (b i : Nat) : Field := { addr := stnBase b i + 0x8, lo := 3, width := 1, acc := .w1c }
/-- TAG_FAULT [4] of R144. -/
def Stn.tagFault (b i : Nat) : Field := { addr := stnBase b i + 0x8, lo := 4, width := 1, acc := .w1c }
/-- CHECK_FAULT [5] of R144. -/
def Stn.checkFault (b i : Nat) : Field := { addr := stnBase b i + 0x8, lo := 5, width := 1, acc := .w1c }
/-- ECC_FAULT [6] of R144. -/
def Stn.eccFault (b i : Nat) : Field := { addr := stnBase b i + 0x8, lo := 6, width := 1, acc := .w1c }
/-- TOKENS_IN [63:0] of R144. -/
def Stn.tokensIn (b i : Nat) : Field := { addr := stnBase b i + 0x10, lo := 0, width := 64 }
/-- TOKENS_OUT [63:0] of R144. -/
def Stn.tokensOut (b i : Nat) : Field := { addr := stnBase b i + 0x18, lo := 0, width := 64 }
/-- EXPECTED [7:0] of R144. -/
def Stn.expected (b i : Nat) : Field := { addr := stnBase b i + 0x20, lo := 0, width := 8 }
/-- SEEN [15:8] of R144. -/
def Stn.seen (b i : Nat) : Field := { addr := stnBase b i + 0x20, lo := 8, width := 8 }
/-- SEEN_LAST [16] of R144. -/
def Stn.seenLast (b i : Nat) : Field := { addr := stnBase b i + 0x20, lo := 16, width := 1 }
/-- PORT [19:17] of R144. -/
def Stn.port (b i : Nat) : Field := { addr := stnBase b i + 0x20, lo := 17, width := 3 }
/-- FAULT_ADDR [47:0] of R144. -/
def Stn.faultAddr (b i : Nat) : Field := { addr := stnBase b i + 0x28, lo := 0, width := 48 }
/-- STREAMS [47:0] of R144. -/
def Stn.streams (b i : Nat) : Field := { addr := stnBase b i + 0x30, lo := 0, width := 48 }
/-- RECOMPUTES [31:0] of R144. -/
def Stn.recomputes (b i : Nat) : Field := { addr := stnBase b i + 0x38, lo := 0, width := 32 }
/-- BUCKET [23:0] of R146. -/
def Stn.anvBucket (b i : Nat) : Field := { addr := stnBase b i + 0x100, lo := 0, width := 24 }
/-- BLOCK [47:24] of R146. -/
def Stn.anvBlock (b i : Nat) : Field := { addr := stnBase b i + 0x100, lo := 24, width := 24 }
/-- SRC [19:0] of R146. -/
def Stn.anvSrc (b i : Nat) : Field := { addr := stnBase b i + 0x108, lo := 0, width := 20 }
/-- DISCARDS [63:0] of R146. -/
def Stn.anvDiscards (b i : Nat) : Field := { addr := stnBase b i + 0x110, lo := 0, width := 64 }
/-- ACTIVE_BANK [0] of R146. -/
def Stn.tmpActiveBank (b i : Nat) : Field := { addr := stnBase b i + 0x100, lo := 0, width := 1 }
/-- SWAP_PENDING [1] of R146. -/
def Stn.tmpSwapPending (b i : Nat) : Field := { addr := stnBase b i + 0x100, lo := 1, width := 1 }
/-- UPROG [15:8] of R146. -/
def Stn.tmpUprog (b i : Nat) : Field := { addr := stnBase b i + 0x100, lo := 8, width := 8 }
/-- SLOTS [23:16] of R146. -/
def Stn.tmpSlots (b i : Nat) : Field := { addr := stnBase b i + 0x100, lo := 16, width := 8 }
/-- PSET [47:0] of R146. -/
def Stn.qnPset (b i : Nat) : Field := { addr := stnBase b i + 0x100, lo := 0, width := 48 }
/-- FM_BADIDX [31:0] of R146. -/
def Stn.fmBadidx (b i : Nat) : Field := { addr := stnBase b i + 0x100, lo := 0, width := 32 }
/-- FM_SKIPS [63:0] of R146. -/
def Stn.fmSkips (b i : Nat) : Field := { addr := stnBase b i + 0x108, lo := 0, width := 64 }
/-- HD_SELECTED [63:0] of R146. -/
def Stn.hdSelected (b i : Nat) : Field := { addr := stnBase b i + 0x100, lo := 0, width := 64 }
/-- HD_DROPPED [63:0] of R146. -/
def Stn.hdDropped (b i : Nat) : Field := { addr := stnBase b i + 0x108, lo := 0, width := 64 }
/-- WAYS [4:0] of R146. -/
def Stn.galWays (b i : Nat) : Field := { addr := stnBase b i + 0x100, lo := 0, width := 5 }
/-- PASSES [63:0] of R146. -/
def Stn.galPasses (b i : Nat) : Field := { addr := stnBase b i + 0x108, lo := 0, width := 64 }
/-- FMT_A [4:0] of R146. -/
def Stn.plFmtA (b i : Nat) : Field := { addr := stnBase b i + 0x100, lo := 0, width := 5 }
/-- FMT_X [12:8] of R146. -/
def Stn.plFmtX (b i : Nat) : Field := { addr := stnBase b i + 0x100, lo := 8, width := 5 }
/-- DIGEST_LO [63:0] of R146. -/
def Stn.prfDigestLo (b i : Nat) : Field := { addr := stnBase b i + 0x100, lo := 0, width := 64 }
/-- DIGEST_HI [63:0] of R146. -/
def Stn.prfDigestHi (b i : Nat) : Field := { addr := stnBase b i + 0x108, lo := 0, width := 64 }
/-- ITEMS [63:0] of R146. -/
def Stn.prfItems (b i : Nat) : Field := { addr := stnBase b i + 0x110, lo := 0, width := 64 }

/-! ### Conv: the register block of R93 -/

/-- COUNT [63:0] of R93. -/
def Conv.count (b f k : Nat) : Field := { addr := benchBase b + 0xE000 + 0x40 * f + 8 * k, lo := 0, width := 64 }

/-! ### Rgn: the register block of R46 -/

/-- VERSION [3:0] of R46. -/
def Rgn.version (r : Nat) : Field := { addr := rgnBase r, lo := 0, width := 4, reset := 1 }
/-- TYPE [7:4] of R46. -/
def Rgn.typeF (r : Nat) : Field := { addr := rgnBase r, lo := 4, width := 4, reset := rgnType r }
/-- NUMBER [15:8] of R46. -/
def Rgn.number (r : Nat) : Field := { addr := rgnBase r, lo := 8, width := 8, reset := rgnNumber r }
/-- VSET [11:0] of R46. -/
def Rgn.vset (r : Nat) : Field := { addr := rgnBase r + 0x8, lo := 0, width := 12, acc := .rw, reset := 750, chk := .rangeMult 600 850 5 }
/-- VREAD [23:12] of R46. -/
def Rgn.vread (r : Nat) : Field := { addr := rgnBase r + 0x8, lo := 12, width := 12, keep := .life }
/-- SLEWING [24] of R46. -/
def Rgn.slewing (r : Nat) : Field := { addr := rgnBase r + 0x8, lo := 24, width := 1 }
/-- APPLIED [3:0] of R46. -/
def Rgn.applied (r : Nat) : Field := { addr := rgnBase r + 0x10, lo := 0, width := 4, reset := 4 }
/-- FLOOR [7:4] of R46. -/
def Rgn.floor (r : Nat) : Field := { addr := rgnBase r + 0x10, lo := 4, width := 4, keep := .life }
/-- OVERRIDE [11:8] of R46. -/
def Rgn.override (r : Nat) : Field := { addr := rgnBase r + 0x10, lo := 8, width := 4, acc := .rw }
/-- OVR_EN [12] of R46. -/
def Rgn.ovrEn (r : Nat) : Field := { addr := rgnBase r + 0x10, lo := 12, width := 1, acc := .rw }
/-- BAND [15:13] of R46. -/
def Rgn.band (r : Nat) : Field := { addr := rgnBase r + 0x10, lo := 13, width := 3 }
/-- MARGIN_EXHAUSTED [16] of R46. -/
def Rgn.marginExhausted (r : Nat) : Field := { addr := rgnBase r + 0x10, lo := 16, width := 1, acc := .w1c }
/-- CODE_b [4b+3:4b] of R46. -/
def Rgn.code (r t : Nat) : Field := { addr := rgnBase r + 0x18, lo := 4 * t, width := 4, acc := .rw, reset := 4, keep := .life }
/-- FAILS [31:0] of R46. -/
def Rgn.fails (r : Nat) : Field := { addr := rgnBase r + 0x20, lo := 0, width := 32 }
/-- CAPTURES [63:32] of R46. -/
def Rgn.captures (r : Nat) : Field := { addr := rgnBase r + 0x20, lo := 32, width := 32 }
/-- TEMP [15:0] of R46. -/
def Rgn.temp (r : Nat) : Field := { addr := rgnBase r + 0x28, lo := 0, width := 16, keep := .life }
/-- SLOW_MULT [47:32] of R46. -/
def Rgn.slowMult (r : Nat) : Field := { addr := rgnBase r + 0x28, lo := 32, width := 16, reset := 1 }
/-- EVENT [47:0] of R46. -/
def Rgn.event (r : Nat) : Field := { addr := rgnBase r + 0x30, lo := 0, width := 48, keep := .warm }
/-- STATE [49:48] of R46. -/
def Rgn.state (r : Nat) : Field := { addr := rgnBase r + 0x30, lo := 48, width := 2, reset := rgnStateReset r }

/-! ### Cmp: the register block of R178 -/

/-- PC [14:0] of R178. -/
def Cmp.pc (b : Nat) : Field := { addr := stnBase b 15 + 0x100, lo := 0, width := 15 }
/-- ACTIVE_BANK [15] of R178. -/
def Cmp.activeBank (b : Nat) : Field := { addr := stnBase b 15 + 0x100, lo := 15, width := 1 }
/-- SWAP_PENDING [16] of R178. -/
def Cmp.swapPending (b : Nat) : Field := { addr := stnBase b 15 + 0x100, lo := 16, width := 1 }
/-- SHADOW_VALID [17] of R178. -/
def Cmp.shadowValid (b : Nat) : Field := { addr := stnBase b 15 + 0x100, lo := 17, width := 1 }
/-- WAIT_KIND [2:0] of R178. -/
def Cmp.waitKind (b : Nat) : Field := { addr := stnBase b 15 + 0x108, lo := 0, width := 3 }
/-- WAIT_STN [6:3] of R178. -/
def Cmp.waitStn (b : Nat) : Field := { addr := stnBase b 15 + 0x108, lo := 3, width := 4 }
/-- WAIT_HANDLE [16:7] of R178. -/
def Cmp.waitHandle (b : Nat) : Field := { addr := stnBase b 15 + 0x108, lo := 7, width := 10 }
/-- WAIT_INDEX [40:17] of R178. -/
def Cmp.waitIndex (b : Nat) : Field := { addr := stnBase b 15 + 0x108, lo := 17, width := 24 }
/-- WAIT_MASK [48:41] of R178. -/
def Cmp.waitMask (b : Nat) : Field := { addr := stnBase b 15 + 0x108, lo := 41, width := 8 }
/-- INSTRET [63:0] of R178. -/
def Cmp.instret (b : Nat) : Field := { addr := stnBase b 15 + 0x110, lo := 0, width := 64 }
/-- BAD_WORD [31:0] of R178. -/
def Cmp.badWord (b : Nat) : Field := { addr := stnBase b 15 + 0x118, lo := 0, width := 32 }
/-- BAD_PC [46:32] of R178. -/
def Cmp.badPc (b : Nat) : Field := { addr := stnBase b 15 + 0x118, lo := 32, width := 15 }
/-- ENTRY [14:0] of R178. -/
def Cmp.entry (b : Nat) : Field := { addr := stnBase b 15 + 0x120, lo := 0, width := 15, acc := .rw, chk := .mult 4 }
/-- DMEM_CORR [31:0] of R178. -/
def Cmp.dmemCorr (b : Nat) : Field := { addr := stnBase b 15 + 0x128, lo := 0, width := 32 }
/-- IMEM_CORR [63:32] of R178. -/
def Cmp.imemCorr (b : Nat) : Field := { addr := stnBase b 15 + 0x128, lo := 32, width := 32 }
/-- MON_ARMED [7:0] of R178. -/
def Cmp.monArmed (b : Nat) : Field := { addr := stnBase b 15 + 0x130, lo := 0, width := 8 }
/-- MON_FIRED [15:8] of R178. -/
def Cmp.monFired (b : Nat) : Field := { addr := stnBase b 15 + 0x130, lo := 8, width := 8 }
/-- FEATn [63:0] of R178. -/
def Cmp.feat (b n : Nat) : Field := { addr := stnBase b 15 + 0x180 + 0x8 * n, lo := 0, width := 64 }
/-- Gr [31:0] of R178. -/
def Cmp.gr (b r : Nat) : Field := { addr := stnBase b 15 + 0x200 + 0x8 * r, lo := 0, width := 32 }
/-- QUEUE_BASE [23:0] of R166, R178. -/
def Cmp.queueBase (b q : Nat) : Field := { addr := stnBase b 15 + 0x400 + 0x8 * q, lo := 0, width := 24, acc := .rw, chk := .mult 32 }
/-- QUEUE_SLOTS [32:24] of R166, R178. -/
def Cmp.queueSlots (b q : Nat) : Field := { addr := stnBase b 15 + 0x400 + 0x8 * q, lo := 24, width := 9, acc := .rw, chk := .range 0 256 }
/-- QUEUE_SLOTB [40:33] of R166, R178. -/
def Cmp.queueSlotb (b q : Nat) : Field := { addr := stnBase b 15 + 0x400 + 0x8 * q, lo := 33, width := 8, acc := .rw, chk := .range 1 192 }

/-! ### Mc: the register block of R354 -/

/-- VERSION [3:0] of R354. -/
def Mc.version (n : Nat) : Field := { addr := forgeBase n + 0x800000, lo := 0, width := 4, reset := 1 }
/-- SPARE_EN [0] of R354. -/
def Mc.spareEn (n : Nat) : Field := { addr := forgeBase n + 0x800000 + 0x8, lo := 0, width := 1, acc := .rw, reset := 1, stop := true }
/-- RET_CH [6:1] of R354. -/
def Mc.retCh (n : Nat) : Field := { addr := forgeBase n + 0x800000 + 0x8, lo := 1, width := 6, reset := 63, keep := .life }
/-- MIGRATING [7] of R354. -/
def Mc.migrating (n : Nat) : Field := { addr := forgeBase n + 0x800000 + 0x8, lo := 7, width := 1 }
/-- MIG_PTR [33:8] of R354. -/
def Mc.migPtr (n : Nat) : Field := { addr := forgeBase n + 0x800000 + 0x8, lo := 8, width := 26 }
/-- SCRUB_HOURS [7:0] of R354. -/
def Mc.scrubHours (n : Nat) : Field := { addr := forgeBase n + 0x800000 + 0x10, lo := 0, width := 8, acc := .rw, reset := 24, chk := .range 1 168 }
/-- CORR_LIMIT [31:16] of R354. -/
def Mc.corrLimit (n : Nat) : Field := { addr := forgeBase n + 0x800000 + 0x10, lo := 16, width := 16, acc := .rw, reset := 1024, chk := .range 1 65535 }
/-- POISON_ADDR [47:0] of R354. -/
def Mc.poisonAddr (n : Nat) : Field := { addr := forgeBase n + 0x800000 + 0x18, lo := 0, width := 48 }
/-- CORR_EVT [0] of R354. -/
def Mc.corrEvt (n : Nat) : Field := { addr := forgeBase n + 0x800000 + 0x20, lo := 0, width := 1, acc := .w1c }
/-- UNCORR_EVT [1] of R354. -/
def Mc.uncorrEvt (n : Nat) : Field := { addr := forgeBase n + 0x800000 + 0x20, lo := 1, width := 1, acc := .w1c }
/-- RETIRE_EVT [2] of R354. -/
def Mc.retireEvt (n : Nat) : Field := { addr := forgeBase n + 0x800000 + 0x20, lo := 2, width := 1, acc := .w1c }
/-- NO_SPARE [3] of R354. -/
def Mc.noSpare (n : Nat) : Field := { addr := forgeBase n + 0x800000 + 0x20, lo := 3, width := 1, acc := .w1c }
/-- CORR [31:0] of R354. -/
def Mc.corr (n c : Nat) : Field := { addr := forgeBase n + 0x800000 + 0x100 + 0x20 * c, lo := 0, width := 32 }
/-- UNCORR [63:32] of R354. -/
def Mc.uncorr (n c : Nat) : Field := { addr := forgeBase n + 0x800000 + 0x100 + 0x20 * c, lo := 32, width := 32 }
/-- LINK_CORR [63:0] of R354. -/
def Mc.linkCorr (n c : Nat) : Field := { addr := forgeBase n + 0x800000 + 0x108 + 0x20 * c, lo := 0, width := 64 }
/-- SCRUB_PASSES [31:0] of R354. -/
def Mc.scrubPasses (n c : Nat) : Field := { addr := forgeBase n + 0x800000 + 0x110 + 0x20 * c, lo := 0, width := 32 }
/-- RETIRED [32] of R354. -/
def Mc.retired (n c : Nat) : Field := { addr := forgeBase n + 0x800000 + 0x110 + 0x20 * c, lo := 32, width := 1, keep := .life }

/-! ### Sc: the register block of R355 -/

/-- VERSION [3:0] of R355. -/
def Sc.version (n : Nat) : Field := { addr := forgeBase n + 0x900000, lo := 0, width := 4, reset := 1 }
/-- STONE_SCRUB_MIN [31:16] of R355. -/
def Sc.stoneScrubMin (n : Nat) : Field := { addr := forgeBase n + 0x900000, lo := 16, width := 16, acc := .rw, reset := 60, chk := .range 1 65535 }
/-- CORR [31:0] of R355. -/
def Sc.corr (n : Nat) : Field := { addr := forgeBase n + 0x900000 + 0x8, lo := 0, width := 32 }
/-- UNCORR [63:32] of R355. -/
def Sc.uncorr (n : Nat) : Field := { addr := forgeBase n + 0x900000 + 0x8, lo := 32, width := 32 }
/-- LAST_OFF [26:0] of R355. -/
def Sc.lastOff (n : Nat) : Field := { addr := forgeBase n + 0x900000 + 0x10, lo := 0, width := 27 }

/-! ### Sl: the register block of R310 -/

/-- VERSION [3:0] of R310. -/
def Sl.version (n : Nat) : Field := { addr := forgeBase n + 0xA00000, lo := 0, width := 4, reset := 1 }
/-- DELIVERED [63:0] of R310. -/
def Sl.delivered (n : Nat) : Field := { addr := forgeBase n + 0xA00000 + 0x8, lo := 0, width := 64 }
/-- INJECTED [63:0] of R310. -/
def Sl.injected (n : Nat) : Field := { addr := forgeBase n + 0xA00000 + 0x10, lo := 0, width := 64 }
/-- STAGING_USED [23:0] of R310. -/
def Sl.stagingUsed (n : Nat) : Field := { addr := forgeBase n + 0xA00000 + 0x18, lo := 0, width := 24 }
/-- STAGING_MAX [47:24] of R310. -/
def Sl.stagingMax (n : Nat) : Field := { addr := forgeBase n + 0xA00000 + 0x18, lo := 24, width := 24 }
/-- MIR_RX_REFUSED [63:0] of R310. -/
def Sl.mirRxRefused (n : Nat) : Field := { addr := forgeBase n + 0xA00000 + 0x20, lo := 0, width := 64 }

/-! ### Oct: the register block of R332 -/

/-- VERSION [3:0] of R332. -/
def Oct.version (j : Nat) : Field := { addr := octBase j, lo := 0, width := 4, reset := 1 }
/-- MODE [5:4] of R332. -/
def Oct.mode (j : Nat) : Field := { addr := octBase j, lo := 4, width := 2, acc := .rw, reset := 3, stop := true }
/-- FAIL_THRESH [31:0] of R332. -/
def Oct.failThresh (j : Nat) : Field := { addr := octBase j + 0x8, lo := 0, width := 32, acc := .rw, reset := 4096 }
/-- PCP_v [3v+2 : 3v] of R332. -/
def Oct.pcp (j v : Nat) : Field := { addr := octBase j + 0x10, lo := 3 * v, width := 3, acc := .rw, stop := true }
/-- DSCP_v [6v+23 : 6v+18] of R332. -/
def Oct.dscp (j v : Nat) : Field := { addr := octBase j + 0x10, lo := 6 * v + 18, width := 6, acc := .rw, stop := true }
/-- EN [0] of R332. -/
def Oct.ctxEn (j k : Nat) : Field := { addr := octBase j + 0x100 + 0x80 * k, lo := 0, width := 1, acc := .rw, stop := true }
/-- CARRIED [1] of R332. -/
def Oct.ctxCarried (j k : Nat) : Field := { addr := octBase j + 0x100 + 0x80 * k, lo := 1, width := 1, acc := .rw, stop := true }
/-- STATE [2:0] of R332. -/
def Oct.ctxState (j k : Nat) : Field := { addr := octBase j + 0x108 + 0x80 * k, lo := 0, width := 3 }
/-- WIDTH [6:3] of R332. -/
def Oct.ctxWidth (j k : Nat) : Field := { addr := octBase j + 0x108 + 0x80 * k, lo := 3, width := 4 }
/-- LANES [14:7] of R332. -/
def Oct.ctxLanes (j k : Nat) : Field := { addr := octBase j + 0x108 + 0x80 * k, lo := 7, width := 8 }
/-- REASON [19:15] of R332. -/
def Oct.ctxReason (j k : Nat) : Field := { addr := octBase j + 0x108 + 0x80 * k, lo := 15, width := 5 }
/-- LINK_EVT [20] of R332. -/
def Oct.ctxLinkEvt (j k : Nat) : Field := { addr := octBase j + 0x108 + 0x80 * k, lo := 20, width := 1, acc := .w1c }
/-- DOWN_EVT [21] of R332. -/
def Oct.ctxDownEvt (j k : Nat) : Field := { addr := octBase j + 0x108 + 0x80 * k, lo := 21, width := 1, acc := .w1c }
/-- NARROWED [22] of R332. -/
def Oct.ctxNarrowed (j k : Nat) : Field := { addr := octBase j + 0x108 + 0x80 * k, lo := 22, width := 1, acc := .w1c }
/-- RTT_EVT [23] of R332. -/
def Oct.ctxRttEvt (j k : Nat) : Field := { addr := octBase j + 0x108 + 0x80 * k, lo := 23, width := 1, acc := .w1c }
/-- LAST_DROP [26:24] of R332. -/
def Oct.ctxLastDrop (j k : Nat) : Field := { addr := octBase j + 0x108 + 0x80 * k, lo := 24, width := 3 }
/-- PEER_ID [19:0] of R332. -/
def Oct.ctxPeerId (j k : Nat) : Field := { addr := octBase j + 0x110 + 0x80 * k, lo := 0, width := 20, reset := 1048575 }
/-- PEER_CTX [28:20] of R332. -/
def Oct.ctxPeerCtx (j k : Nat) : Field := { addr := octBase j + 0x110 + 0x80 * k, lo := 20, width := 9 }
/-- MEAS_RTT [31:0] of R332. -/
def Oct.ctxMeasRtt (j k : Nat) : Field := { addr := octBase j + 0x118 + 0x80 * k, lo := 0, width := 32 }
/-- FEC_CORR [63:0] of R332. -/
def Oct.ctxFecCorr (j k : Nat) : Field := { addr := octBase j + 0x120 + 0x80 * k, lo := 0, width := 64 }
/-- FEC_UNCORR [63:0] of R332. -/
def Oct.ctxFecUncorr (j k : Nat) : Field := { addr := octBase j + 0x128 + 0x80 * k, lo := 0, width := 64 }
/-- CTRL_BAD [31:0] of R332. -/
def Oct.ctxCtrlBad (j k : Nat) : Field := { addr := octBase j + 0x130 + 0x80 * k, lo := 0, width := 32 }
/-- NOBUF_DROPS [63:32] of R332. -/
def Oct.ctxNobufDrops (j k : Nat) : Field := { addr := octBase j + 0x130 + 0x80 * k, lo := 32, width := 32 }
/-- CARRIED_DROPS [63:0] of R332. -/
def Oct.ctxCarriedDrops (j k : Nat) : Field := { addr := octBase j + 0x138 + 0x80 * k, lo := 0, width := 64 }
/-- DMAC [47:0] of R332. -/
def Oct.ctxDmac (j k : Nat) : Field := { addr := octBase j + 0x140 + 0x80 * k, lo := 0, width := 48, acc := .rw, stop := true }
/-- SMAC [47:0] of R332. -/
def Oct.ctxSmac (j k : Nat) : Field := { addr := octBase j + 0x148 + 0x80 * k, lo := 0, width := 48, acc := .rw, stop := true }
/-- VID [11:0] of R332. -/
def Oct.ctxVid (j k : Nat) : Field := { addr := octBase j + 0x150 + 0x80 * k, lo := 0, width := 12, acc := .rw, stop := true }
/-- TAG_EN [12] of R332. -/
def Oct.ctxTagEn (j k : Nat) : Field := { addr := octBase j + 0x150 + 0x80 * k, lo := 12, width := 1, acc := .rw, stop := true }
/-- HOPLIM [20:13] of R332. -/
def Oct.ctxHoplim (j k : Nat) : Field := { addr := octBase j + 0x150 + 0x80 * k, lo := 13, width := 8, acc := .rw, reset := 64, stop := true, chk := .range 1 255 }
/-- UDP_DST [36:21] of R332. -/
def Oct.ctxUdpDst (j k : Nat) : Field := { addr := octBase j + 0x150 + 0x80 * k, lo := 21, width := 16, acc := .rw, stop := true }
/-- CARRY_RATE [47:37] of R332. -/
def Oct.ctxCarryRate (j k : Nat) : Field := { addr := octBase j + 0x150 + 0x80 * k, lo := 37, width := 11, acc := .rw, reset := 200, stop := true, chk := .range 1 1600 }
/-- LOCAL_IP6_LO [63:0] of R332. -/
def Oct.ctxLocalIp6Lo (j k : Nat) : Field := { addr := octBase j + 0x158 + 0x80 * k, lo := 0, width := 64, acc := .rw, stop := true }
/-- LOCAL_IP6_HI [63:0] of R332. -/
def Oct.ctxLocalIp6Hi (j k : Nat) : Field := { addr := octBase j + 0x160 + 0x80 * k, lo := 0, width := 64, acc := .rw, stop := true }
/-- REMOTE_IP6_LO [63:0] of R332. -/
def Oct.ctxRemoteIp6Lo (j k : Nat) : Field := { addr := octBase j + 0x168 + 0x80 * k, lo := 0, width := 64, acc := .rw, stop := true }
/-- REMOTE_IP6_HI [63:0] of R332. -/
def Oct.ctxRemoteIp6Hi (j k : Nat) : Field := { addr := octBase j + 0x170 + 0x80 * k, lo := 0, width := 64, acc := .rw, stop := true }
/-- TX_INV [0] of R332. -/
def Oct.laneTxInv (j l : Nat) : Field := { addr := octBase j + 0x800 + 0x10 * l, lo := 0, width := 1, acc := .rw, stop := true }
/-- RX_INV [1] of R332. -/
def Oct.laneRxInv (j l : Nat) : Field := { addr := octBase j + 0x800 + 0x10 * l, lo := 1, width := 1, acc := .rw, stop := true }
/-- LOCK [2] of R332. -/
def Oct.laneLock (j l : Nat) : Field := { addr := octBase j + 0x800 + 0x10 * l, lo := 2, width := 1 }
/-- FAILED [3] of R332. -/
def Oct.laneFailed (j l : Nat) : Field := { addr := octBase j + 0x800 + 0x10 * l, lo := 3, width := 1 }
/-- RETIRED [4] of R332. -/
def Oct.laneRetired (j l : Nat) : Field := { addr := octBase j + 0x800 + 0x10 * l, lo := 4, width := 1, keep := .life }
/-- SYM_CORR [63:0] of R332. -/
def Oct.laneSymCorr (j l : Nat) : Field := { addr := octBase j + 0x808 + 0x10 * l, lo := 0, width := 64 }

/-! ### Pool: the register block of R308 -/

/-- VERSION [3:0] of R308. -/
def Pool.version (m : Nat) : Field := { addr := portDieBase m + 0x400000, lo := 0, width := 4, reset := 1 }
/-- POOL_EVT [0] of R308. -/
def Pool.poolEvt (m : Nat) : Field := { addr := portDieBase m + 0x400000 + 0x8, lo := 0, width := 1, acc := .w1c }
/-- BAD_POOL [10:8] of R308. -/
def Pool.badPool (m : Nat) : Field := { addr := portDieBase m + 0x400000 + 0x8, lo := 8, width := 3 }
/-- BAD_OP [11] of R308. -/
def Pool.badOp (m : Nat) : Field := { addr := portDieBase m + 0x400000 + 0x8, lo := 11, width := 1 }
/-- BAD_PTR [63:32] of R308. -/
def Pool.badPtr (m : Nat) : Field := { addr := portDieBase m + 0x400000 + 0x8, lo := 32, width := 32 }
/-- POOL_POINTERS [63:0] of R308. -/
def Pool.poolPointers (m : Nat) : Field := { addr := portDieBase m + 0x400000 + 0x10, lo := 0, width := 64 }
/-- BASE [25:0] of R308. -/
def Pool.base (m i : Nat) : Field := { addr := portDieBase m + 0x400000 + 0x100 + 0x20 * i, lo := 0, width := 26, acc := .rw, reset := poolBaseReset i, stop := true }
/-- COUNT [49:32] of R308. -/
def Pool.count (m i : Nat) : Field := { addr := portDieBase m + 0x400000 + 0x100 + 0x20 * i, lo := 32, width := 18, acc := .rw, reset := poolCountReset i, stop := true }
/-- FREE [17:0] of R308. -/
def Pool.free (m i : Nat) : Field := { addr := portDieBase m + 0x400000 + 0x108 + 0x20 * i, lo := 0, width := 18, reset := poolCountReset i }
/-- LOW_WATER [49:32] of R308. -/
def Pool.lowWater (m i : Nat) : Field := { addr := portDieBase m + 0x400000 + 0x108 + 0x20 * i, lo := 32, width := 18, reset := poolCountReset i }
/-- CLOSED [63] of R308. -/
def Pool.closed (m i : Nat) : Field := { addr := portDieBase m + 0x400000 + 0x108 + 0x20 * i, lo := 63, width := 1 }
/-- HEAD [31:0] of R308. -/
def Pool.head (m i : Nat) : Field := { addr := portDieBase m + 0x400000 + 0x110 + 0x20 * i, lo := 0, width := 32, reset := poolBaseReset i }
/-- FALLBACKS [63:0] of R308. -/
def Pool.fallbacks (m i : Nat) : Field := { addr := portDieBase m + 0x400000 + 0x118 + 0x20 * i, lo := 0, width := 64 }

/-! ### Tm: the register block of R309 -/

/-- VERSION [3:0] of R309. -/
def Tm.version (m : Nat) : Field := { addr := portDieBase m + 0x500000, lo := 0, width := 4, reset := 1 }
/-- HASH_SEED [63:0] of R309. -/
def Tm.hashSeed (m : Nat) : Field := { addr := portDieBase m + 0x500000 + 0x8, lo := 0, width := 64, acc := .rw, stop := true }
/-- HASH_RH [0] of R309. -/
def Tm.hashRh (m : Nat) : Field := { addr := portDieBase m + 0x500000 + 0x10, lo := 0, width := 1, acc := .rw, stop := true }
/-- SAMPLE_US [23:8] of R309. -/
def Tm.sampleUs (m : Nat) : Field := { addr := portDieBase m + 0x500000 + 0x10, lo := 8, width := 16, acc := .rw, reset := 100, chk := .range 1 65535 }
/-- POLICE_EVT [0] of R309. -/
def Tm.policeEvt (m : Nat) : Field := { addr := portDieBase m + 0x500000 + 0x18, lo := 0, width := 1, acc := .w1c }
/-- MIRROR_DROP_EVT [1] of R309. -/
def Tm.mirrorDropEvt (m : Nat) : Field := { addr := portDieBase m + 0x500000 + 0x18, lo := 1, width := 1, acc := .w1c }
/-- PATH_DOWN_EVT [2] of R309. -/
def Tm.pathDownEvt (m : Nat) : Field := { addr := portDieBase m + 0x500000 + 0x18, lo := 2, width := 1, acc := .w1c }
/-- POLICED_DROPS [63:0] of R309. -/
def Tm.policedDrops (m : Nat) : Field := { addr := portDieBase m + 0x500000 + 0x20, lo := 0, width := 64 }
/-- PATH_DOWN_DROPS [63:0] of R309. -/
def Tm.pathDownDrops (m : Nat) : Field := { addr := portDieBase m + 0x500000 + 0x28, lo := 0, width := 64 }
/-- CUT_ABORTS [63:0] of R309. -/
def Tm.cutAborts (m : Nat) : Field := { addr := portDieBase m + 0x500000 + 0x30, lo := 0, width := 64 }
/-- SHARE [7:0] of R309. -/
def Tm.share (m c : Nat) : Field := { addr := portDieBase m + 0x500000 + 0x1000 + 0x80 * c, lo := 0, width := 8, acc := .rw, reset := 192, stop := true, chk := .range 0 192 }
/-- QUANTUM_v [16(v−1)+15 : 16(v−1)] of R309. -/
def Tm.quantum (m c v : Nat) : Field := { addr := portDieBase m + 0x500000 + 0x1008 + 0x80 * c, lo := 16 * (v - 1), width := 16, acc := .rw, reset := if v = 2 then 16896 else if v = 4 then 2048 else 8448, chk := .range 256 65535 }
/-- QUANTUM_5 [15:0] of R309. -/
def Tm.quantum5 (m c : Nat) : Field := { addr := portDieBase m + 0x500000 + 0x1010 + 0x80 * c, lo := 0, width := 16, acc := .rw, reset := 8448, chk := .range 256 65535 }
/-- CUT_THROUGH [63:0] of R309. -/
def Tm.cutThrough (m c : Nat) : Field := { addr := portDieBase m + 0x500000 + 0x1018 + 0x80 * c, lo := 0, width := 64 }
/-- STORE_FWD [63:0] of R309. -/
def Tm.storeFwd (m c : Nat) : Field := { addr := portDieBase m + 0x500000 + 0x1020 + 0x80 * c, lo := 0, width := 64 }
/-- DEPTH [31:0] of R309. -/
def Tm.qDepth (m c v : Nat) : Field := { addr := portDieBase m + 0x500000 + 0x8000 + 0x20 * (5 * c + v - 1), lo := 0, width := 32 }
/-- DEPTH_MAX [63:32] of R309. -/
def Tm.qDepthMax (m c v : Nat) : Field := { addr := portDieBase m + 0x500000 + 0x8000 + 0x20 * (5 * c + v - 1), lo := 32, width := 32 }
/-- DELAY [31:0] of R309. -/
def Tm.qDelay (m c v : Nat) : Field := { addr := portDieBase m + 0x500000 + 0x8008 + 0x20 * (5 * c + v - 1), lo := 0, width := 32 }
/-- DELAY_MAX [63:32] of R309. -/
def Tm.qDelayMax (m c v : Nat) : Field := { addr := portDieBase m + 0x500000 + 0x8008 + 0x20 * (5 * c + v - 1), lo := 32, width := 32 }
/-- SAMPLE_NO [31:0] of R309. -/
def Tm.qSampleNo (m c v : Nat) : Field := { addr := portDieBase m + 0x500000 + 0x8010 + 0x20 * (5 * c + v - 1), lo := 0, width := 32 }
/-- PKTS [63:32] of R309. -/
def Tm.qPkts (m c v : Nat) : Field := { addr := portDieBase m + 0x500000 + 0x8010 + 0x20 * (5 * c + v - 1), lo := 32, width := 32 }
/-- EN [0] of R309. -/
def Tm.polEn (m i : Nat) : Field := { addr := portDieBase m + 0x500000 + 0x10000 + 0x20 * i, lo := 0, width := 1, acc := .rw }
/-- TYPE [1] of R309. -/
def Tm.polTypeF (m i : Nat) : Field := { addr := portDieBase m + 0x500000 + 0x10000 + 0x20 * i, lo := 1, width := 1, acc := .rw }
/-- AWARE [2] of R309. -/
def Tm.polAware (m i : Nat) : Field := { addr := portDieBase m + 0x500000 + 0x10000 + 0x20 * i, lo := 2, width := 1, acc := .rw }
/-- YACT [3] of R309. -/
def Tm.polYact (m i : Nat) : Field := { addr := portDieBase m + 0x500000 + 0x10000 + 0x20 * i, lo := 3, width := 1, acc := .rw }
/-- RACT [4] of R309. -/
def Tm.polRact (m i : Nat) : Field := { addr := portDieBase m + 0x500000 + 0x10000 + 0x20 * i, lo := 4, width := 1, acc := .rw }
/-- CIR [25:8] of R309. -/
def Tm.polCir (m i : Nat) : Field := { addr := portDieBase m + 0x500000 + 0x10000 + 0x20 * i, lo := 8, width := 18, acc := .rw, reset := 1, chk := .range 1 200000 }
/-- PIR [43:26] of R309. -/
def Tm.polPir (m i : Nat) : Field := { addr := portDieBase m + 0x500000 + 0x10000 + 0x20 * i, lo := 26, width := 18, acc := .rw, reset := 1, chk := .range 1 200000 }
/-- CBS [23:0] of R309. -/
def Tm.polCbs (m i : Nat) : Field := { addr := portDieBase m + 0x500000 + 0x10008 + 0x20 * i, lo := 0, width := 24, acc := .rw, reset := 8232 }
/-- EBS_PBS [47:24] of R309. -/
def Tm.polEbsPbs (m i : Nat) : Field := { addr := portDieBase m + 0x500000 + 0x10008 + 0x20 * i, lo := 24, width := 24, acc := .rw, reset := 8232 }
/-- TC [31:0] of R309. -/
def Tm.polTc (m i : Nat) : Field := { addr := portDieBase m + 0x500000 + 0x10010 + 0x20 * i, lo := 0, width := 32 }
/-- TE_TP [63:32] of R309. -/
def Tm.polTeTp (m i : Nat) : Field := { addr := portDieBase m + 0x500000 + 0x10010 + 0x20 * i, lo := 32, width := 32 }
/-- YELLOW_PKTS [31:0] of R309. -/
def Tm.polYellowPkts (m i : Nat) : Field := { addr := portDieBase m + 0x500000 + 0x10018 + 0x20 * i, lo := 0, width := 32 }
/-- RED_PKTS [63:32] of R309. -/
def Tm.polRedPkts (m i : Nat) : Field := { addr := portDieBase m + 0x500000 + 0x10018 + 0x20 * i, lo := 32, width := 32 }
/-- POL1 [9:0] of R309. -/
def Tm.bindPol1 (m c : Nat) : Field := { addr := portDieBase m + 0x500000 + 0x18000 + 0x8 * c, lo := 0, width := 10, acc := .rw, stop := true }
/-- EN1 [10] of R309. -/
def Tm.bindEn1 (m c : Nat) : Field := { addr := portDieBase m + 0x500000 + 0x18000 + 0x8 * c, lo := 10, width := 1, acc := .rw, stop := true }
/-- POL3 [20:11] of R309. -/
def Tm.bindPol3 (m c : Nat) : Field := { addr := portDieBase m + 0x500000 + 0x18000 + 0x8 * c, lo := 11, width := 10, acc := .rw, stop := true }
/-- EN3 [21] of R309. -/
def Tm.bindEn3 (m c : Nat) : Field := { addr := portDieBase m + 0x500000 + 0x18000 + 0x8 * c, lo := 21, width := 1, acc := .rw, stop := true }
/-- POL5 [31:22] of R309. -/
def Tm.bindPol5 (m c : Nat) : Field := { addr := portDieBase m + 0x500000 + 0x18000 + 0x8 * c, lo := 22, width := 10, acc := .rw, stop := true }
/-- EN5 [32] of R309. -/
def Tm.bindEn5 (m c : Nat) : Field := { addr := portDieBase m + 0x500000 + 0x18000 + 0x8 * c, lo := 32, width := 1, acc := .rw, stop := true }
/-- EN [0] of R309. -/
def Tm.mirEn (m s : Nat) : Field := { addr := portDieBase m + 0x500000 + 0x19000 + 0x40 * s, lo := 0, width := 1, acc := .rw }
/-- DIR [2:1] of R309. -/
def Tm.mirDir (m s : Nat) : Field := { addr := portDieBase m + 0x500000 + 0x19000 + 0x40 * s, lo := 1, width := 2, acc := .rw }
/-- FLOW [3] of R309. -/
def Tm.mirFlow (m s : Nat) : Field := { addr := portDieBase m + 0x500000 + 0x19000 + 0x40 * s, lo := 3, width := 1, acc := .rw }
/-- SRC_PORT [12:4] of R309. -/
def Tm.mirSrcPort (m s : Nat) : Field := { addr := portDieBase m + 0x500000 + 0x19000 + 0x40 * s, lo := 4, width := 9, acc := .rw }
/-- DST_PORT [21:13] of R309. -/
def Tm.mirDstPort (m s : Nat) : Field := { addr := portDieBase m + 0x500000 + 0x19000 + 0x40 * s, lo := 13, width := 9, acc := .rw }
/-- TRUNC [35:22] of R309. -/
def Tm.mirTrunc (m s : Nat) : Field := { addr := portDieBase m + 0x500000 + 0x19000 + 0x40 * s, lo := 22, width := 14, acc := .rw, reset := 8176, chk := .range 64 8176 }
/-- M_SRC [19:0] of R309. -/
def Tm.mirMSrc (m s : Nat) : Field := { addr := portDieBase m + 0x500000 + 0x19008 + 0x40 * s, lo := 0, width := 20, acc := .rw }
/-- M_DST [39:20] of R309. -/
def Tm.mirMDst (m s : Nat) : Field := { addr := portDieBase m + 0x500000 + 0x19008 + 0x40 * s, lo := 20, width := 20, acc := .rw }
/-- M_VC [42:40] of R309. -/
def Tm.mirMVc (m s : Nat) : Field := { addr := portDieBase m + 0x500000 + 0x19008 + 0x40 * s, lo := 40, width := 3, acc := .rw }
/-- USE_SRC [43] of R309. -/
def Tm.mirUseSrc (m s : Nat) : Field := { addr := portDieBase m + 0x500000 + 0x19008 + 0x40 * s, lo := 43, width := 1, acc := .rw }
/-- USE_DST [44] of R309. -/
def Tm.mirUseDst (m s : Nat) : Field := { addr := portDieBase m + 0x500000 + 0x19008 + 0x40 * s, lo := 44, width := 1, acc := .rw }
/-- USE_VC [45] of R309. -/
def Tm.mirUseVc (m s : Nat) : Field := { addr := portDieBase m + 0x500000 + 0x19008 + 0x40 * s, lo := 45, width := 1, acc := .rw }
/-- A_DEV [19:0] of R309. -/
def Tm.mirADev (m s : Nat) : Field := { addr := portDieBase m + 0x500000 + 0x19010 + 0x40 * s, lo := 0, width := 20, acc := .rw }
/-- A_RH [35:20] of R309. -/
def Tm.mirARh (m s : Nat) : Field := { addr := portDieBase m + 0x500000 + 0x19010 + 0x40 * s, lo := 20, width := 16, acc := .rw }
/-- A_SIZE [39:0] of R309. -/
def Tm.mirASize (m s : Nat) : Field := { addr := portDieBase m + 0x500000 + 0x19018 + 0x40 * s, lo := 0, width := 40, acc := .rw, chk := .mult 8192 }
/-- MIR_QMAX [31:0] of R309. -/
def Tm.mirMirQmax (m s : Nat) : Field := { addr := portDieBase m + 0x500000 + 0x19020 + 0x40 * s, lo := 0, width := 32, acc := .rw, reset := 1048576 }
/-- COPIES [63:0] of R309. -/
def Tm.mirCopies (m s : Nat) : Field := { addr := portDieBase m + 0x500000 + 0x19028 + 0x40 * s, lo := 0, width := 64 }
/-- MIR_DROPS [63:0] of R309. -/
def Tm.mirMirDrops (m s : Nat) : Field := { addr := portDieBase m + 0x500000 + 0x19030 + 0x40 * s, lo := 0, width := 64 }
/-- CURSOR [39:0] of R309. -/
def Tm.mirCursor (m s : Nat) : Field := { addr := portDieBase m + 0x500000 + 0x19038 + 0x40 * s, lo := 0, width := 40 }

/-! ### Obs: the register block of R448 -/

/-- VERSION [3:0] of R448. -/
def Obs.version : Field := { addr := 0x3F000D000000, lo := 0, width := 4, reset := 1 }
/-- LATCH_EN [0] of R448. -/
def Obs.latchEn : Field := { addr := 0x3F000D000000 + 0x8, lo := 0, width := 1, acc := .rw }
/-- TRACE_EN [1] of R448. -/
def Obs.traceEn : Field := { addr := 0x3F000D000000 + 0x8, lo := 1, width := 1, acc := .rw }
/-- TRACE_STALL [2] of R448. -/
def Obs.traceStall : Field := { addr := 0x3F000D000000 + 0x8, lo := 2, width := 1, acc := .rw }
/-- TRACE_WRAP [3] of R448. -/
def Obs.traceWrap : Field := { addr := 0x3F000D000000 + 0x8, lo := 3, width := 1, acc := .rw, reset := 1 }
/-- TRACE_DECIM [7:4] of R448. -/
def Obs.traceDecim : Field := { addr := 0x3F000D000000 + 0x8, lo := 4, width := 4, acc := .rw }
/-- TRACE_KINDS [15:8] of R448. -/
def Obs.traceKinds : Field := { addr := 0x3F000D000000 + 0x8, lo := 9, width := 7, acc := .rw }
/-- TRACE_MIB [31:16] of R448. -/
def Obs.traceMib : Field := { addr := 0x3F000D000000 + 0x8, lo := 16, width := 16, acc := .rw, stop := true, chk := .range 1 4096 }
/-- LATCH_COUNT [63:32] of R448. -/
def Obs.latchCount : Field := { addr := 0x3F000D000000 + 0x8, lo := 32, width := 32, acc := .rw, stop := true, chk := .range 1 16777216 }
/-- LATCH_BASE [47:0] of R448. -/
def Obs.latchBase : Field := { addr := 0x3F000D000000 + 0x10, lo := 0, width := 48, acc := .rw, stop := true, chk := .mult 128 }
/-- TRACE_BASE [47:0] of R448. -/
def Obs.traceBase : Field := { addr := 0x3F000D000000 + 0x18, lo := 0, width := 48, acc := .rw, stop := true, chk := .mult 32 }
/-- TRACE_REGIONS_LO [63:0] of R448. -/
def Obs.traceRegionsLo : Field := { addr := 0x3F000D000000 + 0x20, lo := 0, width := 64, acc := .rw }
/-- TRACE_REGIONS_HI [7:0] of R448. -/
def Obs.traceRegionsHi : Field := { addr := 0x3F000D000000 + 0x28, lo := 0, width := 8, acc := .rw }
/-- TRACE_NEXT [63:0] of R448. -/
def Obs.traceNext : Field := { addr := 0x3F000D000000 + 0x30, lo := 0, width := 64 }
/-- TRACE_DROPS [63:0] of R448. -/
def Obs.traceDrops : Field := { addr := 0x3F000D000000 + 0x38, lo := 0, width := 64 }
/-- LATCH_NEXT [63:0] of R448. -/
def Obs.latchNext : Field := { addr := 0x3F000D000000 + 0x40, lo := 0, width := 64 }
/-- BUILD [0] of R448. -/
def Obs.build : Field := { addr := 0x3F000D000000 + 0x48, lo := 0, width := 1, acc := .wo }
/-- GRAPH_CUR [1] of R448. -/
def Obs.graphCur : Field := { addr := 0x3F000D000000 + 0x48, lo := 1, width := 1 }
/-- BUILDING [2] of R448. -/
def Obs.building : Field := { addr := 0x3F000D000000 + 0x48, lo := 2, width := 1 }
/-- HANG_US [63:32] of R448. -/
def Obs.hangUs : Field := { addr := 0x3F000D000000 + 0x48, lo := 32, width := 32, acc := .rw, reset := 100000 }
/-- GRAPH_SEQ [63:0] of R448. -/
def Obs.graphSeq : Field := { addr := 0x3F000D000000 + 0x50, lo := 0, width := 64 }
/-- HANG_EVT [0] of R448. -/
def Obs.hangEvt : Field := { addr := 0x3F000D000000 + 0x58, lo := 0, width := 1, acc := .w1c }
/-- TRACE_FULL [1] of R448. -/
def Obs.traceFull : Field := { addr := 0x3F000D000000 + 0x58, lo := 1, width := 1, acc := .w1c }

/-! ### Elog: the register block of R449 -/

/-- VERSION [3:0] of R449. -/
def Elog.version : Field := { addr := 0x3F000E000000, lo := 0, width := 4, reset := 1, keep := .warm }
/-- NEXT [31:0] of R449. -/
def Elog.next : Field := { addr := 0x3F000E000000 + 0x8, lo := 0, width := 32, keep := .warm }
/-- OLDEST [63:32] of R449. -/
def Elog.oldest : Field := { addr := 0x3F000E000000 + 0x8, lo := 32, width := 32, keep := .warm }
/-- LOG_LOST [63:0] of R449. -/
def Elog.logLost : Field := { addr := 0x3F000E000000 + 0x10, lo := 0, width := 64, keep := .warm }
/-- LOG_EVT [0] of R449. -/
def Elog.logEvt : Field := { addr := 0x3F000E000000 + 0x18, lo := 0, width := 1, acc := .w1c, keep := .warm }
/-- CLASS_COUNT_c [63:0] of R449. -/
def Elog.classCount (c : Nat) : Field := { addr := 0x3F000E000000 + 0x100 + 0x8 * c, lo := 0, width := 64, keep := .warm }

/-! ### Aoc: the always-on counters of R437 -/

/-- ACTIVE_NS of bench b. -/
def Aoc.activeNs (b : Nat) : Field := { addr := 0x3F000D010000 + 0x100 * b, lo := 0, width := 64 }
/-- STALL_NS of bench b. -/
def Aoc.stallNs (b : Nat) : Field := { addr := 0x3F000D010008 + 0x100 * b, lo := 0, width := 64 }
/-- TOKENS of bench b. -/
def Aoc.tokens (b : Nat) : Field := { addr := 0x3F000D010010 + 0x100 * b, lo := 0, width := 64 }
/-- ERRORS of bench b. -/
def Aoc.benchErrors (b : Nat) : Field := { addr := 0x3F000D010018 + 0x100 * b, lo := 0, width := 64 }
/-- WAIT_SINCE of station i of bench b; i = 10 is the Compositor. -/
def Aoc.waitSince (b i : Nat) : Field := { addr := 0x3F000D010040 + 0x100 * b + 8 * min i 10, lo := 0, width := 64 }
/-- TX_BYTES of port context p. -/
def Aoc.txBytes (p : Nat) : Field := { addr := 0x3F000D020000 + 0x40 * p, lo := 0, width := 64 }
/-- RX_BYTES of port context p. -/
def Aoc.rxBytes (p : Nat) : Field := { addr := 0x3F000D020008 + 0x40 * p, lo := 0, width := 64 }
/-- TX_PKTS of port context p. -/
def Aoc.txPkts (p : Nat) : Field := { addr := 0x3F000D020010 + 0x40 * p, lo := 0, width := 64 }
/-- RX_PKTS of port context p. -/
def Aoc.rxPkts (p : Nat) : Field := { addr := 0x3F000D020018 + 0x40 * p, lo := 0, width := 64 }
/-- VC0_NS of port context p. -/
def Aoc.vc0Ns (p : Nat) : Field := { addr := 0x3F000D020020 + 0x40 * p, lo := 0, width := 64 }
/-- ERRORS of port context p. -/
def Aoc.portErrors (p : Nat) : Field := { addr := 0x3F000D020028 + 0x40 * p, lo := 0, width := 64 }
/-- READ_LINES of channel c, numbered 48n + c. -/
def Aoc.readLines (c : Nat) : Field := { addr := 0x3F000D030000 + 0x20 * c, lo := 0, width := 64 }
/-- WRITE_LINES of channel c. -/
def Aoc.writeLines (c : Nat) : Field := { addr := 0x3F000D030008 + 0x20 * c, lo := 0, width := 64 }
/-- BUSY_NS of channel c. -/
def Aoc.chanBusyNs (c : Nat) : Field := { addr := 0x3F000D030010 + 0x20 * c, lo := 0, width := 64 }
/-- ERRORS of channel c. -/
def Aoc.chanErrors (c : Nat) : Field := { addr := 0x3F000D030018 + 0x20 * c, lo := 0, width := 64 }
/-- BYTES_FWD of ring segment s. -/
def Aoc.bytesFwd (s : Nat) : Field := { addr := 0x3F000D040000 + 0x20 * s, lo := 0, width := 64 }
/-- BYTES_REV of ring segment s. -/
def Aoc.bytesRev (s : Nat) : Field := { addr := 0x3F000D040008 + 0x20 * s, lo := 0, width := 64 }
/-- BUSY_NS of ring segment s. -/
def Aoc.ringBusyNs (s : Nat) : Field := { addr := 0x3F000D040010 + 0x20 * s, lo := 0, width := 64 }
/-- ERRORS of ring segment s. -/
def Aoc.ringErrors (s : Nat) : Field := { addr := 0x3F000D040018 + 0x20 * s, lo := 0, width := 64 }

/-- The words of the always-on counters, by offset from 0x3F000D000000 (R437). -/
def Aoc.word (o : Nat) : Option (List Field) :=
  if 0x10000 ≤ o ∧ o < 0x10000 + 0x100 * 40 then
    let b := (o - 0x10000) / 0x100
    let w := o % 0x100
    if w = 0 then some [Aoc.activeNs b] else if w = 8 then some [Aoc.stallNs b]
    else if w = 0x10 then some [Aoc.tokens b] else if w = 0x18 then some [Aoc.benchErrors b]
    else if 0x40 ≤ w ∧ w ≤ 0x90 ∧ w % 8 = 0 then some [Aoc.waitSince b ((w - 0x40) / 8)] else none
  else if 0x20000 ≤ o ∧ o < 0x20000 + 0x40 * 512 then
    let p := (o - 0x20000) / 0x40
    let w := o % 0x40
    if w = 0 then some [Aoc.txBytes p] else if w = 8 then some [Aoc.rxBytes p]
    else if w = 0x10 then some [Aoc.txPkts p] else if w = 0x18 then some [Aoc.rxPkts p]
    else if w = 0x20 then some [Aoc.vc0Ns p] else if w = 0x28 then some [Aoc.portErrors p] else none
  else if 0x30000 ≤ o ∧ o < 0x30000 + 0x20 * 384 then
    let c := (o - 0x30000) / 0x20
    let w := o % 0x20
    if w = 0 then some [Aoc.readLines c] else if w = 8 then some [Aoc.writeLines c]
    else if w = 0x10 then some [Aoc.chanBusyNs c] else if w = 0x18 then some [Aoc.chanErrors c] else none
  else if 0x40000 ≤ o ∧ o < 0x40000 + 0x20 * 24 then
    let s := (o - 0x40000) / 0x20
    let w := o % 0x20
    if w = 0 then some [Aoc.bytesFwd s] else if w = 8 then some [Aoc.bytesRev s]
    else if w = 0x10 then some [Aoc.ringBusyNs s] else if w = 0x18 then some [Aoc.ringErrors s] else none
  else none

/-! ### The words of each block -/

/-- The words of block Feat: the listed offsets, each with the fields that are not reserved; none for a reserved address (R473). -/
def Feat.word (o : Nat) : Option (List Field) :=
  if o = 0x0 then some [Feat.gen, Feat.featVer, Feat.portDies, Feat.forgeDies, Feat.benches, Feat.active, Feat.lanes, Feat.octet, Feat.octModes, Feat.contexts, Feat.laneGbps] else
  if o = 0x8 then some [Feat.channels, Feat.packages, Feat.dieGib, Feat.spareGib, Feat.stoneMib, Feat.mts] else
  if o = 0x10 then some [Feat.flashCh, Feat.impGib, Feat.mailboxes, Feat.impKeepMax, Feat.paramMax, Feat.resultMax, Feat.longCmds] else
  if o = 0x18 then some [Feat.handles, Feat.queues, Feat.imemKib, Feat.dmemKib, Feat.tbankKib, Feat.loopLevels, Feat.monSlots, Feat.inPorts, Feat.outPorts, Feat.logLog2, Feat.traceFifoLog2] else
  if o = 0x20 then some [Feat.layers, Feat.rowSets, Feat.rowTiles, Feat.sketch, Feat.rank, Feat.groups] else
  if o = 0x28 then some [Feat.curvePts, Feat.axes, Feat.grpRecs, Feat.ncollMax, Feat.dirEntries] else
  if o = 0x30 then some [Feat.payload, Feat.unacked, Feat.rhandles, Feat.lhWinMib, Feat.vcs, Feat.routeSets, Feat.avoid] else
  if o = 0x38 then some [Feat.pools, Feat.portBufMib, Feat.policers, Feat.mirrors, Feat.paths, Feat.mcMembers, Feat.fillParMax, Feat.marginMax, Feat.regions, Feat.graphNodesLog2] else
  none

/-- The words of block Cmd: the listed offsets, each with the fields that are not reserved; none for a reserved address (R473). -/
def Cmd.word (o : Nat) : Option (List Field) :=
  if o = 0x0 then some [Cmd.version] else
  if o = 0x8 then some [Cmd.runState, Cmd.routingStopped, Cmd.powerState, Cmd.longActive] else
  if o = 0x10 then some [Cmd.cmds] else
  if o = 0x18 then some [Cmd.notOk] else
  if o = 0x20 then some [Cmd.lastFaultAddr, Cmd.lastFaultOp] else
  if o = 0x28 then some [Cmd.bulkOrphan] else
  if o = 0x30 then some [Cmd.violationEvt, Cmd.hwFaultEvt, Cmd.mbOverwriteEvt] else
  none

/-- The words of block Mb: the listed offsets, each with the fields that are not reserved; none for a reserved address (R473). -/
def Mb.word (m o : Nat) : Option (List Field) :=
  if o = 0x0 then some [Mb.completion m] else
  if o = 0x8 then some [Mb.mbState m] else
  if o = 0x420 then some [] else
  none

/-- The words of block Tb: the listed offsets, each with the fields that are not reserved; none for a reserved address (R473). -/
def Tb.word (o : Nat) : Option (List Field) :=
  if o = 0x0 then some [Tb.count] else
  if o = 0x8 then some [Tb.master, Tb.ppsEn] else
  if o = 0x10 then some [Tb.tbLock, Tb.refLost, Tb.ahead] else
  if o = 0x18 then some [Tb.tbSrc] else
  if o = 0x20 then some [Tb.tbInterval] else
  if o = 0x28 then some [Tb.offset, Tb.delay] else
  if 0x1000 ≤ o ∧ o < 0x1000 + 0x8 * 512 ∧ (o - 0x1000) % 0x8 = 0 then some [Tb.a ((o - 0x1000) / 0x8), Tb.longF ((o - 0x1000) / 0x8)] else
  none

/-- The words of block Sec: the listed offsets, each with the fields that are not reserved; none for a reserved address (R473). -/
def Sec.word (o : Nat) : Option (List Field) :=
  if o = 0x0 then some [Sec.version] else
  if o = 0x8 then some [Sec.activeSlot, Sec.slotAValid, Sec.slotBValid, Sec.bootRecovery, Sec.confirmPending, Sec.keyRevoked, Sec.ownerLock, Sec.svnFloor] else
  if o = 0x10 then some [Sec.fwVersionA, Sec.fwVersionB] else
  if o = 0x18 then some [Sec.mono] else
  if o = 0x20 then some [Sec.calendar] else
  if o = 0x28 then some [Sec.calValid] else
  if o = 0x30 then some [Sec.powerOnS] else
  if o = 0x38 then some [Sec.thermalCycles, Sec.authFails] else
  if o = 0x40 then some [Sec.authEvt, Sec.fwRevertEvt, Sec.ageEvt] else
  if o = 0x48 then some [Sec.ownerNotAfter] else
  if 0x50 ≤ o ∧ o < 0x50 + 0x8 * 6 ∧ (o - 0x50) % 0x8 = 0 then some [Sec.ownerKey ((o - 0x50) / 0x8)] else
  if 0x1000 ≤ o ∧ o < 0x1000 + 0x8 * 85 ∧ (o - 0x1000) % 0x8 = 0 then some [Sec.age ((o - 0x1000) / 0x8)] else
  none

/-- The words of block Ws: the listed offsets, each with the fields that are not reserved; none for a reserved address (R473). -/
def Ws.word (o : Nat) : Option (List Field) :=
  if o = 0x0 then some [Ws.version] else
  if o = 0x8 then some [Ws.ltBase] else
  if o = 0x10 then some [Ws.ltCount] else
  if o = 0x18 then some [Ws.ctBase] else
  if o = 0x20 then some [Ws.fetches] else
  if o = 0x28 then some [Ws.refusals] else
  if o = 0x30 then some [Ws.lastStatus, Ws.lastLayer, Ws.lastSrc] else
  if o = 0x38 then some [Ws.lastStep] else
  if o = 0x40 then some [Ws.reportsDiscarded] else
  if o = 0x48 then some [Ws.waiting, Ws.refusedEvt] else
  none

/-- The words of block Upd: the listed offsets, each with the fields that are not reserved; none for a reserved address (R473). -/
def Upd.word (o : Nat) : Option (List Field) :=
  if o = 0x0 then some [Upd.version] else
  if o = 0x8 then some [Upd.gtBase] else
  if o = 0x10 then some [Upd.gtCount] else
  if o = 0x18 then some [Upd.scBase] else
  if o = 0x20 then some [Upd.clipMode, Upd.clipMax] else
  if o = 0x28 then some [Upd.committed] else
  if o = 0x30 then some [Upd.normCur, Upd.normPrev] else
  if o = 0x38 then some [Upd.kCur] else
  if o = 0x40 then some [Upd.skipped] else
  if o = 0x48 then some [Upd.restores] else
  if o = 0x50 then some [Upd.nonfiniteEvt, Upd.groupErr] else
  none

/-- The words of block Coll: the listed offsets, each with the fields that are not reserved; none for a reserved address (R473). -/
def Coll.word (o : Nat) : Option (List Field) :=
  if o = 0x0 then some [Coll.version] else
  if o = 0x8 then some [Coll.topoBase] else
  if o = 0x10 then some [Coll.naxes] else
  if o = 0x18 then some [Coll.size 0, Coll.size 1, Coll.size 2, Coll.size 3] else
  if o = 0x20 then some [Coll.sizeHi 4, Coll.sizeHi 5] else
  if o = 0x28 then some [Coll.grpBase] else
  if o = 0x30 then some [Coll.grpCount] else
  if o = 0x38 then some [Coll.collBase] else
  if o = 0x40 then some [Coll.ncoll] else
  if o = 0x48 then some [Coll.epoch] else
  if o = 0x50 then some [Coll.myPos] else
  if o = 0x58 then some [Coll.commitTimeout] else
  if o = 0x60 then some [Coll.trafficMode] else
  if o = 0x68 then some [Coll.ordExpected, Coll.ordSeen, Coll.ordUnit] else
  if o = 0x70 then some [Coll.stale] else
  if o = 0x78 then some [Coll.cntAddr, Coll.cntKind] else
  if o = 0x80 then some [Coll.digStep] else
  if o = 0x88 then some [Coll.orderEvt, Coll.countEvt, Coll.digestEvt, Coll.commitFailEvt] else
  none

/-- The words of block Fab: the listed offsets, each with the fields that are not reserved; none for a reserved address (R473). -/
def Fab.word (o : Nat) : Option (List Field) :=
  if o = 0x0 then some [Fab.version] else
  if o = 0x8 then some [Fab.deviceId] else
  if o = 0x10 then some [Fab.linkMode, Fab.lrWin, Fab.hopInit, Fab.resMin] else
  if o = 0x18 then some [Fab.e2eTo, Fab.resendMax, Fab.gapWait] else
  if o = 0x20 then some [Fab.delivTo] else
  if o = 0x28 then some [Fab.rtBase] else
  if o = 0x30 then some [Fab.rtCount] else
  if o = 0x38 then some [Fab.crcFail] else
  if o = 0x40 then some [Fab.resends] else
  if o = 0x48 then some [Fab.duplicates] else
  if o = 0x50 then some [Fab.hopsExpired] else
  if o = 0x58 then some [Fab.unaddressed] else
  if o = 0x60 then some [Fab.failedDst] else
  if o = 0x68 then some [Fab.e2eCheckEvt, Fab.timeoutEvt, Fab.cutDone, Fab.cutLost] else
  if 0x1000 ≤ o ∧ o < 0x1000 + 0x10 * 512 ∧ (o - 0x1000) % 0x10 = 0 then some [Fab.lhEn ((o - 0x1000) / 0x10), Fab.lhDie ((o - 0x1000) / 0x10), Fab.updown ((o - 0x1000) / 0x10), Fab.winMib ((o - 0x1000) / 0x10), Fab.lhRtt ((o - 0x1000) / 0x10), Fab.capMib ((o - 0x1000) / 0x10)] else
  if 0x1008 ≤ o ∧ o < 0x1008 + 0x10 * 512 ∧ (o - 0x1008) % 0x10 = 0 then some [Fab.captured ((o - 0x1008) / 0x10)] else
  none

/-- The words of block Imp: the listed offsets, each with the fields that are not reserved; none for a reserved address (R473). -/
def Imp.word (o : Nat) : Option (List Field) :=
  if o = 0x0 then some [Imp.version] else
  if o = 0x8 then some [Imp.impN, Imp.impKeep] else
  if o = 0x10 then some [Imp.impEff] else
  if o = 0x18 then some [Imp.validStep] else
  if o = 0x20 then some [Imp.writingStep] else
  if o = 0x28 then some [Imp.impSkipped] else
  if o = 0x30 then some [Imp.bytesWritten] else
  if o = 0x38 then some [Imp.blocksRetired, Imp.maxErase] else
  if o = 0x40 then some [Imp.flashEvt, Imp.skipEvt, Imp.uncompared] else
  none

/-- The words of block Surv: the listed offsets, each with the fields that are not reserved; none for a reserved address (R473). -/
def Surv.word (o : Nat) : Option (List Field) :=
  if o = 0x0 then some [Surv.version] else
  if o = 0x8 then some [Surv.fdTag] else
  if o = 0x10 then some [Surv.partner, Surv.pairState, Surv.correlated, Surv.adopted] else
  if o = 0x18 then some [Surv.partnerTag] else
  if o = 0x20 then some [Surv.pmBase] else
  if o = 0x28 then some [Surv.pmCount, Surv.fillPar] else
  if o = 0x30 then some [Surv.refillBase] else
  if o = 0x38 then some [Surv.refillGib, Surv.hbUs, Surv.hbMiss] else
  if o = 0x40 then some [Surv.straggleUs, Surv.sharedM] else
  if o = 0x48 then some [Surv.piecesFilled, Surv.piecesOpen] else
  if o = 0x50 then some [Surv.lastVoteStep] else
  if o = 0x58 then some [Surv.lastVoteOk, Surv.routeSet, Surv.alarms, Surv.alarmLast, Surv.alarmClr] else
  if o = 0x60 then some [Surv.exportStep] else
  if o = 0x68 then some [Surv.peerLostEvt, Surv.straggleEvt, Surv.noRouteSet, Surv.fillFailEvt, Surv.adoptEvt, Surv.exportReady, Surv.refillDone] else
  if o = 0x70 then some [Surv.mgmtBad] else
  if 0x100 ≤ o ∧ o < 0x100 + 0x20 * 4 ∧ (o - 0x100) % 0x20 = 0 then some [Surv.valid ((o - 0x100) / 0x20), Surv.navoid ((o - 0x100) / 0x20)] else
  if 0x108 ≤ o ∧ o < 0x108 + 0x20 * 4 ∧ (o - 0x108) % 0x20 = 0 then some [Surv.avoid0 ((o - 0x108) / 0x20), Surv.avoid1 ((o - 0x108) / 0x20), Surv.avoid2 ((o - 0x108) / 0x20)] else
  if 0x110 ≤ o ∧ o < 0x110 + 0x20 * 4 ∧ (o - 0x110) % 0x20 = 0 then some [Surv.avoid3 ((o - 0x110) / 0x20), Surv.avoid4 ((o - 0x110) / 0x20), Surv.avoid5 ((o - 0x110) / 0x20)] else
  if 0x118 ≤ o ∧ o < 0x118 + 0x20 * 4 ∧ (o - 0x118) % 0x20 = 0 then some [Surv.avoid6 ((o - 0x118) / 0x20), Surv.avoid7 ((o - 0x118) / 0x20), Surv.avoid8 ((o - 0x118) / 0x20)] else
  none

/-- The words of block Side: the listed offsets, each with the fields that are not reserved; none for a reserved address (R473). -/
def Side.word (o : Nat) : Option (List Field) :=
  if o = 0x0 then some [Side.version] else
  if o = 0x8 then some [Side.resetNIn, Side.pwrEnIn, Side.ppsInLvl, Side.pwrgdOut, Side.faultOut, Side.thermOut, Side.alertOut] else
  if o = 0x10 then some [Side.alertPend] else
  if o = 0x18 then some [Side.alertCount] else
  if o = 0x20 then some [Side.faultCause, Side.faultAck] else
  if o = 0x28 then some [Side.smbAddr] else
  if o = 0x30 then some [Side.idcode] else
  none

/-- The words of block Pwr: the listed offsets, each with the fields that are not reserved; none for a reserved address (R473). -/
def Pwr.word (o : Nat) : Option (List Field) :=
  if o = 0x0 then some [Pwr.version] else
  if o = 0x8 then some [Pwr.vin, Pwr.iin, Pwr.pin, Pwr.pinAvg] else
  if o = 0x10 then some [Pwr.pLimit, Pwr.tThrottle, Pwr.hostVmax] else
  if o = 0x18 then some [Pwr.tHot, Pwr.tHotUnit] else
  if o = 0x20 then some [Pwr.coolIn, Pwr.coolOut] else
  if o = 0x28 then some [Pwr.plimitEvt, Pwr.thermEvt, Pwr.tripEvt, Pwr.supplyEvt, Pwr.coolEvt] else
  if o = 0x30 then some [Pwr.throttleNs] else
  if o = 0x38 then some [Pwr.trips] else
  if 0x1000 ≤ o ∧ o < 0x1000 + 0x8 * 72 ∧ (o - 0x1000) % 0x8 = 0 then some [Pwr.vcap ((o - 0x1000) / 0x8), Pwr.cause ((o - 0x1000) / 0x8)] else
  none

/-- The words of block Dl: the listed offsets, each with the fields that are not reserved; none for a reserved address (R473). -/
def Dl.word (o : Nat) : Option (List Field) :=
  if o = 0x0 then some [Dl.version] else
  if o = 0x8 then some [Dl.linkState, Dl.laneLock, Dl.linkEvt] else
  if o = 0x10 then some [Dl.cwCorr] else
  if o = 0x18 then some [Dl.cwUncorr] else
  if o = 0x20 then some [Dl.replays] else
  if o = 0x28 then some [Dl.retrains] else
  none

/-- The words of block Ben: the listed offsets, each with the fields that are not reserved; none for a reserved address (R473). -/
def Ben.word (b o : Nat) : Option (List Field) :=
  if o = 0x0 then some [Ben.version b, Ben.phys b, Ben.logical b, Ben.lvalid b] else
  if o = 0x8 then some [Ben.state b, Ben.cause b] else
  if o = 0x10 then some [Ben.freset b] else
  if o = 0x18 then some [Ben.stoneWin b] else
  none

/-- The words of block Stn: the listed offsets, each with the fields that are not reserved; none for a reserved address (R473). -/
def Stn.word (b i o : Nat) : Option (List Field) :=
  if o = 0x0 then some [Stn.version b i, Stn.kind b i, Stn.index b i] else
  if o = 0x8 then some [Stn.state b i, Stn.recomputing b i, Stn.refused b i, Stn.tagFault b i, Stn.checkFault b i, Stn.eccFault b i] else
  if o = 0x10 then some [Stn.tokensIn b i] else
  if o = 0x18 then some [Stn.tokensOut b i] else
  if o = 0x20 then some [Stn.expected b i, Stn.seen b i, Stn.seenLast b i, Stn.port b i] else
  if o = 0x28 then some [Stn.faultAddr b i] else
  if o = 0x30 then some [Stn.streams b i] else
  if o = 0x38 then some [Stn.recomputes b i] else
  if o = 0x100 ∧ kindCode i = 1 then some [Stn.anvBucket b i, Stn.anvBlock b i] else
  if o = 0x100 ∧ kindCode i = 2 then some [Stn.tmpActiveBank b i, Stn.tmpSwapPending b i, Stn.tmpUprog b i, Stn.tmpSlots b i] else
  if o = 0x100 ∧ kindCode i = 3 then some [Stn.qnPset b i] else
  if o = 0x100 ∧ kindCode i = 4 then some [Stn.fmBadidx b i] else
  if o = 0x100 ∧ kindCode i = 5 then some [Stn.hdSelected b i] else
  if o = 0x100 ∧ kindCode i = 6 then some [Stn.galWays b i] else
  if o = 0x100 ∧ kindCode i = 7 then some [Stn.plFmtA b i, Stn.plFmtX b i] else
  if o = 0x100 ∧ kindCode i = 8 then some [Stn.prfDigestLo b i] else
  if o = 0x108 ∧ kindCode i = 1 then some [Stn.anvSrc b i] else
  if o = 0x108 ∧ kindCode i = 4 then some [Stn.fmSkips b i] else
  if o = 0x108 ∧ kindCode i = 5 then some [Stn.hdDropped b i] else
  if o = 0x108 ∧ kindCode i = 6 then some [Stn.galPasses b i] else
  if o = 0x108 ∧ kindCode i = 8 then some [Stn.prfDigestHi b i] else
  if o = 0x110 ∧ kindCode i = 1 then some [Stn.anvDiscards b i] else
  if o = 0x110 ∧ kindCode i = 8 then some [Stn.prfItems b i] else
  none

/-- The words of the conversion counter block (R93). -/
def Conv.word (b o : Nat) : Option (List Field) :=
  if o < 0x440 ∧ o % 8 = 0 then some [Conv.count b (o / 0x40) (o % 0x40 / 8)] else none

/-- The words of block Rgn: the listed offsets, each with the fields that are not reserved; none for a reserved address (R473). -/
def Rgn.word (r o : Nat) : Option (List Field) :=
  if o = 0x0 then some [Rgn.version r, Rgn.typeF r, Rgn.number r] else
  if o = 0x8 then some [Rgn.vset r, Rgn.vread r, Rgn.slewing r] else
  if o = 0x10 then some [Rgn.applied r, Rgn.floor r, Rgn.override r, Rgn.ovrEn r, Rgn.band r, Rgn.marginExhausted r] else
  if o = 0x18 then some [Rgn.code r 0, Rgn.code r 1, Rgn.code r 2, Rgn.code r 3, Rgn.code r 4, Rgn.code r 5, Rgn.code r 6, Rgn.code r 7] else
  if o = 0x20 then some [Rgn.fails r, Rgn.captures r] else
  if o = 0x28 then some [Rgn.temp r, Rgn.slowMult r] else
  if o = 0x30 then some [Rgn.event r, Rgn.state r] else
  none

/-- The words of block Cmp: the listed offsets, each with the fields that are not reserved; none for a reserved address (R473). -/
def Cmp.word (b o : Nat) : Option (List Field) :=
  if o = 0x100 then some [Cmp.pc b, Cmp.activeBank b, Cmp.swapPending b, Cmp.shadowValid b] else
  if o = 0x108 then some [Cmp.waitKind b, Cmp.waitStn b, Cmp.waitHandle b, Cmp.waitIndex b, Cmp.waitMask b] else
  if o = 0x110 then some [Cmp.instret b] else
  if o = 0x118 then some [Cmp.badWord b, Cmp.badPc b] else
  if o = 0x120 then some [Cmp.entry b] else
  if o = 0x128 then some [Cmp.dmemCorr b, Cmp.imemCorr b] else
  if o = 0x130 then some [Cmp.monArmed b, Cmp.monFired b] else
  if 0x180 ≤ o ∧ o < 0x180 + 0x8 * 8 ∧ (o - 0x180) % 0x8 = 0 then some [Cmp.feat b ((o - 0x180) / 0x8)] else
  if 0x200 ≤ o ∧ o < 0x200 + 0x8 * 32 ∧ (o - 0x200) % 0x8 = 0 then some [Cmp.gr b ((o - 0x200) / 0x8)] else
  if 0x400 ≤ o ∧ o < 0x400 + 0x8 * 64 ∧ (o - 0x400) % 0x8 = 0 then some [Cmp.queueBase b ((o - 0x400) / 0x8), Cmp.queueSlots b ((o - 0x400) / 0x8), Cmp.queueSlotb b ((o - 0x400) / 0x8)] else
  none

/-- The words of block Mc: the listed offsets, each with the fields that are not reserved; none for a reserved address (R473). -/
def Mc.word (n o : Nat) : Option (List Field) :=
  if o = 0x0 then some [Mc.version n] else
  if o = 0x8 then some [Mc.spareEn n, Mc.retCh n, Mc.migrating n, Mc.migPtr n] else
  if o = 0x10 then some [Mc.scrubHours n, Mc.corrLimit n] else
  if o = 0x18 then some [Mc.poisonAddr n] else
  if o = 0x20 then some [Mc.corrEvt n, Mc.uncorrEvt n, Mc.retireEvt n, Mc.noSpare n] else
  if 0x100 ≤ o ∧ o < 0x100 + 0x20 * 48 ∧ (o - 0x100) % 0x20 = 0 then some [Mc.corr n ((o - 0x100) / 0x20), Mc.uncorr n ((o - 0x100) / 0x20)] else
  if 0x108 ≤ o ∧ o < 0x108 + 0x20 * 48 ∧ (o - 0x108) % 0x20 = 0 then some [Mc.linkCorr n ((o - 0x108) / 0x20)] else
  if 0x110 ≤ o ∧ o < 0x110 + 0x20 * 48 ∧ (o - 0x110) % 0x20 = 0 then some [Mc.scrubPasses n ((o - 0x110) / 0x20), Mc.retired n ((o - 0x110) / 0x20)] else
  none

/-- The words of block Sc: the listed offsets, each with the fields that are not reserved; none for a reserved address (R473). -/
def Sc.word (n o : Nat) : Option (List Field) :=
  if o = 0x0 then some [Sc.version n, Sc.stoneScrubMin n] else
  if o = 0x8 then some [Sc.corr n, Sc.uncorr n] else
  if o = 0x10 then some [Sc.lastOff n] else
  none

/-- The words of block Sl: the listed offsets, each with the fields that are not reserved; none for a reserved address (R473). -/
def Sl.word (n o : Nat) : Option (List Field) :=
  if o = 0x0 then some [Sl.version n] else
  if o = 0x8 then some [Sl.delivered n] else
  if o = 0x10 then some [Sl.injected n] else
  if o = 0x18 then some [Sl.stagingUsed n, Sl.stagingMax n] else
  if o = 0x20 then some [Sl.mirRxRefused n] else
  none

/-- The words of block Oct: the listed offsets, each with the fields that are not reserved; none for a reserved address (R473). -/
def Oct.word (j o : Nat) : Option (List Field) :=
  if o = 0x0 then some [Oct.version j, Oct.mode j] else
  if o = 0x8 then some [Oct.failThresh j] else
  if o = 0x10 then some [Oct.pcp j 0, Oct.pcp j 1, Oct.pcp j 2, Oct.pcp j 3, Oct.pcp j 4, Oct.pcp j 5, Oct.dscp j 0, Oct.dscp j 1, Oct.dscp j 2, Oct.dscp j 3, Oct.dscp j 4, Oct.dscp j 5] else
  if 0x100 ≤ o ∧ o < 0x100 + 0x80 * 8 ∧ (o - 0x100) % 0x80 = 0 then some [Oct.ctxEn j ((o - 0x100) / 0x80), Oct.ctxCarried j ((o - 0x100) / 0x80)] else
  if 0x108 ≤ o ∧ o < 0x108 + 0x80 * 8 ∧ (o - 0x108) % 0x80 = 0 then some [Oct.ctxState j ((o - 0x108) / 0x80), Oct.ctxWidth j ((o - 0x108) / 0x80), Oct.ctxLanes j ((o - 0x108) / 0x80), Oct.ctxReason j ((o - 0x108) / 0x80), Oct.ctxLinkEvt j ((o - 0x108) / 0x80), Oct.ctxDownEvt j ((o - 0x108) / 0x80), Oct.ctxNarrowed j ((o - 0x108) / 0x80), Oct.ctxRttEvt j ((o - 0x108) / 0x80), Oct.ctxLastDrop j ((o - 0x108) / 0x80)] else
  if 0x110 ≤ o ∧ o < 0x110 + 0x80 * 8 ∧ (o - 0x110) % 0x80 = 0 then some [Oct.ctxPeerId j ((o - 0x110) / 0x80), Oct.ctxPeerCtx j ((o - 0x110) / 0x80)] else
  if 0x118 ≤ o ∧ o < 0x118 + 0x80 * 8 ∧ (o - 0x118) % 0x80 = 0 then some [Oct.ctxMeasRtt j ((o - 0x118) / 0x80)] else
  if 0x120 ≤ o ∧ o < 0x120 + 0x80 * 8 ∧ (o - 0x120) % 0x80 = 0 then some [Oct.ctxFecCorr j ((o - 0x120) / 0x80)] else
  if 0x128 ≤ o ∧ o < 0x128 + 0x80 * 8 ∧ (o - 0x128) % 0x80 = 0 then some [Oct.ctxFecUncorr j ((o - 0x128) / 0x80)] else
  if 0x130 ≤ o ∧ o < 0x130 + 0x80 * 8 ∧ (o - 0x130) % 0x80 = 0 then some [Oct.ctxCtrlBad j ((o - 0x130) / 0x80), Oct.ctxNobufDrops j ((o - 0x130) / 0x80)] else
  if 0x138 ≤ o ∧ o < 0x138 + 0x80 * 8 ∧ (o - 0x138) % 0x80 = 0 then some [Oct.ctxCarriedDrops j ((o - 0x138) / 0x80)] else
  if 0x140 ≤ o ∧ o < 0x140 + 0x80 * 8 ∧ (o - 0x140) % 0x80 = 0 then some [Oct.ctxDmac j ((o - 0x140) / 0x80)] else
  if 0x148 ≤ o ∧ o < 0x148 + 0x80 * 8 ∧ (o - 0x148) % 0x80 = 0 then some [Oct.ctxSmac j ((o - 0x148) / 0x80)] else
  if 0x150 ≤ o ∧ o < 0x150 + 0x80 * 8 ∧ (o - 0x150) % 0x80 = 0 then some [Oct.ctxVid j ((o - 0x150) / 0x80), Oct.ctxTagEn j ((o - 0x150) / 0x80), Oct.ctxHoplim j ((o - 0x150) / 0x80), Oct.ctxUdpDst j ((o - 0x150) / 0x80), Oct.ctxCarryRate j ((o - 0x150) / 0x80)] else
  if 0x158 ≤ o ∧ o < 0x158 + 0x80 * 8 ∧ (o - 0x158) % 0x80 = 0 then some [Oct.ctxLocalIp6Lo j ((o - 0x158) / 0x80)] else
  if 0x160 ≤ o ∧ o < 0x160 + 0x80 * 8 ∧ (o - 0x160) % 0x80 = 0 then some [Oct.ctxLocalIp6Hi j ((o - 0x160) / 0x80)] else
  if 0x168 ≤ o ∧ o < 0x168 + 0x80 * 8 ∧ (o - 0x168) % 0x80 = 0 then some [Oct.ctxRemoteIp6Lo j ((o - 0x168) / 0x80)] else
  if 0x170 ≤ o ∧ o < 0x170 + 0x80 * 8 ∧ (o - 0x170) % 0x80 = 0 then some [Oct.ctxRemoteIp6Hi j ((o - 0x170) / 0x80)] else
  if 0x800 ≤ o ∧ o < 0x800 + 0x10 * 8 ∧ (o - 0x800) % 0x10 = 0 then some [Oct.laneTxInv j ((o - 0x800) / 0x10), Oct.laneRxInv j ((o - 0x800) / 0x10), Oct.laneLock j ((o - 0x800) / 0x10), Oct.laneFailed j ((o - 0x800) / 0x10), Oct.laneRetired j ((o - 0x800) / 0x10)] else
  if 0x808 ≤ o ∧ o < 0x808 + 0x10 * 8 ∧ (o - 0x808) % 0x10 = 0 then some [Oct.laneSymCorr j ((o - 0x808) / 0x10)] else
  none

/-- The words of block Pool: the listed offsets, each with the fields that are not reserved; none for a reserved address (R473). -/
def Pool.word (m o : Nat) : Option (List Field) :=
  if o = 0x0 then some [Pool.version m] else
  if o = 0x8 then some [Pool.poolEvt m, Pool.badPool m, Pool.badOp m, Pool.badPtr m] else
  if o = 0x10 then some [Pool.poolPointers m] else
  if 0x100 ≤ o ∧ o < 0x100 + 0x20 * 8 ∧ (o - 0x100) % 0x20 = 0 then some [Pool.base m ((o - 0x100) / 0x20), Pool.count m ((o - 0x100) / 0x20)] else
  if 0x108 ≤ o ∧ o < 0x108 + 0x20 * 8 ∧ (o - 0x108) % 0x20 = 0 then some [Pool.free m ((o - 0x108) / 0x20), Pool.lowWater m ((o - 0x108) / 0x20), Pool.closed m ((o - 0x108) / 0x20)] else
  if 0x110 ≤ o ∧ o < 0x110 + 0x20 * 8 ∧ (o - 0x110) % 0x20 = 0 then some [Pool.head m ((o - 0x110) / 0x20)] else
  if 0x118 ≤ o ∧ o < 0x118 + 0x20 * 8 ∧ (o - 0x118) % 0x20 = 0 then some [Pool.fallbacks m ((o - 0x118) / 0x20)] else
  none

/-- The words of block Tm: the listed offsets, each with the fields that are not reserved; none for a reserved address (R473). -/
def Tm.word (m o : Nat) : Option (List Field) :=
  if o = 0x0 then some [Tm.version m] else
  if o = 0x8 then some [Tm.hashSeed m] else
  if o = 0x10 then some [Tm.hashRh m, Tm.sampleUs m] else
  if o = 0x18 then some [Tm.policeEvt m, Tm.mirrorDropEvt m, Tm.pathDownEvt m] else
  if o = 0x20 then some [Tm.policedDrops m] else
  if o = 0x28 then some [Tm.pathDownDrops m] else
  if o = 0x30 then some [Tm.cutAborts m] else
  if 0x1000 ≤ o ∧ o < 0x1000 + 0x80 * 128 ∧ (o - 0x1000) % 0x80 = 0 then some [Tm.share m ((o - 0x1000) / 0x80)] else
  if 0x1008 ≤ o ∧ o < 0x1008 + 0x80 * 128 ∧ (o - 0x1008) % 0x80 = 0 then some [Tm.quantum m ((o - 0x1008) / 0x80) 1, Tm.quantum m ((o - 0x1008) / 0x80) 2, Tm.quantum m ((o - 0x1008) / 0x80) 3, Tm.quantum m ((o - 0x1008) / 0x80) 4] else
  if 0x1010 ≤ o ∧ o < 0x1010 + 0x80 * 128 ∧ (o - 0x1010) % 0x80 = 0 then some [Tm.quantum5 m ((o - 0x1010) / 0x80)] else
  if 0x1018 ≤ o ∧ o < 0x1018 + 0x80 * 128 ∧ (o - 0x1018) % 0x80 = 0 then some [Tm.cutThrough m ((o - 0x1018) / 0x80)] else
  if 0x1020 ≤ o ∧ o < 0x1020 + 0x80 * 128 ∧ (o - 0x1020) % 0x80 = 0 then some [Tm.storeFwd m ((o - 0x1020) / 0x80)] else
  if 0x8000 ≤ o ∧ o < 0x8000 + 0x20 * 640 ∧ (o - 0x8000) % 0x20 = 0x0 then some [Tm.qDepth m ((o - 0x8000) / 0x20 / 5) ((o - 0x8000) / 0x20 % 5 + 1), Tm.qDepthMax m ((o - 0x8000) / 0x20 / 5) ((o - 0x8000) / 0x20 % 5 + 1)] else
  if 0x8000 ≤ o ∧ o < 0x8000 + 0x20 * 640 ∧ (o - 0x8000) % 0x20 = 0x8 then some [Tm.qDelay m ((o - 0x8000) / 0x20 / 5) ((o - 0x8000) / 0x20 % 5 + 1), Tm.qDelayMax m ((o - 0x8000) / 0x20 / 5) ((o - 0x8000) / 0x20 % 5 + 1)] else
  if 0x8000 ≤ o ∧ o < 0x8000 + 0x20 * 640 ∧ (o - 0x8000) % 0x20 = 0x10 then some [Tm.qSampleNo m ((o - 0x8000) / 0x20 / 5) ((o - 0x8000) / 0x20 % 5 + 1), Tm.qPkts m ((o - 0x8000) / 0x20 / 5) ((o - 0x8000) / 0x20 % 5 + 1)] else
  if 0x10000 ≤ o ∧ o < 0x10000 + 0x20 * 1024 ∧ (o - 0x10000) % 0x20 = 0 then some [Tm.polEn m ((o - 0x10000) / 0x20), Tm.polTypeF m ((o - 0x10000) / 0x20), Tm.polAware m ((o - 0x10000) / 0x20), Tm.polYact m ((o - 0x10000) / 0x20), Tm.polRact m ((o - 0x10000) / 0x20), Tm.polCir m ((o - 0x10000) / 0x20), Tm.polPir m ((o - 0x10000) / 0x20)] else
  if 0x10008 ≤ o ∧ o < 0x10008 + 0x20 * 1024 ∧ (o - 0x10008) % 0x20 = 0 then some [Tm.polCbs m ((o - 0x10008) / 0x20), Tm.polEbsPbs m ((o - 0x10008) / 0x20)] else
  if 0x10010 ≤ o ∧ o < 0x10010 + 0x20 * 1024 ∧ (o - 0x10010) % 0x20 = 0 then some [Tm.polTc m ((o - 0x10010) / 0x20), Tm.polTeTp m ((o - 0x10010) / 0x20)] else
  if 0x10018 ≤ o ∧ o < 0x10018 + 0x20 * 1024 ∧ (o - 0x10018) % 0x20 = 0 then some [Tm.polYellowPkts m ((o - 0x10018) / 0x20), Tm.polRedPkts m ((o - 0x10018) / 0x20)] else
  if 0x18000 ≤ o ∧ o < 0x18000 + 0x8 * 128 ∧ (o - 0x18000) % 0x8 = 0 then some [Tm.bindPol1 m ((o - 0x18000) / 0x8), Tm.bindEn1 m ((o - 0x18000) / 0x8), Tm.bindPol3 m ((o - 0x18000) / 0x8), Tm.bindEn3 m ((o - 0x18000) / 0x8), Tm.bindPol5 m ((o - 0x18000) / 0x8), Tm.bindEn5 m ((o - 0x18000) / 0x8)] else
  if 0x19000 ≤ o ∧ o < 0x19000 + 0x40 * 8 ∧ (o - 0x19000) % 0x40 = 0 then some [Tm.mirEn m ((o - 0x19000) / 0x40), Tm.mirDir m ((o - 0x19000) / 0x40), Tm.mirFlow m ((o - 0x19000) / 0x40), Tm.mirSrcPort m ((o - 0x19000) / 0x40), Tm.mirDstPort m ((o - 0x19000) / 0x40), Tm.mirTrunc m ((o - 0x19000) / 0x40)] else
  if 0x19008 ≤ o ∧ o < 0x19008 + 0x40 * 8 ∧ (o - 0x19008) % 0x40 = 0 then some [Tm.mirMSrc m ((o - 0x19008) / 0x40), Tm.mirMDst m ((o - 0x19008) / 0x40), Tm.mirMVc m ((o - 0x19008) / 0x40), Tm.mirUseSrc m ((o - 0x19008) / 0x40), Tm.mirUseDst m ((o - 0x19008) / 0x40), Tm.mirUseVc m ((o - 0x19008) / 0x40)] else
  if 0x19010 ≤ o ∧ o < 0x19010 + 0x40 * 8 ∧ (o - 0x19010) % 0x40 = 0 then some [Tm.mirADev m ((o - 0x19010) / 0x40), Tm.mirARh m ((o - 0x19010) / 0x40)] else
  if 0x19018 ≤ o ∧ o < 0x19018 + 0x40 * 8 ∧ (o - 0x19018) % 0x40 = 0 then some [Tm.mirASize m ((o - 0x19018) / 0x40)] else
  if 0x19020 ≤ o ∧ o < 0x19020 + 0x40 * 8 ∧ (o - 0x19020) % 0x40 = 0 then some [Tm.mirMirQmax m ((o - 0x19020) / 0x40)] else
  if 0x19028 ≤ o ∧ o < 0x19028 + 0x40 * 8 ∧ (o - 0x19028) % 0x40 = 0 then some [Tm.mirCopies m ((o - 0x19028) / 0x40)] else
  if 0x19030 ≤ o ∧ o < 0x19030 + 0x40 * 8 ∧ (o - 0x19030) % 0x40 = 0 then some [Tm.mirMirDrops m ((o - 0x19030) / 0x40)] else
  if 0x19038 ≤ o ∧ o < 0x19038 + 0x40 * 8 ∧ (o - 0x19038) % 0x40 = 0 then some [Tm.mirCursor m ((o - 0x19038) / 0x40)] else
  none

/-- The words of block Obs: the listed offsets, each with the fields that are not reserved; none for a reserved address (R473). -/
def Obs.word (o : Nat) : Option (List Field) :=
  if o = 0x0 then some [Obs.version] else
  if o = 0x8 then some [Obs.latchEn, Obs.traceEn, Obs.traceStall, Obs.traceWrap, Obs.traceDecim, Obs.traceKinds, Obs.traceMib, Obs.latchCount] else
  if o = 0x10 then some [Obs.latchBase] else
  if o = 0x18 then some [Obs.traceBase] else
  if o = 0x20 then some [Obs.traceRegionsLo] else
  if o = 0x28 then some [Obs.traceRegionsHi] else
  if o = 0x30 then some [Obs.traceNext] else
  if o = 0x38 then some [Obs.traceDrops] else
  if o = 0x40 then some [Obs.latchNext] else
  if o = 0x48 then some [Obs.build, Obs.graphCur, Obs.building, Obs.hangUs] else
  if o = 0x50 then some [Obs.graphSeq] else
  if o = 0x58 then some [Obs.hangEvt, Obs.traceFull] else
  none

/-- The words of block Elog: the listed offsets, each with the fields that are not reserved; none for a reserved address (R473). -/
def Elog.word (o : Nat) : Option (List Field) :=
  if o = 0x0 then some [Elog.version] else
  if o = 0x8 then some [Elog.next, Elog.oldest] else
  if o = 0x10 then some [Elog.logLost] else
  if o = 0x18 then some [Elog.logEvt] else
  if 0x100 ≤ o ∧ o < 0x100 + 0x8 * 17 ∧ o ≠ 0x100 ∧ (o - 0x100) % 0x8 = 0 then some [Elog.classCount ((o - 0x100) / 0x8)] else
  none

end Sys2Proof.Machine
end

