-- ==== Sys2Proof/Machine/State.lean ====
section
/-! DEFINITION. The state of the block as plain data. Software-visible registers are in csr, one entry per field of
the manual's register tables, by (address, lowest bit); everything else the manual gives the machine has a field of its own. -/

namespace Sys2Proof.Machine

open Sys2Proof

/-- One entry of the error log (R432), as its fields. -/
structure LogEntry where
  stamp   : Nat
  number  : Nat
  cls     : Nat
  utype   : Nat
  unit    : Nat
  temp    : Nat
  supply  : Nat
  address : Nat
  detail  : Nat
  deriving DecidableEq, Repr

/-- One reply on the status channel (R393). -/
structure Reply where
  opcode    : Nat
  tag       : Nat
  status    : Nat
  faultAddr : Nat
  words     : List W64
  deriving DecidableEq, Repr

/-- One monitor slot (R153, R172). -/
structure MonSlot where
  word      : Nat
  handle    : Nat
  index     : Nat
  threshold : Nat
  armed     : Bool
  fired     : Bool
  deriving DecidableEq, Repr

/-- The instruction a Compositor waits in (R155, R178). -/
inductive Wait where
  | strm (ra : BitVec 5) (imm : BitVec 16)
  | swait (sel : BitVec 5)
  | sigwait (rd ra : BitVec 5) (hd : BitVec 10)
  | mwait (mask : BitVec 8)
  | storeW (rd ra : BitVec 5) (imm : BitVec 16)
  | storeD (rd ra : BitVec 5) (imm : BitVec 16)
  | endW
  deriving DecidableEq, Repr

/-- The Compositor state that no register holds (R153, R155, R177). -/
structure Comp where
  mons    : Tab MonSlot := []
  csrrHi  : Nat := 0
  waiting : Option Wait := none
  deriving DecidableEq, Repr

/-- The start snapshot of a bench: where in stone its copies of data memory, descriptor table and queue table lie (R145). -/
structure Snapshot where
  base : Nat
  deriving DecidableEq, Repr

/-- One bound port of a launched stream, its count taken at issue (R165, R167). -/
structure Binding where
  kind  : Nat
  id    : Nat
  count : Nat
  deriving DecidableEq, Repr

/-- A launched stream: the launch snapshot of R165 and how far it has come (R125-R127, R438). -/
structure Stream where
  form      : Nat
  numMode   : Bool
  desc      : Bool
  recAddr   : Nat
  p0        : Nat
  p1        : Nat
  p2        : Nat
  p3        : Nat
  ins       : List Binding
  outs      : List Binding
  descs     : Tab Nat
  loop      : Option Nat
  sigEn     : Bool
  sigAddr   : Nat
  sigInc    : Nat
  inPos     : List Nat
  outPos    : List Nat
  fold      : List Nat
  foldNeg   : List Int
  units     : Nat
  tokensIn  : Nat
  tokensOut : Nat
  recomputes : Nat
  streamNo  : Nat
  startStamp : Nat
  startEvent : Nat
  startStep : Nat
  startCnt  : List Nat
  waitSince : Nat
  failedDst : Bool
  bank      : Nat
  srcFmt    : Nat := 0
  dstFmt    : Nat := 31
  outBytes  : List Nat := []
  pset      : Nat := 0
  stn       : Nat := 0
  deriving DecidableEq, Repr

/-- A token queue (R166): token words in flight and the running slot counts. -/
structure Queue where
  toks     : List Nat := []
  made     : Nat := 0
  released : Nat := 0
  deriving DecidableEq, Repr

/-- A token that waits on a slice channel: its word and its data in the slice's staging stone (R166, R479); bad where it is of a
packet that the Anvil discards (R121). -/
structure ChanTok where
  word  : Nat
  bytes : List Byte
  src   : Nat
  bad   : Bool := false
  deriving DecidableEq, Repr

/-- Bytes of stone that a stream has overwritten and that loads of its own bench's Compositor still read as they were (R154): the
stream's number, its completion word, the place, the bytes. -/
structure Veil where
  no   : Nat
  sig  : Option Nat
  addr : Nat
  old  : List Byte
  deriving DecidableEq, Repr

/-- A resend copy (R268, R270): the packet, its transmissions, its timer in us, the station whose stream sent it, whether
CUSTODY was taken, the DMA of the device's services that it belongs to, and for a multicast copy its egress port. -/
structure Flight where
  pkt     : Pkt
  tries   : Nat
  timer   : Nat
  owner   : Option (Nat × Nat)
  custody : Bool
  dma     : Option Nat
  via     : Option Nat := none
  deriving DecidableEq, Repr

/-- A reply of the weight service whose writes are not all acknowledged (R191, R245): the writes left, and the signal add that
follows them, as destination, handle, offset, increment with the signaller above its 64 bits, and ordinal. -/
structure Dma where
  left : Nat
  dst  : Nat
  rh   : Nat
  off  : Nat
  inc  : Nat
  ord  : Nat
  deriving DecidableEq, Repr

/-- Transport state towards one destination (R268, R270): the next SEQ, resend copies, packets beyond the limit of
unacknowledged packets that wait, and whether it is marked failed. -/
structure DstState where
  next    : Nat := 0
  flights : List Flight := []
  waiting : List Flight := []
  failed  : Bool := false
  deriving DecidableEq, Repr

/-- Transport state from one source (R269): CUM and the received numbers beyond it; those of packets held for their turn, which no ACK
reports yet (R237, R245); ordinals already reported (R238). -/
structure SrcState where
  cum     : Nat := 0
  got     : List Nat := []
  held    : List Nat := []
  refused : List Nat := []
  deriving DecidableEq, Repr

/-- A packet in an egress queue with its acceptance stamp (R306): the buffer that holds its payload, as 8 times the port
die plus the pool, and the offset (R292); the slice whose staging stone holds it instead (R284); the ingress port that withholds the
packet's link credit while it lies in a buffer of its own (R293). -/
structure Queued where
  pkt   : Pkt
  since : Nat := 0
  buf   : Option (Nat × Nat) := none
  slice : Option Nat := none
  input : Option Nat := none
  deriving DecidableEq, Repr

/-- A packet that a long-haul port holds for its segment: its transmissions over the segment and its timer in us (R270, R275). -/
structure Copy where
  pkt   : Pkt
  tries : Nat := 1
  timer : Nat
  deriving DecidableEq, Repr

/-- A port context's state that no register holds. credits and ordCredits are what the peer has granted and this port has not used;
issued is what this port has granted and the peer has not used, by VC and, for VC0, by 16 plus the ordinal (R266). captured are the
packets of the capture or reception buffer, parked those that still lie in their ingress buffers (R279, R403). modes are the LINK_MODEs
under which the frames sent by the port started, in order, replayBuf is the offset of its link replay buffer while link retry is on (R272,
R292). paced are the frames that a carried port has sent lately, as the powered time until which each counts and its bytes (R319). -/
structure Port where
  queues    : Tab (List Queued) := []
  deficits  : Tab Nat := []
  turn      : Nat := 1
  granted   : Bool := false
  vc0Ns     : Nat := 0
  credits   : Tab Nat := []
  ordCredits : Tab Nat := []
  issued    : Tab Nat := []
  captured  : List Pkt := []
  parked    : List Pkt := []
  modes     : List Nat := []
  replayBuf : Option Nat := none
  paced     : List (Nat × Nat) := []
  markSent  : Bool := false
  markSeen  : Bool := false
  hello     : Option Nat := none
  helloAt   : Nat := 0
  seenSent  : Bool := false
  retries   : Tab Nat := []
  narrowTo  : Nat := 0
  cutting   : Option (Nat × Pkt) := none
  held      : List Queued := []
  ahead     : List Pkt := []
  served    : Nat := 0
  cursor    : Nat := 0
  window    : List Copy := []
  reception : List Copy := []
  advert    : Nat := 0
  sampler   : Tab Nat := []
  deriving DecidableEq, Repr

/-- A policer's buckets in 1/1000 byte and the count of the last refill (R300). -/
structure Policer where
  tc   : Nat := 0
  te   : Nat := 0
  last : Nat := 0
  deriving DecidableEq, Repr

/-- A route table entry (R400). -/
structure RouteEntry where
  dst   : Nat
  isLocal : Bool
  mcast : Bool
  paths : List Nat
  deriving DecidableEq, Repr

/-- A route set (R380, R400). -/
structure RouteSet where
  avoid   : List Nat
  entries : List RouteEntry
  deriving DecidableEq, Repr

/-- A long command that runs, with the bulk bytes it has received (R394, R397). -/
structure LongCmd where
  opcode : Nat
  hdr    : HostHdr
  words  : List W64
  need   : Option Nat
  data   : List Byte
  arg    : Nat
  deriving DecidableEq, Repr

/-- A bulk packet to the host (R394): TAG and data. -/
structure BulkOut where
  tag  : Nat
  data : List Byte
  deriving DecidableEq, Repr

/-- What a device knows of a bucket of its schedule (R114, R209, R210, R219, R223, R368). tiles are the state tiles that UPDATE
of the step has done, as group x 2^32 + tile, repTiles those that REPLAY has; begun is the step whose UPDATE has begun, copying the one
whose UPDATE Quench has begun to put into its slot, copied the step whose compact copy is the newest complete one; lanes are the lanes
whose sum the device has sent on (R100). -/
structure BkState where
  gradStep  : Option Nat := none
  gradBlocks : Nat := 0
  countBad  : Bool := false
  updated   : Option Nat := none
  replayed  : Option Nat := none
  rowsNow   : List Nat := []
  rowsPrev  : List Nat := []
  empty0    : Bool := true
  empty1    : Bool := true
  carried   : Option Nat := none
  wroteTile : Option Nat := none
  segsDone  : List Nat := []
  repsDone  : List Nat := []
  heldBad   : Bool := false
  held      : Nat := 0
  tiles     : List Nat := []
  repTiles  : List Nat := []
  begun     : Option Nat := none
  copying   : Option Nat := none
  copied    : Option Nat := none
  lanes     : List Nat := []
  deriving DecidableEq, Repr

/-- A segment record of an impression (R350). -/
structure SegRec where
  bucket    : Nat
  group     : Nat
  role      : Nat
  firstTile : Nat
  tileBytes : Nat
  data      : List Byte
  stats     : List Byte
  digest    : Nat
  deriving DecidableEq, Repr

/-- An impression in the impression area (R349-R351). -/
structure Impression where
  step       : Nat
  epoch      : Nat
  norm       : Nat
  correlated : Bool
  partner    : Nat
  config     : Nat
  segs       : List SegRec
  suspect    : Bool
  pinned     : Bool
  deriving DecidableEq, Repr

/-- The impression being written (R352): claimed buckets with their role, segments, buckets compared. -/
structure ImpWrite where
  imp      : Impression
  plan     : List (Nat × Nat)
  expect   : List Nat
  claimed  : List (Nat × Nat)
  compared : List Nat
  mismatch : Bool
  early    : Tab Nat
  sent     : Bool
  deriving DecidableEq, Repr

/-- A fill in progress (R373): its committed step and the digests. -/
structure FillState where
  step   : Nat
  own    : Nat
  sent   : Bool
  deriving DecidableEq, Repr

/-- A fetch request gathered from parts, waiting under R23, or held until START (R187, R200): source, ordinal, head without PART, parts,
and whether its parts disagree or repeat. -/
structure FetchReq where
  src   : Nat
  ord   : Nat
  head  : Nat
  parts : Tab (List Byte)
  bad   : Bool := false
  deriving DecidableEq, Repr

/-- The votes of the commit and barrier collectives on this device (R240-R244): its own by ordinal, those of its children by ordinal x 2^20 +
device, each as the vote packet's payload; the ordinals of barriers that have completed; failed once a FAILED result has come, until the
abort. -/
structure Commit where
  votes   : Tab Nat := []
  own     : Tab Nat := []
  done    : List Nat := []
  failed  : Bool := false
  deriving DecidableEq, Repr

/-- Margin records of a region (R41-R44): error stamps, canary counts and last trigger by band. -/
structure RgnState where
  errors   : List (Nat × Nat) := []
  capSub   : Nat := 0
  caps     : Tab Nat := []
  fails    : Tab (List Nat) := []
  trigger  : Tab Nat := []
  deriving DecidableEq, Repr

/-- Time mark state (R57-R60): the last offsets in half ns, newest last; what of the filtered offset is still to be corrected, in ns;
consecutive marks within and beyond the bounds; the departure of a request; the stamps t2 and t3 of the last reply by port; ticks to
hold; the elapsed time of the last slew; PPS_OUT; whether the reference is lost. -/
structure TimeMarks where
  offsets : List Int := []
  due     : Int := 0
  good    : Nat := 0
  bad     : Nat := 0
  t1      : Option Nat := none
  replies : Tab (Nat × Nat) := []
  hold    : Nat := 0
  lastSlew : Nat := 0
  ppsOut  : Bool := false
  noRef   : Bool := false
  deriving DecidableEq, Repr

/-- A verified image's measurement (R416, R425). -/
structure Meas where
  svn    : Nat
  meas   : Nat
  loaded : Nat
  deriving DecidableEq, Repr

/-- A firmware slot (R422, R423). -/
structure FwSlot where
  image   : List Byte
  meas    : Meas
  version : Nat
  revoke  : Nat
  key     : Nat
  deriving DecidableEq, Repr

/-- A wait seen by the first sample of a graph build (R445): node kind, id, since, reason, and target kind and id, ARG. -/
structure WaitSeen where
  kind   : Nat
  id     : Nat
  since  : Nat
  reason : Nat
  tkind  : Nat
  tid    : Nat
  arg    : Nat
  deriving DecidableEq, Repr

/-- Dreril Link state (R388-R390): next SEQ sent and expected, the replay buffer, credits, a NAK due,
credits to return, and the flits that wait to be sent on each channel. -/
structure Dreril where
  txSeq   : Nat := 0
  rxSeq   : Nat := 0
  replay  : List Nat := []
  credits : Tab Nat := []
  nakDue  : Bool := false
  toReturn : Tab Nat := []
  outQ    : Tab (List Nat) := []
  deriving DecidableEq, Repr

/-- Why the machine stops. The spec gives every command an effect in every state, so that there is no reason. -/
inductive Fault where
  deriving DecidableEq, Repr

/-- Why a command has no meaning. -/
inductive Refusal where
  /-- Raised by the dispatch arm of a command that has no meaning yet. Safe. -/
  | notModelled (mnemonic : String)
  deriving DecidableEq, Repr

/-- The state of the block. A table's unlisted entry is the default of its type, and for csr the field's reset value. -/
structure State where
  /-- Commands waiting, first in, first out. -/
  pending   : List Instr := []
  /-- Every register field, by 64 times the word's address plus its lowest bit (R406, R473). -/
  csr       : Tab Nat := []
  /-- LPDDR5X, stone, Compositor and Temper memories, latch and graph areas, by device-local address (R406). -/
  mem       : List Host.Cell := []
  /-- Poisoned data lines, by their line address (R336, R338). -/
  poison    : List Nat := []
  /-- 64-bit words of stone, instruction and data memory with an uncorrectable error (R339, R162). -/
  badWords  : List Nat := []
  /-- Stamps of a channel's corrected (2c) and uncorrectable (2c + 1) lines of the last 24 hours (R341). -/
  chanErrs  : Tab (List Nat) := []
  /-- The error log by NUMBER mod 65,536 (R436). -/
  log       : Tab LogEntry := []
  comps     : Tab Comp := []
  streams   : Tab Stream := []
  queues    : Tab Queue := []
  chans     : Tab (List ChanTok) := []
  snaps     : Tab Snapshot := []
  /-- Cursor of each logical bench on its ordinal list (R237): twice the entries served, plus one once a stream of the entry at
  the cursor has completed. -/
  benchCur  : Tab Nat := []
  /-- Per-station conversion counters by (bench*16+station)*256 + 8*format + kind (R438). -/
  stnCnt    : Tab Nat := []
  /-- What the Compositor's loads do not see yet of a stream's stores, by 16 times the bench plus the station (R154). -/
  veils     : Tab (List Veil) := []
  /-- The place of each memory controller in its slot sequence (R49). -/
  slotCur   : Tab Nat := []
  sched     : Schedule := {}
  /-- Step counter (R30, R219) and job flags (R236, R271). -/
  step      : Nat := 0
  jobBegun  : Bool := false
  /-- By bucket, the digest at the last START of its layers' descriptors, masks and tables (R186). -/
  layouts   : Tab Nat := []
  buckets   : Tab BkState := []
  /-- Unusable layers and groups (R180, R207), group records of collectives (R230). -/
  badLayers : List Nat := []
  badGroups : List Nat := []
  badColl   : List Nat := []
  fetches   : List FetchReq := []
  dsts      : Tab DstState := []
  srcs      : Tab SrcState := []
  dmas      : Tab Dma := []
  /-- Unexpired slow marks by source*128 + region: MULT and arrival (R53). -/
  marks     : Tab (Nat × Nat) := []
  ports     : Tab Port := []
  /-- Buffers in use at the stops of the die rings, by ((ring * 12 + stop) * 2 + direction) * 8 + VC (R267). -/
  rings     : Tab Nat := []
  /-- Free-list words of the port buffers by die*2^32 + offset, and the in-use bits (R294). -/
  poolWords : Tab Nat := []
  inUse     : List (Nat × Nat) := []
  policers  : Tab Policer := []
  routes    : Tab RouteSet := []
  alarms    : List Nat := []
  /-- Base ordinal and length of the last aborted epoch (R239). -/
  aborted   : Option (Nat × Nat) := none
  commit    : Commit := {}
  impNext   : Bool := false
  imps      : List Impression := []
  impWrite  : Option ImpWrite := none
  validCount : Nat := 0
  /-- Norm n of the step in progress, once known (R216-R218). -/
  normNow   : Option Nat := none
  abortDue  : Option Nat := none
  abortCmd  : Option HostHdr := none
  aborting  : Option Nat := none
  retCause  : Tab Nat := []
  restoring : List Nat := []
  pairWith  : Option (Nat × Bool) := none
  pairCmd   : Option HostHdr := none
  /-- A PAIR message held: its source and payload (R359). -/
  pairPeer  : Option (Nat × Nat) := none
  fills     : Tab FillState := []
  adopting  : List Nat := []
  /-- The schedule that a RESTORE over the bulk channel brings, by its TAG (R377). -/
  restores  : Tab Schedule := []
  mailboxes : Tab Reply := []
  longs     : List LongCmd := []
  statusQ   : List Reply := []
  bulkQ     : List BulkOut := []
  dreril    : Dreril := {}
  /-- LAUNCH_AT outstanding: its count, its header, and the schedule it brings (R61). -/
  launch    : Option (Nat × HostHdr × Schedule) := none
  stopAt    : Option (Nat × HostHdr) := none
  /-- True from the cut of R278 to START: end-to-end timers are frozen and ports capture. -/
  cut       : Bool := false
  rgns      : Tab RgnState := []
  time      : TimeMarks := {}
  keyHashes : Tab Nat := []
  meas      : Tab Meas := []
  jobMeas   : Option Meas := none
  fwSlots   : Tab FwSlot := []
  prevSlot  : Nat := 0
  /-- Lifetime records beyond registers: ageing in 2^-32/60 hours, flash blocks (erases, failures, retired), thermal lows. -/
  ageFrac   : Tab Nat := []
  flash     : Tab (Nat × Nat × Bool) := []
  thermLow  : Int := 0
  thermUp   : Bool := false
  stored    : Tab Nat := []
  /-- Temperature (0.1 C) and rail (mV) of the fixed-rail logic, by AGE_r number (R34, R431). -/
  fixedTemp : Tab Int := []
  fixedRail : Tab Nat := []
  traceFifo : Tab (List Nat) := []
  graph     : Option (Nat × List WaitSeen) := none
  lastGraph : Nat := 0
  /-- Caps of R462 by cause: power for the benches, thermal by region; whether each is being lowered. -/
  capPower  : Nat := 850
  capHeat   : Tab Nat := []
  lowPower  : Bool := false
  lowHeat   : List Nat := []
  tapIr     : Nat := 1
  tapDrive  : Bool := false
  smbAddr   : Nat := 0
  smbOut    : List Byte := []
  excursion : Bool := false
  /-- Powered time of the hub in ns, which no SET_TIME moves: the measure of every length of time (log entry 9). -/
  elapsed   : Nat := 0
  /-- The powered time and the packets and blocks sent at the last reset of the counters (R9; log entry 10). -/
  resetAt   : Nat × Nat := (0, 0)
  /-- The model's own: packets and blocks sent (port, bits), counter of free values. -/
  wire      : List (Nat × Nat) := []
  freeCtr   : Nat := 0
  deriving DecidableEq, Repr

/-- The machine right after power-on reset (R9, R457): every register at its Reset value, memory with nothing listed, no command waiting. -/
def State.reset : State := {}

end Sys2Proof.Machine
end

