-- ==== Sys2Proof/Machine/Regs.lean ====
section
/-! DEFINITION. Reading and writing register fields, and the device-local address map (R143, R157, R406, R407, R473). -/

namespace Sys2Proof.Machine

open Sys2Proof

/-- The value of a register field. -/
def State.get (s : State) (f : Field) : Nat := Tab.get s.csr f.reset f.key

/-- The state with a register field at v, narrowed to the field's width. -/
def State.set (s : State) (f : Field) (v : Nat) : State :=
  { s with csr := Tab.set s.csr f.reset f.key (v % 2 ^ f.width) }

/-- A counter field advanced by n, wrapping at its width. -/
def State.bump (s : State) (f : Field) (n : Nat) : State := s.set f (s.get f + n)

/-- Whether a one-bit field is 1. -/
def State.flag (s : State) (f : Field) : Bool := s.get f != 0

/-- Several fields set in order. -/
def State.setAll (s : State) (l : List (Field × Nat)) : State := l.foldl (fun t e => t.set e.1 e.2) s

/-- What the device-local address of an aligned 64-bit word leads to. -/
inductive Loc where
  /-- A register word with its fields that are not reserved. -/
  | regs (fs : List Field)
  /-- Word k of a mailbox's stored reply (R410). -/
  | reply (m k : Nat)
  /-- LPDDR5X (R334). -/
  | lpddr
  /-- Stone of forge die n at an offset (R147). -/
  | stone (n off : Nat)
  /-- A bench's own memory: Compositor memories (R157) or the Temper store (R143), at a bench offset. -/
  | bench (b off : Nat)
  /-- A latch or graph area of the observation range (R440, R446). -/
  | area
  /-- Word k of the log entry in a slot (R436). -/
  | logWord (slot k : Nat)
  /-- A listed offset that reads as zero and ignores writes (R473). -/
  | zero
  /-- Unmapped or reserved (R405, R473). -/
  | none
  deriving DecidableEq, Repr

/-- A word's fields, or the reserved address. -/
def Loc.ofWord (w : Option (List Field)) : Loc :=
  match w with
  | some fs => .regs fs
  | Option.none => .none

/-- The register block of bench b (R143, R157), by bench offset. -/
def benchLoc (b o : Nat) : Loc :=
  if o < 0x1000 then .ofWord (Ben.word b o)
  else if o < 0xB000 then .ofWord (Stn.word b (o / 0x1000 - 1) (o % 0x1000))
  else if o < 0xE000 then .none
  else if o < 0xF000 then .ofWord (Conv.word b (o % 0x1000))
  else if o < 0x10000 then .ofWord (Rgn.word b (o % 0x1000))
  else if o < 0x11000 then
    if o % 0x1000 < 0x40 then .ofWord (Stn.word b 15 (o % 0x1000)) else .ofWord (Cmp.word b (o % 0x1000))
  else if o < 0x20000 then .none
  else if o < 0x50000 then .bench b o
  else if 0x80000 ≤ o ∧ o < 0x88000 then .bench b o
  else .none

/-- The number of the ring region whose block lies in a die: ring j, the stop that is that die (R34, R46). -/
def ringRegion (forge : Bool) (n ring : Nat) : Option Nat :=
  ((List.range 12).find? fun i => ringStop i == (forge, n)).map fun i => 48 + 12 * ring + i

/-- A ring region block at an offset of 0 or 0x1000 from the die's ring region blocks (R46). -/
def ringLoc (forge : Bool) (n o : Nat) : Loc :=
  if o < 0x2000 then
    match ringRegion forge n (o / 0x1000) with
    | some r => .ofWord (Rgn.word r (o % 0x1000))
    | Option.none => .none
  else .none

/-- The blocks of forge die n, by die offset (R406). -/
def forgeLoc (n o : Nat) : Loc :=
  if o < 0x500000 then benchLoc (5 * n + o / 0x100000) (o % 0x100000)
  else if 0x800000 ≤ o ∧ o < 0x900000 then .ofWord (Mc.word n (o - 0x800000))
  else if 0x900000 ≤ o ∧ o < 0xA00000 then .ofWord (Sc.word n (o - 0x900000))
  else if 0xA0F000 ≤ o ∧ o < 0xA10000 then .ofWord (Rgn.word (40 + n) (o - 0xA0F000))
  else if 0xA00000 ≤ o ∧ o < 0xB00000 then .ofWord (Sl.word n (o - 0xA00000))
  else if 0xB00000 ≤ o ∧ o < 0xC00000 then ringLoc true n (o - 0xB00000)
  else .none

/-- The blocks of port die m, by die offset (R406). -/
def portLoc (m o : Nat) : Loc :=
  if o < 0x200000 then .ofWord (Oct.word (16 * m + o / 0x20000) (o % 0x20000))
  else if 0x400000 ≤ o ∧ o < 0x500000 then .ofWord (Pool.word m (o - 0x400000))
  else if 0x500000 ≤ o ∧ o < 0x600000 then .ofWord (Tm.word m (o - 0x500000))
  else if 0x600000 ≤ o ∧ o < 0x700000 then ringLoc false m (o - 0x600000)
  else .none

/-- Mailbox blocks (R410), by offset from the first. -/
def mailboxLoc (o : Nat) : Loc :=
  if o < 0x10000 then
    let m := o / 0x800
    let w := o % 0x800
    if w = 0x10 ∨ w = 0x18 ∨ (0x20 ≤ w ∧ w < 0x420) then .reply m ((w - 0x10) / 8)
    else if 0x420 ≤ w then .zero
    else .ofWord (Mb.word m w)
  else .none

/-- The hub blocks of R407, by hub offset. -/
def hubLoc (o : Nat) : Loc :=
  let w := o % 0x10000
  match o / 0x10000 with
  | 0 => .ofWord (Feat.word w)
  | 1 => .ofWord (Cmd.word w)
  | 2 => mailboxLoc w
  | 3 => .ofWord (Tb.word w)
  | 4 => .ofWord (Sec.word w)
  | 5 => .ofWord (Ws.word w)
  | 6 => .ofWord (Upd.word w)
  | 7 => .ofWord (Coll.word w)
  | 8 => .ofWord (Fab.word w)
  | 9 => .ofWord (Imp.word w)
  | 10 => .ofWord (Surv.word w)
  | 11 => .ofWord (Side.word w)
  | 12 => .ofWord (Pwr.word w)
  | 13 => .ofWord (Dl.word w)
  | _ => .none

/-- The observation range (R437, R440, R446, R448), by offset. -/
def obsLoc (o : Nat) : Loc :=
  if o < 0x10000 then .ofWord (Obs.word o)
  else if 0x60000 ≤ o ∧ o < 0x80000 then if o % 0x1000 < 0x890 then .area else .none
  else if 0x100000 ≤ o ∧ o < 0x300000 then .area
  else .ofWord (Aoc.word o)

/-- The error log range (R436, R449), by offset. -/
def elogLoc (o : Nat) : Loc :=
  if o < 0x10000 then .ofWord (Elog.word o)
  else if o < 0x210000 then .logWord ((o - 0x10000) / 32) (o % 32 / 8)
  else .none

/-- The device-local address map of R406, for the aligned word at a. -/
def locate (a : Nat) : Loc :=
  if a % 8 ≠ 0 then .none
  else if a < 0x15000000000 then .lpddr
  else if 0x200000000000 ≤ a ∧ a < 0x200030000000 then
    .stone ((a - 0x200000000000) / 0x6000000) ((a - 0x200000000000) % 0x6000000)
  else if 0x3F0000000000 ≤ a ∧ a < 0x3F0001000000 then hubLoc (a - 0x3F0000000000)
  else if 0x3F0001000000 ≤ a ∧ a < 0x3F0009000000 then
    forgeLoc ((a - 0x3F0001000000) / 0x1000000) ((a - 0x3F0001000000) % 0x1000000)
  else if 0x3F0009000000 ≤ a ∧ a < 0x3F000D000000 then
    portLoc ((a - 0x3F0009000000) / 0x1000000) ((a - 0x3F0009000000) % 0x1000000)
  else if 0x3F000D000000 ≤ a ∧ a < 0x3F000E000000 then obsLoc (a - 0x3F000D000000)
  else if 0x3F000E000000 ≤ a ∧ a < 0x3F000F000000 then elogLoc (a - 0x3F000E000000)
  else .none

/-- The fields of the register word at a; empty where a is no register word. -/
def fieldsAt (a : Nat) : List Field :=
  match locate a with
  | .regs fs => fs
  | _ => []

/-- The field kept under a key, if a register table lists one. -/
def fieldOfKey (k : Nat) : Option Field := (fieldsAt (k / 64)).find? fun f => f.lo == k % 64

/-- A register word as it reads (R7): every field at its place, write-only fields as zero. -/
def State.readWord (s : State) (fs : List Field) : Nat :=
  (fs.map fun f => if f.acc = .wo then 0 else s.get f * 2 ^ f.lo).sum

end Sys2Proof.Machine
end

