-- ==== Sys2Proof/Machine/Ops.lean ====
section
/-! DEFINITION. The named operations over the state: free values, memory with its error states, the error log, alerts,
trace, and the Dreril Link's outgoing flits. -/

namespace Sys2Proof.Machine

open Sys2Proof

/-! ### Free values and time -/

/-- The next free value of the run (log entry 10). -/
def State.fresh (s : State) : Nat × State := (Config.free s.freeCtr, { s with freeCtr := s.freeCtr + 1 })

/-- The global count (R54). -/
def State.now (s : State) : Nat := s.get Tb.count

/-- Whether the hub is powered and not held by RESET_N (R456, R461). -/
def State.alive (s : State) : Bool := s.get Cmd.powerState != 0 && s.flag Side.resetNIn

/-- Whether the forge and port dies are powered: ACTIVE or THROTTLED (R456). -/
def State.active (s : State) : Bool := decide (2 ≤ s.get Cmd.powerState) && s.flag Side.resetNIn

/-- Whether the device is running: RUN_STATE is 2 (R403). -/
def State.running (s : State) : Bool := s.get Cmd.runState == 2

/-! ### Memory -/

/-- The listed cells of bytes written from address a on: zero bytes are not listed (log entry 2). -/
def cells : Nat → List Byte → List Host.Cell
  | _, [] => []
  | a, b :: bs => if b = 0 then cells (a + 1) bs else (a, b) :: cells (a + 1) bs

/-- What memory reads as at address a: zero where nothing is listed (log entry 2). -/
def memRead (m : List Host.Cell) (a : Nat) : Byte := Tab.get m 0 a

/-- Memory with bytes written from address a on, in canonical form. -/
def memWrite (m : List Host.Cell) (a : Nat) (bs : List Byte) : List Host.Cell :=
  m.filter (fun c => decide (c.1 < a)) ++ cells a bs ++ m.filter (fun c => decide (a + bs.length ≤ c.1))

/-- The canonical form of memory: addresses strictly rising, no entry equal to what an unlisted address reads as. -/
def Memory.wf (m : List Host.Cell) : Bool := Tab.wf m 0

/-- The byte at a device-local address. -/
def State.rd (s : State) (a : Nat) : Byte := memRead s.mem a

/-- n bytes from address a on. -/
def State.rdBytes (s : State) (a n : Nat) : List Byte := (List.range n).map fun k => s.rd (a + k)

/-- The little-endian number of n bytes from address a on (R6). -/
def State.rdNat (s : State) (a n : Nat) : Nat := leNat (s.rdBytes a n)

/-- Whether an address lies in LPDDR5X (R406). -/
def isLpddr (a : Nat) : Bool := decide (a < 0x15000000000)

/-- Whether an address lies in stone (R406). -/
def isStone (a : Nat) : Bool := decide (0x200000000000 ≤ a ∧ a < 0x200030000000)

/-- Base of the stone of forge die n (R147). -/
def stoneBase (n : Nat) : Nat := 0x200000000000 + n * 0x6000000

/-- The forge die of an LPDDR5X or stone address (R334, R147). -/
def dieOf (a : Nat) : Nat := if isLpddr a then a / 0x2A00000000 else (a - 0x200000000000) / 0x6000000

/-- The channel of an LPDDR5X address, numbered 48n + c (R335). -/
def chanOf (a : Nat) : Nat := 48 * (a / 0x2A00000000) + a % 0x2A00000000 / 64 % 48

/-- The least of some addresses. -/
def leastAddr (l : List Nat) : Option Nat :=
  l.foldl (fun m a => match m with | none => some a | some b => some (min a b)) none

/-- The first poisoned line or uncorrectable word that n bytes from a meet (R338, R339). -/
def State.readErr (s : State) (a n : Nat) : Option Nat :=
  leastAddr (s.poison.filter (fun l => decide (l < a + n ∧ a < l + 64)) ++
    s.badWords.filter (fun l => decide (l < a + n ∧ a < l + 8)))

/-- The first poisoned line or uncorrectable word that a write of n bytes at a covers in part (R338, R339). -/
def State.storeErr (s : State) (a n : Nat) : Option Nat :=
  leastAddr (s.poison.filter (fun l => decide (l < a + n ∧ a < l + 64 ∧ ¬ (a ≤ l ∧ l + 64 ≤ a + n))) ++
    s.badWords.filter (fun l => decide (l < a + n ∧ a < l + 8 ∧ ¬ (a ≤ l ∧ l + 8 ≤ a + n))))

/-- Bytes written at a: whole lines and whole words written lose their error (R338, R339). -/
def State.store (s : State) (a : Nat) (bs : List Byte) : State :=
  { s with
    mem := memWrite s.mem a bs
    poison := s.poison.filter (fun l => decide (¬ (a ≤ l ∧ l + 64 ≤ a + bs.length)))
    badWords := s.badWords.filter (fun l => decide (¬ (a ≤ l ∧ l + 8 ≤ a + bs.length))) }

/-- A number stored as n little-endian bytes. -/
def State.storeNat (s : State) (a n v : Nat) : State := s.store a (leBytes n v)

/-- Whether the spare region of die n refuses accesses, and the address lies in it (R342). -/
def State.inSpare (s : State) (a : Nat) : Bool :=
  isLpddr a && decide (0x2900000000 ≤ a % 0x2A00000000) && s.flag (Mc.spareEn (a / 0x2A00000000))

/-- Whether n bytes from a lie in LPDDR5X outside a spare region, or in the stone of one die. -/
def State.ramOk (s : State) (a n : Nat) : Bool :=
  (decide (a + n ≤ 0x15000000000) && !s.inSpare a && !s.inSpare (a + n - 1)
    && decide (a / 0x2A00000000 = (a + n - 1) / 0x2A00000000)) ||
  (decide (0x200000000000 ≤ a ∧ a + n ≤ 0x200030000000) && decide (dieOf a = dieOf (a + n - 1)))

/-- The address that a refused read of n bytes from a logs: the first one in a spare region (R342), else the descriptor's (R128). -/
def State.faultPlace (s : State) (desc a n : Nat) : Nat :=
  if s.inSpare a then a
  else if s.inSpare (a + n - 1) then (a + n - 1) / 0x2A00000000 * 0x2A00000000 + 0x2900000000 else desc

/-! ### Stores, monitor slots and what the Compositor sees (R154, R172) -/

/-- A bench's Compositor state. -/
def State.comp (s : State) (b : Nat) : Comp := Tab.get s.comps {} b

/-- The state with a bench's Compositor state replaced. -/
def State.setComp (s : State) (b : Nat) (x : Comp) : State := { s with comps := Tab.set s.comps {} b x }

/-- MON_ARMED and MON_FIRED follow a bench's slots (R178). -/
def State.showMons (s : State) (b : Nat) : State :=
  let ms := (s.comp b).mons
  s.setAll [(Cmp.monArmed b, ((ms.filter (·.2.armed)).map fun e => 2 ^ e.1).sum),
    (Cmp.monFired b, ((ms.filter (·.2.fired)).map fun e => 2 ^ e.1).sum)]

/-- Whether an armed slot's word meets n bytes at a, and has reached the slot's threshold (R172). -/
def State.firesAt (s : State) (a n : Nat) (m : MonSlot) : Bool :=
  m.armed && !m.fired && decide (m.word < a + n ∧ a < m.word + 8) && (s.readErr m.word 8).isNone && decide (m.threshold ≤ s.rdNat m.word 8)

/-- Armed slots of bench b on words that n bytes at a meet fire when the words have reached their thresholds (R172). -/
def State.fireBench (s : State) (b a n : Nat) : State :=
  let x := s.comp b
  if x.mons.any fun e => s.firesAt a n e.2 then
    (s.setComp b { x with mons := x.mons.map fun e => if s.firesAt a n e.2 then (e.1, { e.2 with fired := true }) else e }).showMons b
  else s

/-- Every monitor slot on a word that n bytes at a meet fires when the word has reached its threshold, whoever stored them (R172). -/
def State.fireMons (s : State) (a n : Nat) : State := ((s.comps.map (·.1)).foldl (fun t b => t.fireBench b a n) s)

/-- What is left of a veil where n bytes at a have been stored anew. -/
def Veil.cut (a n : Nat) (v : Veil) : List Veil :=
  if v.addr + v.old.length ≤ a ∨ a + n ≤ v.addr then [v]
  else
    [{ v with old := v.old.take (a - v.addr) }, { v with addr := a + n, old := v.old.drop (a + n - v.addr) }].filter fun u => u.old != []

/-- Bytes stored at a by another party than a station: they are seen at once, and monitor slots fire (R154, R172). -/
def State.put (s : State) (a : Nat) (bs : List Byte) : State :=
  let t := s.store a bs
  State.fireMons { t with veils := (t.veils.map fun e => (e.1, (e.2.map (Veil.cut a bs.length)).flatten)).filter fun e => e.2 != [] } a bs.length

/-! ### Alerts -/

/-- ALERT_N is raised: ALERT_PEND is set and ALERT_COUNT counts (R466). -/
def State.alert (s : State) : State :=
  ((s.set Side.alertPend 1).bump Side.alertCount 1).set Side.alertOut 1

/-! ### Sensors -/

/-- The temperature field of region r as a signed number of 0.1 C. -/
def State.rgnTemp (s : State) (r : Nat) : Int := sext 16 (s.get (Rgn.temp r))

/-- The hottest region (R434). -/
def State.hottest (s : State) : Int :=
  (List.range 72).foldl (fun m r => max m (s.rgnTemp r)) (s.rgnTemp 0)

/-- Temperature and supply of a unit (R434). -/
def State.sensors (s : State) (u : LogUnit) : Int × Nat :=
  match u.region with
  | some r => (s.rgnTemp r, s.get (Rgn.vread r))
  | none =>
    match u with
    | .board => (s.hottest, s.get Pwr.vin)
    | _ => (Tab.get s.fixedTemp 0 u.fixed, Tab.get s.fixedRail 750 u.fixed)

/-! ### Trace (R441-R443) -/

/-- One trace record written to the ring at TRACE_BASE; a full ring that does not wrap stops and drops it (R441, R443). -/
def State.traceRing (s : State) (rec : Nat) : State :=
  let cap := s.get Obs.traceMib * 32768
  let n := s.get Obs.traceNext
  if cap = 0 ∨ (cap ≤ n ∧ ¬ s.flag Obs.traceWrap) then (s.set Obs.traceFull 1).bump Obs.traceDrops 1
  else
    let a := s.get Obs.traceBase + 32 * (n % cap)
    match s.storeErr a 32 with
    | some _ => s.bump Obs.traceNext 1
    | none => (s.store a (leBytes 32 rec)).bump Obs.traceNext 1

/-- The oldest record of a region's FIFO goes to the ring. -/
def State.traceDrain (s : State) (r : Nat) : State :=
  match Tab.get s.traceFifo [] r with
  | [] => s
  | rec :: rest => State.traceRing { s with traceFifo := Tab.set s.traceFifo [] r rest } rec

/-- Whether region r records events of a kind (R441, R62). -/
def State.tracing (s : State) (r kind : Nat) : Bool :=
  s.flag Obs.traceEn && bitAt (2 * s.get Obs.traceKinds) kind && (s.get (Rgn.state r) == 0) &&
    (if r < 64 then bitAt (s.get Obs.traceRegionsLo) r else bitAt (s.get Obs.traceRegionsHi) (r - 64))

/-- A trace record of region r (R441): into the FIFO of 64; with TRACE_STALL the handshake waits until an entry frees,
without it the record is dropped (R443). Fields from KIND on are given as (value, width). -/
def State.trace (s : State) (r kind : Nat) (fields : List (Nat × Nat)) : State :=
  if s.tracing r kind ∧ ¬ (kind = 3 ∧ s.get (Rgn.event r) % 2 ^ s.get Obs.traceDecim ≠ 0) then
    let rec' := packDetail ([(s.now, 64), (s.get (Rgn.event r), 48), (rgnType r, 4), (rgnNumber r, 8), (kind, 4)] ++ fields)
    let q := Tab.get s.traceFifo [] r
    if q.length < 64 then { s with traceFifo := Tab.set s.traceFifo [] r (q ++ [rec']) }
    else if s.flag Obs.traceStall then
      let t := s.traceDrain r
      { t with traceFifo := Tab.set t.traceFifo [] r (Tab.get t.traceFifo [] r ++ [rec']) }
    else s.bump Obs.traceDrops 1
  else s

/-! ### The error log (R432-R436) -/

/-- The always-on ERRORS counter of a unit (R437). -/
def LogUnit.errors : LogUnit → Option Field
  | .bench b => some (Aoc.benchErrors b)
  | .port p => some (Aoc.portErrors p)
  | .chan c => some (Aoc.chanErrors c)
  | .ring i => some (Aoc.ringErrors i)
  | _ => none

/-- The log's registers after one more entry: NEXT and OLDEST advance, a full log loses its oldest entry (R436). -/
def State.logCount (s : State) (cls : Nat) : State :=
  let n := s.get Elog.next
  let o := s.get Elog.oldest
  let full := (n + 2 ^ 32 - o) % 2 ^ 32 == 65536
  let s := s.set Elog.next (n + 1)
  let s := if full then (s.set Elog.oldest (o + 1)).bump Elog.logLost 1 else s
  (s.set Elog.logEvt 1).bump (Elog.classCount cls) 1

/-- An entry of the error log (R432): class, unit, address and details. -/
def State.log1 (s : State) (cls : Nat) (u : LogUnit) (address detail : Nat) : State :=
  let n := s.get Elog.next
  let e : LogEntry := ⟨s.now, n, cls, u.utype, u.num, twos 12 (s.sensors u).1, (s.sensors u).2 % 2 ^ 16,
    address % 2 ^ 48, detail % 2 ^ 60⟩
  let s := State.logCount { s with log := Tab.put s.log (n % 65536) e } cls
  let s := match u.errors with
    | some f => s.bump f 1
    | none => s
  match u.region with
  | some r => s.trace r 6 [(15, 4), (0, 4), (0, 8), (0, 24), (0, 24), (n, 64)]
  | none => s

/-- An entry with several details (R435). -/
def State.logE (s : State) (cls : Nat) (u : LogUnit) (address : Nat) (details : List (Nat × Nat)) : State :=
  s.log1 cls u address (packDetail details)

/-- The 32 bytes of a log entry as a number (R432). -/
def LogEntry.toNat (e : LogEntry) : Nat :=
  packDetail [(e.stamp, 64), (e.number, 32), (e.cls, 8), (e.utype, 4), (e.unit, 12), (e.temp, 12), (e.supply, 16),
    (e.address, 48), (e.detail, 60)]

/-- The number of log entries held (R398). -/
def State.logHeld (s : State) : Nat := (s.get Elog.next + 2 ^ 32 - s.get Elog.oldest) % 2 ^ 32

/-- The access violation of R405: the log entry, LAST_FAULT_ADDR with the opcode, VIOLATION_EVT. -/
def State.violation (s : State) (opcode a : Nat) : State :=
  (((s.logE clAccess .hub a []).set Cmd.lastFaultAddr a).set Cmd.lastFaultOp opcode).set Cmd.violationEvt 1

/-! ### The Dreril Link's outgoing side (R388-R390) -/

/-- The flits of a packet on channel ch, without their SEQ: 30 bytes of it each, FIRST and LAST set (R388). -/
def flitsOf (ch : Nat) (bytes : List Byte) : List Nat :=
  let n := ceilDiv bytes.length 30
  (List.range n).map fun k =>
    ch + 4 * b2n (k == 0) + 8 * b2n (k + 1 == n) + 65536 * leNat ((bytes.drop (30 * k)).take 30)

/-- The 16-byte header and the words of a reply (R393). -/
def Reply.bytes (r : Reply) : List Byte :=
  leBytes 16 (packDetail [(1, 4), (0, 4), (r.opcode, 8), (r.tag, 16), (8 * r.words.length, 12), (0, 4), (r.status, 8),
    (0, 8), (r.faultAddr, 48)]) ++ (r.words.map fun w => leBytes 8 w.toNat).flatten

/-- The bulk packets of a device-to-host transfer (R394). -/
def bulkPackets (tag : Nat) (data : List Byte) : List (List Byte) :=
  (List.range (max 1 (ceilDiv data.length 4096))).map fun k =>
    let d := (data.drop (4096 * k)).take 4096
    leBytes 16 (packDetail [(1, 4), (0, 12), (tag, 16), (4096 * k, 48), (d.length, 13),
      (b2n (4096 * (k + 1) ≥ data.length), 1)]) ++ d

/-- The port number that the wire record uses for the Dreril Link. -/
def drerilWire : Nat := 1000

/-- One flit of channel ch sent, if the link is up, a credit is held and the replay buffer has room (R389, R390). -/
def State.sendFlit (s : State) (ch : Nat) : State :=
  match Tab.get s.dreril.outQ [] ch with
  | [] => s
  | f :: rest =>
    if s.get Dl.linkState = 2 ∧ 0 < Tab.get s.dreril.credits 0 ch ∧ s.dreril.replay.length < 1024 then
      let flit := f + 16 * s.dreril.txSeq
      { s with
        dreril := { s.dreril with
          txSeq := (s.dreril.txSeq + 1) % 4096
          replay := s.dreril.replay ++ [flit]
          credits := Tab.set s.dreril.credits 0 ch (Tab.get s.dreril.credits 0 ch - 1)
          outQ := Tab.set s.dreril.outQ [] ch rest }
        wire := s.wire ++ [(drerilWire, flit)]
        statusQ := if ch = 1 ∧ bitAt f 3 then s.statusQ.drop 1 else s.statusQ
        bulkQ := if ch = 2 ∧ bitAt f 3 then s.bulkQ.drop 1 else s.bulkQ }
    else s

/-- Send up to n flits of channel ch. -/
def State.sendFlits (s : State) (ch : Nat) : Nat → State
  | 0 => s
  | n + 1 => State.sendFlits (s.sendFlit ch) ch n

/-- Send what credits and the replay buffer allow: replies first, then bulk (R390). -/
def State.drainDreril (s : State) : State :=
  let t := s.sendFlits 1 (min 1024 (Tab.get s.dreril.outQ [] 1).length)
  t.sendFlits 2 (min 1024 (Tab.get t.dreril.outQ [] 2).length)

/-- A reply goes to the status channel; NOT_OK and HW_FAULT_EVT follow its status (R393, R409). -/
def State.reply (s : State) (r : Reply) : State :=
  let s := if r.status = stOk then s else s.bump Cmd.notOk 1
  let s := if r.status = stHwFault then s.set Cmd.hwFaultEvt 1 else s
  State.drainDreril { s with
    statusQ := s.statusQ ++ [r]
    dreril := { s.dreril with outQ := Tab.put s.dreril.outQ 1 (Tab.get s.dreril.outQ [] 1 ++ flitsOf 1 r.bytes) } }

/-- A device-to-host bulk transfer (R394). -/
def State.bulkOut (s : State) (tag : Nat) (data : List Byte) : State :=
  let ps := bulkPackets tag data
  State.drainDreril { s with
    bulkQ := s.bulkQ ++ ps.map fun p => ⟨tag, p.drop 16⟩
    dreril := { s.dreril with
      outQ := Tab.put s.dreril.outQ 2 (Tab.get s.dreril.outQ [] 2 ++ (ps.map (flitsOf 2)).flatten) } }

/-! ### The tick -/

/-- Whether some station of bench b has STATE x. -/
def State.anyStation (s : State) (b x : Nat) : Bool := (List.range 10).any fun i => s.get (Stn.state b i) == x

/-- The bench's ACTIVE_NS or STALL_NS advances (R437). -/
def State.tickBench (s : State) (b : Nat) : State :=
  if s.anyStation b 1 then s.bump (Aoc.activeNs b) 1
  else if s.anyStation b 2 then s.bump (Aoc.stallNs b) 1
  else s

/-- The global count advances by one tick, unless a tick is held (R59); PPS_OUT falls 10 us after it rose (R56). -/
def State.countTick (s : State) : State :=
  if s.time.hold ≠ 0 then { s with time := { s.time with hold := s.time.hold - 1 } }
  else
    let t := s.bump Tb.count 1
    if t.time.ppsOut ∧ 10000 ≤ t.now % 1000000000 then { t with time := { t.time with ppsOut := false } } else t

/-- One tick of 1 ns: the global count advances while the hub is powered; the counters of elapsed time follow (R54,
R437, R471; log entry 9). -/
def tick (s : State) : State :=
  if s.get Cmd.powerState = 0 then s
  else
    let s := { s.countTick with elapsed := s.elapsed + 1 }
    let s := if s.get Cmd.powerState = 3 then s.bump Pwr.throttleNs 1 else s
    if s.get Cmd.powerState = 1 then s else (List.range 40).foldl State.tickBench s

end Sys2Proof.Machine
end

