-- ==== Sys2Proof/Machine/Hash.lean ====
section
/-! DEFINITION. Check codes and digests: CRC-64 (R262), CRC-32C (R286), the IEEE 802.3 frame check (R313), SHA-384. -/

namespace Sys2Proof.Machine

open Sys2Proof

/-- f applied n times. -/
def iter {α : Type} (f : α → α) : Nat → α → α
  | 0, x => x
  | n + 1, x => iter f n (f x)

/-- One bit of the CRC-64 of ECMA-182 (R262). -/
def crc64Bit (c : Nat) : Nat :=
  if 2 ^ 63 ≤ c then (2 * c % 2 ^ 64) ^^^ 0x42F0E1EBA9EA3693 else 2 * c % 2 ^ 64

/-- The CRC-64 of R262: initial value 0, bytes from bit 7 down. -/
def crc64 (bs : List Byte) : Nat := bs.foldl (fun c b => iter crc64Bit 8 (c ^^^ (b.toNat * 2 ^ 56))) 0

/-- One bit of a reflected 32-bit CRC. -/
def crc32Bit (poly c : Nat) : Nat := if c % 2 = 1 then (c / 2) ^^^ poly else c / 2

/-- A reflected CRC with initial value and final XOR of all ones. -/
def crc32r (poly : Nat) (bs : List Byte) : Nat :=
  (bs.foldl (fun c b => iter (crc32Bit poly) 8 (c ^^^ b.toNat)) 0xFFFFFFFF) ^^^ 0xFFFFFFFF

/-- CRC-32C (R286): the reflection of 0x1EDC6F41. -/
def crc32c (bs : List Byte) : Nat := crc32r 0x82F63B78 bs

/-- The frame check sequence of IEEE 802.3 (R313, R320). -/
def crc32 (bs : List Byte) : Nat := crc32r 0xEDB88320 bs

/-! ### SHA-384 -/

/-- The round constants of SHA-512 and SHA-384. -/
def shaK : List Nat :=
  [0x428A2F98D728AE22, 0x7137449123EF65CD, 0xB5C0FBCFEC4D3B2F, 0xE9B5DBA58189DBBC, 0x3956C25BF348B538, 0x59F111F1B605D019, 0x923F82A4AF194F9B, 0xAB1C5ED5DA6D8118] ++
  [0xD807AA98A3030242, 0x12835B0145706FBE, 0x243185BE4EE4B28C, 0x550C7DC3D5FFB4E2, 0x72BE5D74F27B896F, 0x80DEB1FE3B1696B1, 0x9BDC06A725C71235, 0xC19BF174CF692694] ++
  [0xE49B69C19EF14AD2, 0xEFBE4786384F25E3, 0x0FC19DC68B8CD5B5, 0x240CA1CC77AC9C65, 0x2DE92C6F592B0275, 0x4A7484AA6EA6E483, 0x5CB0A9DCBD41FBD4, 0x76F988DA831153B5] ++
  [0x983E5152EE66DFAB, 0xA831C66D2DB43210, 0xB00327C898FB213F, 0xBF597FC7BEEF0EE4, 0xC6E00BF33DA88FC2, 0xD5A79147930AA725, 0x06CA6351E003826F, 0x142929670A0E6E70] ++
  [0x27B70A8546D22FFC, 0x2E1B21385C26C926, 0x4D2C6DFC5AC42AED, 0x53380D139D95B3DF, 0x650A73548BAF63DE, 0x766A0ABB3C77B2A8, 0x81C2C92E47EDAEE6, 0x92722C851482353B] ++
  [0xA2BFE8A14CF10364, 0xA81A664BBC423001, 0xC24B8B70D0F89791, 0xC76C51A30654BE30, 0xD192E819D6EF5218, 0xD69906245565A910, 0xF40E35855771202A, 0x106AA07032BBD1B8] ++
  [0x19A4C116B8D2D0C8, 0x1E376C085141AB53, 0x2748774CDF8EEB99, 0x34B0BCB5E19B48A8, 0x391C0CB3C5C95A63, 0x4ED8AA4AE3418ACB, 0x5B9CCA4F7763E373, 0x682E6FF3D6B2B8A3] ++
  [0x748F82EE5DEFB2FC, 0x78A5636F43172F60, 0x84C87814A1F0AB72, 0x8CC702081A6439EC, 0x90BEFFFA23631E28, 0xA4506CEBDE82BDE9, 0xBEF9A3F7B2C67915, 0xC67178F2E372532B] ++
  [0xCA273ECEEA26619C, 0xD186B8C721C0C207, 0xEADA7DD6CDE0EB1E, 0xF57D4F7FEE6ED178, 0x06F067AA72176FBA, 0x0A637DC5A2C898A6, 0x113F9804BEF90DAE, 0x1B710B35131C471B] ++
  [0x28DB77F523047D84, 0x32CAAB7B40C72493, 0x3C9EBE0A15C9BEBC, 0x431D67C49C100D4C, 0x4CC5D4BECB3E42B6, 0x597F299CFC657E2A, 0x5FCB6FAB3AD6FAEC, 0x6C44198C4A475817]

/-- The initial hash value of SHA-384. -/
def shaIv : List Nat := [0xCBBB9D5DC1059ED8, 0x629A292A367CD507, 0x9159015A3070DD17, 0x152FECD8F70E5939, 0x67332667FFC00B31, 0x8EB44A8768581511, 0xDB0C2E0D64F98FA7, 0x47B5481DBEFA4FA4]

/-- A 64-bit word rotated right. -/
def rotr (n x : Nat) : Nat := x / 2 ^ n + x % 2 ^ n * 2 ^ (64 - n)

/-- The next word of the message schedule from the last sixteen, newest last. -/
def shaNext (w : List Nat) : Nat :=
  let a := nth 0 w 1
  let b := nth 0 w 14
  let s0 := rotr 1 a ^^^ rotr 8 a ^^^ (a / 2 ^ 7)
  let s1 := rotr 19 b ^^^ rotr 61 b ^^^ (b / 2 ^ 6)
  (nth 0 w 0 + s0 + nth 0 w 9 + s1) % 2 ^ 64

/-- One round: the eight working variables and the window of sixteen schedule words, whose first is this round's. -/
def shaRound (st : List Nat × List Nat) (k : Nat) : List Nat × List Nat :=
  match st.1 with
  | [a, b, c, d, e, f, g, h] =>
    let w := nth 0 st.2 0
    let s1 := rotr 14 e ^^^ rotr 18 e ^^^ rotr 41 e
    let ch := (e &&& f) ^^^ ((2 ^ 64 - 1 - e) &&& g)
    let t1 := h + s1 + ch + k + w
    let s0 := rotr 28 a ^^^ rotr 34 a ^^^ rotr 39 a
    let mj := (a &&& b) ^^^ (a &&& c) ^^^ (b &&& c)
    ([(t1 + s0 + mj) % 2 ^ 64, a, b, c, (d + t1) % 2 ^ 64, e, f, g], st.2.drop 1 ++ [shaNext st.2])
  | _ => st

/-- The big-endian number of some bytes. -/
def beNat (bs : List Byte) : Nat := bs.foldl (fun n b => 256 * n + b.toNat) 0

/-- The k low bytes of a number, most significant first. -/
def beBytes (k n : Nat) : List Byte := (leBytes k n).reverse

/-- One 1,024-bit block. -/
def shaBlock (h : List Nat) (blk : List Byte) : List Nat :=
  let w := (List.range 16).map fun j => beNat ((blk.drop (8 * j)).take 8)
  (List.zip h (shaK.foldl shaRound (h, w)).1).map fun e => (e.1 + e.2) % 2 ^ 64

/-- SHA-384 of a byte string, as its 48 bytes. -/
def sha384 (bs : List Byte) : List Byte :=
  let n := bs.length
  let padded := bs ++ [0x80] ++ List.replicate ((111 - n % 128 + 128) % 128) 0 ++ beBytes 16 (8 * n)
  (((chunks 128 padded).foldl shaBlock shaIv).take 6).flatMap (beBytes 8)

/-- The value of an item of a multiset digest: the first 16 bytes of its SHA-384. -/
def itemDigest (bs : List Byte) : Nat := leNat ((sha384 bs).take 16)

end Sys2Proof.Machine
end

