-- ==== Sys2Proof/Machine/Packet.lean ====
section
/-! DEFINITION. Fabric packets: the header's fields, the trailer and the packets the device builds (R260-R262). -/

namespace Sys2Proof.Machine

open Sys2Proof

/-- Field [lo + w - 1 : lo] of the header (R260). -/
def pktField (p : Pkt) (lo w : Nat) : Nat := bits p.hdr.toNat lo w

/-- VERSION. -/
def pktVersion (p : Pkt) : Nat := pktField p 0 4
/-- VC. -/
def pktVc (p : Pkt) : Nat := pktField p 4 3
/-- PLANE. -/
def pktPlane (p : Pkt) : Nat := pktField p 7 1
/-- KIND. -/
def pktKind (p : Pkt) : Nat := pktField p 8 4
/-- DST. -/
def pktDst (p : Pkt) : Nat := pktField p 16 20
/-- SRC. -/
def pktSrc (p : Pkt) : Nat := pktField p 36 20
/-- RHANDLE. -/
def pktRh (p : Pkt) : Nat := pktField p 56 16
/-- OFFSET. -/
def pktOffset (p : Pkt) : Nat := pktField p 72 40
/-- LENGTH. -/
def pktLength (p : Pkt) : Nat := pktField p 112 14
/-- COLOUR. -/
def pktColour (p : Pkt) : Nat := pktField p 126 2
/-- SEQ. -/
def pktSeq (p : Pkt) : Nat := pktField p 128 32
/-- ORDINAL. -/
def pktOrd (p : Pkt) : Nat := pktField p 160 24
/-- STEP16. -/
def pktStep16 (p : Pkt) : Nat := pktField p 184 16
/-- MCAST. -/
def pktMcast (p : Pkt) : Bool := pktField p 200 1 == 1
/-- DOWN. -/
def pktDown (p : Pkt) : Bool := pktField p 201 1 == 1
/-- RESEND. -/
def pktResend (p : Pkt) : Bool := pktField p 202 1 == 1
/-- MIRROR. -/
def pktMirror (p : Pkt) : Bool := pktField p 203 1 == 1
/-- HOPS. -/
def pktHops (p : Pkt) : Nat := pktField p 216 8

/-- A header with field [lo + w - 1 : lo] replaced. -/
def hdrPut (h : BitVec 256) (lo w v : Nat) : BitVec 256 :=
  BitVec.ofNat 256 (h.toNat - bits h.toNat lo w * 2 ^ lo + v % 2 ^ w * 2 ^ lo)

/-- A packet with a header field replaced. -/
def pktPut (p : Pkt) (lo w v : Nat) : Pkt := { p with hdr := hdrPut p.hdr lo w v }

/-- The header with its mutable fields COLOUR, DOWN, RESEND, MIRROR and HOPS zero (R262). -/
def hdrFixed (h : BitVec 256) : BitVec 256 :=
  hdrPut (hdrPut (hdrPut h 126 2 0) 201 3 0) 216 8 0

/-- The header's bytes with the mutable fields zero. -/
def fixedBytes (p : Pkt) : List Byte := leBytes 32 (hdrFixed p.hdr).toNat

/-- The CRC-64 of header and payload (R262). -/
def pktCrc (p : Pkt) : Nat := crc64 (fixedBytes p ++ p.payload)

/-- Whether the trailer agrees (R263) and the payload has LENGTH bytes. -/
def pktCrcOk (p : Pkt) : Bool := p.crc.toNat == pktCrc p && p.payload.length == pktLength p

/-- The packet with its own trailer. -/
def pktSeal (p : Pkt) : Pkt := { p with crc := BitVec.ofNat 64 (pktCrc p) }

/-- The bytes of a packet on the wire: header, payload, trailer. -/
def pktBytes (p : Pkt) : List Byte := leBytes 32 p.hdr.toNat ++ p.payload ++ leBytes 8 p.crc.toNat

/-- The length of a packet in bytes (R298). -/
def pktLen (p : Pkt) : Nat := 40 + p.payload.length

/-- The packet kinds and the channels each travels on (R261). -/
def kindVcOk (kind vc : Nat) : Bool :=
  match kind with
  | 0 => vc == 0 || vc == 3 || vc == 5
  | 1 => vc == 0 || vc == 4
  | 2 => vc == 1
  | 3 => vc == 2
  | 4 => vc == 2
  | 5 => vc == 2
  | 6 => vc == 4
  | 7 => vc == 2
  | _ => false

/-- Whether a kind is acknowledged (R261). -/
def kindAcked (kind : Nat) : Bool := decide (kind ≤ 3) || kind == 6

/-- Whether a header is one a receiver uses (R260, R261): version, reserved values and fields, PLANE against VC, KIND
against VC, ORDINAL 0 off VC0. -/
def hdrOk (p : Pkt) : Bool :=
  pktVersion p == 1 && decide (pktVc p < 6) && ((pktPlane p == 0) == (pktVc p == 0)) && kindVcOk (pktKind p) (pktVc p) &&
    pktField p 12 4 == 0 && pktField p 204 12 == 0 && pktField p 224 32 == 0 && decide (pktColour p < 3) &&
    decide (pktLength p ≤ 8192) && (pktVc p == 0 || pktOrd p == 0)

/-- What a packet that the device sends says besides what the transport fills in. -/
structure Draft where
  vc      : Nat
  kind    : Nat
  dst     : Nat
  rhandle : Nat := 0
  offset  : Nat := 0
  ordinal : Nat := 0
  mcast   : Bool := false
  payload : List Byte := []
  deriving DecidableEq, Repr

/-- The header of a draft (R260). -/
def Draft.hdr (d : Draft) (src hops seq step16 : Nat) : BitVec 256 :=
  BitVec.ofNat 256 (1 + d.vc % 8 * 2 ^ 4 + b2n (d.vc != 0) * 2 ^ 7 + d.kind % 16 * 2 ^ 8 + d.dst % 2 ^ 20 * 2 ^ 16 +
    src % 2 ^ 20 * 2 ^ 36 + d.rhandle % 2 ^ 16 * 2 ^ 56 + d.offset % 2 ^ 40 * 2 ^ 72 + d.payload.length % 2 ^ 14 * 2 ^ 112 +
    seq % 2 ^ 32 * 2 ^ 128 + d.ordinal % 2 ^ 24 * 2 ^ 160 + step16 % 2 ^ 16 * 2 ^ 184 + b2n d.mcast * 2 ^ 200 +
    hops % 256 * 2 ^ 216)

/-- The packet of a draft, sealed. -/
def Draft.pkt (d : Draft) (src hops seq step16 : Nat) : Pkt :=
  pktSeal ⟨d.hdr src hops seq step16, d.payload, 0⟩

end Sys2Proof.Machine
end

