-- ==== Sys2Proof/Machine/Transport.lean ====
section
/-! DEFINITION. Ports, link control blocks, the buffer pools, route lookup, egress queues, and the source's transport
state (R257-R301). -/

namespace Sys2Proof.Machine

open Sys2Proof

/-! ### Port contexts -/

/-- The state of port context p. -/
def State.port (s : State) (p : Nat) : Port := Tab.get s.ports {} p

/-- The state with port context p replaced. -/
def State.setPort (s : State) (p : Nat) (x : Port) : State := { s with ports := Tab.set s.ports {} p x }

/-- The state with port context p changed. -/
def State.onPort (s : State) (p : Nat) (f : Port → Port) : State := s.setPort p (f (s.port p))

/-- Port die of a context (R283). -/
def pdOf (p : Nat) : Nat := p / 128

/-- STATE of a context (R332). -/
def State.ctxState (s : State) (p : Nat) : Nat := s.get (Oct.ctxState (p / 8) (p % 8))

/-- Whether a context's link is up, narrowing included (R332). -/
def State.portUp (s : State) (p : Nat) : Bool := s.ctxState p == 3 || s.ctxState p == 4

/-- Whether a context runs in carried mode. -/
def State.carried (s : State) (p : Nat) : Bool := s.flag (Oct.ctxCarried (p / 8) (p % 8))

/-- Whether a context is a long-haul port (R274). -/
def State.longHaul (s : State) (p : Nat) : Bool := s.flag (Fab.lhEn p)

/-- Whether a context is a native site port. -/
def State.siteNative (s : State) (p : Nat) : Bool := !s.carried p && !s.longHaul p

/-- Lanes of a port in an octet mode (R314). -/
def modeLanes (mode : Nat) : Nat := 8 / 2 ^ mode

/-- Whether an octet's mode has context p (R314). -/
def State.ctxUsed (s : State) (p : Nat) : Bool := decide (p < 512) && p % modeLanes (s.get (Oct.mode (p / 8))) == 0

/-- Configured width of a context in lanes. -/
def State.cfgWidth (s : State) (p : Nat) : Nat := modeLanes (s.get (Oct.mode (p / 8)))

/-- Current width of a context in lanes (R314). -/
def State.width (s : State) (p : Nat) : Nat := s.get (Oct.ctxWidth (p / 8) (p % 8))

/-- The packet's bytes or the block's bytes under their frame type (R315), as the number that the wire record keeps. -/
def frameNat (ftype : Nat) (bytes : List Byte) : Nat := ftype + 256 * leNat bytes

/-- Something sent on a port, under the LINK_MODE in force (R272). -/
def State.emit (s : State) (p n : Nat) : State :=
  State.onPort { s with wire := s.wire ++ [(p, n)] } p fun x => { x with modes := x.modes ++ [s.get Fab.linkMode] }

/-- A link control block with its CRC (R316); body is its bits [223:16]. -/
def blockOf (type body : Nat) : Nat :=
  let b := 1 + type % 256 * 2 ^ 4 + body % 2 ^ 208 * 2 ^ 16
  b + crc32c (leBytes 28 b) * 2 ^ 224

/-- Whether a received block is one that a receiver uses: its CRC, VERSION and reserved field (R316, R474). -/
def blockOk (type : Nat) (b : BitVec 256) : Bool :=
  b.toNat / 2 ^ 224 == crc32c (leBytes 28 b.toNat) && bits b.toNat 0 4 == 1 && bits b.toNat 4 8 == type &&
    bits b.toNat 12 4 == 0

/-! ### Carried frames (R318) -/

/-- The 16-bit ones' complement sum of bytes taken in pairs, most significant first. -/
def onesSum : List Byte → Nat
  | a :: b :: rest => 256 * a.toNat + b.toNat + onesSum rest
  | [a] => 256 * a.toNat
  | [] => 0

/-- The Internet checksum of bytes. -/
def inetSum (bs : List Byte) : Nat :=
  let t := onesSum bs
  let t := t % 65536 + t / 65536
  let t := t % 65536 + t / 65536
  (65535 - t % 65536)

/-- An IPv6 address held as two register words. -/
def State.ip6 (s : State) (lo hi : Field) : List Byte := beBytes 16 (s.get lo + s.get hi * 2 ^ 64)

/-- The carried-mode frame of port p around frame-type byte and data, for VC v and flow hash h (R318). -/
def State.carriedFrame (s : State) (p v h ftype : Nat) (data : List Byte) (ctrl : Bool) : List Byte :=
  let j := p / 8
  let k := p % 8
  let body := BitVec.ofNat 8 ftype :: data
  let src := s.ip6 (Oct.ctxLocalIp6Lo j k) (Oct.ctxLocalIp6Hi j k)
  let dst := s.ip6 (Oct.ctxRemoteIp6Lo j k) (Oct.ctxRemoteIp6Hi j k)
  let ulen := 8 + body.length
  let udp (c : Nat) := beBytes 2 (0xC000 ||| h % 2 ^ 14) ++ beBytes 2 (s.get (Oct.ctxUdpDst j k)) ++ beBytes 2 ulen ++ beBytes 2 c
  let c := inetSum (src ++ dst ++ beBytes 4 ulen ++ beBytes 4 17 ++ udp 0 ++ body)
  let tag := if s.flag (Oct.ctxTagEn j k) then
      beBytes 2 0x8100 ++ beBytes 2 (s.get (Oct.pcp j v) * 8192 + s.get (Oct.ctxVid j k)) else []
  let ip := beBytes 4 (6 * 2 ^ 28 + s.get (Oct.dscp j v) * 4 * 2 ^ 20 + (if ctrl then 0 else h % 2 ^ 20)) ++ beBytes 2 ulen ++
    beBytes 1 17 ++ beBytes 1 (s.get (Oct.ctxHoplim j k)) ++ src ++ dst
  let f := beBytes 6 (s.get (Oct.ctxDmac j k)) ++ beBytes 6 (s.get (Oct.ctxSmac j k)) ++ tag ++ beBytes 2 0x86DD ++ ip ++
    udp (if c = 0 then 0xFFFF else c) ++ body
  f ++ leBytes 4 (crc32 f)

/-- A link control block sent on port p (R316, R318). -/
def State.sendBlock (s : State) (p type body : Nat) : State :=
  let bs := leBytes 32 (blockOf type body)
  if s.carried p then s.emit p (leNat (s.carriedFrame p 0 0 1 bs true)) else s.emit p (frameNat 1 bs)

/-- A link control block whose body the spec does not give: its body is a free value (log entry 10). -/
def State.sendOpenBlock (s : State) (p type : Nat) : State :=
  let (b, s) := s.fresh
  s.sendBlock p type b

/-! ### Credits granted (R266, R293) -/

/-- Link credits that a packet of n bytes takes, in units of 256 bytes (R266; log entry 11). -/
def creditUnits (n : Nat) : Nat := ceilDiv n 256

/-- The key under which a port counts the credits of a packet that it has granted. -/
def creditKey (pkt : Pkt) : Nat := if pktVc pkt = 0 then 16 + pktOrd pkt else pktVc pkt

/-- Credits granted to the peer of port p, as (key, units), in a CREDIT block; the block's body is open (R266, R316). -/
def State.grantCredit (s : State) (p : Nat) (l : List (Nat × Nat)) : State :=
  (s.onPort p fun x => { x with issued := l.foldl (fun (t : Tab Nat) (e : Nat × Nat) => Tab.set t 0 e.1 (Tab.get t 0 e.1 + e.2)) x.issued }).sendOpenBlock p 2

/-- Credits that an arriving packet uses up. -/
def State.spendCredit (s : State) (p : Nat) (pkt : Pkt) : State :=
  if s.siteNative p then
    s.onPort p fun x => { x with issued := Tab.set x.issued 0 (creditKey pkt) (Tab.get x.issued 0 (creditKey pkt) - creditUnits (pktLen pkt)) }
  else s

/-- Link credits go back to the sender of a packet whose buffer at the native site port p is free again (R266, R293). -/
def State.returnCredit (s : State) (p : Nat) (pkt : Pkt) : State :=
  if s.siteNative p then s.grantCredit p [(creditKey pkt, creditUnits (pktLen pkt))] else s

/-! ### The buffer pools (R291-R296) -/

/-- Buffer size of a pool (R291). -/
def poolSize (i : Nat) : Nat := nth 0 [256, 512, 1024, 2048, 4096, 8192, 16384, 65536] i

/-- The end of a free list. -/
def poolEnd : Nat := 0xFFFFFFFF

/-- The smallest pool for an object of n bytes. -/
def poolFor (n : Nat) : Nat := ((List.range 7).find? fun i => decide (n ≤ poolSize i)).getD 6

/-- Whether an offset is that of a buffer of pool i of port die m. -/
def State.poolHas (s : State) (m i off : Nat) : Bool :=
  let b := s.get (Pool.base m i)
  decide (b ≤ off) && (off - b) % poolSize i == 0 && decide ((off - b) / poolSize i < s.get (Pool.count m i))

/-- The in-use buffers of a pool, by offset. -/
def State.poolUsed (s : State) (m i : Nat) : List Nat :=
  (s.inUse.filter fun e => e.1 == m && s.poolHas m i e.2).map (·.2)

/-- The word of a free list that no write has changed: the list in ascending order of offsets (log entry 6). -/
def State.poolWord (s : State) (m i off : Nat) : Nat :=
  match Tab.find s.poolWords (m * 2 ^ 32 + off) with
  | some w => w
  | none =>
    let last := s.get (Pool.base m i) + poolSize i * (s.get (Pool.count m i) - 1)
    (if off = last then poolEnd else off + poolSize i) + (off ^^^ 0x5A5A5A5A) * 2 ^ 32

/-- A POOL_POINTER: the entry and the registers that record it (R295). -/
def State.poolBad (s : State) (m i off op : Nat) : State :=
  let s := s.logE clPool (.portDie m) 0 [(i, 3), (off, 32), (op, 1)]
  (s.setAll [(Pool.badPool m, i), (Pool.badOp m, op), (Pool.badPtr m, off), (Pool.poolEvt m, 1)]).bump (Pool.poolPointers m) 1

/-- One allocation from pool i of port die m: the buffer at HEAD, checked (R294, R295). -/
def State.poolTake (s : State) (m i : Nat) : Option Nat × State :=
  let h := s.get (Pool.head m i)
  if s.flag (Pool.closed m i) ∨ h = poolEnd then (none, s)
  else
    let w := s.poolWord m i h
    if s.poolHas m i h ∧ (m, h) ∉ s.inUse ∧ w / 2 ^ 32 = (h ^^^ 0x5A5A5A5A) then
      let free := s.get (Pool.free m i) - 1
      (some h, { s with inUse := (m, h) :: s.inUse }.setAll [(Pool.head m i, w % 2 ^ 32), (Pool.free m i, free),
        (Pool.lowWater m i, min free (s.get (Pool.lowWater m i)))])
    else (none, (s.poolBad m i h 0).setAll [(Pool.head m i, poolEnd), (Pool.closed m i, 1)])

/-- Allocation with fallback to the next larger pools, up to pool 6 (R291); k pools are left to try. -/
def State.poolAlloc (s : State) (m i : Nat) (fallback : Bool) : Nat → Option (Nat × Nat) × State
  | 0 => (none, s)
  | k + 1 =>
    match s.poolTake m i with
    | (some off, t) => (some (8 * m + i, off), if fallback then t.bump (Pool.fallbacks m i) 1 else t)
    | (none, t) => State.poolAlloc t m (i + 1) true k

/-- Ingress buffers that packets of VC v from input p hold. -/
def State.ingressUse (s : State) (p v : Nat) : Nat :=
  (s.ports.map fun e => (e.2.held.filter fun q => q.input == some p && pktVc q.pkt == v).length).sum

/-- Buffers of port die m that RES_MIN keeps for the inputs and VC1-VC5 that have fewer (R265). -/
def State.setAside (s : State) (m : Nat) : Nat :=
  (((List.range 128).map (128 * m + ·)).filter fun p => s.siteNative p && s.portUp p).foldl (fun n p =>
    [1, 2, 3, 4, 5].foldl (fun k v => k + (s.get Fab.resMin - s.ingressUse p v)) n) 0

/-- Buffers free for packets on port die m. -/
def State.buffersFree (s : State) (m : Nat) : Nat := ((List.range 7).map fun i => s.get (Pool.free m i)).sum

/-- Whether port die m may give a buffer to an input and VC that has fewer than RES_MIN, or to any other packet beyond those that RES_MIN
keeps (R265). -/
def State.mayAlloc (s : State) (m : Nat) (who : Option (Nat × Nat)) : Bool :=
  (match who with
  | some (p, v) => decide (s.ingressUse p v < s.get Fab.resMin)
  | none => false) || decide (s.setAside m < s.buffersFree m)

/-- A buffer of port die m for a payload of n bytes. -/
def State.bufAlloc (s : State) (m n : Nat) : Option (Nat × Nat) × State :=
  s.poolAlloc m (poolFor n) false (7 - poolFor n)

/-- A buffer given back (R294, R295). -/
def State.poolFree (s : State) (m i off : Nat) : State :=
  if s.poolHas m i off ∧ (m, off) ∈ s.inUse then
    let w := s.get (Pool.head m i) + (off ^^^ 0x5A5A5A5A) * 2 ^ 32
    { s with
      inUse := s.inUse.filter (· != (m, off))
      poolWords := Tab.put s.poolWords (m * 2 ^ 32 + off) w }.setAll
      [(Pool.head m i, off), (Pool.free m i, s.get (Pool.free m i) + 1)]
  else s.poolBad m i off 1

/-- The buffer of a queued packet, if any, given back. -/
def State.bufFree (s : State) (b : Option (Nat × Nat)) : State :=
  match b with
  | some (k, off) => s.poolFree (k / 8) (k % 8) off
  | none => s

/-- The first buffer at or after an offset that is not in use. -/
def nextFree (used : List Nat) (size : Nat) : Nat → Nat → Nat
  | 0, off => off
  | n + 1, off => if off ∈ used then nextFree used size n (off + size) else off

/-- A pool's free list rebuilt from the in-use bits, in ascending order (R295; log entry 6). -/
def State.poolRebuild (s : State) (m i : Nat) : State :=
  let b := s.get (Pool.base m i)
  let n := s.get (Pool.count m i)
  let sz := poolSize i
  let used := s.poolUsed m i
  let stop := b + sz * n
  let next (off : Nat) : Nat := let x := nextFree used sz (used.length + 1) off; if x < stop then x else poolEnd
  let kept := s.poolWords.filter fun e => ¬ (m * 2 ^ 32 + b ≤ e.1 ∧ e.1 < m * 2 ^ 32 + stop)
  let words := used.foldl (fun t u =>
    if b < u then Tab.put t (m * 2 ^ 32 + (u - sz)) (next u + ((u - sz) ^^^ 0x5A5A5A5A) * 2 ^ 32) else t) kept
  { s with poolWords := words }.setAll
    [(Pool.head m i, if n = 0 then poolEnd else next b), (Pool.free m i, n - used.length), (Pool.closed m i, 0)]

/-! ### Link replay buffers (R272, R292) -/

/-- Port p holds a link replay buffer of pool 7 while its link is up and link retry is on, a native site link in LINK_MODE 1 or 2. -/
def State.fitReplay (s : State) (p : Nat) : State :=
  let on := s.siteNative p && s.portUp p && s.get Fab.linkMode != 0
  match (s.port p).replayBuf with
  | some off => if on then s else (s.poolFree (pdOf p) 7 off).onPort p fun x => { x with replayBuf := none }
  | none =>
    if on then
      let r := s.poolTake (pdOf p) 7
      r.2.onPort p fun x => { x with replayBuf := r.1 }
    else s

/-- LINK_MODE set, and the link replay buffers that follow it. -/
def State.setLinkMode (s : State) (v : Nat) : State :=
  let t := s.set Fab.linkMode v
  (t.ports.map (·.1)).foldl State.fitReplay t

/-! ### Routes (R285, R286) -/

/-- The route set in force. -/
def State.routeNow (s : State) : RouteSet := Tab.get s.routes ⟨[], []⟩ (s.get Surv.routeSet)

/-- The first entry of the route tables for a destination or a group. -/
def State.route (s : State) (dst : Nat) (mcast : Bool) : Option RouteEntry :=
  s.routeNow.entries.find? fun e => e.dst == dst && e.mcast == mcast

/-- The flow hash of a packet (R286). -/
def flowHash (seed : Nat) (rh : Bool) (p : Pkt) : Nat :=
  crc32c (leBytes 16 (pktSrc p + pktDst p * 2 ^ 20 + pktVc p * 2 ^ 40 + (if rh then pktRh p * 2 ^ 43 else 0) + seed * 2 ^ 64))

/-- The flow hash as port die m computes it. -/
def State.hashAt (s : State) (m : Nat) (p : Pkt) : Nat := flowHash (s.get (Tm.hashSeed m)) (s.flag (Tm.hashRh m)) p

/-- Which path of a set of n a hash selects (R286). -/
def pathIndex (h n : Nat) : Nat := bits h 16 16 * n / 65536

/-- The egress context of a packet at port die m (R285): VC0 takes the first path, other channels the hashed one. -/
def State.egressOf (s : State) (m : Nat) (pkt : Pkt) : Option Nat :=
  match s.route (pktDst pkt) false with
  | none => none
  | some e =>
    if e.paths.isEmpty then none
    else if pktVc pkt = 0 then some (nth 0 e.paths 0)
    else some (nth 0 e.paths (pathIndex (s.hashAt m pkt) e.paths.length))

/-! ### Egress queues -/

/-- Queue of VC v. -/
def Port.queue (x : Port) (v : Nat) : List Queued := Tab.get x.queues [] v

/-- Bytes queued on VC v (R306). -/
def Port.depth (x : Port) (v : Nat) : Nat := ((x.queue v).map fun q => pktLen q.pkt).sum

/-- A packet put at the end of its egress queue, with the largest depth since the last sample. -/
def Port.push (x : Port) (q : Queued) : Port :=
  let v := pktVc q.pkt
  let y := { x with queues := Tab.set x.queues [] v (x.queue v ++ [q]) }
  { y with sampler := Tab.set y.sampler 0 (4 * v) (max (y.depth v) (Tab.get y.sampler 0 (4 * v))) }

/-- A packet accepted by the egress queue of port e. -/
def State.enqueue (s : State) (e : Nat) (q : Queued) : State := s.onPort e fun x => x.push { q with since := s.now }

/-- Staging stone of slice n grows by n bytes in units of 256 (R310). -/
def State.stage (s : State) (n bytes : Nat) : State :=
  let u := s.get (Sl.stagingUsed n) + ceilDiv bytes 256
  s.setAll [(Sl.stagingUsed n, u), (Sl.stagingMax n, max u (s.get (Sl.stagingMax n)))]

/-- Staging stone given back. -/
def State.unstage (s : State) (n bytes : Nat) : State :=
  s.set (Sl.stagingUsed n) (s.get (Sl.stagingUsed n) - ceilDiv bytes 256)

/-- What holds a packet, given back: its ingress buffer, with the credit that the ingress withheld (R293), or its staging stone. -/
def State.release (s : State) (q : Queued) : State :=
  let s := s.bufFree q.buf
  let s := match q.slice with
    | some n => s.unstage n (pktLen q.pkt)
    | none => s
  match q.input with
  | some p => s.returnCredit p q.pkt
  | none => s

/-! ### The die rings (R14, R267) -/

/-- The ring stop of a die, a forge die or a port die (R14). -/
def stopOf (forge : Bool) (n : Nat) : Nat := ((List.range 12).find? fun i => ringStop i == (forge, n)).getD 0

/-- The ring that carries a packet: ring 0 the scheduled plane, ring 1 the other (log entry 37). -/
def ringFor (pkt : Pkt) : Nat := if pktVc pkt = 0 then 0 else 1

/-- The stops that a packet passes from stop a to stop b, b the last, and the direction: 0 forward, 1 back; the shorter way, forward when
both are as long (log entry 37). -/
def ringWay (a b : Nat) : List Nat × Nat :=
  let f := (b + 12 - a) % 12
  if f ≤ 6 then ((List.range f).map fun i => (a + 1 + i) % 12, 0) else ((List.range (12 - f)).map fun i => (a + 11 - i) % 12, 1)

/-- The key of a ring stop's buffers for a VC and direction. -/
def ringKey (ring stop dir vc : Nat) : Nat := ((ring * 12 + stop) * 2 + dir) * 8 + vc

/-- Free buffers of a ring stop for a VC and direction: it keeps four (R267). -/
def State.ringFree (s : State) (key : Nat) : Nat := 4 - Tab.get s.rings 0 key

/-- Whether a packet may cross from stop a to stop b: it enters the ring only when the next stop holds two free buffers, and goes on where
the next holds one (R267). -/
def State.ringOpen (s : State) (pkt : Pkt) (a b : Nat) : Bool :=
  let w := ringWay a b
  match w.1.map fun i => s.ringFree (ringKey (ringFor pkt) i w.2 (pktVc pkt)) with
  | [] => true
  | n :: rest => decide (2 ≤ n) && rest.all fun k => decide (1 ≤ k)

/-- A packet on its way to ring stop i: the buffer taken there, the segment's bytes and the token its region emits (R62, R437). -/
def State.ringHop (s : State) (pkt : Pkt) (dir i : Nat) : State :=
  let k := ringKey (ringFor pkt) i dir (pktVc pkt)
  let seg := 12 * ringFor pkt + (if dir = 0 then (i + 11) % 12 else i)
  let s : State := { s with rings := Tab.set s.rings 0 k (Tab.get s.rings 0 k + 1) }
  (((s.bump (if dir = 0 then Aoc.bytesFwd seg else Aoc.bytesRev seg) (pktLen pkt)).bump (Rgn.event (48 + seg)) 1).trace (48 + seg) 3 [])

/-- The buffer of ring stop i given back as the packet moves on or leaves the ring. -/
def State.ringLeave (s : State) (pkt : Pkt) (dir i : Nat) : State :=
  let k := ringKey (ringFor pkt) i dir (pktVc pkt)
  { s with rings := Tab.set s.rings 0 k (Tab.get s.rings 0 k - 1) }

/-- A packet carried from stop a to stop b, hop by hop. -/
def State.ringCross (s : State) (pkt : Pkt) (a b : Nat) : State :=
  let w := ringWay a b
  w.1.foldl (fun t i => (t.ringHop pkt w.2 i).ringLeave pkt w.2 i) s

/-- The ring stop of what holds a packet that goes to egress port e: its slice, its ingress port's die, or the egress die itself. -/
def Queued.stop (q : Queued) (e : Nat) : Nat :=
  match q.slice, q.input with
  | some n, _ => stopOf true n
  | none, some p => stopOf false (pdOf p)
  | none, none => stopOf false (pdOf e)

/-- A packet that waits for port e where it lies. -/
def State.keepHeld (s : State) (e : Nat) (q : Queued) : State := s.onPort e fun x => { x with held := x.held ++ [q] }

/-- A packet moves over a ring into an egress buffer of port e and its queue, or waits where it lies (R267, R284, R293). VC0 packets lie
in the buffers reserved for their ordinal and take none from the pools. -/
def State.accept (s : State) (e : Nat) (q : Queued) : State :=
  let a := q.stop e
  let b := stopOf false (pdOf e)
  if !s.ringOpen q.pkt a b then s.keepHeld e q
  else if pktVc q.pkt = 0 then ((s.ringCross q.pkt a b).release q).enqueue e { pkt := q.pkt }
  else if !s.mayAlloc (pdOf e) none then s.keepHeld e q
  else
    match s.bufAlloc (pdOf e) q.pkt.payload.length with
    | (some k, t) => ((t.ringCross q.pkt a b).release q).enqueue e { pkt := q.pkt, buf := some k }
    | (none, t) => t.keepHeld e q

/-- Packets that waited for an egress buffer of port e try again, in order. -/
def State.retryHeld (s : State) (e : Nat) : State :=
  match (s.port e).held with
  | [] => s
  | q :: rest => (s.onPort e fun x => { x with held := rest }).accept e q

/-- A packet hashed to a port that is down (R287). -/
def State.pathDown (s : State) (m : Nat) : State := (s.bump (Tm.pathDownDrops m) 1).set (Tm.pathDownEvt m) 1

/-- Route and egress checks of a packet that leaves by port die m's lookup: R264, R287, R319. -/
def State.depart (s : State) (m : Nat) (q : Queued) : State :=
  match s.egressOf m q.pkt with
  | none => (s.release q).pathDown m
  | some e =>
    if pktVc q.pkt = 0 ∧ s.carried e ∧ ¬ s.longHaul e then (s.release q).logE clSequence (.port e) 0 []
    else if pktDown q.pkt ∧ ¬ s.flag (Fab.updown e) then (s.release q).logE clSequence (.port e) 0 []
    else if pktVc q.pkt ≠ 0 ∧ ¬ s.portUp e then (s.release q).pathDown (pdOf e)
    else s.accept e q

/-! ### The source's transport state (R268, R270) -/

/-- Transport state towards a destination. -/
def State.dst (s : State) (d : Nat) : DstState := Tab.get s.dsts {} d

/-- The state with the transport state towards d replaced. -/
def State.setDst (s : State) (d : Nat) (x : DstState) : State := { s with dsts := Tab.set s.dsts {} d x }

/-- The largest MULT of the unexpired marks of a source (R53). -/
def State.slowMult (s : State) (src : Nat) : Nat :=
  (s.marks.filter fun e => e.1 / 128 == src).foldl (fun m e => max m e.2.1) 1

/-- A timeout multiplied by the slow mark multiplier on the scheduled plane, and by 4 x LR_WIN in recovery mode (R270). -/
def State.scaleTimer (s : State) (t dst vc : Nat) : Nat :=
  t * (if vc = 0 then s.slowMult dst else 1) * (if s.get Fab.linkMode = 2 then 4 * s.get Fab.lrWin else 1)

/-- The base timeout in us of a packet that its source or a far long-haul port sends (R270). -/
def State.baseTimer (s : State) (dst vc : Nat) : Nat := s.scaleTimer (s.get Fab.e2eTo) dst vc

/-- An E2E_TIMEOUT entry giving a device and values. -/
def State.timeout (s : State) (u : LogUnit) (dev : Nat) (details : List (Nat × Nat)) : State :=
  (s.logE clE2eTimeout u dev details).set Fab.timeoutEvt 1

/-- A packet in slice n's staging stone: the slice counts it as injected and its region emits it (R62, R284, R310). -/
def State.stagePkt (s : State) (n : Nat) (pkt : Pkt) : State :=
  (((s.bump (Sl.injected n) 1).stage n (pktLen pkt)).bump (Rgn.event (40 + n)) 1).trace (40 + n) 3 []

/-- A packet of a bench or of firmware injected by slice n (R284, R310). -/
def State.injectPkt (s : State) (n : Nat) (pkt : Pkt) : State := (s.stagePkt n pkt).depart 0 { pkt := pkt, slice := some n }

/-- The stream that sent a packet to a failed destination will end without raising its signal word (R270). -/
def State.failStream (s : State) (owner : Option (Nat × Nat)) : State :=
  match owner with
  | some (b, i) =>
    match Tab.find s.streams (16 * b + i) with
    | some t => { s with streams := Tab.put s.streams (16 * b + i) { t with failedDst := true } }
    | none => s
  | none => s

/-- A numbered packet injected by slice n: a multicast copy at its own egress port, any other by its route. -/
def State.sendOut (s : State) (n : Nat) (via : Option Nat) (pkt : Pkt) : State :=
  match via with
  | some e => (s.stagePkt n pkt).accept e { pkt := pkt, slice := some n }
  | none => s.injectPkt n pkt

/-- A draft for one receiver m, sent by slice n for a stream owner (bench, station) or a DMA of a service: sealed with the device's own
fields, numbered from the counter of the pair and kept for resend when its kind is acknowledged (R260, R268). -/
def State.sendTo (s : State) (n : Nat) (owner : Option (Nat × Nat)) (dma : Option Nat) (d : Draft) (m : Nat) (via : Option Nat) : State :=
  let src := s.get Fab.deviceId
  let hops := s.get Fab.hopInit
  if kindAcked d.kind then
    let x := s.dst m
    if x.failed then (s.failStream owner).timeout .hub m [(x.next, 32)]
    else
      let pkt := d.pkt src hops x.next s.step
      let f : Flight := { pkt := pkt, tries := 1, timer := s.baseTimer m d.vc, owner := owner, custody := false, dma := dma, via := via }
      if x.flights.length < 4096 then
        (s.setDst m { x with next := (x.next + 1) % 2 ^ 32, flights := x.flights ++ [f] }).sendOut n via pkt
      else s.setDst m { x with next := (x.next + 1) % 2 ^ 32, waiting := x.waiting ++ [f] }
  else s.sendOut n via (d.pkt src hops 0 s.step)

/-- A unicast draft sent (R268). -/
def State.inject (s : State) (n : Nat) (owner : Option (Nat × Nat)) (dma : Option Nat) (d : Draft) : State := s.sendTo n owner dma d d.dst none

/-- The copies that this device makes of a packet for multicast group g, as egress port and member: the schedule's, or one for the neighbour
behind each port that the route tables name (R268, R284, R400; log entry 11). -/
def State.members (s : State) (g : Nat) : List (Nat × Nat) :=
  match Tab.find s.sched.mcasts g with
  | some l => l
  | none => ((s.routeNow.entries.filter fun e => e.mcast && e.dst == g).map fun e =>
      e.paths.map fun p => (p, s.get (Oct.ctxPeerId (p / 8) (p % 8)))).flatten

/-- A draft multicast to group g: one copy per member, each with the SEQ of its pair and its own resend copy (R268). -/
def State.multicast (s : State) (n : Nat) (owner : Option (Nat × Nat)) (g : Nat) (d : Draft) : State :=
  (s.members g).foldl (fun t e => t.sendTo n owner none { d with dst := g, mcast := true } e.2 (some e.1)) s

/-- Firmware's own packets leave by slice 0 (DESIGN CHOICE, log entry 11). -/
def State.send (s : State) (d : Draft) : State := s.inject 0 none none d

/-- A management packet of firmware (R261, R362): KIND MGMT on VC4. -/
def State.sendMgmt (s : State) (dst : Nat) (payload : List Byte) : State := s.send { vc := 4, kind := 6, dst := dst, payload := payload }

/-- Waiting packets take the room that acknowledgements made (R268). -/
def State.refillDst (s : State) (d : Nat) : Nat → State
  | 0 => s
  | k + 1 =>
    let x := s.dst d
    match x.waiting with
    | [] => s
    | f :: rest =>
      if x.flights.length < 4096 then
        State.refillDst ((s.setDst d { x with flights := x.flights ++ [f], waiting := rest }).sendOut 0 f.via f.pkt) d k
      else s

/-! ### The destination's transport state (R269) -/

/-- Transport state from a source. -/
def State.src (s : State) (d : Nat) : SrcState := Tab.get s.srcs {} d

/-- The state with the transport state from d replaced. -/
def State.setSrc (s : State) (d : Nat) (x : SrcState) : State := { s with srcs := Tab.set s.srcs {} d x }

/-- The classes of R269. -/
inductive SeqClass where
  | duplicate
  | accepted
  | beyond
  deriving DecidableEq, Repr

/-- The class of a SEQ (R269, R281: modulo 2^32). -/
def SrcState.classify (x : SrcState) (seq : Nat) : SeqClass :=
  let d := (seq + 2 ^ 32 - x.cum) % 2 ^ 32
  if 2 ^ 31 ≤ d then .duplicate
  else if 4096 ≤ d then .beyond
  else if seq ∈ x.got ∨ seq ∈ x.held then .duplicate
  else .accepted

/-- CUM moves over the received numbers. -/
def SrcState.advance (x : SrcState) : Nat → SrcState
  | 0 => x
  | k + 1 =>
    if x.cum ∈ x.got then SrcState.advance { x with cum := (x.cum + 1) % 2 ^ 32, got := x.got.filter (· != x.cum) } k else x

/-- A SEQ marked received. -/
def SrcState.mark (x : SrcState) (seq : Nat) : SrcState :=
  SrcState.advance { x with got := x.got ++ [seq] } (x.got.length + 1)

/-- A packet held for its turn is received: its SEQ may be reported from now on. -/
def SrcState.settle (x : SrcState) (seq : Nat) : SrcState :=
  if seq ∈ x.held then { x with held := x.held.filter (· != seq) }.mark seq else x

/-- The payload of an ACK or CUSTODY (R268, R275): PEER, CUM, MAP and the advertised space. -/
def ackPayload (x : SrcState) (peer advert : Nat) : List Byte :=
  let map := (List.range 64).map fun i => if (x.cum + 1 + i) % 2 ^ 32 ∈ x.got then 2 ^ i else 0
  leBytes 24 (peer % 2 ^ 20 + x.cum * 2 ^ 32 + map.sum * 2 ^ 64 + advert * 2 ^ 128)

/-- An ACK to a source (R269). -/
def State.sendAck (s : State) (d : Nat) : State :=
  s.send { vc := 2, kind := 4, dst := d, payload := ackPayload (s.src d) (s.get Fab.deviceId) 0 }

/-- A NACK to a source: first SEQ, count and reason (R269). -/
def State.sendNack (s : State) (d seq count reason : Nat) : State :=
  s.send { vc := 2, kind := 5, dst := d, payload := leBytes 24 (seq + count % 65536 * 2 ^ 32 + reason * 2 ^ 48) }

/-- A received packet accepted: its SEQ is marked and an ACK sent (R269). -/
def State.acknowledge (s : State) (pkt : Pkt) : State :=
  (s.setSrc (pktSrc pkt) ((s.src (pktSrc pkt)).mark (pktSeq pkt))).sendAck (pktSrc pkt)

/-! ### The topology (R226) -/

/-- SIZE_a of an axis of the topology (R256). -/
def State.axisSize (s : State) (a : Nat) : Nat :=
  if s.get Coll.naxes ≤ a then 1 else if a < 4 then s.get (Coll.size a) else s.get (Coll.sizeHi a)

/-- The number of positions of the topology (R226). -/
def State.positions (s : State) : Nat := (List.range 6).foldl (fun n a => n * s.axisSize a) 1

/-- The topology table's entry of a linear index (R226). -/
def State.topoEntry (s : State) (i : Nat) : Nat := s.rdNat (s.get Coll.topoBase + 4 * i) 4

/-- The device IDs of the Protumos devices of the job, this one apart (R226). Only a listed byte can hold ROLE. -/
def State.jobPeers (s : State) : List Nat :=
  let b := s.get Coll.topoBase
  let n := s.positions
  let at' := (s.mem.filter fun c => decide (b ≤ c.1 ∧ c.1 < b + 4 * n) && c.1 % 4 == (b + 2) % 4 && c.2.getLsbD 4).map (·.1 - 2)
  (at'.map fun a => s.rdNat a 4 % 2 ^ 20).filter (· != s.get Fab.deviceId)

/-- Whether the peer of port p is an endpoint by the topology: such a link carries no stop mark (R226, R279). -/
def State.endpointLink (s : State) (p : Nat) : Bool :=
  (List.range s.positions).any fun i => s.topoEntry i % 2 ^ 21 == s.get (Oct.ctxPeerId (p / 8) (p % 8))

end Sys2Proof.Machine
end

