-- ==== Sys2Proof/Machine/Groups.lean ====
section
/-! DEFINITION. The topology's positions, groups and ranks, and the collective table (R226-R233). -/

namespace Sys2Proof.Machine

open Sys2Proof

/-! ### The topology and its groups (R226, R228, R229) -/

/-- Coordinate a of the position with linear index i (R226). -/
def State.coord (s : State) (i a : Nat) : Nat := i / (List.range a).foldl (fun n k => n * s.axisSize k) 1 % s.axisSize a

/-- DEVICE of a position. -/
def State.posDevice (s : State) (i : Nat) : Nat := s.topoEntry i % 2 ^ 20

/-- Whether a position holds a Protumos device. -/
def State.posRole (s : State) (i : Nat) : Bool := bitAt (s.topoEntry i) 20

/-- A group record (R228). -/
def State.grp (s : State) (g : Nat) : Nat := s.rdNat (s.get Coll.grpBase + 32 * g) 32

/-- LO_a of a group record. -/
def grpLo (w a : Nat) : Nat := bits w (64 + 32 * a) 16

/-- HI_a. -/
def grpHi (w a : Nat) : Nat := bits w (80 + 32 * a) 16

/-- The positions of the family of a group record (R229). -/
def State.family (s : State) (w : Nat) : List Nat :=
  (List.range s.positions).filter fun i => (List.range 6).all fun a => decide (grpLo w a ≤ s.coord i a ∧ s.coord i a ≤ grpHi w a)

/-- G(p): the positions of a family that agree with p on every axis the group does not span (R229). -/
def State.groupAt (s : State) (w p : Nat) : List Nat :=
  (s.family w).filter fun q => (List.range 6).all fun a => bitAt w (4 + a) || s.coord p a == s.coord q a

/-- The size of a group: the product of its spanned ranges. -/
def grpSize (w : Nat) : Nat := (List.range 6).foldl (fun n a => if bitAt w (4 + a) then n * (grpHi w a + 1 - grpLo w a) else n) 1

/-- The members of G(MY_POS) of group record g in rank order: a group is a box of positions, so its ranks follow the linear indices
(R229). -/
def State.ranks (s : State) (g : Nat) : List Nat := s.groupAt (s.grp g) (s.get Coll.myPos)

/-- The device at a rank of this device's group of record g (R229). -/
def State.rankDevice (s : State) (g r : Nat) : Option Nat := ((s.ranks g)[r]?).map s.posDevice

/-! ### The collective table (R231) -/

/-- Entry i of the collective table. -/
def State.collEntry (s : State) (i : Nat) : Nat := s.rdNat (s.get Coll.collBase + 32 * i) 32

/-- KIND of collective i. -/
def State.collKind (s : State) (i : Nat) : Nat := bits (s.collEntry i) 4 4

/-- GROUP of a collective. -/
def State.collGroup (s : State) (i : Nat) : Nat := bits (s.collEntry i) 8 12

/-- The device at rank ROOT of a collective's group (R231, R241). -/
def State.rootOf (s : State) (i : Nat) : Option Nat := s.rankDevice (s.collGroup i) (bits (s.collEntry i) 32 20)

/-- The data-parallel width of a bucket's reduction (R229): the endpoints in the group of the collective that reduces it by SUM, when the
table has one. -/
def State.dpWidth (s : State) (bucket : Nat) : Option Nat :=
  ((List.range (s.get Coll.ncoll)).find? fun i =>
    let w := s.collEntry i
    (bits w 4 4 == 0 || bits w 4 4 == 2) && bits w 20 4 == 0 && bits w 64 24 == bucket).map fun i =>
    ((s.ranks (s.collGroup i)).filter fun q => !s.posRole q).length

end Sys2Proof.Machine
end

