-- ==== Sys2Proof/Machine/Margin.lean ====
section
/-! DEFINITION. Regions: temperature bands, margin codes, the speed factor, slow marks, and the start of a retirement
(R34-R53, R149-R150). -/

namespace Sys2Proof.Machine

open Sys2Proof

/-- The band that holds a temperature in 0.1 C (R39). -/
def bandOf (t : Int) : Nat := if t < 400 then 0 else if 1000 ≤ t then 7 else (t / 100 - 3).toNat

/-- The band after a temperature is read in band b, with the hysteresis of R39. -/
def bandStep (b : Nat) (t : Int) : Nat :=
  if b < 7 ∧ 400 + 100 * (b : Int) + 20 ≤ t then bandOf t
  else if 1 ≤ b ∧ t < 300 + 100 * (b : Int) - 20 then bandOf t
  else b

/-- The applied code of a region from its band, map, floor and override (R39, R45). -/
def State.appliedCode (s : State) (r : Nat) : Nat :=
  if s.flag (Rgn.ovrEn r) then s.get (Rgn.override r)
  else max (s.get (Rgn.code r (s.get (Rgn.band r)))) (s.get (Rgn.floor r))

/-- The trace record of a margin or rail change (R442); its fields that name no token are 0, its station 15 (log entry 20). -/
def State.traceMargin (s : State) (r : Nat) : State :=
  s.trace r 7 [(15, 4), (0, 4), (0, 8), (0, 24), (0, 24), (s.get (Rgn.applied r), 4), (s.get (Rgn.vset r), 12), (0, 48)]

/-- The applied code takes effect (R40); a change is traced (R442). -/
def State.applyCode (s : State) (r : Nat) : State :=
  let c := s.appliedCode r
  if c = s.get (Rgn.applied r) then s else (s.set (Rgn.applied r) c).traceMargin r

/-- The rows of R37, in hundredths, for 600, 650, ... 850 mV at 0, 25, 70, 85 and 105 C. -/
def fRow (k : Nat) : List Nat :=
  nth [] [[52, 55, 60, 61, 62], [68, 70, 73, 73, 73], [86, 87, 87, 86, 85], [105, 104, 100, 98, 95], [116, 114, 110, 108, 104],
    [125, 123, 118, 115, 111]] k

/-- The columns around a temperature in 0.1 C, outside values taken at the ends (R472). -/
def fCols (t : Int) : Nat × Nat :=
  if t ≤ 0 then (0, 0) else if t < 250 then (0, 1) else if t = 250 then (1, 1) else if t < 700 then (1, 2)
  else if t = 700 then (2, 2) else if t < 850 then (2, 3) else if t = 850 then (3, 3) else if t < 1050 then (3, 4) else (4, 4)

/-- The rows around a rail voltage in mV, outside values taken at the ends. -/
def fRows (mv : Nat) : Nat × Nat :=
  let v := max 600 (min 850 mv)
  ((v - 600) / 50, (v - 600 + 49) / 50)

/-- F(V, T) in hundredths: the smallest of the surrounding entries (R36, R37). -/
def factorF (mv : Nat) (t : Int) : Nat :=
  let (a, b) := fRows mv
  let (c, d) := fCols t
  min (min (nth 0 (fRow a) c) (nth 0 (fRow a) d)) (min (nth 0 (fRow b) c) (nth 0 (fRow b) d))

/-- The multiplier of a slow mark: ceil(0.80 / (F x M)), with M = 1.16 / (1 + 0.04 c) (R38, R52). -/
def slowWant (f c : Nat) : Nat := max 1 (ceilDiv (80 * (100 + 4 * c)) (116 * f))

/-- The multiplier that a region needs now (R52). -/
def State.slowNow (s : State) (r : Nat) : Nat :=
  slowWant (factorF (s.get (Rgn.vread r)) (s.rgnTemp r)) (s.get (Rgn.applied r))

/-- The payload of a slow mark (R53). -/
def slowPayload (rtype rnum mult issued : Nat) : List Byte :=
  leBytes 8 (1 + 2 ^ 4 + rtype * 2 ^ 8 + rnum * 2 ^ 12 + mult * 2 ^ 20 + issued % 2 ^ 40 * 2 ^ 24)

/-- A slow mark for region r sent to every device of its peer list, and shown in SLOW_MULT (R52, R53). -/
def State.slowSend (s : State) (r mult : Nat) : State :=
  (Tab.get s.sched.slowPeers [] r).foldl
    (fun t d => t.sendMgmt d (slowPayload (rgnType r) (rgnNumber r) mult t.now)) (s.set (Rgn.slowMult r) mult)

/-! ### Retirement (R149, R150) -/

/-- The spare bench of a forge die, if it has one (R13, R152). -/
def State.spareOf (s : State) (n : Nat) : Option Nat :=
  ((List.range 5).map (5 * n + ·)).find? fun b => s.get (Ben.state b) == 4

/-- Whether a bench of forge die n is retiring. -/
def State.dieRetiring (s : State) (n : Nat) : Bool := (List.range 5).any fun k => s.get (Ben.state (5 * n + k)) == 3

/-- A bench lost with no spare to take its number (R13). -/
def State.loseBench (s : State) (b cause : Nat) : State :=
  (s.setAll [(Ben.state b, 5), (Ben.lvalid b, 0), (Ben.cause b, cause), (Rgn.state b, 3), (Rgn.vread b, 0)]).alert

/-- An entry whose class the manual does not state: the class is a free value among the sixteen (R433; log entry 10). -/
def State.logOpen (s : State) (u : LogUnit) (address : Nat) (details : List (Nat × Nat)) : State :=
  let (c, s) := s.fresh
  s.logE (1 + c % 16) u address details

/-- The start of a retirement, orders 1 and 2 of R150: STATE 3, the entry with the cause, which CAUSE takes at order 4, and on a running device the spare's rail
rises and slow marks with MULT 15 go out (R151). A retirement that finds another running on its die waits for it; with no spare the bench is lost
(R13, R151). -/
def State.retireStart (s : State) (b cause : Nat) : State :=
  let n := b / 5
  let waits := s.dieRetiring n
  let t := ({ s with retCause := Tab.put s.retCause b cause }.setAll [(Ben.state b, 3), (Rgn.state b, 1)]).logOpen (.bench b) 0 [(cause, 4)]
  let mark (u : State) : State := if s.running then u.slowSend b 15 else u
  if waits then mark t
  else
    match s.spareOf n with
    | none => t.loseBench b cause
    | some k => if s.running then mark ((t.setAll [(Rgn.vset k, s.get (Rgn.vset b)), (Rgn.vread k, s.get (Rgn.vset b))]).applyCode k) else t

/-! ### Margin triggers (R42-R44) -/

/-- The margin records of a region. -/
def State.rgn (s : State) (r : Nat) : RgnState := Tab.get s.rgns {} r

/-- The state with a region's margin records replaced. -/
def State.setRgn (s : State) (r : Nat) (x : RgnState) : State := { s with rgns := Tab.set s.rgns {} r x }

/-- A trigger of R42 in band b: the entry rises by one, or the margin is exhausted (R43). -/
def State.marginRaise (s : State) (r b : Nat) : State :=
  let x := s.rgn r
  let s := s.setRgn r { x with trigger := Tab.put x.trigger b s.elapsed }
  if s.get (Rgn.code r b) < 15 then (s.set (Rgn.code r b) (s.get (Rgn.code r b) + 1)).applyCode r
  else
    let s := (s.set (Rgn.marginExhausted r) 1).alert
    if r < 40 ∧ s.get (Ben.state r) ≤ 2 ∧ s.flag (Ben.lvalid r) then s.retireStart r 2 else s

/-- 24 hours of powered time in ns. -/
def day : Nat := 86400000000000

/-- An error attributed to a region, and the first case of R42: two in one band within 24 hours, measured in powered time, which no
SET_TIME or reset moves (DESIGN CHOICE, log entry 9). -/
def State.rgnError (s : State) (r : Nat) : State :=
  let b := s.get (Rgn.band r)
  let x := s.rgn r
  let errs := (x.errors.filter fun e => decide (s.elapsed < e.1 + day)) ++ [(s.elapsed, b)]
  if 2 ≤ (errs.filter fun e => e.2 == b).length then
    (s.setRgn r { x with errors := errs.filter fun e => e.2 != b }).marginRaise r b
  else s.setRgn r { x with errors := errs }

/-- An entry of class RESIDUE, ECC_CORR or E2E_CHECK at a region, followed by R42 (R46). -/
def State.logR (s : State) (cls : Nat) (u : LogUnit) (address : Nat) (details : List (Nat × Nat)) : State :=
  let s := s.logE cls u address details
  match u.region with
  | some r => s.rgnError r
  | none => s

end Sys2Proof.Machine
end

