-- ==== Sys2Proof/Machine/Lines.lean ====
section
/-! DEFINITION. LPDDR5X lines and channels: errors that a read finds, channel retirement and redirection (R335-R344, R476). -/

namespace Sys2Proof.Machine

open Sys2Proof

/-- First die line of the spare region (R343). -/
def spareFirst : Nat := 2751463424

/-- The die line that holds channel line l of a retired channel x (R343). -/
def spareLine (l x : Nat) : Nat :=
  let p := (x + 16) % 48
  spareFirst + 48 * (l / 47) + l % 47 + (if p ≤ l % 47 then 1 else 0)

/-- Channel lines of a channel (R334). -/
def chanLines : Nat := 58720256

/-- The channel that serves an LPDDR5X address now, numbered 48n + c: a line of the retired channel that is copied already is
redirected (R335, R343, R344). -/
def State.chanAt (s : State) (a : Nat) : Nat :=
  let n := a / 0x2A00000000
  let line := a % 0x2A00000000 / 64
  if s.get (Mc.retCh n) = line % 48 ∧ (¬ s.flag (Mc.migrating n) ∨ line / 48 < s.get (Mc.migPtr n)) then
    48 * n + spareLine (line / 48) (line % 48) % 48
  else 48 * n + line % 48

/-! ### Groups of channel lines and the inline code (R336, R337) -/

/-- The address of channel line l of channel c of die n (R335). -/
def lineAddr (n c l : Nat) : Nat := n * 0x2A00000000 + 64 * (48 * l + c)

/-- The raw channel byte at which a data line is stored (R336). -/
def rawPlace (a : Nat) : Nat := let l := a % 0x2A00000000 / 64 / 48; 512 * (l / 7) + 64 * (l % 7)

/-- The product of two symbols over GF(2^8) on 0x11D (R337). -/
def gfMul (a b : Nat) : Nat :=
  let p := (List.range 8).foldl (fun x i => if b.testBit i then x ^^^ a * 2 ^ i else x) 0
  (List.range 7).foldl (fun x i => if x.testBit (14 - i) then x ^^^ 0x11D * 2 ^ (6 - i) else x) p

/-- The generator polynomial of n check symbols without its leading 1: the coefficients from x^(n-1) down (R337). -/
def rsGen : Nat → List Nat
  | 0 => []
  | n + 1 =>
    let r := (List.range n).foldl (fun x _ => gfMul x 2) 1
    let g := 1 :: rsGen n
    ((g.drop 1 ++ [0]).zip (g.map fun x => gfMul x r)).map fun (e : Nat × Nat) => e.1 ^^^ e.2

/-- The check bytes of a systematic codeword: the remainder of the data times x^n by the generator (R337). -/
def rsCheck (n : Nat) (data : List Nat) : List Nat :=
  let g := rsGen n
  data.foldl (fun reg d =>
    let f := d ^^^ reg.headD 0
    ((reg.drop 1 ++ [0]).zip g).map fun (e : Nat × Nat) => e.1 ^^^ gfMul f e.2) (List.replicate n 0)

/-- The check line of group g of channel c of die n: the check bytes of its seven data lines, their poison flags, and its own check bytes
(R336). Raw channel bytes 512g + 448 on hold it. -/
def State.checkLine (s : State) (n c g : Nat) : List Nat :=
  let at' (p : Nat) : Nat := lineAddr n c (7 * g + p)
  let flags := ((List.range 7).map fun p => if at' p ∈ s.poison then 2 ^ p else 0).sum
  let body := ((List.range 7).map fun p => rsCheck 8 ((s.rdBytes (at' p) 64).map (·.toNat))).flatten ++ [flags]
  body ++ rsCheck 7 body

/-! ### Retirement and errors (R338, R341-R344) -/

/-- The retirement of a channel starts, order 1 of R344. The cause is the number of the case of R341, from 1. A die whose spare is
taken or not enabled keeps the channel in service (R342). -/
def State.retireChannel (s : State) (c cause : Nat) : State :=
  let n := c / 48
  if s.get (Mc.retCh n) = c % 48 then s
  else if s.get (Mc.retCh n) = 63 ∧ s.flag (Mc.spareEn n) then
    (s.logOpen (.chan c) 0 [(cause, 4)]).setAll
      [(Mc.retCh n, c % 48), (Mc.retired n (c % 48), 1), (Mc.migrating n, 1), (Mc.migPtr n, 0)]
  else (s.set (Mc.noSpare n) 1).alert

/-- An error of a channel noted: its stamps within 24 hours, kind 0 corrected, 1 uncorrectable, and the triggers of R341. -/
def State.chanError (s : State) (c kind : Nat) : State :=
  let l := ((Tab.get s.chanErrs [] (2 * c + kind)).filter fun t => decide (s.elapsed < t + day)) ++ [s.elapsed]
  let s := { s with chanErrs := Tab.put s.chanErrs (2 * c + kind) l }
  if kind = 0 then if s.get (Mc.corrLimit (c / 48)) < l.length then s.retireChannel c 1 else s
  else if 2 ≤ l.length then s.retireChannel c 2 else s

/-- A line corrected by its channel (R338). -/
def State.lineCorrected (s : State) (a : Nat) : State :=
  let c := s.chanAt a
  let n := c / 48
  (((s.logE clEccCorr (.chan c) (a / 64 * 64) []).bump (Mc.corr n (c % 48)) 1).set (Mc.corrEvt n) 1).chanError c 0

/-- A line found uncorrectable: poisoned, logged and counted; a line already poisoned is not logged again (R338). -/
def State.lineUncorr (s : State) (a : Nat) : State :=
  let l := a / 64 * 64
  if l ∈ s.poison then s
  else
    let c := s.chanAt a
    let n := c / 48
    let s := { s with poison := l :: s.poison }.logE clEccUncorr (.chan c) l []
    ((s.bump (Mc.uncorr n (c % 48)) 1).setAll [(Mc.poisonAddr n, l), (Mc.uncorrEvt n, 1)]).chanError c 1

end Sys2Proof.Machine
end

