-- ==== Sys2Proof/Machine/Receive.lean ====
section
/-! DEFINITION. What every arriving packet meets: capture, header and address checks, the CRC, sequence numbers, ordinals,
custody on long-haul ports, and the answer (R238-R239, R257-R280, R290, R305). -/

namespace Sys2Proof.Machine

open Sys2Proof

/-- What becomes of a packet at its destination. -/
inductive Verdict where
  /-- Used: its SEQ is marked and an ACK sent (R269). -/
  | accept
  /-- Refused with a NACK of this reason (R269); its SEQ is marked, so that a resend is a duplicate. -/
  | nack (reason : Nat)
  /-- Discarded with no answer. -/
  | drop
  /-- Received and held; no ACK reports it until the packet is used (R237, R245). -/
  | hold
  deriving DecidableEq, Repr

/-- What the body of a packet kind answers. -/
abbrev Done := State × Verdict

/-- The state after a verdict. -/
def Done.close (d : Done) (pkt : Pkt) : State :=
  let x := d.1.src (pktSrc pkt)
  match d.2 with
  | .accept => if kindAcked (pktKind pkt) then d.1.acknowledge pkt else d.1
  | .nack r => if kindAcked (pktKind pkt) then
      (d.1.setSrc (pktSrc pkt) (x.mark (pktSeq pkt))).sendNack (pktSrc pkt) (pktSeq pkt) 1 r else d.1
  | .drop => d.1
  | .hold => d.1.setSrc (pktSrc pkt) { x with held := x.held ++ [pktSeq pkt] }

/-! ### Region table (R259) -/

/-- A region table entry as its fields. -/
structure RegionEntry where
  base    : Nat
  valid   : Bool
  wSched  : Bool
  wUnsched : Bool
  read    : Bool
  size    : Nat
  deriving DecidableEq, Repr

/-- The region table entry of a handle, when the handle is below RT_COUNT and the entry VALID with its reserved fields zero
(R259, R474). -/
def State.region (s : State) (h : Nat) : Option RegionEntry :=
  if s.get Fab.rtCount ≤ h then none
  else
    let a := s.get Fab.rtBase + 16 * h
    let w := s.rdNat a 16
    if s.readErr a 16 ≠ none ∨ bits w 48 1 = 0 ∨ bits w 52 12 ≠ 0 ∨ bits w 104 24 ≠ 0 then none
    else some ⟨bits w 0 48, true, bitAt w 49, bitAt w 50, bitAt w 51, bits w 64 40⟩

/-- The address that n bytes at an offset of a region occupy, when the access is permitted (R259). -/
def State.regionAddr (s : State) (h off n : Nat) (ok : RegionEntry → Bool) : Option Nat :=
  match s.region h with
  | none => none
  | some e => if ok e && decide (off + n ≤ e.size) then some (e.base + off) else none

/-- A refused access of the fabric: the entry gives source, handle and offset (R259). -/
def State.refuseAccess (s : State) (p src h off : Nat) : State := s.logE clAccess (.port p) src [(h, 16), (off, 40)]

/-- The slice that delivers to an address (R283). -/
def sliceOf (a : Nat) : Nat := if isLpddr a ∨ isStone a then dieOf a else 0

/-- A packet from port p delivered into memory by slice n (R284, R310): it crosses the ring, the staging stone that it passes through
counts in STAGING_MAX, and the slice's region emits it (R62). -/
def State.delivered (s : State) (p n : Nat) (pkt : Pkt) : State :=
  let s := s.ringCross pkt (stopOf false (pdOf p)) (stopOf true n)
  ((((s.bump (Sl.delivered n) 1).stage n (pktLen pkt)).unstage n (pktLen pkt)).bump (Rgn.event (40 + n)) 1).trace (40 + n) 3 []

/-! ### Ordinals (R236-R239) -/

/-- The signed 24-bit difference of two ordinals (R236). -/
def ordDiff (a b : Nat) : Int := sext 24 ((a + 2 ^ 24 - b % 2 ^ 24) % 2 ^ 24)

/-- The ordinal of collective i of the epoch that is k after the present one (R236). -/
def State.ordinal (s : State) (k i : Nat) : Nat := ((s.get Coll.epoch + k) * s.get Coll.ncoll + i) % 2 ^ 24

/-- The index of an ordinal in its epoch (R236). -/
def State.collIndex (s : State) (o : Nat) : Nat := (ordDiff o (s.ordinal 0 0) % (max 1 (s.get Coll.ncoll) : Nat)).toNat

/-- The ordinal at a cursor of a list of collectives; past its end, the first of the next epoch. -/
def State.cursorOrd (s : State) (l : List Nat) (c : Nat) : Option Nat :=
  if l.isEmpty then none else some (s.ordinal (c / l.length) (nth 0 l (c % l.length)))

/-- A port's list of collectives. -/
def State.portList (s : State) (p : Nat) : List Nat := (Tab.get s.sched.portLists [] p).map (·.1)

/-- An ORDER_VIOLATION: the entry and the registers that record it (R238, R256). -/
def State.orderViolation (s : State) (u : LogUnit) (src : Nat) (station : Option Nat) (expected seen : Nat) : State :=
  let d := (match station with | some i => [(i, 4)] | none => []) ++ [(expected, 24), (seen, 24)]
  ((s.logE clOrder u src d).setAll [(Coll.ordExpected, expected), (Coll.ordSeen, seen), (Coll.ordUnit, match u with | .bench b => 512 + b | _ => u.num),
    (Coll.orderEvt, 1)])

/-- Where a scheduled packet stands against a port's cursor. -/
inductive Turn where
  | now
  | ahead
  | stale
  | violation (expected : Nat)
  deriving DecidableEq, Repr

/-- Whether an ordinal lies in the last aborted epoch (R239). -/
def State.isStale (s : State) (o : Nat) : Bool :=
  match s.aborted with
  | some (b, n) => decide (0 ≤ ordDiff o b ∧ ordDiff o b < n)
  | none => false

/-- Bytes of an ordinal's packets that wait at a port. -/
def Port.aheadBytes (x : Port) (o : Nat) : Nat := ((x.ahead.filter fun k => pktOrd k == o).map pktLen).sum

/-- The turn of a scheduled packet at port p (R237-R239). -/
def State.turnOf (s : State) (p : Nat) (pkt : Pkt) : Turn :=
  let l := s.portList p
  let x := s.port p
  let o := pktOrd pkt
  let n := s.get Coll.ncoll
  match s.cursorOrd l x.cursor with
  | none => .violation 0
  | some e =>
    let d := ordDiff o e
    if d = 0 then .now
    else if d < 0 then if s.isStale o then .stale else .violation e
    else
      let i := (ordDiff o (s.ordinal 0 0)).toNat % max n 1
      if i ∉ l ∨ (2 * n : Nat) < d then .violation e
      else if Tab.get s.sched.reserved 0 i < x.aheadBytes o + pktLen pkt then .violation e
      else .ahead

/-- The credits of ordinals that port p grants against their reservations, for the collectives l of the epoch that is k after the present
one (R266). -/
def State.ordinalGrants (s : State) (k : Nat) (l : List Nat) : List (Nat × Nat) :=
  (l.map fun i => (16 + s.ordinal k i, creditUnits (Tab.get s.sched.reserved 0 i))).filter fun e => e.2 != 0

/-- Port p grants the credits of collectives of an epoch, on a native site link that is up (R266). -/
def State.grantOrdinals (s : State) (p k : Nat) (l : List Nat) : State :=
  let g := s.ordinalGrants k l
  if g.isEmpty || !s.siteNative p || !s.portUp p then s else s.grantCredit p g

/-- Every port grants the credits of the present epoch's ordinals (R266, R293). -/
def State.grantEpoch (s : State) : State := s.sched.portLists.foldl (fun t e => t.grantOrdinals e.1 0 (e.2.map (·.1))) s

/-- One scheduled packet of the collective at the cursor has crossed the port; when the schedule's count is reached the cursor moves, and
the collective's reservation is granted to its ordinal of the next epoch (R237, R266; log entry 5). -/
def State.served (s : State) (p : Nat) : State :=
  let x := s.port p
  let l := Tab.get s.sched.portLists [] p
  let c := nth (0, 1) l (x.cursor % max l.length 1)
  if c.2 ≤ x.served + 1 then
    (s.setPort p { x with cursor := x.cursor + 1, served := 0 }).grantOrdinals p (x.cursor / max l.length 1 + 1) [c.1]
  else s.setPort p { x with served := x.served + 1 }

/-- A scheduled packet that is refused at port p (R238): the entry, the registers, the NACK, and the source's ordinal noted. -/
def State.refuseOrdinal (s : State) (p : Nat) (pkt : Pkt) (expected : Nat) : State :=
  let x := s.src (pktSrc pkt)
  ((s.setSrc (pktSrc pkt) { x with refused := x.refused ++ [pktOrd pkt] }).orderViolation (.port p) (pktSrc pkt) none expected
    (pktOrd pkt)).sendNack (pktSrc pkt) (pktSeq pkt) 1 3

/-- A packet that waited at port p and is discarded: its SEQ may be reported, its credit goes back (R239, R266). -/
def State.dropAhead (s : State) (p : Nat) (pkt : Pkt) : State :=
  (s.setSrc (pktSrc pkt) ((s.src (pktSrc pkt)).settle (pktSeq pkt))).returnCredit p pkt

/-! ### Custody (R274-R277) -/

/-- The key under which the custody state of a pair is kept at a long-haul port. -/
def custKey (p src dst : Nat) : Nat := (1 + p) * 2 ^ 40 + src * 2 ^ 20 + dst

/-- Free unreserved space of a reception buffer in units of 4 KiB (R277): the reservations are kept for scheduled packets, whether these
have come or not. -/
def State.advertised (s : State) (p : Nat) : Nat :=
  let held := ((((s.port p).reception.filter fun k => pktVc k.pkt != 0).map fun k => ceilDiv (pktLen k.pkt) 4096).sum)
  let reserved := ((s.sched.reserved.map fun e => ceilDiv e.2 4096).sum)
  s.get (Fab.winMib p) * 256 - held - reserved

/-- Bytes that a reception buffer holds. -/
def Port.receptionBytes (x : Port) : Nat := (x.reception.map fun k => pktLen k.pkt).sum

/-- CUSTODY for the pair of src and dst: addressed to the source as an ACK is, with the destination in PEER (R275; log entry 38). -/
def State.sendCustody (s : State) (p src dst : Nat) : State :=
  s.send { vc := 2, kind := 7, dst := src, payload := ackPayload (s.src (custKey p src dst)) dst (s.advertised p) }

/-- The space that the schedule reserves at a reception buffer for a scheduled packet's ordinal is full (R277). -/
def State.reservationFull (s : State) (p : Nat) (pkt : Pkt) : Bool :=
  let held := (((s.port p).reception.filter fun k => pktVc k.pkt == 0 && pktOrd k.pkt == pktOrd pkt).map fun k => pktLen k.pkt).sum
  decide (Tab.get s.sched.reserved 0 (s.collIndex (pktOrd pkt)) < held + pktLen pkt)

/-- A packet that arrives over a long-haul link is held in the reception buffer, and CUSTODY goes back to the near port; true when the
packet goes on (R275). A duplicate is answered again; a scheduled packet that finds its reservation full is refused (R277). -/
def State.takeCustody (s : State) (p : Nat) (pkt : Pkt) : State × Bool :=
  if s.longHaul p ∧ kindAcked (pktKind pkt) then
    let k := custKey p (pktSrc pkt) (pktDst pkt)
    let x := s.src k
    match x.classify (pktSeq pkt) with
    | .duplicate => ((s.bump Fab.duplicates 1).sendCustody p (pktSrc pkt) (pktDst pkt), false)
    | .beyond => (s.logE clSequence (.port p) (pktSrc pkt) [(x.cum, 32), (pktSeq pkt, 32)], false)
    | .accepted =>
      if pktVc pkt = 0 ∧ s.reservationFull p pkt then
        (if pktOrd pkt ∈ (s.src (pktSrc pkt)).refused then s else s.refuseOrdinal p pkt ((s.cursorOrd (s.portList p) (s.port p).cursor).getD 0), false)
      else
        let c : Copy := { pkt := pkt, timer := s.baseTimer (pktDst pkt) (pktVc pkt) }
        (((s.setSrc k (x.mark (pktSeq pkt))).onPort p fun y => { y with reception := y.reception ++ [c] }).sendCustody p (pktSrc pkt) (pktDst pkt), true)
  else (s, true)

/-- A reception copy released (R275). -/
def State.dropCustody (s : State) (pkt : Pkt) : State :=
  { s with ports := s.ports.map fun e => (e.1, { e.2 with reception := e.2.reception.filter (fun k =>
    !(pktSrc k.pkt == pktSrc pkt && pktDst k.pkt == pktDst pkt && pktSeq k.pkt == pktSeq pkt)) }) }

/-! ### Arrival -/

/-- Whether a packet fits into what a port's capture buffer has left, or its reception buffer on a long-haul port (R279). -/
def State.captureFits (s : State) (p : Nat) (pkt : Pkt) : Bool :=
  if s.longHaul p then decide ((s.port p).receptionBytes + pktLen pkt ≤ s.get (Fab.winMib p) * 2 ^ 20)
  else decide (s.get (Fab.captured p) + pktLen pkt ≤ s.get (Fab.capMib p) * 2 ^ 20)

/-- Whether port p captures arriving packets now: after its own mark and before the peer's, on a link to an endpoint from the cut
on (R278, R279). -/
def State.capturing (s : State) (p : Nat) : Bool := s.cut && (((s.port p).markSent && !(s.port p).markSeen) || s.endpointLink p)

/-- A packet kept in its ingress buffer until START: the port withholds its credit (R279, R403). -/
def State.park (s : State) (p : Nat) (pkt : Pkt) : State := s.onPort p fun x => { x with parked := x.parked ++ [pkt] }

/-- A packet captured (R278, R279): its ingress buffer is free again, on a long-haul port it lies in the reception buffer under CUSTODY.
Once the buffer is full, packets stay in their ingress buffers. -/
def State.capture (s : State) (p : Nat) (pkt : Pkt) : State :=
  if (s.port p).parked.isEmpty && s.captureFits p pkt then
    let c := s.takeCustody p pkt
    if c.2 then ((c.1.bump (Fab.captured p) (pktLen pkt)).onPort p fun x => { x with captured := x.captured ++ [pkt] }).returnCredit p pkt else c.1
  else s.park p pkt

/-- The counters of a received packet (R437), and the credits that it uses up (R266). -/
def State.countRx (s : State) (p : Nat) (pkt : Pkt) : State :=
  ((s.bump (Aoc.rxBytes p) (pktLen pkt)).bump (Aoc.rxPkts p) 1).spendCredit p pkt

/-- A failed CRC (R263): for a mirror copy only the count (R281, R305). -/
def State.crcFailed (s : State) (p : Nat) (pkt : Pkt) : State :=
  let s := s.bump Fab.crcFail 1
  if pktMirror pkt then s
  else
    let n := match s.region (pktRh pkt) with
      | some e => sliceOf e.base
      | none => 0
    ((s.logE clE2eCheck (.port p) 0 []).set Fab.e2eCheckEvt 1).rgnError (40 + n)

/-- Whether the packet is for this device as its address says (R257, R284): its own ID, or a group with local delivery. -/
def State.forMe (s : State) (pkt : Pkt) : Bool :=
  if pktMcast pkt then s.routeNow.entries.any fun e => e.mcast && e.dst == pktDst pkt && e.isLocal
  else pktDst pkt == s.get Fab.deviceId

/-- Whether an unassigned device refuses the packet (R257). -/
def State.unassigned (s : State) (p : Nat) (pkt : Pkt) : Bool :=
  s.get Fab.deviceId == 0xFFFFF &&
    !(pktVc pkt == 4 && pktDst pkt == 0xFFFFF && pktSrc pkt == s.get (Oct.ctxPeerId (p / 8) (p % 8)))

/-- Whether a packet can arrive on port p now: the device is powered, the link up and routing not stopped (R403, R456). -/
def State.canArrive (s : State) (p : Nat) : Bool := s.active && s.portUp p && decide (p < 512)

/-- The checks of a packet at its destination after its buffer is taken: CRC, custody unless it was taken at the capture, sequence; then
its body. -/
def State.checked (s : State) (p : Nat) (pkt : Pkt) (paid : Bool) (body : State → Done) : State :=
  if !pktCrcOk pkt then s.crcFailed p pkt
  else if kindAcked (pktKind pkt) then
    let c := if paid then (s, true) else s.takeCustody p pkt
    let s := c.1
    let x := s.src (pktSrc pkt)
    match x.classify (pktSeq pkt) with
    | .duplicate => ((if c.2 then s.bump Fab.duplicates 1 else s).sendAck (pktSrc pkt)).dropCustody pkt
    | .beyond => if c.2 then s.logE clSequence (.port p) (pktSrc pkt) [(x.cum, 32), (pktSeq pkt, 32)] else s
    | .accepted => if c.2 then ((body s).close pkt).dropCustody pkt else s
  else (body s).close pkt

/-- A packet at its destination port: the ingress buffer is taken, the packet checked and used, the buffer freed and the credit returned,
unless it was at the packet's capture (R284, R293). A VC4 packet leaves its buffer before it can cause others (R265). A scheduled packet
that waits for its turn keeps its credit (R266). A carried frame with no buffer is dropped (R319). -/
def State.ingress (s : State) (p : Nat) (pkt : Pkt) (paid : Bool) (use : State → State) : State :=
  let back (t : State) : State := if paid then t else t.returnCredit p pkt
  if pktVc pkt = 0 then
    let t := use s
    if pkt ∈ (t.port p).ahead then (if paid then t.spendCredit p pkt else t) else back t
  else
    match s.bufAlloc (pdOf p) pkt.payload.length with
    | (some b, t) => if pktVc pkt = 4 then use (back (t.bufFree (some b))) else back ((use t).bufFree (some b))
    | (none, t) => if t.carried p then t.bump (Oct.ctxNobufDrops (p / 8) (p % 8)) 1 else back (use t)

/-- Whether a scheduled packet is a vote or a result of a commit already decided: behind the port's cursor, by the ordinal of a COMMIT
(R243, R255). -/
def State.decided (s : State) (p : Nat) (pkt : Pkt) : Bool :=
  match s.cursorOrd (s.portList p) (s.port p).cursor with
  | none => false
  | some e => decide (ordDiff (pktOrd pkt) e < 0) && !s.isStale (pktOrd pkt) && s.collKind (s.collIndex (pktOrd pkt)) == 8

/-- A scheduled packet's turn at its port (R237-R239), around the body that uses it. Once one is refused, the later ones of its source and
ordinal are discarded (R238). -/
def State.inTurn (s : State) (p : Nat) (pkt : Pkt) (body : State → Done) : Done :=
  if pktVc pkt ≠ 0 then body s
  else
    if pktOrd pkt ∈ (s.src (pktSrc pkt)).refused then (s, .drop)
    else if s.decided p pkt then (s.bump Fab.duplicates 1, .accept)
    else
    match s.turnOf p pkt with
    | .now => body (s.served p)
    | .ahead => (s.onPort p fun x => { x with ahead := x.ahead ++ [pkt] }, .hold)
    | .stale => (s.bump Coll.stale 1, .drop)
    | .violation e => (s.refuseOrdinal p pkt e, .drop)

/-- MGMT payload's VERSION and TYPE (R261). -/
def mgmtType (pkt : Pkt) : Nat := bits (leNat (pkt.payload.take 1)) 4 4

/-- MGMT payload as a number. -/
def mgmtNat (pkt : Pkt) : Nat := leNat pkt.payload

/-- Whether a packet is a management packet of a type for this device. -/
def State.isMgmt (s : State) (pkt : Pkt) (type : Nat) : Bool :=
  s.forMe pkt && pktKind pkt == 6 && mgmtType pkt == type

end Sys2Proof.Machine
end

