-- ==== Sys2Proof/Machine/Switch.lean ====
section
/-! DEFINITION. The switch core: policers, mirror sessions, cut-through, arbitration, transmission, sampling (R283-R309). -/

namespace Sys2Proof.Machine

open Sys2Proof

/-! ### Credits (R266, R276, R277) -/

/-- Link credits that a packet takes (R266). -/
def creditCost (pkt : Pkt) : Nat := creditUnits (pktLen pkt)

/-- Link credits that port e must hold to send a packet: the packet's own, but two whole buffers of its ordinal's reservation where this
device enters it into a ring of devices that the schedule builds for its collective (R267). -/
def State.creditNeed (s : State) (pkt : Pkt) : Nat :=
  if pktVc pkt = 0 ∧ pktSrc pkt = s.get Fab.deviceId ∧ s.collIndex (pktOrd pkt) ∈ s.sched.ringColls then 2 * creditUnits 8232 else creditCost pkt

/-- The frame of a packet on port e as the wire record keeps it. -/
def State.frameOf (s : State) (e : Nat) (pkt : Pkt) : Nat :=
  if s.carried e then leNat (s.carriedFrame e (pktVc pkt) (s.hashAt (pdOf e) pkt) 0 (pktBytes pkt) false)
  else frameNat 0 (pktBytes pkt)

/-- The length of a packet as R298 counts it: 40 + LENGTH, or the frame length in carried mode. -/
def State.sendLen (s : State) (e : Nat) (pkt : Pkt) : Nat :=
  if s.carried e then pktLen pkt + 67 + (if s.flag (Oct.ctxTagEn (e / 8) (e % 8)) then 4 else 0) else pktLen pkt

/-- CARRY_RATE of a context in Gbit/s. -/
def State.carryRate (s : State) (e : Nat) : Nat := s.get (Oct.ctxCarryRate (e / 8) (e % 8))

/-- Whether a carried port may send n bytes now: with the frames of the last 10 us they stay within CARRY_RATE, or they are a frame longer
than that share, alone (R319). -/
def State.paceLets (s : State) (e n : Nat) : Bool :=
  let sent := (((s.port e).paced.filter fun k => decide (s.elapsed < k.1)).map (·.2)).sum
  sent == 0 || decide (sent + n ≤ 1250 * s.carryRate e)

/-- A frame of n bytes sent on a carried port (R319). -/
def State.paceSent (s : State) (e n : Nat) : State :=
  if s.carried e then
    let until' := s.elapsed + max 10000 (ceilDiv (8 * n) (max 1 (s.carryRate e)))
    s.onPort e fun x => { x with paced := (x.paced.filter fun k => decide (s.elapsed < k.1)) ++ [(until', n)] }
  else s

/-- Whether port e may send a packet: credits on a site link, window and advertised space on a long-haul port (R266, R276,
R277). A carried port needs none, but keeps to its rate (R319). -/
def State.hasCredit (s : State) (e : Nat) (pkt : Pkt) : Bool :=
  let x := s.port e
  if s.carried e && !s.paceLets e (s.sendLen e pkt) then false
  else if s.longHaul e then
    decide ((x.window.map fun k => pktLen k.pkt).sum + pktLen pkt ≤ s.get (Fab.winMib e) * 2 ^ 20) &&
      (pktVc pkt == 0 || decide (ceilDiv (pktLen pkt) 4096 ≤ x.advert))
  else if s.carried e then true
  else if pktVc pkt = 0 then decide (s.creditNeed pkt ≤ Tab.get x.ordCredits 0 (pktOrd pkt))
  else decide (creditCost pkt ≤ Tab.get x.credits 0 (pktVc pkt))

/-- The base timeout of a copy in port e's window in us: twice the long-haul round trip and 50 us, multiplied as any (R270). -/
def State.segmentTimer (s : State) (e dst vc : Nat) : Nat := s.scaleTimer (2 * s.get (Fab.lhRtt e) + 50) dst vc

/-- What a sent packet takes of credits, window and advertised space. -/
def State.takeCredit (s : State) (e : Nat) (pkt : Pkt) : State :=
  let lh := s.longHaul e
  let c := s.carried e
  let t := s.segmentTimer e (pktDst pkt) (pktVc pkt)
  s.onPort e fun x =>
    if lh then { x with
      window := if kindAcked (pktKind pkt) then x.window ++ [{ pkt := pkt, timer := t }] else x.window
      advert := if pktVc pkt = 0 then x.advert else x.advert - ceilDiv (pktLen pkt) 4096 }
    else if c then x
    else if pktVc pkt = 0 then
      { x with ordCredits := Tab.set x.ordCredits 0 (pktOrd pkt) (Tab.get x.ordCredits 0 (pktOrd pkt) - creditCost pkt) }
    else { x with credits := Tab.set x.credits 0 (pktVc pkt) (Tab.get x.credits 0 (pktVc pkt) - creditCost pkt) }

/-- The near long-haul port takes custody of a packet that it sends: the source releases its copy (R275). -/
def State.nearCustody (s : State) (e : Nat) (pkt : Pkt) : State :=
  if s.longHaul e ∧ kindAcked (pktKind pkt) then
    if pktSrc pkt = s.get Fab.deviceId then
      let x := s.dst (pktDst pkt)
      s.setDst (pktDst pkt) { x with flights := x.flights.map fun f => if pktSeq f.pkt = pktSeq pkt then { f with custody := true } else f }
    else
      let k := custKey e (pktSrc pkt) (pktDst pkt)
      (s.setSrc k ((s.src k).mark (pktSeq pkt))).sendCustody e (pktSrc pkt) (pktDst pkt)
  else s

/-- Whether the near long-haul port e has a packet of another device under its custody already (R275). -/
def State.nearDuplicate (s : State) (e : Nat) (pkt : Pkt) : Bool :=
  s.longHaul e && kindAcked (pktKind pkt) && pktSrc pkt != s.get Fab.deviceId &&
    (s.src (custKey e (pktSrc pkt) (pktDst pkt))).classify (pktSeq pkt) == .duplicate

/-! ### Mirror sessions (R302-R304) -/

/-- Whether session k of port die m selects a packet at a port in direction dir (0 ingress, 1 egress) (R302). -/
def State.mirrors (s : State) (m k dir port : Nat) (pkt : Pkt) : Bool :=
  s.flag (Tm.mirEn m k) && pdOf port == m &&
  (if s.flag (Tm.mirFlow m k) then
    dir == 0 && (!s.flag (Tm.mirUseSrc m k) || s.get (Tm.mirMSrc m k) == pktSrc pkt) &&
      (!s.flag (Tm.mirUseDst m k) || s.get (Tm.mirMDst m k) == pktDst pkt) &&
      (!s.flag (Tm.mirUseVc m k) || s.get (Tm.mirMVc m k) == pktVc pkt)
  else s.get (Tm.mirSrcPort m k) == port && bitAt (s.get (Tm.mirDir m k)) dir)

/-- The mirror record of a copy (R303). -/
def mirrorRecord (k dir port cut len stamp : Nat) : List Byte :=
  leBytes 16 (1 + k * 2 ^ 4 + dir * 2 ^ 7 + port * 2 ^ 8 + cut * 2 ^ 17 + len * 2 ^ 32 + stamp * 2 ^ 64)

/-- Whether a pool buffer for n bytes is free without fallback on port die m (R304). -/
def State.bufReady (s : State) (m n : Nat) : Bool :=
  let i := poolFor n
  !s.flag (Pool.closed m i) && s.get (Pool.head m i) != poolEnd

/-- The copy of session k. Its SEQ counts the copies made and those dropped, so that a gap shows the latter (R303, R304; log entry 11). -/
def State.mirrorPkt (s : State) (m k dir port : Nat) (pkt : Pkt) : Pkt :=
  let full := pktBytes pkt
  let n := s.get (Tm.mirTrunc m k)
  let d : Draft := { vc := 3, kind := 0, dst := s.get (Tm.mirADev m k), rhandle := s.get (Tm.mirARh m k), offset := s.get (Tm.mirCursor m k), payload := mirrorRecord k dir port (b2n (decide (n < full.length))) full.length s.now ++ full.take n }
  pktPut (d.pkt (s.get Fab.deviceId) (s.get Fab.hopInit) (s.get (Tm.mirCopies m k) + s.get (Tm.mirMirDrops m k)) s.step) 203 1 1

/-- One session's copy of a packet, or its drop (R303, R304). -/
def State.mirrorOne (s : State) (m k dir port : Nat) (pkt : Pkt) : State :=
  if !s.mirrors m k dir port pkt then s
  else
    let a := s.get (Tm.mirDstPort m k)
    let c := s.mirrorPkt m k dir port pkt
    let way := (stopOf false m, stopOf false (pdOf a))
    if (s.port a).depth 3 < s.get (Tm.mirMirQmax m k) ∧ s.bufReady (pdOf a) c.payload.length ∧ s.hasCredit a c ∧ s.ringOpen c way.1 way.2 then
      let next := s.get (Tm.mirCursor m k) + 8192
      (((s.ringCross c way.1 way.2).bump (Tm.mirCopies m k) 1).set (Tm.mirCursor m k)
        (if s.get (Tm.mirASize m k) < next + 8192 then 0 else next)).accept a { pkt := c }
    else (s.bump (Tm.mirMirDrops m k) 1).set (Tm.mirrorDropEvt m) 1

/-- Every session's copy of a packet at a port. -/
def State.mirrorAt (s : State) (dir port : Nat) (pkt : Pkt) : State :=
  (List.range 8).foldl (fun t k => t.mirrorOne (pdOf port) k dir port pkt) s

/-! ### Policers (R299-R301) -/

/-- The policer bound to a VC at an ingress context (R299). -/
def State.policerOf (s : State) (p v : Nat) : Option Nat :=
  let m := pdOf p
  let c := p % 128
  if v = 1 then if s.flag (Tm.bindEn1 m c) then some (s.get (Tm.bindPol1 m c)) else none
  else if v = 3 then if s.flag (Tm.bindEn3 m c) then some (s.get (Tm.bindPol3 m c)) else none
  else if v = 5 then if s.flag (Tm.bindEn5 m c) then some (s.get (Tm.bindPol5 m c)) else none
  else none

/-- The buckets of policer i of die m filled up to now, in 1/1000 byte (R300). -/
def State.refilled (s : State) (m i : Nat) : Policer :=
  let x := Tab.get s.policers {} (1024 * m + i)
  let dt := s.now - x.last
  let c := s.get (Tm.polCir m i) * dt
  let cbs := 1000 * s.get (Tm.polCbs m i)
  let ebs := 1000 * s.get (Tm.polEbsPbs m i)
  if s.flag (Tm.polTypeF m i) then ⟨min cbs (x.tc + c), min ebs (x.te + s.get (Tm.polPir m i) * dt), s.now⟩
  else
    let a := min c (cbs - x.tc)
    ⟨x.tc + a, min ebs (x.te + (c - a)), s.now⟩

/-- The colour of n bytes (in 1/1000) under full buckets x, and the buckets after (R300: RFC 2697, RFC 2698). -/
def policeColour (twoRate aware : Bool) (pre n : Nat) (x : Policer) : Nat × Policer :=
  if twoRate then
    if (aware ∧ pre = 2) ∨ x.te < n then (2, x)
    else if (aware ∧ pre = 1) ∨ x.tc < n then (1, { x with te := x.te - n })
    else (0, { x with te := x.te - n, tc := x.tc - n })
  else
    if ¬ (aware ∧ pre ≠ 0) ∧ n ≤ x.tc then (0, { x with tc := x.tc - n })
    else if ¬ (aware ∧ pre = 2) ∧ n ≤ x.te then (1, { x with te := x.te - n })
    else (2, x)

/-- The buckets of a policer stored, and shown in their registers in bytes (R309). -/
def State.setBuckets (s : State) (m i : Nat) (x : Policer) : State :=
  { s with policers := Tab.set s.policers {} (1024 * m + i) x }.setAll [(Tm.polTc m i, x.tc / 1000), (Tm.polTeTp m i, x.te / 1000)]

/-- A packet policed at its ingress port: the packet as it goes on, or none when it is discarded (R299, R300). -/
def State.police (s : State) (p : Nat) (pkt : Pkt) : Option Pkt × State :=
  match s.policerOf p (pktVc pkt) with
  | none => (some pkt, s)
  | some i =>
    let m := pdOf p
    if !s.flag (Tm.polEn m i) then (some pkt, s)
    else
      let (c, x) := policeColour (s.flag (Tm.polTypeF m i)) (s.flag (Tm.polAware m i)) (pktColour pkt) (1000 * pktLen pkt) (s.refilled m i)
      let s := s.setBuckets m i x
      let drop (t : State) : Option Pkt × State := (none, (t.bump (Tm.policedDrops m) 1).set (Tm.policeEvt m) 1)
      match c with
      | 0 => (some (pktPut pkt 126 2 0), s)
      | 1 =>
        let t := s.bump (Tm.polYellowPkts m i) 1
        if s.flag (Tm.polYact m i) then drop t else (some (pktPut pkt 126 2 1), t)
      | _ =>
        let t := s.bump (Tm.polRedPkts m i) 1
        if s.flag (Tm.polRact m i) then (some (pktPut pkt 126 2 2), t) else drop t

/-! ### Slice channels and Proof (R139, R166, R252) -/

/-- The key of a slice channel of bench b (R167). -/
def chanKey (b c : Nat) : Nat := b / 5 * 1024 + c

/-- A token put on a channel: its data lies in the slice's staging stone (R166), and the slice's region has emitted it (R62). -/
def State.pushChan (s : State) (key : Nat) (t : ChanTok) : State :=
  let n := key / 1024
  let s : State := { s with chans := Tab.put s.chans key (Tab.get s.chans [] key ++ [t]) }
  ((s.stage n t.bytes.length).bump (Rgn.event (40 + n)) 1).trace (40 + n) 3 [(0, 64), (t.word, 64)]

/-- Whether a stream is a Proof DIGEST_PKT stream that selects a packet of a direction (0 sent, 1 received) (R139, R168). -/
def Stream.digests (x : Stream) (dir : Nat) (pkt : Pkt) : Bool :=
  x.form == 0 && x.p0 % 2 == dir && x.p0 / 2 % 2 == pktPlane pkt &&
    decide ((pktOrd pkt + 2 ^ 24 - x.p1 % 2 ^ 24) % 2 ^ 24 ≤ (x.p2 % 2 ^ 24 + 2 ^ 24 - x.p1 % 2 ^ 24) % 2 ^ 24)

/-- A packet presented to the DIGEST_PKT streams that select it, when its other end is a Protumos device of the topology (R139,
R252). -/
def State.presentPkt (s : State) (dir peer : Nat) (pkt : Pkt) : State :=
  if peer ∈ s.jobPeers then
    (s.streams.filter fun e => e.1 % 16 == 9 && e.2.digests dir pkt).foldl (fun t e =>
      t.pushChan (chanKey (e.1 / 16) (nth ⟨0, 0, 0⟩ e.2.ins 0).id) { word := 9 * 2 ^ 21 + 2 ^ 10, bytes := fixedBytes pkt ++ pkt.payload, src := pktSrc pkt }) s
  else s

/-! ### Transmission (R297, R298, R318) -/

/-- Transmission time of n bytes on port e in ns: its lanes at 25 bytes per ns each (R311). -/
def State.sendNs (s : State) (e n : Nat) : Nat := ceilDiv n (25 * max 1 (s.width e))

/-- The sampler of a queue after a packet that waited for d ns has left (R306). -/
def Port.left (x : Port) (v d : Nat) : Port :=
  let a := Tab.set x.sampler 0 (4 * v + 1) d
  let b := Tab.set a 0 (4 * v + 2) (max d (Tab.get a 0 (4 * v + 2)))
  { x with sampler := Tab.set b 0 (4 * v + 3) (Tab.get b 0 (4 * v + 3) + 1) }

/-- A packet put on the wire of port e that has waited d ns: DOWN on a down link (R264), credits, counters, the port's ordinal list
(R237), custody. -/
def State.putOut (s : State) (e : Nat) (pkt : Pkt) (d : Nat) : State :=
  let pkt := if s.flag (Fab.updown e) then pktPut pkt 201 1 1 else pkt
  let n := s.sendLen e pkt
  let s := if pktSrc pkt = s.get Fab.deviceId ∧ ¬ pktResend pkt ∧ ¬ pktMirror pkt then
      s.presentPkt 0 (if pktMcast pkt then s.get (Oct.ctxPeerId (e / 8) (e % 8)) else pktDst pkt) pkt else s
  let s := ((s.takeCredit e pkt).emit e (s.frameOf e pkt)).paceSent e n
  let s := (s.bump (Aoc.txBytes e) (pktLen pkt)).bump (Aoc.txPkts e) 1
  let ns := s.sendNs e n
  let s := if pktVc pkt = 0 then (s.bump (Aoc.vc0Ns e) ns).onPort e fun x => { x with vc0Ns := x.vc0Ns + ns } else s
  let s := if pktVc pkt = 0 ∧ ¬ pktResend pkt ∧ s.cursorOrd (s.portList e) (s.port e).cursor = some (pktOrd pkt) then s.served e else s
  (s.onPort e fun x => x.left (pktVc pkt) d).nearCustody e pkt

/-- Packets that wait for an egress buffer of port die m try again. -/
def State.retryDie (s : State) (m : Nat) : State :=
  ((s.ports.filter fun e => pdOf e.1 == m && !e.2.held.isEmpty).map (·.1)).foldl State.retryHeld s

/-- A queued packet of port e transmitted: egress mirroring, the wire, its buffer freed (R294, R302). One that the near port holds already
is not sent again; its source has CUSTODY once more (R269, R275). -/
def State.transmitQ (s : State) (e : Nat) (q : Queued) : State :=
  let s := if s.nearDuplicate e q.pkt then (s.bump Fab.duplicates 1).sendCustody e (pktSrc q.pkt) (pktDst q.pkt)
    else
      let t := s.bump (Tm.storeFwd (pdOf e) (e % 128)) 1
      (t.mirrorAt 1 e q.pkt).putOut e q.pkt (s.now - q.since)
  match q.buf with
  | some b => (s.bufFree (some b)).retryDie (pdOf e)
  | none => s

/-- A packet taken from VC v's queue. -/
def Port.take (x : Port) (v : Nat) (q : Queued) : Port := { x with queues := Tab.set x.queues [] v ((x.queue v).erase q) }

/-- Whether port e may send a scheduled packet in its turn: the packet's collective is not ahead of the port's cursor, or is none of its
list (R237). -/
def State.inOrder (s : State) (e : Nat) (pkt : Pkt) : Bool :=
  match s.cursorOrd (s.portList e) (s.port e).cursor with
  | none => true
  | some o => decide (ordDiff (pktOrd pkt) o ≤ 0) || s.collIndex (pktOrd pkt) ∉ s.portList e

/-- Whether a cut lets port e send a packet: this device's own until the port's stop mark is out, and VC2; what is in transit stays (R278,
R279). -/
def State.cutLets (s : State) (e : Nat) (pkt : Pkt) : Bool :=
  !s.cut || pktVc pkt == 2 || (pktSrc pkt == s.get Fab.deviceId && !(s.port e).markSent)

/-- The packet of VC v that port e sends next: the first of its queue, on VC0 the first in its turn; from a cut on, the first that the cut
lets go. -/
def State.headOf (s : State) (e v : Nat) : Option Queued :=
  let l := ((s.port e).queue v).filter fun q => s.cutLets e q.pkt
  if v = 0 then l.find? fun q => s.inOrder e q.pkt else l.head?

/-- Whether port e may send its head of VC v now, by its credit (R266). -/
def State.maySend (s : State) (e v : Nat) : Bool :=
  match s.headOf e v with
  | none => false
  | some q => s.hasCredit e q.pkt

/-- Whether every unscheduled queue of a port is empty. -/
def Port.unschedEmpty (x : Port) : Bool := [1, 2, 3, 4, 5].all fun v => (x.queue v).isEmpty

/-- Whether VC0 has its share of the interval at port e: not used up, or no other packet waits (R18, R297). -/
def State.vc0Share (s : State) (e : Nat) : Bool :=
  decide (256 * (s.port e).vc0Ns < s.get (Tm.share (pdOf e) (e % 128)) * 10000) || (s.port e).unschedEmpty

/-- Whether VC0 is served now: its head may go, and it has its share (R297). -/
def State.vc0Turn (s : State) (e : Nat) : Bool := s.maySend e 0 && s.vc0Share e

/-- QUANTUM of a VC (R309). -/
def State.quantum (s : State) (e v : Nat) : Nat :=
  if v = 5 then s.get (Tm.quantum5 (pdOf e) (e % 128)) else s.get (Tm.quantum (pdOf e) (e % 128) v)

/-- The next unscheduled VC in turn. -/
def nextVc (v : Nat) : Nat := if v < 5 then v + 1 else 1

/-- The deficit round robin of R298 run until it grants a packet: the VC granted and the port's deficits after. turn is the
queue being visited, granted tells that this visit has added its quantum. -/
def State.drr (s : State) (e : Nat) (x : Port) : Nat → Option (Nat × Port)
  | 0 => none
  | k + 1 =>
    let v := x.turn
    let pass (y : Port) : Port := { y with turn := nextVc v, granted := false }
    match s.headOf e v with
    | none => s.drr e (pass { x with deficits := if (x.queue v).isEmpty then Tab.set x.deficits 0 v 0 else x.deficits }) k
    | some q =>
      if !s.maySend e v then s.drr e (pass x) k
      else
        let d := Tab.get x.deficits 0 v + (if x.granted then 0 else s.quantum e v)
        let n := s.sendLen e q.pkt
        if n ≤ d then some (v, { x with deficits := Tab.set x.deficits 0 v (d - n), granted := true })
        else s.drr e (pass { x with deficits := Tab.set x.deficits 0 v d }) k

/-- Rounds that bring any packet within its queue's deficit: 5 queues, quanta of at least 256 bytes, frames of at most 8,303. -/
def drrFuel : Nat := 200

/-- One grant of egress port e. -/
def State.grant (s : State) (e : Nat) : State :=
  let x := s.port e
  if s.vc0Turn e then
    match s.headOf e 0 with
    | some q => (s.setPort e (x.take 0 q)).transmitQ e q
    | none => s
  else if [1, 2, 3, 4, 5].all (fun v => !s.maySend e v) then s
  else
    match s.drr e x drrFuel with
    | none => s
    | some (v, y) =>
      match s.headOf e v with
      | some q => (s.setPort e (y.take v q)).transmitQ e q
      | none => s

/-- SHARE_INTERVAL (R297): the VC0 share of the interval begins anew. -/
def execShareInterval (p : Nat) (s : State) : Host.Outcome State Fault Refusal :=
  .next (if s.active then s.onPort p fun x => { x with vc0Ns := 0 } else s)

/-! ### Sampling (R306) -/

/-- One egress queue sampled. -/
def State.sampleQueue (s : State) (p v : Nat) : State :=
  let m := pdOf p
  let c := p % 128
  let x := s.port p
  let g (k : Nat) : Nat := Tab.get x.sampler 0 (4 * v + k)
  let s := s.setAll [(Tm.qDepth m c v, x.depth v), (Tm.qDepthMax m c v, max (g 0) (x.depth v)), (Tm.qDelay m c v, g 1),
    (Tm.qDelayMax m c v, g 2), (Tm.qPkts m c v, g 3), (Tm.qSampleNo m c v, s.get (Tm.qSampleNo m c v) + 1)]
  let fresh := Tab.set (Tab.set (Tab.set x.sampler 0 (4 * v) (x.depth v)) 0 (4 * v + 2) 0) 0 (4 * v + 3) 0
  s.setPort p { x with sampler := fresh }

/-- SAMPLE (R306): every unscheduled egress queue of the port die is sampled. -/
def execSample (m : Nat) (s : State) : Host.Outcome State Fault Refusal :=
  .next (if s.active then (List.range 640).foldl (fun t k => t.sampleQueue (128 * m + k / 5) (k % 5 + 1)) s else s)

/-- POOL_REBUILD (R295): a closed pool's free list is rebuilt and CLOSED cleared; waiting packets try again. -/
def execPoolRebuild (m pool : Nat) (s : State) : Host.Outcome State Fault Refusal :=
  .next (if s.active && s.flag (Pool.closed m pool) then (s.poolRebuild m pool).retryDie m else s)

/-! ### Forwarding (R284-R289) -/

/-- Whether a transit packet is cut through from port p to port e (R288). -/
def State.cutsThrough (s : State) (p e : Nat) (pkt : Pkt) : Bool :=
  let x := s.port e
  (x.queue (pktVc pkt)).isEmpty && (if pktVc pkt = 0 then s.vc0Share e && s.inOrder e pkt else x.unschedEmpty) &&
    decide (s.width e ≤ s.width p) && s.hasCredit e pkt && s.ringOpen pkt (stopOf false (pdOf p)) (stopOf false (pdOf e)) &&
    s.siteNative p && s.siteNative e && s.get Fab.linkMode == 0 && !pktMcast pkt && s.portUp e && !s.cut &&
    (List.range 8).all (fun k => !s.mirrors (pdOf p) k 0 p pkt)

/-- A cut-through packet: sent at once, waiting time 0, and remembered at its ingress until the next packet arrives there, in
case it cannot be completed (R289, R306). -/
def State.cutOut (s : State) (p e : Nat) (pkt : Pkt) : State :=
  let s := s.ringCross pkt (stopOf false (pdOf p)) (stopOf false (pdOf e))
  (((s.bump (Tm.cutThrough (pdOf e) (e % 128)) 1).mirrorAt 1 e pkt).putOut e pkt 0).onPort p fun x => { x with cutting := some (e, pkt) }

/-- The last record of a packet on the wire of port e replaced by the packet with a complemented CRC (R289); where another frame has been
recorded since, the packet is recorded again. -/
def State.abortWire (s : State) (e good bad : Nat) : State :=
  match s.wire.reverse with
  | last :: rest => if last = (e, good) then { s with wire := rest.reverse ++ [(e, bad)] } else s.emit e bad
  | [] => s.emit e bad

/-- The cut-through packet of ingress p ends with a complemented CRC (R289). -/
def State.abortCut (s : State) (p : Nat) : State :=
  match (s.port p).cutting with
  | none => s
  | some (e, pkt) =>
    let pkt := if s.flag (Fab.updown e) then pktPut pkt 201 1 1 else pkt
    let bad := { pkt with crc := ~~~ BitVec.ofNat 64 (pktCrc pkt) }
    let s := s.abortWire e (s.frameOf e pkt) (s.frameOf e bad)
    (s.bump (Tm.cutAborts (pdOf e)) 1).onPort p fun x => { x with cutting := none }

/-- Every cut-through packet in progress that enters or leaves by port p is ended (R289). -/
def State.abortCuts (s : State) (p : Nat) : State :=
  ((s.ports.filter fun e => match e.2.cutting with
    | some (o, _) => o == p || e.1 == p
    | none => false).map (·.1)).foldl State.abortCut s

/-- A unicast packet forwarded from ingress p (R264, R284-R288). -/
def State.forwardOne (s : State) (p : Nat) (q : Queued) : State :=
  match s.egressOf (pdOf p) q.pkt with
  | none => (s.release q).pathDown (pdOf p)
  | some e =>
    if s.cutsThrough p e q.pkt ∧ ¬ (pktDown q.pkt ∧ ¬ s.flag (Fab.updown e)) then (s.release q).cutOut p e q.pkt
    else s.depart (pdOf p) q

/-- A header change that keeps the trailer as right or as wrong as it was (R262): the CRC is linear. -/
def pktRecrc (pkt new : Pkt) : Pkt := { new with crc := BitVec.ofNat 64 (pkt.crc.toNat ^^^ pktCrc pkt ^^^ pktCrc new) }

/-- One copy of another device's multicast packet for member m: SEQ from the counter of the pair of source and member (R268, R284). -/
def State.forwardCopy (s : State) (pkt : Pkt) (e m : Nat) : State :=
  let k := 2 ^ 41 + pktSrc pkt * 2 ^ 20 + m
  let x := s.dst k
  let c := pktRecrc pkt (pktPut pkt 128 32 x.next)
  let s := s.setDst k { x with next := (x.next + 1) % 2 ^ 32 }
  if pktDown pkt ∧ ¬ s.flag (Fab.updown e) then s.logE clSequence (.port e) 0 []
  else if pktVc pkt ≠ 0 ∧ ¬ s.portUp e then s.pathDown (pdOf e)
  else s.accept e { pkt := c }

/-- A packet as a forwarding device sends it on (R260). -/
def pktOnward (pkt : Pkt) : Pkt := pktPut pkt 216 8 (pktHops pkt - 1)

/-- The copies of another device's multicast packet (R284). -/
def State.forwardCopies (s : State) (pkt : Pkt) : State :=
  (s.members (pktDst pkt)).foldl (fun t e => t.forwardCopy (pktOnward pkt) e.1 e.2) s

/-- The forwarding of a unicast packet from port p, after it has been policed and mirrored; HOPS has been checked. Its ingress buffer and
its credit are given back when it leaves them, unless the credit was at the packet's capture (R284, R293). -/
def State.forwardTo (s : State) (p : Nat) (pkt : Pkt) (paid : Bool) : State :=
  let q : Queued := { pkt := pktOnward pkt, input := if paid then none else some p }
  if pktVc pkt = 0 then s.forwardOne p q
  else
    match s.bufAlloc (pdOf p) pkt.payload.length with
    | (some b, t) => t.forwardOne p { q with buf := some b }
    | (none, t) => if t.carried p then t.bump (Oct.ctxNobufDrops (p / 8) (p % 8)) 1 else t.forwardOne p q

/-- A packet for another device at ingress p (R260, R275, R284). Where a group has local delivery too, its ingress buffer is given back
there. -/
def State.transit (s : State) (p : Nat) (pkt : Pkt) (paid : Bool) : State :=
  let back (t : State) : State := if paid || s.forMe pkt then t else t.returnCredit p pkt
  if pktHops pkt = 0 then back (s.bump Fab.hopsExpired 1)
  else
    let c := if paid then (s, true) else s.takeCustody p pkt
    if !c.2 then back c.1
    else if pktMcast pkt then back (c.1.forwardCopies pkt)
    else c.1.forwardTo p pkt paid

/-! ### Mirror copies received (R305) -/

/-- A mirror copy at its destination: written after the checks of R259 and R263, with no answer and no transport state. -/
def State.mirrorIn (s : State) (p : Nat) (pkt : Pkt) : State :=
  let a := s.regionAddr (pktRh pkt) (pktOffset pkt) (pktLength pkt) (·.wUnsched)
  let n := match s.region (pktRh pkt) with
    | some e => sliceOf e.base
    | none => 0
  if !pktCrcOk pkt then (s.crcFailed p pkt).bump (Sl.mirRxRefused n) 1
  else
    match a with
    | some b =>
      if s.ramOk b pkt.payload.length ∧ s.storeErr b pkt.payload.length = none then (s.put b pkt.payload).delivered p (sliceOf b) pkt
      else s.bump (Sl.mirRxRefused n) 1
    | none => s.bump (Sl.mirRxRefused n) 1

end Sys2Proof.Machine
end

