-- ==== Sys2Proof/Machine/Signals.lean ====
section
/-! DEFINITION. Signal words, the signal directory and monitor slots (R172, R246-R250). -/

namespace Sys2Proof.Machine

open Sys2Proof

/-- Base of the signal directory of forge die n (R246). -/
def dirBase (n : Nat) : Nat := stoneBase n + 0x5F80000

/-- The addresses of the VALID entries of a die's directory that are readable (R246): only a listed byte can hold VALID. -/
def State.dirEntries (s : State) (n : Nat) : List Nat :=
  ((s.mem.filter fun c => decide (dirBase n ≤ c.1 ∧ c.1 < dirBase n + 0x80000) && c.1 % 64 == 6 && c.2.getLsbD 0).map
    (·.1 - 6)).filter fun e => s.readErr e 64 == none

/-- The usable entry of a word in the directory of its home die (R246). -/
def State.dirFind (s : State) (a : Nat) : Option Nat :=
  if a % 8 ≠ 0 ∨ ¬ (isLpddr a ∨ isStone a) then none
  else (s.dirEntries (dieOf a)).find? fun e => s.rdNat e 6 == a

/-- The target of an entry for step t (R246). -/
def State.sigTarget (s : State) (e t : Nat) : Nat :=
  let base := s.rdNat (e + 8) 8
  let bs := s.rdNat (e + 16) 8
  min (2 ^ 64 - 1) (if bs ≤ t then base + (t - bs) * s.rdNat (e + 24) 4 else base)

/-- LEAD of an entry. -/
def State.sigLead (s : State) (e : Nat) : Nat := bits (s.rdNat (e + 6) 1) 4 2

/-- LAG of an entry. -/
def State.sigLag (s : State) (e : Nat) : Nat := bits (s.rdNat (e + 6) 1) 6 2

/-- FAULT set in an entry (R246). -/
def State.sigFault (s : State) (e : Nat) : State := s.storeNat (e + 6) 1 (s.rdNat (e + 6) 1 ||| 4)

/-- A bit of WAITERS set or cleared for a logical bench (R246). -/
def State.sigWaiter (s : State) (e k : Nat) (on : Bool) : State :=
  let w := s.rdNat (e + 48) 4
  s.storeNat (e + 48) 4 (if on then w ||| 2 ^ k else w - (if bitAt w k then 2 ^ k else 0))

/-- A counting fault's registers (R256): kind 0 underflow, 1 overflow. -/
def State.countFault (s : State) (a kind : Nat) : State :=
  s.setAll [(Coll.cntAddr, a), (Coll.cntKind, kind), (Coll.countEvt, 1)]

/-- The logical number of a bench. -/
def State.logical (s : State) (b : Nat) : Nat := s.get (Ben.logical b)

/-- The outcomes of a signal add. -/
inductive SigAdd where
  | added (s : State)
  | overflow (s : State)
  | absent
  | unreadable
  deriving DecidableEq, Repr

/-- Who adds: device ID and logical bench code (0x3E firmware, 0x3F a port) (R246). -/
structure Signaller where
  dev   : Nat
  bench : Nat
  deriving DecidableEq, Repr

/-- A signal add (R246, R247): directory lookup, overflow check against step c + LEAD, the word and the LAST fields, the
monitor slots. -/
def State.sigAdd (s : State) (a inc : Nat) (by' : Signaller) : SigAdd :=
  match s.dirFind a with
  | none => .absent
  | some e =>
    if s.readErr a 8 ≠ none then .unreadable
    else
      let v := s.rdNat a 8
      if s.sigTarget e (s.step + s.sigLead e) < v + inc then
        .overflow (((s.sigFault e).logE clCountOver (.forgeDie (dieOf a)) a [(v, 64), (inc, 64), (by'.bench, 6)]).countFault a 1)
      else
        let s := s.storeNat a 8 (v + inc)
        let s := s.storeNat (e + 32) 4 (by'.dev % 2 ^ 20 + by'.bench % 64 * 2 ^ 20)
        let s := s.storeNat (e + 40) 8 s.now
        let s := s.storeNat (e + 52) 4 (s.rdNat (e + 52) 4 + 1)
        .added (s.fireMons a 8)

/-- A signal add on this device whose refusal is logged at a unit (R246). -/
def State.signal (s : State) (u : LogUnit) (a inc : Nat) (by' : Signaller) : State :=
  match s.sigAdd a inc by' with
  | .added t => t
  | .overflow t => t
  | .absent => s.logE clAccess u a []
  | .unreadable => s.logE clAccess u a []

end Sys2Proof.Machine
end

