-- ==== Sys2Proof/Machine/Bench.lean ====
section
/-! DEFINITION. Benches: halting, and what a station logs (R130, R141, R144). -/

namespace Sys2Proof.Machine

open Sys2Proof

/-- Whether bench b runs: STATE 1 on a running device (R145, R403). -/
def State.benchRuns (s : State) (b : Nat) : Bool := s.active && s.running && s.get (Ben.state b) == 1

/-- A running bench enters the halted state (R130): its Compositor halts, its region stops. -/
def State.haltBench (s : State) (b : Nat) : State :=
  if s.get (Ben.state b) = 1 then s.setAll [(Ben.state b, 2), (Rgn.state b, 1), (Stn.state b 15, 3)] else s

/-- A station's stream halts on a fault, and its bench with it (R141). -/
def State.haltStation (s : State) (b i : Nat) : State := (s.set (Stn.state b i) 3).haltBench b

/-- The stream that runs on station i of bench b. -/
def State.stream (s : State) (b i : Nat) : Option Stream := Tab.find s.streams (16 * b + i)

/-- The state with the stream of a station replaced. -/
def State.setStream (s : State) (b i : Nat) (x : Stream) : State := { s with streams := Tab.put s.streams (16 * b + i) x }

/-- The state with no stream on a station. -/
def State.delStream (s : State) (b i : Nat) : State := { s with streams := Tab.del s.streams (16 * b + i) }

/-- The station's index in DETAIL [3:0] (R435). -/
def stnDetail (i : Nat) : Nat × Nat := (i, 4)

/-- An ACCESS_VIOLATION of a station giving an address, recorded in FAULT_ADDR (R141, R144). -/
def State.stnViolation (s : State) (b i a : Nat) : State :=
  (s.logE clAccess (.bench b) a [stnDetail i]).set (Stn.faultAddr b i) a

/-- A refused stream (R128, R141): REFUSED, the entry, the bench halted. -/
def State.refuseStream (s : State) (b i a : Nat) : State := ((s.stnViolation b i a).set (Stn.refused b i) 1).haltBench b

/-- A stream halted by a violation while it runs. -/
def State.stnHaltViolation (s : State) (b i a : Nat) : State := (s.stnViolation b i a).haltStation b i

/-- Packets of a station's stream that are not acknowledged (R245). -/
def State.unacked (s : State) (b i : Nat) : Nat :=
  (s.dsts.map fun e => ((e.2.flights ++ e.2.waiting).filter fun f => f.owner == some (b, i)).length).sum

end Sys2Proof.Machine
end

