-- ==== Sys2Proof/Machine/Fabric.lean ====
section
/-! DEFINITION. Packets at their destination: writes, signal adds, reads, replies, acknowledgements and custody; resends
(R245, R250, R258-R259, R265-R277). -/

namespace Sys2Proof.Machine

open Sys2Proof

/-! ### Memory errors met by the switch slice or firmware (R476) -/

/-- An uncorrectable stone word that the slice or firmware met: logged and counted by stone control (R339, R476). -/
def State.stoneUncorr (s : State) (a : Nat) : State :=
  let n := dieOf a
  ((s.logE clEccUncorr (.forgeDie n) a []).bump (Sc.uncorr n) 1).set (Sc.lastOff n) (a % 0x6000000)

/-- A write of n bytes that is refused because of an error it covers in part: the address is logged (R338); for stone the
writer receives the error (R339). -/
def State.storeRefused (s : State) (u : LogUnit) (a : Nat) : State :=
  if isStone a then s.stoneUncorr (a / 8 * 8) else s.logE clAccess u a []

/-! ### Bodies -/

/-- A write into a region (R259): refused accesses are answered with reason 1. -/
def State.writeBody (s : State) (p : Nat) (pkt : Pkt) (ok : RegionEntry → Bool) : Done :=
  let n := pkt.payload.length
  match s.regionAddr (pktRh pkt) (pktOffset pkt) (pktLength pkt) ok with
  | none => (s.refuseAccess p (pktSrc pkt) (pktRh pkt) (pktOffset pkt), .nack 1)
  | some a =>
    if !s.ramOk a n then (s.logE clAccess (.port p) a [], .nack 1)
    else
      match s.storeErr a n with
      | some e => (s.storeRefused (.port p) e, .nack 1)
      | none => ((s.put a pkt.payload).delivered p (sliceOf a) pkt, .accept)

/-- The word that a signal add names (R250, R258): with the SIGNAL service OFFSET is its address; a region's handle names the word at OFFSET
of the region, which lies in it whole. The region's permissions are those of writes and reads (R259; log entry 11). -/
def State.signalAddr (s : State) (pkt : Pkt) : Option Nat :=
  if pktRh pkt = 0xFF20 then some (pktOffset pkt) else s.regionAddr (pktRh pkt) (pktOffset pkt) 8 fun _ => true

/-- A signal add that arrives by the fabric (R250). -/
def State.signalBody (s : State) (p : Nat) (pkt : Pkt) : Done :=
  let w := leNat pkt.payload
  if pkt.payload.length ≠ 16 ∨ bits w 70 58 ≠ 0 then (s.logE clSequence (.port p) (pktSrc pkt) [], .nack 2)
  else
    if 0xFF00 ≤ pktRh pkt ∧ pktRh pkt ≠ 0xFF20 then (s, .nack 2)
    else
      match s.signalAddr pkt with
      | none => (s.refuseAccess p (pktSrc pkt) (pktRh pkt) (pktOffset pkt), .nack 1)
      | some a =>
      match s.sigAdd a (bits w 0 64) ⟨pktSrc pkt, bits w 64 6⟩ with
      | .added t => (t.delivered p (dieOf a) pkt, .accept)
      | .overflow t => (t, .accept)
      | .absent => (s.logE clAccess (.port p) a [], .nack 1)
      | .unreadable => (s.storeRefused (.port p) a, .nack 1)

/-- Whether a VALID region with READ covers n bytes at a (R258, R259): only a listed byte can hold the bits. -/
def State.readable (s : State) (a n : Nat) : Bool :=
  let b := s.get Fab.rtBase
  (s.mem.filter fun c => decide (b ≤ c.1 ∧ c.1 < b + 16 * s.get Fab.rtCount) && c.1 % 16 == 6).any fun c =>
    match s.region ((c.1 - b) / 16) with
    | some e => e.read && decide (e.base ≤ a ∧ a + n ≤ e.base + e.size)
    | none => false

/-- The READ service (R258): LENGTH bytes at the device-local address OFFSET returned as a REPLY (DEDUCED, log entry 12). -/
def State.readBody (s : State) (p : Nat) (pkt : Pkt) : Done :=
  let w := leNat pkt.payload
  let a := pktOffset pkt
  let n := bits w 56 14
  if pkt.payload.length ≠ 16 ∨ bits w 70 58 ≠ 0 then (s.logE clSequence (.port p) (pktSrc pkt) [], .nack 2)
  else if n = 0 ∨ 8192 < n then (s, .nack 2)
  else if !(s.readable a n && s.ramOk a n) then (s.refuseAccess p (pktSrc pkt) (pktRh pkt) a, .nack 1)
  else
    match s.readErr a n with
    | some e => ((if isStone e then s.stoneUncorr e else s.logE clAccess (.port p) e []), .nack 1)
    | none =>
      let d : Draft :=
        { vc := 2, kind := 3, dst := pktSrc pkt, rhandle := bits w 0 16, offset := bits w 16 40, payload := s.rdBytes a n }
      (s.inject (sliceOf a) none none d, .accept)

/-! ### Acknowledgements (R268) -/

/-- Whether an ACK with CUM and MAP covers a SEQ. -/
def ackCovers (cum map seq : Nat) : Bool :=
  let d := (seq + 2 ^ 32 - cum) % 2 ^ 32
  decide (2 ^ 31 ≤ d) || (decide (1 ≤ d) && decide (d ≤ 64) && bitAt map (d - 1))

/-- A DMA of a service has one write fewer to wait for; after the last its signal add is sent (R191, R245). -/
def State.dmaAcked (s : State) (k : Nat) : State :=
  match Tab.find s.dmas k with
  | none => s
  | some d =>
    if d.left ≤ 1 then
      let add : Draft :=
        { vc := 0, kind := 1, dst := d.dst, rhandle := d.rh, offset := d.off, ordinal := d.ord
          payload := leBytes 16 d.inc }
      { s with dmas := Tab.del s.dmas k }.inject 0 none none add
    else { s with dmas := Tab.put s.dmas k { d with left := d.left - 1 } }

/-- Resend copies towards PEER that an ACK covers are released (R268). -/
def State.ackRelease (s : State) (peer cum map : Nat) : State :=
  let x := s.dst peer
  let (gone, kept) := x.flights.partition fun f => ackCovers cum map (pktSeq f.pkt)
  let s := (s.setDst peer { x with flights := kept }).refillDst peer (x.waiting.length)
  (gone.filterMap (·.dma)).foldl State.dmaAcked s

/-- Whether an ACK, NACK or CUSTODY payload is one that a receiver uses (R268, R275, R474). -/
def ackOk (pkt : Pkt) (custody : Bool) : Bool :=
  let w := leNat pkt.payload
  pkt.payload.length == 24 && bits w 20 12 == 0 && (if custody then bits w 160 32 == 0 else bits w 128 64 == 0)

/-- ACK (R268). -/
def State.ackBody (s : State) (p : Nat) (pkt : Pkt) : Done :=
  let w := leNat pkt.payload
  if !ackOk pkt false then (s.logE clSequence (.port p) (pktSrc pkt) [], .drop)
  else (s.ackRelease (bits w 0 20) (bits w 32 32) (bits w 64 64), .accept)

/-! ### Resends (R269, R270) -/

/-- A resend copy sent again: RESEND set, the timer doubled (R270). -/
def State.resendOne (s : State) (d : Nat) (f : Flight) : State :=
  let x := s.dst d
  let g := { f with tries := f.tries + 1, timer := 2 * f.timer }
  let s := s.setDst d { x with flights := x.flights.map fun e => if pktSeq e.pkt = pktSeq f.pkt then g else e }
  (s.bump Fab.resends 1).sendOut 0 f.via (pktPut f.pkt 202 1 1)

/-- The resend copies of a range of SEQ towards a device. -/
def State.flightsIn (s : State) (d first count : Nat) : List Flight :=
  (s.dst d).flights.filter fun f => decide ((pktSeq f.pkt + 2 ^ 32 - first) % 2 ^ 32 < count)

/-- A packet refused for good: the source gives up its copy, logs, and the stream that sent it halts (R269). -/
def State.nackedOne (s : State) (d : Nat) (f : Flight) : State :=
  let x := s.dst d
  let s := s.setDst d { x with flights := x.flights.filter fun e => pktSeq e.pkt != pktSeq f.pkt }
  match f.owner with
  | some (b, i) => (s.logE clAccess (.bench b) d [stnDetail i]).haltStation b i
  | none => s.logE clAccess .hub d []

/-- NACK (R269): a gap is resent at once; any other reason is final. -/
def State.nackBody (s : State) (p : Nat) (pkt : Pkt) : Done :=
  let w := leNat pkt.payload
  let d := pktSrc pkt
  let fs := s.flightsIn d (bits w 0 32) (bits w 32 16)
  if pkt.payload.length ≠ 24 ∨ bits w 56 136 ≠ 0 ∨ 3 < bits w 48 8 then (s.logE clSequence (.port p) d [], .drop)
  else if bits w 48 8 = 0 then (fs.foldl (fun t f => t.resendOne d f) s, .accept)
  else (fs.foldl (fun t f => t.nackedOne d f) s, .accept)

/-- Whether an ACK or CUSTODY covers a packet: the pair is its own destination and its PEER (R268, R275). -/
def ackCoversPkt (ack k : Pkt) : Bool :=
  let w := leNat ack.payload
  pktSrc k == pktDst ack && pktDst k == bits w 0 20 && ackCovers (bits w 32 32) (bits w 64 64) (pktSeq k)

/-- CUSTODY at a near long-haul port: its window releases the copies of the pair that it covers, and the advertised space is noted (R275,
R277). -/
def State.custodyPort (s : State) (p : Nat) (pkt : Pkt) : State :=
  if s.longHaul p then
    s.onPort p fun y => { y with window := y.window.filter (fun k => !ackCoversPkt pkt k.pkt), advert := bits (leNat pkt.payload) 128 32 }
  else s

/-- CUSTODY at the source (R275): it marks its copies as taken. -/
def State.custodyBody (s : State) (p : Nat) (pkt : Pkt) : Done :=
  let peer := bits (leNat pkt.payload) 0 20
  if !ackOk pkt true then (s.logE clSequence (.port p) (pktSrc pkt) [], .drop)
  else
    let x := s.dst peer
    ((s.setDst peer { x with flights := x.flights.map fun f => if ackCoversPkt pkt f.pkt then { f with custody := true } else f }).custodyPort p pkt, .accept)

/-- CUSTODY for another source that comes over a near long-haul port's link ends there (R275; log entry 38). -/
def State.custodyTransit (s : State) (p : Nat) (pkt : Pkt) : State :=
  if !pktCrcOk pkt then s.crcFailed p pkt
  else if !ackOk pkt true then s.logE clSequence (.port p) (pktSrc pkt) []
  else s.custodyPort p pkt

/-- A sound ACK that passes a far long-haul port releases the reception copies that it covers (R275). -/
def State.ackPasses (s : State) (pkt : Pkt) : State :=
  if pktKind pkt = 4 ∧ ackOk pkt false ∧ pktCrcOk pkt then
    { s with ports := s.ports.map fun e => (e.1, { e.2 with reception := e.2.reception.filter (fun k => !ackCoversPkt pkt k.pkt) }) }
  else s

/-! ### Resends by timer (R270, R275) -/

/-- The source gives a destination up (R270): E2E_TIMEOUT, FAILED_DST, the sending stream ends without its signal. -/
def State.giveUp (s : State) (d : Nat) (f : Flight) : State :=
  let x := s.dst d
  let s := s.setDst d { x with failed := true, flights := x.flights.filter fun e => pktSeq e.pkt != pktSeq f.pkt }
  ((s.timeout .hub d [(pktSeq f.pkt, 32)]).set Fab.failedDst d).failStream f.owner

/-- Whether a copy is of the packet of a pair with a SEQ. -/
def Copy.isOf (k : Copy) (src dst seq : Nat) : Bool := pktSrc k.pkt == src && pktDst k.pkt == dst && pktSeq k.pkt == seq

/-- A copy sent once more over its segment: RESEND set, its timer doubled (R270). -/
def Copy.again (k : Copy) : Copy := { k with tries := k.tries + 1, timer := 2 * k.timer }

/-- A list of copies with one changed, or taken out. -/
def Copy.edit (l : List Copy) (k : Copy) (f : Option Copy) : List Copy := l.filterMap fun c => if c = k then f else some c

/-- A long-haul port gives a copy up after RESEND_MAX resends of its segment (R270, R275). -/
def State.segmentGivesUp (s : State) (k : Copy) : State :=
  let d := pktDst k.pkt
  ((s.setDst d { s.dst d with failed := true }).timeout .hub d [(pktSeq k.pkt, 32)]).set Fab.failedDst d

/-- A copy of port e's window, resent over the long-haul link when that is up (R275, R281). -/
def State.windowResend (s : State) (e : Nat) (k : Copy) : State :=
  if !s.portUp e then s
  else if k.tries ≤ s.get Fab.resendMax then
    ((s.onPort e fun x => { x with window := Copy.edit x.window k (some k.again) }).bump Fab.resends 1).emit e (s.frameOf e (pktPut k.pkt 202 1 1))
  else (s.onPort e fun x => { x with window := Copy.edit x.window k none }).segmentGivesUp k

/-- A copy of port e's reception buffer, resent towards its destination (R275). -/
def State.receptionResend (s : State) (e : Nat) (k : Copy) : State :=
  if k.tries ≤ s.get Fab.resendMax then
    ((s.onPort e fun x => { x with reception := Copy.edit x.reception k (some k.again) }).bump Fab.resends 1).depart (pdOf e) { pkt := pktPut (pktOnward k.pkt) 202 1 1 }
  else (s.onPort e fun x => { x with reception := Copy.edit x.reception k none }).segmentGivesUp k

/-- The copy that a long-haul port holds of a packet, sent again over its own segment (R275). -/
def State.segmentResend (s : State) (src dst seq : Nat) : State :=
  match s.ports.findSome? fun e => (e.2.window.find? fun k => k.isOf src dst seq).map fun k => (e.1, k) with
  | some (e, k) => s.windowResend e k
  | none =>
    match s.ports.findSome? fun e => (e.2.reception.find? fun k => k.isOf src dst seq).map fun k => (e.1, k) with
    | some (e, k) => s.receptionResend e k
    | none => s

/-- RESEND (R270): the timer of a packet of a pair has expired, at its source or at a long-haul port that holds a copy of it; src names
the source, none this device. Timers stand still from a cut to START (R280). -/
def execResend (dst : Nat) (seq : W32) (s : State) (src : Option Nat := none) : Host.Outcome State Fault Refusal :=
  .next (
    let src := src.getD (s.get Fab.deviceId)
    if !s.active || s.cut then s
    else
      match (s.dst dst).flights.find? fun f => pktSeq f.pkt == seq.toNat && !f.custody && src == s.get Fab.deviceId with
      | some f => if f.tries ≤ s.get Fab.resendMax then s.resendOne dst f else s.giveUp dst f
      | none => s.segmentResend src dst seq.toNat)

/-- The ranges of SEQ that are missing below a received one, as (first, count) (R269). -/
def SrcState.gaps (x : SrcState) : List (Nat × Nat) :=
  let ds := ((x.got ++ x.held).map fun g => (g + 2 ^ 32 - x.cum) % 2 ^ 32).mergeSort (· ≤ ·)
  (ds.foldl (fun (acc : List (Nat × Nat) × Nat) d =>
    (if acc.2 < d then acc.1 ++ [((x.cum + acc.2) % 2 ^ 32, d - acc.2)] else acc.1, d + 1)) ([], 0)).1

/-- GAP_NACK (R269): a gap NACK for each missing range of a source. -/
def execGapNack (src : Nat) (s : State) : Host.Outcome State Fault Refusal :=
  .next (if s.active then ((s.src src).gaps.foldl (fun t g => t.sendNack src g.1 g.2 0) s) else s)

/-- DELIV_TO (R275): CUSTODY is held but no ACK came. -/
def execDelivTo (dst : Nat) (seq : W32) (s : State) : Host.Outcome State Fault Refusal :=
  .next (
    if s.active && !s.cut && (s.dst dst).flights.any fun f => pktSeq f.pkt == seq.toNat && f.custody then
      s.timeout .hub dst [(seq.toNat, 32)]
    else s)

/-! ### Link control blocks received -/

/-- A link control block at port p: used when the link runs, the block is sound and permitted in the port's mode (R316,
R320). -/
def State.blockIn (s : State) (p type : Nat) (b : BitVec 256) (carriedOk : Bool) (use : State → State) : State :=
  let j := p / 8
  let k := p % 8
  if !s.active || s.ctxState p < 2 then s
  else if s.carried p && !carriedOk then (s.bump (Oct.ctxCarriedDrops j k) 1).set (Oct.ctxLastDrop j k) 7
  else if !blockOk type b then s.bump (Oct.ctxCtrlBad j k) 1
  else use s

/-- CREDIT (R266): credits per VC and per ordinal come back. -/
def execCredit (p : Nat) (blk : BitVec 256) (vcs : List Nat) (ords : Tab Nat) (s : State) : Host.Outcome State Fault Refusal :=
  .next (s.blockIn p 2 blk false fun t => t.onPort p fun x => { x with
    credits := (List.range 5).foldl (fun c v => Tab.set c 0 (v + 1) (Tab.get c 0 (v + 1) + nth 0 vcs v)) x.credits
    ordCredits := ords.foldl (fun c e => Tab.set c 0 e.1 (Tab.get c 0 e.1 + e.2)) x.ordCredits })

end Sys2Proof.Machine
end

