-- ==== Sys2Proof/Machine/Regions.lean ====
section
/-! DEFINITION. Region events: canaries, bands, rails and slow marks (R35, R39-R44, R52-R53). -/

namespace Sys2Proof.Machine

open Sys2Proof

/-- Temperature of a sensor by AGE_r number (R34, R431). -/
def State.sensorTemp (s : State) (u : Nat) : Int := if u < 72 then s.rgnTemp u else Tab.get s.fixedTemp 0 u

/-- The hottest of the 85 sensors, with the lowest number among equals. -/
def State.hotSensor (s : State) : Nat :=
  (List.range 85).foldl (fun m u => if s.sensorTemp m < s.sensorTemp u then u else m) 0

/-- Thermal cycles (R426): the hottest region has risen 40 C above its previous low and is back within 10 C of it. -/
def State.thermCycle (s : State) : State :=
  let h := s.hottest
  if s.thermUp then if h ≤ s.thermLow + 100 then { s with thermUp := false, thermLow := h }.bump Sec.thermalCycles 1 else s
  else { s with thermLow := min h s.thermLow, thermUp := decide (min h s.thermLow + 400 ≤ h) }

/-- A region's temperature as TEMP reads it now; the band follows it with the hysteresis of R39, and the applied code the band. -/
def State.regionTemp (s : State) (r : Nat) (t : Int) : State :=
  let s := (s.set (Rgn.temp r) (twos 16 t)).thermCycle
  (s.set (Rgn.band r) (bandStep (s.get (Rgn.band r)) (s.rgnTemp r))).applyCode r

/-- A sensor reads a temperature; T_HOT, T_HOT_UNIT and THERM_N follow (R466, R471). -/
def State.senseTemp (s : State) (u : Nat) (t : Int) : State :=
  let s := if u < 72 then s.regionTemp u t else { s with fixedTemp := Tab.set s.fixedTemp 0 u t }
  let h := s.hotSensor
  s.setAll [(Pwr.tHot, twos 16 (s.sensorTemp h)), (Pwr.tHotUnit, h), (Side.thermOut, b2n (decide (1030 ≤ s.sensorTemp h)))]

/-- A canary capture of a region (R41), and the second case of R42: more than 2^10 failures among the last 2^30 captures in
the band. Before a band has seen 2^30 captures R42 gives no ratio; the model then also asks for more than 2^10 failures among those
there are (DESIGN CHOICE, log entry 13). -/
def State.canary (s : State) (r : Nat) (matched : Bool) : State :=
  let x := s.rgn r
  let b := s.get (Rgn.band r)
  let n := Tab.get x.caps 0 b + 1
  let fs := (Tab.get x.fails [] b).filter fun k => decide (n < k + 2 ^ 30)
  let fs := if matched then fs else fs ++ [n]
  let s := if x.capSub + 1 = 65536 then s.bump (Rgn.captures r) 1 else s
  let s := if matched then s else s.bump (Rgn.fails r) 1
  let x := { x with capSub := (x.capSub + 1) % 65536, caps := Tab.set x.caps 0 b n }
  if 1024 < fs.length then (s.setRgn r { x with fails := Tab.set x.fails [] b [] }).marginRaise r b
  else s.setRgn r { x with fails := Tab.set x.fails [] b fs }

/-- CANARY_CAPTURE (R41, R42): the region is powered and works. -/
def execCanaryCapture (r : Nat) (matched : Bool) (s : State) : Host.Outcome State Fault Refusal :=
  .next (if s.active && s.get (Rgn.state r) == 0 then s.canary r matched else s)

/-- MARGIN_LOWER (R44): after 30 days without a trigger the entry falls by one, never below 4 nor the floor. A lowering
starts the 30 days anew (DEDUCED, log entry 13). -/
def execMarginLower (r band : Nat) (s : State) : Host.Outcome State Fault Refusal :=
  let x := s.rgn r
  let c := s.get (Rgn.code r band)
  .next (
    if s.alive && decide (Tab.get x.trigger 0 band + 30 * day ≤ s.elapsed) && decide (max 4 (s.get (Rgn.floor r)) < c) then
      ((s.setRgn r { x with trigger := Tab.put x.trigger band s.elapsed }).set (Rgn.code r band) (c - 1)).applyCode r
    else s)

/-- BAND_CHANGE (R39): the region reads a temperature and takes the band of R39 and its applied code. -/
def execBandChange (r : Nat) (temp : Int) (s : State) : Host.Outcome State Fault Refusal :=
  .next (
    if s.active then s.senseTemp r temp else s)

/-- SLOW_MARK_SEND (R52, R150): a mark with the multiplier in force; a retiring bench's is 15, and none is sent on a stopped device (R151). When the factor has
recovered, one mark with multiplier 1. A bench without a logical number has no scheduled-plane work, every other region of the schedule has
it, also while the device is stopped (R52 leaves it open: DESIGN CHOICE, log entry 13). -/
def execSlowMarkSend (r : Nat) (s : State) : Host.Outcome State Fault Refusal :=
  .next (
    if !s.active then s
    else if r < 40 ∧ s.get (Ben.state r) = 3 then (if s.running then s.slowSend r 15 else s)
    else if (r < 40 ∧ ¬ s.flag (Ben.lvalid r)) ∨ (s.slowNow r = 1 ∧ s.get (Rgn.slowMult r) = 1) then s
    else s.slowSend r (s.slowNow r))

/-- SLEWING_END (R35): the rail has reached its setting, or its cap where that is lower (R462). -/
def execSlewingEnd (r : Nat) (s : State) : Host.Outcome State Fault Refusal :=
  .next (
    if s.active && s.flag (Rgn.slewing r) then
      s.setAll [(Rgn.slewing r, 0), (Rgn.vread r, min (s.get (Rgn.vset r)) (s.get (Pwr.vcap r)))]
    else s)

/-! ### Slow marks received (R53) -/

/-- The region of a mark, as AGE_r number, when RTYPE and RNUM are in range. -/
def markRegion (rtype rnum : Nat) : Option Nat :=
  if rtype = 1 ∧ rnum < 40 then some rnum
  else if rtype = 2 ∧ rnum < 8 then some (40 + rnum)
  else if rtype = 3 ∧ rnum < 24 then some (48 + rnum)
  else none

/-- The timers of scheduled packets towards a device scaled when its multiplier changes (R53, R281). -/
def State.scaleTimers (s : State) (d old new : Nat) : State :=
  let x := s.dst d
  if old = new then s
  else
    let scaled (l : List Copy) : List Copy := l.map fun k => if pktVc k.pkt = 0 ∧ pktDst k.pkt = d then { k with timer := k.timer * new / old } else k
    let s := s.setDst d { x with flights := x.flights.map fun f => if pktVc f.pkt = 0 then { f with timer := f.timer * new / old } else f }
    { s with ports := s.ports.map fun e => (e.1, { e.2 with window := scaled e.2.window, reception := scaled e.2.reception }) }

/-- The marks of a source changed. -/
def State.setMarks (s : State) (src : Nat) (m : Tab (Nat × Nat)) : State :=
  let t := { s with marks := m }
  t.scaleTimers src (s.slowMult src) (t.slowMult src)

/-- A management message: a VERSION other than 1 is counted in MGMT_BAD (R362). -/
def State.mgmtBody (s : State) (pkt : Pkt) (len : Nat) (use : State → State) : Done :=
  if bits (mgmtNat pkt) 0 4 ≠ 1 ∨ pkt.payload.length < len then (s.bump Surv.mgmtBad 1, .accept) else (use s, .accept)

/-- A slow mark (R53). -/
def State.slowBody (s : State) (pkt : Pkt) : Done :=
  let w := mgmtNat pkt
  let mult := bits w 20 4
  if bits w 4 4 ≠ 1 ∨ mult = 0 ∨ pkt.payload.length ≠ 8 then (s.bump Surv.mgmtBad 1, .accept)
  else
    s.mgmtBody pkt 8 fun t =>
      match markRegion (bits w 8 4) (bits w 12 8) with
      | none => t.bump Surv.mgmtBad 1
      | some r =>
        let k := pktSrc pkt * 128 + r
        t.setMarks (pktSrc pkt) (if mult = 1 then Tab.del t.marks k else Tab.put t.marks k (mult, t.now))

/-- SLOW_MARK_EXPIRY (R53). -/
def execSlowMarkExpiry (src r : Nat) (s : State) : Host.Outcome State Fault Refusal :=
  .next (if s.alive then s.setMarks src (Tab.del s.marks (src * 128 + r)) else s)

end Sys2Proof.Machine
end

