-- ==== Sys2Proof/Machine/Timebase.lean ====
section
/-! DEFINITION. The global timebase: time marks, slewing, lock, the reference and PPS (R54-R60). -/

namespace Sys2Proof.Machine

open Sys2Proof

/-- The state with its time mark state replaced. -/
def State.setTimeMarks (s : State) (x : TimeMarks) : State := { s with time := x }

/-- Twice the sum of the held offsets in ns, and how many they are (R59: the mean of the last 8). -/
def TimeMarks.total (x : TimeMarks) : Int := x.offsets.sum

/-- Whether the filtered offset lies within plus or minus b ns: |sum / (2 n)| <= b. -/
def TimeMarks.within (x : TimeMarks) (b : Nat) : Bool :=
  decide ((x.total).natAbs ≤ 2 * b * x.offsets.length)

/-- Whether the device is behind its source by the filtered offset. -/
def TimeMarks.behind (x : TimeMarks) : Bool := decide (x.total < 0)

/-- The filtered offset in whole ns, cut toward zero. -/
def TimeMarks.mean (x : TimeMarks) : Int := x.total.tdiv (2 * x.offsets.length)

/-- The time marks with one more offset, in half ns: the last 8 are held, and their mean is what is to be corrected (R59). -/
def TimeMarks.push (x : TimeMarks) (half : Int) : TimeMarks :=
  let offs := x.offsets ++ [half]
  let y := { x with offsets := offs.drop (offs.length - 8) }
  { y with due := y.mean }

/-- A half-integral ns value n/d as a register shows it: where it is not whole, one of its two neighbours, by a free value
(R57 gives no rounding; log entry 10). -/
def State.roundFree (s : State) (n : Int) (d : Nat) : Int × State :=
  if d = 0 then (0, s)
  else if n % (d : Int) = 0 then (n / (d : Int), s)
  else
    let (f, s) := s.fresh
    (n / (d : Int) + (f % 2 : Nat), s)

/-- The count moved forward by k ns at once, and that much less to be corrected (R59). -/
def State.stepCount (s : State) (k : Nat) : State :=
  (s.bump Tb.count k).setTimeMarks { s.time with due := s.time.due + k }

/-- The actions of R59 on the filtered offset beyond 10 us: a step forward, or AHEAD with TB_LOCK held clear. The same holds of a time
master whose reference is present, whose TB_LOCK R60 would hold set: R59 is followed (DESIGN CHOICE, log entry 33). -/
def State.coarse (s : State) : State :=
  let x := s.time
  if x.within 10000 then s
  else if x.behind then s.stepCount x.due.natAbs
  else (s.setAll [(Tb.tbLock, 0), (Tb.ahead, 1)]).setTimeMarks { x with good := 0, due := 0 }

/-- A new offset, in half ns, enters the filter; OFFSET shows the mean. -/
def State.filterOffset (s : State) (half : Int) : State :=
  let x := s.time.push half
  let (o, s) := s.roundFree x.total (2 * x.offsets.length)
  (s.setTimeMarks x).set Tb.offset (twos 32 o)

/-- A new offset of a time mark, in half ns: the filter, OFFSET, the lock of R60 and the action of R59. -/
def State.newOffset (s : State) (half : Int) (bound : Nat) : State :=
  let s := s.filterOffset half
  let x := s.time
  let good := if x.within bound then x.good + 1 else 0
  let bad := if x.within (4 * bound) then 0 else x.bad + 1
  let s := s.setTimeMarks { x with good := good, bad := bad }
  let s := if 16 ≤ good then s.set Tb.tbLock 1 else if 4 ≤ bad then s.set Tb.tbLock 0 else s
  s.coarse

/-- TIME_MARK_SEND (R57): a request on TB_SRC, its departure stamped. -/
def execTimeMarkSend (s : State) : Host.Outcome State Fault Refusal :=
  let p := s.get Tb.tbSrc
  .next (
    if s.active && !s.flag Tb.master && s.portUp p && !s.carried p then
      (s.setTimeMarks { s.time with t1 := some s.now }).sendOpenBlock p 3
    else s)

/-- TIME_REQ (R57): arrival t2 and departure t3 of the reply stamped on this device's count, and the reply sent with them; a step takes
no time, so both are the count now (log entry 33). A mark that arrives while the link narrows is discarded (R331). -/
def execTimeReq (p : Nat) (blk : BitVec 256) (_t1 : W64) (s : State) : Host.Outcome State Fault Refusal :=
  .next (s.blockIn p 3 blk false fun t => if t.ctxState p = 3 then
      (t.setTimeMarks { t.time with replies := Tab.put t.time.replies p (t.now, t.now) }).sendOpenBlock p 4
    else t)

/-- A round-trip sample in ns (R330). -/
def State.rttSample (s : State) (p n : Nat) : State :=
  let j := p / 8
  let k := p % 8
  let s := s.set (Oct.ctxMeasRtt j k) (min n (2 ^ 32 - 1))
  if s.longHaul p ∧ 1000 * s.get (Fab.lhRtt p) < n then (s.set (Oct.ctxRttEvt j k) 1).alert else s

/-- A reply's stamps used: offset, delay and round trip (R57, R330). -/
def State.timeReply (s : State) (p t1 t2 t3 : Nat) : State :=
  let t4 := s.now
  let a := sext 32 (s.get (Tb.a p))
  let half : Int := ((t1 : Int) - t2) + ((t4 : Int) - t3) - a
  let rtt : Int := ((t4 : Int) - t1) - ((t3 : Int) - t2)
  let (d, s) := s.roundFree rtt 2
  let s := (s.setTimeMarks { s.time with t1 := none }).set Tb.delay (twos 32 d)
  (s.rttSample p rtt.toNat).newOffset half (if s.flag (Tb.longF p) then 50 else 5)

/-- TIME_RESP (R57, R59, R60). -/
def execTimeResp (p : Nat) (blk : BitVec 256) (t2 t3 : W64) (s : State) : Host.Outcome State Fault Refusal :=
  .next (s.blockIn p 4 blk false fun t =>
    match t.time.t1 with
    | some t1 =>
      if t.ctxState p = 3 ∧ p = t.get Tb.tbSrc ∧ ¬ t.flag Tb.master then t.timeReply p t1 t2.toNat t3.toNat else t
    | none => t)

/-- SLEW (R59): one tick inserted or held, no more often than once per 10,000 ticks, while something of the filtered offset is still to
be corrected. -/
def execSlew (s : State) : Host.Outcome State Fault Refusal :=
  let x := s.time
  .next (
    if !s.alive || x.due == 0 || decide (s.elapsed < x.lastSlew + 10000) then s
    else if x.due < 0 then (s.stepCount 1).setTimeMarks { (s.stepCount 1).time with lastSlew := s.elapsed }
    else s.setTimeMarks { x with hold := x.hold + 1, lastSlew := s.elapsed, due := x.due - 1 })

/-- TB_LOCK_TIMEOUT (R60): 10 ms with no mark, on a device that follows a source. -/
def execTbLockTimeout (s : State) : Host.Outcome State Fault Refusal :=
  .next (if s.alive && !s.flag Tb.master then (s.set Tb.tbLock 0).setTimeMarks { s.time with good := 0 } else s)

/-- REF_LOST (R55): holdover, REF_LOST, ALERT_N; a time master holds TB_LOCK only while its reference is present (R60). -/
def execRefLost (s : State) : Host.Outcome State Fault Refusal :=
  .next (
    if s.alive then
      let s := ((s.set Tb.refLost 1).setTimeMarks { s.time with noRef := true }).alert
      if s.flag Tb.master then s.set Tb.tbLock 0 else s
    else s)

/-- REFERENCE_PRESENT (R55, R60). -/
def execReferencePresent (s : State) : Host.Outcome State Fault Refusal :=
  .next (
    if s.alive then
      let s := s.setTimeMarks { s.time with noRef := false }
      if s.flag Tb.master then s.set Tb.tbLock 1 else s
    else s)

/-- The signed distance in ns of a count from the nearest multiple of 10^9. -/
def ppsError (n : Nat) : Int := if n % 1000000000 < 500000000 then (n % 1000000000 : Nat) else ((n % 1000000000 : Nat) : Int) - 1000000000

/-- PPS_IN (R56): a time master with PPS_EN corrects its count under R59. The error enters the filter of R59 as an offset, and OFFSET
shows the mean (DESIGN CHOICE, log entry 33). -/
def execPpsIn (s : State) : Host.Outcome State Fault Refusal :=
  .next (
    if s.alive then
      let s := s.set Side.ppsInLvl 1
      if s.flag Tb.master && s.flag Tb.ppsEn then
        (s.filterOffset (2 * ppsError s.now)).coarse
      else s
    else s)

/-- PPS_OUT (R56): the count is at a multiple of 10^9 and the pin rises. -/
def execPpsOut (s : State) : Host.Outcome State Fault Refusal :=
  .next (if s.alive && s.now % 1000000000 == 0 then s.setTimeMarks { s.time with ppsOut := true } else s)

end Sys2Proof.Machine
end

