-- ==== Sys2Proof/Machine/Ports.lean ====
section
/-! DEFINITION. Ports: bring-up, HELLO, silence, link retry, width fallback, stop marks and route alarms (R272, R278-R279,
R311-R332, R380-R381). -/

namespace Sys2Proof.Machine

open Sys2Proof

/-! ### The alarm list (R380, R381) -/

/-- The lowest-numbered valid route set whose avoid list contains every device of the alarm list (R380). -/
def State.routeChoice (s : State) : Option Nat :=
  (List.range 4).find? fun k => s.flag (Surv.valid k) && s.alarms.all fun d => d ∈ (Tab.get s.routes ⟨[], []⟩ k).avoid

/-- A route set selected (R380). -/
def State.chooseRoute (s : State) : State :=
  match s.routeChoice with
  | some k => s.set Surv.routeSet k
  | none => (s.set Surv.noRouteSet 1).alert

/-- The payload of a ROUTE_ALARM (R362). -/
def alarmPayload (d : Nat) : List Byte := leBytes 4 (1 + 3 * 2 ^ 4 + d % 2 ^ 20 * 2 ^ 8)

/-- The steps of R381 for a device not yet in the alarm list: added, ROUTE_ALARM sent by the one whose link went down, routes
selected anew, LINK_MODE 2. -/
def State.raiseAlarm (s : State) (d : Nat) (tell : Bool) : State :=
  if d ∈ s.alarms then s
  else
    let s := { s with alarms := s.alarms ++ [d] }.setAll [(Surv.alarms, s.alarms.length + 1), (Surv.alarmLast, d)]
    let s := if tell then s.jobPeers.foldl (fun t x => t.sendMgmt x (alarmPayload d)) s else s
    (s.chooseRoute).setLinkMode 2

/-! ### A port's registers -/

/-- STATE of a context written. -/
def State.setCtx (s : State) (p v : Nat) : State := s.set (Oct.ctxState (p / 8) (p % 8)) v

/-- WIDTH and LANES of a context (R332). -/
def State.setLanes (s : State) (p width mask : Nat) : State :=
  s.setAll [(Oct.ctxWidth (p / 8) (p % 8), width), (Oct.ctxLanes (p / 8) (p % 8), mask * 2 ^ (p % 8))]

/-- Whether a context is enabled and its octet's mode has it. -/
def State.ctxOn (s : State) (p : Nat) : Bool := s.ctxUsed p && s.flag (Oct.ctxEn (p / 8) (p % 8))

/-- The healthy lanes of a port, bit k for its lane k (R325). -/
def State.healthy (s : State) (p : Nat) : Nat :=
  ((List.range (s.cfgWidth p)).map fun k =>
    if s.flag (Oct.laneFailed (p / 8) (p % 8 + k)) || s.flag (Oct.laneRetired (p / 8) (p % 8 + k)) then 0 else 2 ^ k).sum

/-- Whether port p has yet to send a packet that a cut lets go before its stop mark: one of its queues, one that waits for an egress
buffer, or one that waits for room among the resend copies (R278 order 2). -/
def State.dueLeft (s : State) (p : Nat) : Bool :=
  let x := s.port p
  let due (k : Pkt) : Bool := pktVc k == 2 || pktSrc k == s.get Fab.deviceId
  ((x.queues.map (·.2)).flatten ++ x.held).any (fun q => due q.pkt) ||
    s.dsts.any fun e => e.2.waiting.any fun f => (match f.via with
      | some e => some e
      | none => s.egressOf 0 f.pkt) == some p

/-- The stop mark of a port (R278): sent once per cut on an enabled port whose link is up, after the packets that are due. -/
def State.sendMark (s : State) (p : Nat) : State :=
  if s.cut ∧ ¬ (s.port p).markSent ∧ s.ctxOn p ∧ s.portUp p ∧ ¬ s.endpointLink p ∧ ¬ s.dueLeft p then
    (s.sendOpenBlock p 5).onPort p fun x => { x with markSent := true }
  else s

/-- A link that ends: R289, the link's credits and HELLO state are gone, the reason of R332 shown, LINK_DOWN logged. -/
def State.linkEnds (s : State) (p reason : Nat) : State :=
  let j := p / 8
  let k := p % 8
  let s := (s.abortCuts p).setAll [(Oct.ctxReason j k, reason), (Oct.ctxWidth j k, 0), (Oct.ctxLanes j k, 0)]
  let s := (s.setCtx p 0).onPort p fun x =>
    { x with credits := [], ordCredits := [], issued := [], hello := none, seenSent := false, retries := [], advert := 0 }
  (s.fitReplay p).logE clLinkDown (.port p) 0 []

/-- A link that was up goes down (R324, R326, R331, R381): DOWN_EVT and the route alarm for the peer it named. -/
def State.linkDown (s : State) (p reason : Nat) : State :=
  let d := s.get (Oct.ctxPeerId (p / 8) (p % 8))
  let s := (s.linkEnds p reason).set (Oct.ctxDownEvt (p / 8) (p % 8)) 1
  if d = 0xFFFFF then s else s.raiseAlarm d true

/-- A port that leaves its state for down, whether its link was up or not. -/
def State.portFails (s : State) (p reason : Nat) : State := if s.portUp p then s.linkDown p reason else s.linkEnds p reason

/-! ### Width fallback (R326, R327) -/

/-- The widest aligned group of a power of two lanes within a mask, the lowest among equals: its size and its first lane. -/
def laneGroup (mask : Nat) : Option (Nat × Nat) :=
  ([(8, 0), (4, 0), (4, 4), (2, 0), (2, 2), (2, 4), (2, 6)] ++ (List.range 8).map fun k => (1, k)).find? fun g =>
    bits mask g.2 g.1 == 2 ^ g.1 - 1

/-- Orders 1 and 2 of R327: the new width logged, NARROW sent. A port with no healthy lane goes down; a carried port does not
narrow (R326). -/
def State.narrowStart (s : State) (p lane : Nat) : State :=
  if s.carried p then s.linkDown p 12
  else
    match laneGroup (s.healthy p) with
    | none => s.linkDown p 11
    | some g => ((s.logE clLinkDown (.port p) 0 [(lane, 9), (g.1, 4)]).setCtx p 4).sendOpenBlock p 7

/-- The lowest lane of a port that is in use and has failed. -/
def State.badLane (s : State) (p mask : Nat) : Option Nat :=
  ((List.range 8).find? fun k => bitAt mask k && !bitAt (s.healthy p) k).map (p + ·)

/-- Orders 4 and 5 of R327: the group in use, cut-through packets ended, NARROWED. A lane of the group that has failed
meanwhile begins a new narrowing (R331). -/
def State.narrowTo (s : State) (p : Nat) (g : Nat × Nat) : State :=
  let mask := (2 ^ g.1 - 1) * 2 ^ g.2
  let s := (((s.abortCuts p).setLanes p g.1 mask).setCtx p 3).set (Oct.ctxNarrowed (p / 8) (p % 8)) 1
  match s.badLane p mask with
  | some l => s.narrowStart p l
  | none => s.sendMark p

/-- A lane fails (R325, R326). A port that narrows already takes the lane up in its group or afterwards (R331). -/
def State.laneFails (s : State) (lane : Nat) : State :=
  let j := lane / 8
  let l := lane % 8
  let w := modeLanes (s.get (Oct.mode j))
  let p := lane / w * w
  let was := s.flag (Oct.laneFailed j l)
  let s := s.set (Oct.laneFailed j l) 1
  if ¬ was ∧ s.ctxState p = 3 ∧ bitAt (s.get (Oct.ctxLanes (p / 8) (p % 8))) l then s.narrowStart p lane else s

/-- LANE_FAIL (R325): signal or block lock lost for 10 us. -/
def execLaneFail (lane : Nat) (s : State) : Host.Outcome State Fault Refusal :=
  .next (if s.active then (s.set (Oct.laneLock (lane / 8) (lane % 8)) 0).laneFails lane else s)

/-- FAIL_THRESH (R325): the symbols corrected in a window against FAIL_THRESH. -/
def execFailThresh (lane symbols : Nat) (s : State) : Host.Outcome State Fault Refusal :=
  .next (
    if s.active then
      let t := s.bump (Oct.laneSymCorr (lane / 8) (lane % 8)) symbols
      if s.get (Oct.failThresh (lane / 8)) < symbols then t.laneFails lane else t
    else s)

/-- NARROW (R327, R331): on an up port its mask is met with the port's own and answered; on a narrowing one it is the
acknowledgement. The mask is what the block's body gives, bit k for lane k of the port. -/
def State.narrowIn (s : State) (p mask : Nat) : State :=
  match laneGroup (mask &&& s.healthy p) with
  | none => s.linkDown p 11
  | some g => (if s.ctxState p = 3 then s.sendOpenBlock p 8 else s).narrowTo p g

/-! ### Bring-up (R322, R323) -/

/-- A port begins training on every lane of its configured width. -/
def State.trainStart (s : State) (p : Nat) : State := if s.ctxOn p && s.ctxState p == 0 then s.setCtx p 1 else s

/-- LINK_TRAINING (R312, R322): success leads to the HELLO exchange, failure leaves the port down with its reason. -/
def execLinkTraining (p : Nat) (res : TrainResult) (s : State) : Host.Outcome State Fault Refusal :=
  .next (
    if !s.active || s.ctxState p != 1 then s
    else
      match res with
      | .ok =>
        let w := s.cfgWidth p
        let s := (List.range w).foldl (fun t k => t.set (Oct.laneLock (p / 8) (p % 8 + k)) 1) s
        (s.setLanes p w (2 ^ w - 1)).setCtx p 2
      | .trainFailed => s.linkEnds p 2
      | .noLock => s.linkEnds p 3
      | .laneOrder => s.linkEnds p 1)

/-- BRING_UP_RETRY (R322): an enabled port that is down begins again. -/
def execBringUpRetry (p : Nat) (s : State) : Host.Outcome State Fault Refusal :=
  .next (if s.active then s.trainStart p else s)

/-- The HELLO body of a port (R317): field [lo] of the block lies at lo - 16 of the body. -/
def State.helloBody (s : State) (p seen : Nat) : Nat :=
  let x := s.port p
  let echo := match x.hello with
    | some h => bits h 96 64 + (s.now - x.helloAt)
    | none => 0
  packDetail [(1, 4), (1, 4), (s.get Fab.deviceId, 20), (p, 9), (s.cfgWidth p, 4), (s.get (Fab.lhEn p), 1), (s.get (Fab.updown p), 1),
    (seen, 1), (0, 4), (s.get (Fab.winMib p), 8), (s.get (Fab.lhRtt p), 10), (0, 14), (s.now, 64), (echo, 64)]

/-- The reason of R323 for which a peer's HELLO fails, if any. -/
def State.helloFault (s : State) (p h : Nat) : Option Nat :=
  if 1 < bits h 16 4 ∨ bits h 20 4 < 1 then some 5
  else if bits h 53 4 ≠ s.cfgWidth p then some 6
  else if bits h 57 1 ≠ s.get (Fab.lhEn p) then some 7
  else if s.longHaul p ∧ (bits h 64 8 ≠ s.get (Fab.winMib p) ∨ bits h 72 10 ≠ s.get (Fab.lhRtt p)) then some 7
  else if bits h 58 1 = s.get (Fab.updown p) then some 8
  else none

/-- The link comes up (R322 order 5): initial CREDIT blocks on a native port, for the buffers that RES_MIN sets aside and the ordinals'
reservations (R265, R266), STATE up, LINK_EVT. Lanes that failed or are retired begin a narrowing (R328); a stop mark that is due goes out
(R331). -/
def State.linkUp (s : State) (p : Nat) : State :=
  let s := if s.carried p then s else s.grantCredit p (if s.longHaul p then [] else [1, 2, 3, 4, 5].map fun v => (v, s.get Fab.resMin * creditUnits 8232))
  let s := (((s.setCtx p 3).fitReplay p).set (Oct.ctxLinkEvt (p / 8) (p % 8)) 1).grantOrdinals p 0 (s.portList p)
  match s.badLane p (2 ^ s.cfgWidth p - 1) with
  | some l => s.narrowStart p l
  | none => s.sendMark p

/-- HELLO_SEND (R322): a HELLO, with SEEN once a valid peer HELLO is held; that one ends the exchange. -/
def State.helloOut (s : State) (p : Nat) : State :=
  let held := (s.port p).hello != none
  let t := s.sendBlock p 1 (s.helloBody p (b2n held))
  if held then (t.onPort p fun x => { x with seenSent := true }).linkUp p else t

/-- HELLO_SEND (R322). -/
def execHelloSend (p : Nat) (s : State) : Host.Outcome State Fault Refusal :=
  .next (if s.active && s.ctxState p == 2 then s.helloOut p else s)

/-- What of a HELLO must stay the same on an up link: everything but SEEN, STAMP and ECHO. -/
def helloKey (h : Nat) : Nat := bits h 16 43 + bits h 60 36 * 2 ^ 43

/-- The round-trip sample of a HELLO (R330). -/
def State.helloRtt (s : State) (p h : Nat) : State := if bits h 160 64 = 0 then s else s.rttSample p (s.now - bits h 160 64)

/-- A HELLO held by a port: the peer's name, its stamp. -/
def State.holdHello (s : State) (p h : Nat) : State :=
  (s.setAll [(Oct.ctxPeerId (p / 8) (p % 8), bits h 24 20), (Oct.ctxPeerCtx (p / 8) (p % 8), bits h 44 9)]).onPort p fun x =>
    { x with hello := some h, helloAt := s.now }

/-- A HELLO at a port (R317, R323, R331). A changed HELLO on an up link names no reason of R332. -/
def State.helloIn (s : State) (p h : Nat) : State :=
  let s := s.helloRtt p h
  if s.ctxState p = 2 then
    match s.helloFault p h with
    | some r => s.linkEnds p r
    | none => s.holdHello p h
  else
    match (s.port p).hello with
    | some old => if helloKey old = helloKey h then s.holdHello p h else (s.linkDown p 0).trainStart p
    | none => s.holdHello p h

/-- Whether a HELLO's reserved fields are zero (R474). -/
def helloSound (h : Nat) : Bool := bits h 60 4 == 0 && bits h 82 14 == 0

/-- HELLO received as a control block. -/
def State.helloBlock (s : State) (p : Nat) (blk : BitVec 256) : State :=
  s.blockIn p 1 blk true fun t =>
    if helloSound blk.toNat then t.helloIn p blk.toNat else t.bump (Oct.ctxCtrlBad (p / 8) (p % 8)) 1

/-! ### Silence (R324) -/

/-- KEEPALIVE received as a control block: it only keeps the link from going silent. -/
def State.keepaliveBlock (s : State) (p : Nat) (blk : BitVec 256) : State := s.blockIn p 9 blk true id

/-- KEEPALIVE (R324). -/
def execKeepalive (p : Nat) (blk : BitVec 256) (s : State) : Host.Outcome State Fault Refusal := .next (s.keepaliveBlock p blk)

/-- KEEPALIVE_SEND (R324). -/
def execKeepaliveSend (p : Nat) (s : State) : Host.Outcome State Fault Refusal :=
  .next (if s.active && s.portUp p then s.sendOpenBlock p 9 else s)

/-! ### Link retry (R272) -/

/-- Whether link retry works on a port: a native site link in LINK_MODE 1 or 2. -/
def State.retryOn (s : State) (p : Nat) : Bool := s.siteNative p && s.get Fab.linkMode != 0

/-- The frame with a number among those that a port has sent since the reset, if link retry was on when it started: the modes of the
frames are kept beside them (R272). -/
def State.frameSent (s : State) (p n : Nat) : Option Nat :=
  let l := (s.wire.filter (·.1 == p)).map (·.2)
  let m := (s.port p).modes
  if nth 0 m n = 0 then none else (l.drop (l.length - m.length))[n]?

/-- A frame asked for again (R272): resent at most LR_WIN times, then the link goes down. A retry that has begun goes on under its own mode
(R281). -/
def State.retryFrame (s : State) (p n : Nat) : State :=
  match s.frameSent p n with
  | none => s
  | some f =>
    let k := Tab.get (s.port p).retries 0 n
    if k < s.get Fab.lrWin then (s.onPort p fun x => { x with retries := Tab.put x.retries n (k + 1) }).emit p f
    else s.linkDown p 10

/-- UNCORRECTABLE_CODEWORD (R272, R289): the frame is lost; with retry on it is asked for again; a packet in cut-through ends
with a complemented CRC. -/
def execUncorrectableCodeword (p : Nat) (cut : Bool) (s : State) : Host.Outcome State Fault Refusal :=
  .next (
    if s.active && s.portUp p then
      let s := (s.bump (Oct.ctxFecUncorr (p / 8) (p % 8)) 1).bump (Aoc.portErrors p) 1
      let s := if cut then s.abortCut p else s
      if s.retryOn p then s.sendOpenBlock p 6 else s
    else s)

/-! ### Stop marks (R278, R279) -/

/-- Whether every enabled native link holds its peer's mark (R278). -/
def State.allMarks (s : State) : Bool :=
  (List.range 512).all fun p => !s.ctxOn p || s.carried p || (s.port p).markSeen || s.endpointLink p

/-- CUT_DONE once every enabled native link holds its peer's mark. -/
def State.cutCheck (s : State) : State :=
  if s.cut && s.allMarks then s.set Fab.cutDone 1 else s

/-- STOP_MARK received as a control block. -/
def State.markBlock (s : State) (p : Nat) (blk : BitVec 256) : State :=
  s.blockIn p 5 blk true fun t => (t.onPort p fun x => { x with markSeen := true }).cutCheck

end Sys2Proof.Machine
end

