-- ==== Sys2Proof/Machine/Tensors.lean ====
section
/-! DEFINITION. Tensor descriptors, their tiles and extents (R163-R167). -/

namespace Sys2Proof.Machine

open Sys2Proof

/-- A tensor descriptor as its fields (R163); addr is where it lies. Counts and strides are those of dimensions 0 to 4. -/
structure Desc where
  addr    : Nat
  space   : Nat
  fmt     : Nat
  base    : Nat
  device  : Nat
  rhandle : Nat
  bucket  : Nat
  elem0   : Nat
  counts  : List Nat
  strides : List Int
  deriving DecidableEq, Repr

/-- The address of descriptor h of bench b (R157). -/
def descAddr (b h : Nat) : Nat := benchBase b + 0x40000 + 64 * h

/-- COUNTd of a descriptor word (R163): dimensions above RANK count as 1. -/
def descCount (w d : Nat) : Nat :=
  if bits w 13 3 ≤ d then 1 else if d = 0 then bits w 192 24 else bits w (256 + 64 * (d - 1)) 24

/-- STRIDEd of a descriptor word. -/
def descStride (w d : Nat) : Int :=
  if d = 0 ∨ bits w 13 3 ≤ d then 0 else sext 40 (bits w (256 + 64 * (d - 1) + 24) 40)

/-- Whether a format's rows are whole tiles (R164): the MX formats, INT4 and LM48. -/
def wholeTiles (fmt : Nat) : Bool := isMx fmt || fmt == 10 || fmt == 3

/-- Whether a descriptor word is valid but for the alignment that its use asks for (R164). -/
def descValid (w : Nat) : Bool :=
  bits w 0 4 == 1 && decide (bits w 4 3 < 4) && bitAt w 7 && fmtOk (bits w 8 5) && decide (1 ≤ bits w 13 3 ∧ bits w 13 3 ≤ 5) &&
    bits w 16 3 == 0 && bits w 100 28 == 0 && bits w 152 8 == 0 && bits w 216 40 == 0 &&
    (bits w 4 3 != 3 || bits w 56 8 == 0) && (List.range 5).all (fun d => descCount w d != 0) &&
    (!wholeTiles (bits w 8 5) || descCount w 0 % 1024 == 0)

/-- A descriptor word read. -/
def Desc.ofWord (addr w : Nat) : Desc :=
  ⟨addr, bits w 4 3, bits w 8 5, if bits w 4 3 = 3 then bits w 16 40 else bits w 16 48, bits w 64 20, bits w 84 16, bits w 128 24,
    bits w 160 32, (List.range 5).map (descCount w), (List.range 5).map (descStride w)⟩

/-- Descriptor h of bench b, when valid (R164). -/
def State.desc (s : State) (b h : Nat) : Option Desc :=
  let w := s.rdNat (descAddr b h) 64
  if h < 1024 ∧ descValid w then some (Desc.ofWord (descAddr b h) w) else none

/-- The number of elements, or of words for a handle of signal words. -/
def Desc.size (d : Desc) : Nat := d.counts.foldl (· * ·) 1

/-- Elements of a row. -/
def Desc.row (d : Desc) : Nat := nth 1 d.counts 0

/-- Rows of a tensor. -/
def Desc.rows (d : Desc) : Nat := (d.counts.drop 1).foldl (· * ·) 1

/-- Bytes of a full tile of 1,024 elements, for every format code. -/
def Desc.tileLen (d : Desc) : Nat := if d.fmt ≤ 12 then tileBytes d.fmt else 128 * elemWidth d.fmt

/-- Bytes of the first n elements of a tile. -/
def Desc.bytesOf (d : Desc) (n : Nat) : Nat := if n = 1024 then d.tileLen else ceilDiv (n * elemWidth d.fmt) 8

/-- Bytes of a row: its tiles one after another (R167). -/
def Desc.rowLen (d : Desc) : Nat := d.row / 1024 * d.tileLen + ceilDiv (d.row % 1024 * elemWidth d.fmt) 8

/-- Tiles of a row. -/
def Desc.rowTiles (d : Desc) : Nat := ceilDiv d.row 1024

/-- Tiles of the tensor. -/
def Desc.tiles (d : Desc) : Nat := d.rows * d.rowTiles

/-- Byte offset of row r from BASE, dimension 1 fastest. -/
def Desc.rowOff (d : Desc) (r : Nat) : Int :=
  ((List.range 4).foldl (fun (acc : Int × Nat) k =>
    (acc.1 + (acc.2 % nth 1 d.counts (k + 1) : Nat) * nth 0 d.strides (k + 1), acc.2 / nth 1 d.counts (k + 1))) (0, r)).1

/-- A run of elements of a tensor: its address, its elements and the position of its first element. -/
structure Piece where
  addr  : Int
  elems : Nat
  first : Nat
  deriving DecidableEq, Repr

/-- Tile k in element order (R167). -/
def Desc.tile (d : Desc) (k : Nat) : Option Piece :=
  if k < d.tiles then
    let r := k / d.rowTiles
    let j := k % d.rowTiles
    some ⟨d.base + d.rowOff r + (j * d.tileLen : Nat), min 1024 (d.row - 1024 * j), r * d.row + 1024 * j⟩
  else none

/-- The row in whose bytes an address lies. -/
def Desc.rowAt (d : Desc) (a : Int) : Option Nat :=
  (List.range d.rows).find? fun r => decide (d.base + d.rowOff r ≤ a ∧ a < d.base + d.rowOff r + d.rowLen)

/-- The token that starts at an address: from there to the end of its tile (R167). It must start at an element. -/
def Desc.pieceAt (d : Desc) (a : Int) : Option Piece :=
  match d.rowAt a with
  | none => none
  | some r =>
    let off := (a - d.base - d.rowOff r).toNat
    let j := off / d.tileLen
    let rest := off % d.tileLen
    let e := 8 * rest / elemWidth d.fmt
    let n := min 1024 (d.row - 1024 * j)
    if (rest ≠ 0 ∧ wholeTiles d.fmt) ∨ 8 * rest % elemWidth d.fmt ≠ 0 ∨ n ≤ e then none
    else some ⟨a, n - e, r * d.row + 1024 * j + e⟩

/-- Whether two tensors of the device's memories share a byte: some row of one meets some row of the other (R129, R163). Their BASEs are
device-local addresses, whichever of SPACE 0 and 1 they name. -/
def Desc.meets (d e : Desc) : Bool :=
  (List.range d.rows).any fun r => (List.range e.rows).any fun q =>
    decide (d.base + d.rowOff r < e.base + e.rowOff q + e.rowLen ∧ e.base + e.rowOff q < d.base + d.rowOff r + d.rowLen)

/-- Whether a tensor's rows all lie between two addresses. -/
def Desc.within (d : Desc) (lo hi : Nat) : Bool :=
  (List.range d.rows).all fun r => decide ((lo : Int) ≤ d.base + d.rowOff r ∧ d.base + d.rowOff r + d.rowLen ≤ hi)

/-- A device-local address: SPACE 2 lies in the data memory of bench b (R157, R163). -/
def Desc.deviceAddr (d : Desc) (b : Nat) (a : Int) : Nat := if d.space = 2 then benchBase b + 0x30000 + a.toNat else a.toNat

end Sys2Proof.Machine
end

