-- ==== Sys2Proof/Machine/Compositor.lean ====
section
/-! DEFINITION. The Compositor: registers, the local address space, faults, and the scalar instructions (R153-R162). -/

namespace Sys2Proof.Machine

open Sys2Proof

/-! ### Registers and the program counter -/

/-- Register g[r]: g0 reads 0 (R153). -/
def State.g (s : State) (b : Nat) (r : BitVec 5) : W32 := if r = 0 then 0 else BitVec.ofNat 32 (s.get (Cmp.gr b r.toNat))

/-- A write of g[r]: g0 ignores it (R153). -/
def State.setG (s : State) (b : Nat) (r : BitVec 5) (v : W32) : State := if r = 0 then s else s.set (Cmp.gr b r.toNat) v.toNat

/-- The pair g[r + 1] : g[r] (R161). -/
def State.gPair (s : State) (b : Nat) (r : BitVec 5) : Nat := (s.g b r).toNat + (s.g b (r + 1)).toNat * 2 ^ 32

/-- A write of the pair g[r + 1] : g[r]. -/
def State.setPair (s : State) (b : Nat) (r : BitVec 5) (v : Nat) : State :=
  (s.setG b r (BitVec.ofNat 32 v)).setG b (r + 1) (BitVec.ofNat 32 (v / 2 ^ 32))

/-- The program counter (R153). -/
def State.pc (s : State) (b : Nat) : Nat := s.get (Cmp.pc b)

/-- An instruction retires and the program goes on at an address; the program counter keeps 15 bits (R153). -/
def State.goto (s : State) (b a : Nat) : State := (s.bump (Cmp.instret b) 1).set (Cmp.pc b) a

/-- An instruction retires and the next follows. -/
def State.nextPc (s : State) (b : Nat) : State := s.goto b (s.pc b + 4)

/-- A branch or jump target: PC + 4 x sext(OFF) (R160). -/
def State.target (s : State) (b : Nat) (off : Int) : Nat := twos 15 ((s.pc b : Int) + 4 * off)

/-- Whether the Compositor of bench b executes: the bench runs and no instruction of it waits (R155). -/
def State.executes (s : State) (b : Nat) : Bool := s.benchRuns b && (s.comp b).waiting == none

/-! ### Waits (R155, R178) -/

/-- WAIT_KIND and what it waits for: station, handle, index, mask. -/
def State.showWait (s : State) (b kind stn h idx mask : Nat) : State :=
  s.setAll [(Cmp.waitKind b, kind), (Cmp.waitStn b, stn), (Cmp.waitHandle b, h), (Cmp.waitIndex b, idx), (Cmp.waitMask b, mask)]

/-- The Compositor waits in an instruction (R155); a trace record marks the beginning (R442). -/
def State.wait (s : State) (b : Nat) (w : Wait) (kind stn h idx mask : Nat) : State :=
  let s := (s.showWait b kind stn h idx mask).set (Stn.state b 15) 2
  if (s.comp b).waiting = none then
    ((s.setComp b { s.comp b with waiting := some w }).set (Aoc.waitSince b 15) s.now).trace b 4
      [(15, 4), (0, 4), (0, 8), (0, 24), (0, 24), (kind, 64)]
  else s

/-- The wait of the Compositor ends; its trace record gives when it began. -/
def State.waitDone (s : State) (b : Nat) : State :=
  match (s.comp b).waiting with
  | none => s
  | some _ =>
    let since := s.get (Aoc.waitSince b 15)
    let s := (s.setComp b { s.comp b with waiting := none }).showWait b 0 0 0 0 0
    ((s.setAll [(Stn.state b 15, 1), (Aoc.waitSince b 15, 0)])).trace b 5
      [(15, 4), (0, 4), (0, 8), (0, 24), (0, 24), (since, 64)]

/-! ### Faults (R158, R162, R130) -/

/-- The Compositor halts its bench on a fault (R130). -/
def State.cmpHalt (s : State) (b : Nat) : State := ((s.waitDone b).set (Stn.state b 15) 3).haltBench b

/-- An ACCESS_VIOLATION of the Compositor: the entry has station index 15, then the values of the rule (R435). -/
def State.cmpViolation (s : State) (b a : Nat) (details : List (Nat × Nat)) : State :=
  ((s.logE clAccess (.bench b) a ((15, 4) :: details)).set (Stn.faultAddr b 15) a).cmpHalt b

/-- The device-local address of the instruction word at the program counter, in the active bank (R153, R157). -/
def State.fetchAddr (s : State) (b : Nat) : Nat := benchBase b + 0x20000 + 0x8000 * s.get (Cmp.activeBank b) + s.pc b

/-- An illegal instruction (R162): its word and address are kept, the bench halts. -/
def State.illegal (s : State) (b : Nat) (w : W32) : State :=
  let a := s.fetchAddr b
  (s.setAll [(Cmp.badWord b, w.toNat), (Cmp.badPc b, s.pc b)]).cmpViolation b a []

/-- An uncorrectable error met by a Compositor read (R162, R476): stone control counts a stone word, the Compositor logs. -/
def State.cmpUncorr (s : State) (b a : Nat) : State :=
  let s := if isStone a then (s.bump (Sc.uncorr (dieOf a)) 1).set (Sc.lastOff (dieOf a)) (a % 0x6000000) else s
  ((s.logE clEccUncorr (.bench b) a [(15, 4)]).set (Stn.eccFault b 15) 1).cmpHalt b

/-! ### Instruction words (R160, R161) -/

/-- An R-format word. -/
def encR (rd ra rb : BitVec 5) (f : Nat) : W32 := BitVec.ofNat 32 (rd.toNat * 2 ^ 21 + ra.toNat * 2 ^ 16 + rb.toNat * 2 ^ 11 + f)

/-- An I-format word, or a B-format one with ra and rb in its register places. -/
def encI (op : Nat) (rd ra : BitVec 5) (imm : Nat) : W32 := BitVec.ofNat 32 (op * 2 ^ 26 + rd.toNat * 2 ^ 21 + ra.toNat * 2 ^ 16 + imm)

/-- A J-format word. -/
def encJ (op off : Nat) : W32 := BitVec.ofNat 32 (op * 2 ^ 26 + off)

/-- The I-format opcodes: whether rd and ra are used, the IMM bits used, and whether rd is even (R161). -/
def iFormat (op : Nat) : Option (Bool × Bool × Nat × Bool) :=
  if op = 7 then some (true, false, 0xFFFF, false)
  else if 1 ≤ op ∧ op ≤ 6 ∨ op = 0x10 ∨ op = 0x11 ∨ op = 0x1F then some (true, true, 0xFFFF, false)
  else if 8 ≤ op ∧ op ≤ 10 then some (true, true, 0x1F, false)
  else if op = 0x12 ∨ op = 0x13 then some (true, true, 0xFFFF, true)
  else if op = 0x20 then some (false, true, 0xFFFF, false)
  else if op = 0x21 then some (false, false, 0x1F, false)
  else if op = 0x24 ∨ op = 0x26 ∨ op = 0x2C then some (true, true, 0x3FF, true)
  else if op = 0x25 then some (true, true, 0x3FF, false)
  else if op = 0x27 then some (true, true, 0x1FFF, true)
  else if op = 0x28 then some (false, false, 0xFF, false)
  else if op = 0x29 ∨ op = 0x2B then some (false, false, 0, false)
  else if op = 0x2A then some (false, false, 0x1FFF, false)
  else if op = 0x30 then some (true, false, 0xF, false)
  else if op = 0x31 then some (true, false, 0x1F, false)
  else none

/-- SWAIT's selector names a station or, with IMM[4], all of them and no index (R161, R162). -/
def swaitOk (sel : Nat) : Bool := decide (sel ≤ 9) || sel == 16

/-- Whether a word is an instruction of R161 and R162, as far as the word alone tells. -/
def legalWord (w : Nat) : Bool :=
  let op := bits w 26 6
  if op = 0 then decide (bits w 0 11 ≤ 12)
  else if 0x18 ≤ op ∧ op ≤ 0x1E then true
  else
    match iFormat op with
    | none => false
    | some (useRd, useRa, mask, even) =>
      (useRd || bits w 21 5 == 0) && (useRa || bits w 16 5 == 0) && (bits w 0 16 &&& (0xFFFF ^^^ mask)) == 0 &&
        (!even || !bitAt w 21) && (op != 0x21 || swaitOk (bits w 0 5)) && (op != 0x31 || decide (bits w 0 5 ≤ 12))

/-- The command that an instruction word is, by OP, FUNCT and its fields (R160-R162); none for an illegal word. -/
def instrOf (b w : Nat) : Option Instr :=
  let rd := BitVec.ofNat 5 (bits w 21 5)
  let ra := BitVec.ofNat 5 (bits w 16 5)
  let rb := BitVec.ofNat 5 (bits w 11 5)
  let imm := BitVec.ofNat 16 (bits w 0 16)
  let hd := BitVec.ofNat 10 (bits w 0 10)
  if !legalWord w then none
  else
    match bits w 26 6 with
    | 0x00 =>
      match bits w 0 11 with
      | 0x000 => some (.add b rd ra rb)
      | 0x001 => some (.sub b rd ra rb)
      | 0x002 => some (.and b rd ra rb)
      | 0x003 => some (.or b rd ra rb)
      | 0x004 => some (.xor b rd ra rb)
      | 0x005 => some (.sll b rd ra rb)
      | 0x006 => some (.srl b rd ra rb)
      | 0x007 => some (.sra b rd ra rb)
      | 0x008 => some (.slt b rd ra rb)
      | 0x009 => some (.sltu b rd ra rb)
      | 0x00A => some (.mul b rd ra rb)
      | 0x00B => some (.mulhu b rd ra rb)
      | 0x00C => some (.mulh b rd ra rb)
      | _ => none
    | 0x01 => some (.addi b rd ra imm)
    | 0x02 => some (.andi b rd ra imm)
    | 0x03 => some (.ori b rd ra imm)
    | 0x04 => some (.xori b rd ra imm)
    | 0x05 => some (.slti b rd ra imm)
    | 0x06 => some (.sltiu b rd ra imm)
    | 0x07 => some (.lui b rd imm)
    | 0x08 => some (.slli b rd ra (BitVec.ofNat 5 (bits w 0 5)))
    | 0x09 => some (.srli b rd ra (BitVec.ofNat 5 (bits w 0 5)))
    | 0x0A => some (.srai b rd ra (BitVec.ofNat 5 (bits w 0 5)))
    | 0x10 => some (.lw b rd ra imm .pass)
    | 0x11 => some (.sw b rd ra imm)
    | 0x12 => some (.ld b rd ra imm .pass)
    | 0x13 => some (.sd b rd ra imm)
    | 0x18 => some (.beq b rd ra imm)
    | 0x19 => some (.bne b rd ra imm)
    | 0x1A => some (.blt b rd ra imm)
    | 0x1B => some (.bge b rd ra imm)
    | 0x1C => some (.bltu b rd ra imm)
    | 0x1D => some (.bgeu b rd ra imm)
    | 0x1E => some (.jal b (BitVec.ofNat 26 (bits w 0 26)))
    | 0x1F => some (.jalr b rd ra imm)
    | 0x20 => some (.strm b ra imm)
    | 0x21 => some (.swait b (BitVec.ofNat 5 (bits w 0 5)))
    | 0x24 => some (.sigrd b rd ra hd)
    | 0x25 => some (.sigadd b rd ra hd)
    | 0x26 => some (.sigwait b rd ra hd)
    | 0x27 => some (.sigmon b rd ra (BitVec.ofNat 3 (bits w 10 3)) hd)
    | 0x28 => some (.mwait b (BitVec.ofNat 8 (bits w 0 8)))
    | 0x29 => some (.fence b)
    | 0x2A => some (.bndry b (BitVec.ofNat 13 (bits w 0 13)))
    | 0x2B => some (.endB b)
    | 0x2C => some (.bcnt b rd ra hd)
    | 0x30 => some (.featq b rd (BitVec.ofNat 4 (bits w 0 4)))
    | 0x31 => some (.csrr b rd (BitVec.ofNat 5 (bits w 0 5)))
    | _ => none

/-- An even register, as R161 asks of pairs. -/
def evenReg (r : BitVec 5) : Bool := r.toNat % 2 == 0

/-! ### The local address space (R158) -/

/-- Where a local access leads. -/
inductive LocalLoc where
  | memory (a : Nat)
  | shared (a : Nat)
  | queue (q off : Nat)
  | fault
  deriving DecidableEq, Repr

/-- The place of n bytes at a local address of bench b (R158). -/
def State.localAt (s : State) (b a n : Nat) : LocalLoc :=
  if a % n ≠ 0 then .fault
  else if a + n ≤ 0x10000 then .memory (benchBase b + 0x30000 + a)
  else if a + n ≤ 0x20000 then .memory (benchBase b + 0x40000 + (a - 0x10000))
  else if a + n ≤ 0x20200 then .queue ((a - 0x20000) / 8) (a % 8)
  else if 0x1000000 ≤ a ∧ a + n ≤ 0x1E00000 then .memory (stoneBase (b / 5) + s.get (Ben.stoneWin b) + (a - 0x1000000))
  else if 0x2000000 ≤ a ∧ a + n ≤ 0x2A00000 then .shared (stoneBase (b / 5) + 0x5600000 + (a - 0x2000000))
  else .fault

/-- The device-local address of a local address, 0 where none exists (R158). -/
def State.deviceOf (s : State) (b a : Nat) : Nat :=
  match s.localAt b a 1 with
  | .memory x => x
  | .shared x => x
  | .queue q off => stnBase b 15 + 0x400 + 8 * q + off
  | .fault => 0

/-- A local access fault at a local address. -/
def State.localFault (s : State) (b a : Nat) : State := s.cmpViolation b (s.deviceOf b a) [(a, 32)]

/-- The queue word of R166. -/
def State.queueWord (s : State) (b q : Nat) : Nat :=
  s.get (Cmp.queueBase b q) + s.get (Cmp.queueSlots b q) * 2 ^ 24 + s.get (Cmp.queueSlotb b q) * 2 ^ 33

/-- A queue word written; its reserved bits are ignored. -/
def State.setQueueWord (s : State) (b q w : Nat) : State :=
  s.setAll [(Cmp.queueBase b q, bits w 0 24), (Cmp.queueSlots b q, bits w 24 9), (Cmp.queueSlotb b q, bits w 33 8)]

/-- The registered handles of bench b: only a listed byte can hold VALID. -/
def State.validHandles (s : State) (b : Nat) : List Nat :=
  (s.mem.filter fun c => decide (descAddr b 0 ≤ c.1 ∧ c.1 < descAddr b 1024) && (c.1 - descAddr b 0) % 64 == 0 && c.2.getLsbD 7).map
    fun c => (c.1 - descAddr b 0) / 64

/-- Whether the word at a is a signal word that a valid descriptor of bench b names (R158). -/
def State.namesWord (s : State) (b a : Nat) : Bool :=
  (s.validHandles b).any fun h =>
    match s.desc b h with
    | some d => d.space == 1 && decide (d.base ≤ a ∧ a + 8 ≤ d.base + 8 * d.size)
    | none => false

/-- What a load gives. -/
inductive Loaded where
  | value (s : State) (v : Nat)
  | fault (s : State)
  deriving DecidableEq, Repr

/-- Bytes read at x as they were before a stream's stores (R154). -/
def Veil.over (x : Nat) (v : Veil) (bs : List Byte) : List Byte :=
  (bs.zip (List.range bs.length)).map fun e =>
    if v.addr ≤ x + e.2 ∧ x + e.2 < v.addr + v.old.length then nth 0 v.old (x + e.2 - v.addr) else e.1

/-- What the Compositor of bench b has not seen of its stations' stores (R154). -/
def State.veilsOf (s : State) (b : Nat) : List Veil := ((s.veils.filter fun e => e.1 / 16 == b).map (·.2)).flatten

/-- n bytes at x as loads of bench b's Compositor see them (R154; log entry 34). -/
def State.seen (s : State) (b x n : Nat) : List Byte := (s.veilsOf b).foldr (Veil.over x) (s.rdBytes x n)

/-- The stores of a station's streams are seen from now on: all of them, or those of ended streams that raise the word at a (R154). -/
def State.unveil (s : State) (key : Nat) (a : Option Nat) : State :=
  let running : Option Nat := (Tab.find s.streams key).map (·.streamNo)
  let keep (v : Veil) : Bool := match a with
    | none => false
    | some w => v.sig != some w || running == some v.no
  { s with veils := Tab.set s.veils [] key ((Tab.get s.veils [] key).filter keep) }

/-- The stores of every stream of bench b that has raised the word at a are seen from now on (R154). -/
def State.unveilSig (s : State) (b a : Nat) : State := (List.range 10).foldl (fun t i => t.unveil (16 * b + i) (some a)) s

/-- A word that a Compositor read finds corrected: logged, and counted by the memory that holds it (R162, R178, R476). -/
def State.cmpCorrected (s : State) (b x : Nat) (f : Field) : State :=
  ((if isStone x then s.bump (Sc.corr (dieOf x)) 1 else s.bump f 1)).logR clEccCorr (.bench b) (x / 8 * 8) [(15, 4)]

/-- A word that a Compositor read finds uncorrectable: it keeps its error (R162, R339). -/
def State.cmpBroken (s : State) (b x : Nat) : State :=
  State.cmpUncorr { s with badWords := if x / 8 * 8 ∈ s.badWords then s.badWords else x / 8 * 8 :: s.badWords } b (x / 8 * 8)

/-- A load of n bytes at a local address (R158), with what nature did to the word (R162). -/
def State.loadLocal (s : State) (b a n : Nat) (c : Check) : Loaded :=
  let at' (x : Nat) : Loaded :=
    match s.readErr x n, c with
    | some e, _ => .fault (s.cmpUncorr b e)
    | none, .uncorrectable _ => .fault (s.cmpBroken b x)
    | none, .corrected _ => .value (s.cmpCorrected b x (Cmp.dmemCorr b)) (leNat (s.seen b x n))
    | none, _ => .value s (leNat (s.seen b x n))
  match s.localAt b a n with
  | .memory x => at' x
  | .shared x => at' x
  | .queue q off => .value s (bits (s.queueWord b q) (8 * off) (8 * n))
  | .fault => .fault (s.localFault b a)

/-- A store of n bytes into memory; a stone word with an error that it covers in part stops it (R339). -/
def State.storeMem (s : State) (b x n v : Nat) : State :=
  match s.storeErr x n with
  | some e => s.cmpUncorr b e
  | none => (s.put x (leBytes n v)).nextPc b

/-- Whether a running stream of bench b binds queue q (R166). -/
def State.queueBound (s : State) (b q : Nat) : Bool :=
  s.streams.any fun e => e.1 / 16 == b && (e.2.ins ++ e.2.outs).any fun x => x.kind == 1 && x.id == q

/-- A store of n bytes at a local address (R158, R166). w is the wait that a stalled queue store takes. -/
def State.storeLocal (s : State) (b a n v : Nat) (w : Wait) : State :=
  match s.localAt b a n with
  | .memory x => (s.waitDone b).storeMem b x n v
  | .shared x =>
    let word := x / 8 * 8
    if s.namesWord b word then
      match s.storeErr x n with
      | some e => s.cmpUncorr b e
      | none => (s.put x (leBytes n v)).nextPc b
    else s.localFault b a
  | .queue q off =>
    if s.queueBound b q then s.wait b w 5 0 0 q 0
    else
      let old := s.queueWord b q
      ((s.waitDone b).setQueueWord b q (old - bits old (8 * off) (8 * n) * 2 ^ (8 * off) + v % 2 ^ (8 * n) * 2 ^ (8 * off))).nextPc b
  | .fault => s.localFault b a

/-- The address g[ra] + s(IMM) (R161). -/
def State.effective (s : State) (b : Nat) (ra : BitVec 5) (imm : BitVec 16) : Nat := (s.g b ra + imm.signExtend 32).toNat

/-! ### Scalar instructions (R161) -/

/-- An instruction that writes g[rd] and goes on. -/
def State.result (s : State) (b : Nat) (rd : BitVec 5) (v : W32) : State := (s.setG b rd v).nextPc b

/-- What an instruction of bench b does where its Compositor executes: an uncorrectable instruction word halts the bench instead (R162).
Elsewhere the command cannot occur and changes nothing (log entry 9). -/
def State.instr (s : State) (b : Nat) (f : State → State) : State :=
  if s.executes b then
    match s.readErr (s.fetchAddr b) 4 with
    | some e => s.cmpUncorr b e
    | none => f s
  else s

/-- A Bool as a register value. -/
def w1 (x : Bool) : W32 := if x then 1 else 0

/-- ADDI. -/
def execAddi (b : Nat) (rd ra : BitVec 5) (imm : BitVec 16) (s : State) : Host.Outcome State Fault Refusal :=
  .next (s.instr b fun t => t.result b rd (t.g b ra + imm.signExtend 32))

/-- ANDI. -/
def execAndi (b : Nat) (rd ra : BitVec 5) (imm : BitVec 16) (s : State) : Host.Outcome State Fault Refusal :=
  .next (s.instr b fun t => t.result b rd (t.g b ra &&& imm.zeroExtend 32))

/-- ORI. -/
def execOri (b : Nat) (rd ra : BitVec 5) (imm : BitVec 16) (s : State) : Host.Outcome State Fault Refusal :=
  .next (s.instr b fun t => t.result b rd (t.g b ra ||| imm.zeroExtend 32))

/-- XORI. -/
def execXori (b : Nat) (rd ra : BitVec 5) (imm : BitVec 16) (s : State) : Host.Outcome State Fault Refusal :=
  .next (s.instr b fun t => t.result b rd (t.g b ra ^^^ imm.zeroExtend 32))

/-- SLTI: a signed comparison. -/
def execSlti (b : Nat) (rd ra : BitVec 5) (imm : BitVec 16) (s : State) : Host.Outcome State Fault Refusal :=
  .next (s.instr b fun t => t.result b rd (w1 ((t.g b ra).slt (imm.signExtend 32))))

/-- SLTIU: an unsigned comparison with the sign-extended immediate. -/
def execSltiu (b : Nat) (rd ra : BitVec 5) (imm : BitVec 16) (s : State) : Host.Outcome State Fault Refusal :=
  .next (s.instr b fun t => t.result b rd (w1 ((t.g b ra).ult (imm.signExtend 32))))

/-- LUI. -/
def execLui (b : Nat) (rd : BitVec 5) (imm : BitVec 16) (s : State) : Host.Outcome State Fault Refusal :=
  .next (s.instr b fun t => t.result b rd (imm.zeroExtend 32 <<< 16))

/-- SLLI. -/
def execSlli (b : Nat) (rd ra : BitVec 5) (sh : BitVec 5) (s : State) : Host.Outcome State Fault Refusal :=
  .next (s.instr b fun t => t.result b rd (t.g b ra <<< sh.toNat))

/-- SRLI. -/
def execSrli (b : Nat) (rd ra : BitVec 5) (sh : BitVec 5) (s : State) : Host.Outcome State Fault Refusal :=
  .next (s.instr b fun t => t.result b rd (t.g b ra >>> sh.toNat))

/-- SRAI: an arithmetic shift. -/
def execSrai (b : Nat) (rd ra : BitVec 5) (sh : BitVec 5) (s : State) : Host.Outcome State Fault Refusal :=
  .next (s.instr b fun t => t.result b rd ((t.g b ra).sshiftRight sh.toNat))

/-- ADD. -/
def execAdd (b : Nat) (rd ra rb : BitVec 5) (s : State) : Host.Outcome State Fault Refusal :=
  .next (s.instr b fun t => t.result b rd (t.g b ra + t.g b rb))

/-- SUB. -/
def execSub (b : Nat) (rd ra rb : BitVec 5) (s : State) : Host.Outcome State Fault Refusal :=
  .next (s.instr b fun t => t.result b rd (t.g b ra - t.g b rb))

/-- AND. -/
def execAnd (b : Nat) (rd ra rb : BitVec 5) (s : State) : Host.Outcome State Fault Refusal :=
  .next (s.instr b fun t => t.result b rd (t.g b ra &&& t.g b rb))

/-- OR. -/
def execOr (b : Nat) (rd ra rb : BitVec 5) (s : State) : Host.Outcome State Fault Refusal :=
  .next (s.instr b fun t => t.result b rd (t.g b ra ||| t.g b rb))

/-- XOR. -/
def execXor (b : Nat) (rd ra rb : BitVec 5) (s : State) : Host.Outcome State Fault Refusal :=
  .next (s.instr b fun t => t.result b rd (t.g b ra ^^^ t.g b rb))

/-- The shift amount of a register shift: g[rb][4:0] (R161). -/
def State.shamt (s : State) (b : Nat) (rb : BitVec 5) : Nat := (s.g b rb).toNat % 32

/-- SLL. -/
def execSll (b : Nat) (rd ra rb : BitVec 5) (s : State) : Host.Outcome State Fault Refusal :=
  .next (s.instr b fun t => t.result b rd (t.g b ra <<< t.shamt b rb))

/-- SRL. -/
def execSrl (b : Nat) (rd ra rb : BitVec 5) (s : State) : Host.Outcome State Fault Refusal :=
  .next (s.instr b fun t => t.result b rd (t.g b ra >>> t.shamt b rb))

/-- SRA. -/
def execSra (b : Nat) (rd ra rb : BitVec 5) (s : State) : Host.Outcome State Fault Refusal :=
  .next (s.instr b fun t => t.result b rd ((t.g b ra).sshiftRight (t.shamt b rb)))

/-- SLT. -/
def execSlt (b : Nat) (rd ra rb : BitVec 5) (s : State) : Host.Outcome State Fault Refusal :=
  .next (s.instr b fun t => t.result b rd (w1 ((t.g b ra).slt (t.g b rb))))

/-- SLTU. -/
def execSltu (b : Nat) (rd ra rb : BitVec 5) (s : State) : Host.Outcome State Fault Refusal :=
  .next (s.instr b fun t => t.result b rd (w1 ((t.g b ra).ult (t.g b rb))))

/-- MUL: the low 32 bits of the product. -/
def execMul (b : Nat) (rd ra rb : BitVec 5) (s : State) : Host.Outcome State Fault Refusal :=
  .next (s.instr b fun t => t.result b rd (t.g b ra * t.g b rb))

/-- MULHU: the high 32 bits of the unsigned product. -/
def execMulhu (b : Nat) (rd ra rb : BitVec 5) (s : State) : Host.Outcome State Fault Refusal :=
  .next (s.instr b fun t => t.result b rd (BitVec.ofNat 32 ((t.g b ra).toNat * (t.g b rb).toNat / 2 ^ 32)))

/-- MULH: the high 32 bits of the signed product. -/
def execMulh (b : Nat) (rd ra rb : BitVec 5) (s : State) : Host.Outcome State Fault Refusal :=
  .next (s.instr b fun t => t.result b rd (BitVec.ofInt 32 ((t.g b ra).toInt * (t.g b rb).toInt / 2 ^ 32)))

/-! ### Loads and stores -/

/-- LW. -/
def execLw (b : Nat) (rd ra : BitVec 5) (imm : BitVec 16) (s : State) (c : Check := .pass) : Host.Outcome State Fault Refusal :=
  .next (s.instr b fun t =>
    match t.loadLocal b (t.effective b ra imm) 4 c with
    | .value u v => u.result b rd (BitVec.ofNat 32 v)
    | .fault u => u)

/-- SW. -/
def execSw (b : Nat) (rd ra : BitVec 5) (imm : BitVec 16) (s : State) : Host.Outcome State Fault Refusal :=
  .next (s.instr b fun t => t.storeLocal b (t.effective b ra imm) 4 (t.g b rd).toNat (.storeW rd ra imm))

/-- An odd rd in LD or SD: the word is kept as an illegal one (R162), and the access is a local access fault (R158; log entry 23). -/
def State.oddPair (s : State) (b a : Nat) (w : W32) : State := (s.setAll [(Cmp.badWord b, w.toNat), (Cmp.badPc b, s.pc b)]).localFault b a

/-- LD (R158). -/
def execLd (b : Nat) (rd ra : BitVec 5) (imm : BitVec 16) (s : State) (c : Check := .pass) : Host.Outcome State Fault Refusal :=
  .next (s.instr b fun t =>
    if !evenReg rd then t.oddPair b (t.effective b ra imm) (encI 0x12 rd ra imm.toNat)
    else
      match t.loadLocal b (t.effective b ra imm) 8 c with
      | .value u v => (u.setPair b rd v).nextPc b
      | .fault u => u)

/-- SD (R158). -/
def execSd (b : Nat) (rd ra : BitVec 5) (imm : BitVec 16) (s : State) : Host.Outcome State Fault Refusal :=
  .next (s.instr b fun t =>
    if !evenReg rd then t.oddPair b (t.effective b ra imm) (encI 0x13 rd ra imm.toNat)
    else t.storeLocal b (t.effective b ra imm) 8 (t.gPair b rd) (.storeD rd ra imm))

/-! ### Branches and jumps -/

/-- A branch: taken to PC + 4 x sext(OFF), else the next instruction (R160). -/
def State.branch (s : State) (b : Nat) (taken : Bool) (off : BitVec 16) : State :=
  if taken then s.goto b (s.target b off.toInt) else s.nextPc b

/-- BEQ. -/
def execBeq (b : Nat) (ra rb : BitVec 5) (off : BitVec 16) (s : State) : Host.Outcome State Fault Refusal :=
  .next (s.instr b fun t => t.branch b (t.g b ra == t.g b rb) off)

/-- BNE. -/
def execBne (b : Nat) (ra rb : BitVec 5) (off : BitVec 16) (s : State) : Host.Outcome State Fault Refusal :=
  .next (s.instr b fun t => t.branch b (t.g b ra != t.g b rb) off)

/-- BLT: signed. -/
def execBlt (b : Nat) (ra rb : BitVec 5) (off : BitVec 16) (s : State) : Host.Outcome State Fault Refusal :=
  .next (s.instr b fun t => t.branch b ((t.g b ra).slt (t.g b rb)) off)

/-- BGE: signed. -/
def execBge (b : Nat) (ra rb : BitVec 5) (off : BitVec 16) (s : State) : Host.Outcome State Fault Refusal :=
  .next (s.instr b fun t => t.branch b (!(t.g b ra).slt (t.g b rb)) off)

/-- BLTU. -/
def execBltu (b : Nat) (ra rb : BitVec 5) (off : BitVec 16) (s : State) : Host.Outcome State Fault Refusal :=
  .next (s.instr b fun t => t.branch b ((t.g b ra).ult (t.g b rb)) off)

/-- BGEU. -/
def execBgeu (b : Nat) (ra rb : BitVec 5) (off : BitVec 16) (s : State) : Host.Outcome State Fault Refusal :=
  .next (s.instr b fun t => t.branch b (!(t.g b ra).ult (t.g b rb)) off)

/-- JAL: g31 takes PC + 4. -/
def execJal (b : Nat) (off : BitVec 26) (s : State) : Host.Outcome State Fault Refusal :=
  .next (s.instr b fun t => (t.setG b 31 (BitVec.ofNat 32 (t.pc b + 4))).goto b (t.target b off.toInt))

/-- JALR: a target that is not a multiple of 4 makes it illegal (R162). -/
def execJalr (b : Nat) (rd ra : BitVec 5) (imm : BitVec 16) (s : State) : Host.Outcome State Fault Refusal :=
  .next (s.instr b fun t =>
    let a := t.effective b ra imm
    if a % 4 ≠ 0 then t.illegal b (encI 0x1F rd ra imm.toNat)
    else (t.setG b rd (BitVec.ofNat 32 (t.pc b + 4))).goto b a)

/-- ILLEGAL_INSTRUCTION (R162): the Compositor fetches a word, with what nature did to it. One that is no instruction is not executed; a
legal one runs as its own command. -/
def execIllegalInstruction (b : Nat) (word : W32) (s : State) (c : Check := .pass) : Host.Outcome State Fault Refusal :=
  .next (s.instr b fun t =>
    let u : State := match c with
      | .uncorrectable _ => t.cmpBroken b (t.fetchAddr b)
      | .corrected _ => t.cmpCorrected b (t.fetchAddr b) (Cmp.imemCorr b)
      | _ => t
    match c with
    | .uncorrectable _ => u
    | _ => if legalWord word.toNat then u else u.illegal b word)

end Sys2Proof.Machine
end

