-- ==== Sys2Proof/Machine/Streams.lean ====
section
/-! DEFINITION. Streams: records, launch checks and snapshot, tokens at the ports, checks and recomputation, completion
(R123-R131, R141, R148, R163-R171, R438-R439). -/

namespace Sys2Proof.Machine

open Sys2Proof

/-! ### Stream records (R167, R168) -/

/-- Binding of port k of a record word: input ports 0-7, output ports 8-11. -/
def recBind (w k : Nat) : Nat := bits w (256 + 64 * k) 64

/-- KIND of a binding. -/
def bindKind (v : Nat) : Nat := bits v 0 2

/-- ID of a binding. -/
def bindId (v : Nat) : Nat := bits v 2 10

/-- The count of a binding, from COUNT or from g[GREG]. -/
def State.bindCount (s : State) (b v : Nat) : Nat :=
  if bitAt v 12 then (s.g b (BitVec.ofNat 5 (bits v 13 5))).toNat else bits v 24 24

/-- Whether the record uses port k. -/
def recUses (w k : Nat) : Bool := if k < 8 then decide (k < bits w 16 4) else decide (k - 8 < bits w 20 3)

/-- VERSION, reserved fields and port kinds of a record (R167). -/
def recSound (w : Nat) : Bool :=
  bits w 0 4 == 1 && decide (bits w 4 4 ≤ 9) && decide (bits w 16 4 ≤ 8 ∧ bits w 20 3 ≤ 4) && !bitAt w 23 && bits w 58 6 == 0 &&
    bits w 96 32 == 0 && (List.range 12).all fun k =>
      let v := recBind w k
      bits v 18 6 == 0 && bits v 48 16 == 0 && ((bindKind v != 0) == recUses w k) && (bindKind v != 1 || decide (bindId v < 64))

/-- The most of 32 bits, of a handle and of a 24-bit field, as masks of parameters. -/
abbrev mAll : Nat := 0xFFFFFFFF
/-- A handle. -/
abbrev mH : Nat := 0x3FF
/-- A bucket ID or another 24-bit field. -/
abbrev m24 : Nat := 0xFFFFFF

/-- The forms of R131 by station kind and form code: fewest and most inputs, fewest and most outputs, and the bits that
R168 gives P0 to P3. -/
def formShape (kind form : Nat) : Option (Nat × Nat × Nat × Nat × List Nat) :=
  match kind, form with
  | 1, 0 => some (1, 8, 1, 1, [0x1F, m24, mAll, 0])
  | 1, 1 => some (1, 8, 1, 1, [0x1F, m24, mAll, mH])
  | 1, 2 => some (1, 8, 1, 1, [0x1F, m24, mAll, mH])
  | 1, 3 => some (1, 8, 1, 1, [0x1F, m24, mAll, 0])
  | 1, 4 => some (1, 1, 1, 1, [mAll, 0, 0, 0])
  | 1, 5 => some (1, 1, 1, 1, [mAll, 0, 0, 0])
  | 1, 6 => some (1, 8, 1, 1, [0x1F, m24, mAll, 0])
  | 1, 7 => some (1, 8, 1, 1, [0x1F, m24, mAll, 0])
  | 2, 0 => some (1, 1, 0, 1, [0xFFFFF, mH, m24, 0])
  | 2, 1 => some (1, 1, 0, 0, [0xFFFFF, mH, m24, 0])
  | 3, 0 => some (1, 1, 1, 1, [mAll, 0, 0, 0])
  | 3, 1 => some (1, 1, 1, 1, [mAll, 0, 0, 0])
  | 3, 2 => some (0, 0, 1, 1, [mAll, mH, mAll, mAll])
  | 4, 0 => some (1, 1, 1, 1, [mH, 0, 0, 0])
  | 4, 1 => some (2, 2, 0, 0, [mH, 0, 0, 0])
  | 4, 2 => some (0, 0, 1, 1, [mH, mH, 0, 0])
  | 4, 3 => some (0, 0, 1, 1, [mH, 0, 0, 0])
  | 5, 0 => some (1, 2, 1, 1, [mAll, 0xF, mAll, 0])
  | 5, 1 => some (1, 1, 1, 1, [mAll, 0, 0, 0])
  | 6, 0 => some (1, 2, 1, 2, [3, 0, 0, 0])
  | 6, 1 => some (1, 8, 1, 2, [3, 0, 0, 0])
  | 7, 0 => some (1, 1, 1, 1, [mH, 0, 0, 0])
  | 7, 1 => some (2, 2, 1, 1, [mH, 0, 0, 0])
  | 8, 0 => some (1, 1, 1, 1, [3, m24, m24, 0])
  | 8, 1 => some (1, 1, 1, 1, [m24, mAll, mAll, 1])
  | _, _ => none

/-- Parameter Pn of a record. -/
def recParam (w n : Nat) : Nat := bits w (128 + 32 * n) 32

/-- Whether a record's form exists, with its port numbers, parameter bits, NUMMODE and DESC (R131, R167, R168). -/
def recFormOk (w : Nat) : Bool :=
  let kind := kindCode (bits w 4 4)
  let form := bits w 8 4
  match formShape kind form with
  | none => false
  | some (il, ih, ol, oh, ms) =>
    decide (il ≤ bits w 16 4 ∧ bits w 16 4 ≤ ih) && decide (ol ≤ bits w 20 3 ∧ bits w 20 3 ≤ oh) &&
      (List.range 4).all (fun n => (recParam w n &&& (mAll ^^^ nth 0 ms n)) == 0) &&
      (!bitAt w 12 || (kind == 1 && (form == 6 || form == 7))) && (!bitAt w 13 || kind == 6 || (kind == 5 && form == 1))

/-- The handles that a form's parameters name (R168). -/
def paramHandles (kind form w : Nat) : List Nat :=
  match kind, form with
  | 1, 1 => [recParam w 3]
  | 1, 2 => [recParam w 3]
  | 2, _ => [recParam w 1]
  | 3, 2 => [recParam w 1]
  | 4, 2 => [recParam w 0, recParam w 1]
  | 4, _ => [recParam w 0]
  | 7, 0 => [recParam w 0]
  | _, _ => []

/-- The handles bound to the ports of a record. -/
def portHandles (w : Nat) : List Nat :=
  ((List.range 12).filter fun k => bindKind (recBind w k) == 2).map fun k => bindId (recBind w k)

/-! ### Loop descriptors (R171) -/

/-- COUNT of level l. -/
def loopCount (lw l : Nat) : Nat := bits lw (256 + 256 * l) 24

/-- STEP of slot j at level l. -/
def loopStep (lw l j : Nat) : Int := sext 32 (bits lw (256 + 256 * l + 32 * j + 32) 32)

/-- PORT of slot j. -/
def loopPort (lw j : Nat) : Nat := bits lw (8 + 4 * j) 4

/-- LEVELS. -/
def loopLevels (lw : Nat) : Nat := bits lw 4 3

/-- The product of the level counts. -/
def loopTotal (lw : Nat) : Nat := (List.range (loopLevels lw)).foldl (fun n l => n * loopCount lw l) 1

/-- Whether a loop descriptor word is valid for a record (R171). -/
def loopValid (lw w : Nat) : Bool :=
  let n := loopLevels lw
  bits lw 0 4 == 1 && decide (1 ≤ n ∧ n ≤ 6) && !bitAt lw 7 && bits lw 24 232 == 0 &&
    (List.range 6).all (fun l => bits lw (256 + 256 * l + 24) 8 == 0 && bits lw (256 + 256 * l + 160) 96 == 0 &&
      (decide (l < n) || bits lw (256 + 256 * l) 256 == 0) && (decide (n ≤ l) || loopCount lw l != 0)) &&
    decide (loopTotal lw ≤ 16777215) &&
    (List.range 4).all fun j =>
      let p := loopPort lw j
      (if p = 15 then (List.range n).all fun l => loopStep lw l j == 0 else decide (p < 12) && bindKind (recBind w p) == 2) &&
        (List.range j).all fun k => p == 15 || loopPort lw k != p

/-- The slot that steps port k, if any. -/
def loopSlot (lw k : Nat) : Option Nat := (List.range 4).find? fun j => loopPort lw j == k

/-- The byte offset of iteration n of slot j (R171). -/
def loopOffset (lw j n : Nat) : Int :=
  32 * ((List.range (loopLevels lw)).foldl (fun (acc : Int × Nat) l =>
    (acc.1 + (acc.2 % loopCount lw l : Nat) * loopStep lw l j, acc.2 / loopCount lw l)) (0, n)).1

/-! ### Ordinals of a bench (R237, R238) -/

/-- The schedule's assignment of a channel. -/
def State.chanOfBench (s : State) (b c : Nat) : Option SliceChan := Tab.find s.sched.chans (chanKey b c)

/-- Whether a collective brings a lane no record: the complete global result of its bucket has no block of that lane (R133). -/
def State.laneEmpty (s : State) (coll : Nat) : Bool :=
  let cs := (s.sched.chans.map (·.2)).filter fun c => c.coll == coll
  !cs.isEmpty && cs.all fun c =>
    (c.phase == 1 || c.phase == 2) && bitAt (s.rdNat (c.gsBase + roundUp c.gsBlocks 8 + 8) 8) 63 &&
      (s.rdBytes c.gsBase c.gsBlocks).all fun x => if c.phase = 2 then x.toNat != 0xFF else x.toNat == 0 || x.toNat == 0xFF

/-- Whether a running stream of bench b binds a channel of a collective. -/
def State.collRuns (s : State) (b coll : Nat) : Bool :=
  s.streams.any fun e => e.1 / 16 == b && (e.2.ins ++ e.2.outs).any fun x =>
    x.kind == 3 && ((s.chanOfBench b x.id).map (·.coll)) == some coll

/-- The cursor of bench b moved over completed work towards a collective; n entries may be passed. -/
def State.benchSeek (s : State) (b coll : Nat) : Nat → Nat → Nat
  | 0, c => c
  | n + 1, c =>
    let l := Tab.get s.sched.benchLists [] (s.logical b)
    let e := nth 0 l (c / 2 % max 1 l.length)
    if e = coll ∨ s.collRuns b e ∨ ¬ (c % 2 = 1 ∨ s.laneEmpty e) then c else s.benchSeek b coll n (c / 2 * 2 + 2)

/-- The ordinal at a bench's cursor. -/
def State.benchOrd (s : State) (b c : Nat) : Nat := (s.cursorOrd (Tab.get s.sched.benchLists [] (s.logical b)) (c / 2)).getD 0

/-- The cursor at which a bench serves a collective, or the cursor that does not allow it (R237; log entry 11). -/
def State.benchTurn (s : State) (b coll : Nat) : Bool × Nat :=
  let l := Tab.get s.sched.benchLists [] (s.logical b)
  let c := s.benchSeek b coll (l.length + 1) (Tab.get s.benchCur 0 (s.logical b))
  (!l.isEmpty && nth 0 l (c / 2 % max 1 l.length) == coll, c)

/-- The collectives of the slice channels that a record binds. -/
def State.recColls (s : State) (b w : Nat) : List Nat :=
  ((List.range 12).filter fun k => bindKind (recBind w k) == 3).filterMap fun k => (s.chanOfBench b (bindId (recBind w k))).map (·.coll)

/-! ### Launch checks of STRM (R129, R148, R163-R171) -/

/-- The first failing check's address. -/
def firstBad : List (Bool × Nat) → Option Nat
  | [] => none
  | (ok, a) :: rest => if ok then firstBad rest else some a

/-- The checks of a descriptor that a stream names (R148, R164). -/
def State.descChecks (s : State) (b h : Nat) (port : Bool) : List (Bool × Nat) :=
  let w := s.rdNat (descAddr b h) 64
  let d := Desc.ofWord (descAddr b h) w
  [(descValid w, descAddr b h), (d.base % 32 == 0 && (!port || d.strides.all fun x => x % 32 == 0), descAddr b h),
    (d.space != 1 || d.within (stoneBase (b / 5)) (stoneBase (b / 5) + 0x6000000), descAddr b h)]

/-- Whether queue q of bench b may be bound (R166). -/
def State.queueUsable (s : State) (b q : Nat) : Bool :=
  let base := s.get (Cmp.queueBase b q)
  let n := s.get (Cmp.queueSlots b q)
  let z := s.get (Cmp.queueSlotb b q)
  decide (1 ≤ n ∧ n ≤ 256 ∧ 1 ≤ z ∧ z ≤ 192) && base % 32 == 0 && decide (base + n * z * 32 ≤ 0xE00000)

/-- The address of QUEUEq (R178). -/
def queueAddr (b q : Nat) : Nat := stnBase b 15 + 0x400 + 8 * q

/-- The device-local address of a stream record or another local data memory offset. -/
def dmemAddr (b off : Nat) : Nat := benchBase b + 0x30000 + off

/-- The word of a record's loop descriptor. -/
def State.loopWord (s : State) (b w : Nat) : Nat := s.rdNat (dmemAddr b (bits w 64 16)) 256

/-- The checks of R169 order 2 and the launch checks that the record and its descriptors decide. -/
def State.recChecks (s : State) (b recLocal w : Nat) : List (Bool × Nat) :=
  let a := dmemAddr b recLocal
  let la := dmemAddr b (bits w 64 16)
  let lw := s.loopWord b w
  let ports := (List.range 12).filter (recUses w)
  let sigOk := match s.desc b (bits w 24 10) with
    | some d => decide (d.space ≤ 1) && decide (bits w 34 24 < d.size)
    | none => false
  [(recSound w, a), (recFormOk w, a)] ++ ((portHandles w).map fun h => s.descChecks b h true).flatten ++
    ((paramHandles (kindCode (bits w 4 4)) (bits w 8 4) w).map fun h => s.descChecks b h false).flatten ++
    (ports.map fun k => (decide (1 ≤ s.bindCount b (recBind w k) ∧ s.bindCount b (recBind w k) ≤ 16777215), a)) ++
    (if bitAt w 14 then [(bits w 64 16 % 256 == 0 && loopValid lw w, la),
      (ports.all fun k => (loopSlot lw k).isNone || s.bindCount b (recBind w k) == loopTotal lw, a)] else []) ++
    (if bitAt w 15 then [(sigOk, descAddr b (bits w 24 10)), (bits w 80 16 != 0, a)] else []) ++
    (ports.filter fun k => bindKind (recBind w k) == 1).map (fun k => (s.queueUsable b (bindId (recBind w k)), queueAddr b (bindId (recBind w k)))) ++
    (ports.filter fun k => bindKind (recBind w k) == 3).map (fun k => ((s.chanOfBench b (bindId (recBind w k))).isSome, a))

/-- The launch snapshot of a record (R165). -/
def State.snapshotOf (s : State) (b recLocal w : Nat) : Stream :=
  let i := bits w 4 4
  let bind (k : Nat) : Binding := ⟨bindKind (recBind w k), bindId (recBind w k), s.bindCount b (recBind w k)⟩
  let hs := (portHandles w ++ paramHandles (kindCode i) (bits w 8 4) w).foldl (fun t h => Tab.put t h (s.rdNat (descAddr b h) 64)) []
  let sig := s.desc b (bits w 24 10)
  { form := bits w 8 4, numMode := bitAt w 12, desc := bitAt w 13, recAddr := recLocal
    p0 := recParam w 0, p1 := recParam w 1, p2 := recParam w 2, p3 := recParam w 3
    ins := (List.range (bits w 16 4)).map bind, outs := (List.range (bits w 20 3)).map fun j => bind (8 + j)
    descs := hs, loop := if bitAt w 14 then some (s.loopWord b w) else none
    sigEn := bitAt w 15, sigAddr := (sig.map fun d => d.base + 8 * bits w 34 24).getD 0, sigInc := bits w 80 16
    inPos := List.replicate (bits w 16 4) 0, outPos := List.replicate (bits w 20 3) 0, fold := [], foldNeg := []
    units := 0, tokensIn := 0, tokensOut := 0, recomputes := 0, streamNo := s.get (Stn.streams b i), startStamp := s.now
    startEvent := s.get (Rgn.event b), startStep := s.step, startCnt := [], waitSince := 0, failedDst := false
    bank := s.get (Stn.tmpActiveBank b 2), outBytes := List.replicate (bits w 20 3) 0, stn := i }

/-- A descriptor of a stream's snapshot. -/
def Stream.descOf (x : Stream) (b h : Nat) : Option Desc := (Tab.find x.descs h).map (Desc.ofWord (descAddr b h))

/-- The descriptor bound to a port. -/
def Stream.portDesc (x : Stream) (b : Nat) (v : Binding) : Option Desc := if v.kind = 2 then x.descOf b v.id else none

/-- The handles of a stream's snapshot that its form parameters name for writing (R129). -/
def Stream.written (x : Stream) (b : Nat) : List Desc :=
  let k := kindCode x.stn
  (x.outs.filterMap (x.portDesc b)) ++
    (if k = 2 then (x.descOf b x.p1).toList else []) ++ (if k = 4 ∧ x.form = 1 then (x.descOf b x.p0).toList else [])

/-- Whether a stream's output region, with another byte range (base, length) each writes, overlaps a running stream's (R129). -/
def State.overlaps (s : State) (b : Nat) (x : Stream) (extra : Stream → Option (Nat × Nat)) : Option Nat :=
  let run := (s.streams.filter fun e => e.1 / 16 == b).map (·.2)
  let spaceOk (d : Desc) : Bool := decide (d.space ≤ 1)
  let hits (e : Option (Nat × Nat)) (d : Desc) : Bool :=
    match e with
    | some (a, n) => spaceOk d && (List.range d.rows).any fun r => decide (d.base + d.rowOff r < (a + n : Nat) ∧ (a : Int) < d.base + d.rowOff r + d.rowLen)
    | none => false
  let bad (d : Desc) : Bool := spaceOk d && run.any fun y => (y.written b).any (fun e => spaceOk e && d.meets e) || hits (extra y) d
  match (x.written b).find? bad with
  | some d => some d.addr
  | none =>
    let e := extra x
    if run.any fun y => (y.written b).any (hits e) || (match e, extra y with
      | some (a, n), some (a', n') => decide (a < a' + n' ∧ a' < a + n)
      | _, _ => false)
    then some (dmemAddr b x.recAddr) else none

/-! ### Conversion counters (R91-R93, R438) -/

/-- A per-station counter's key. -/
def stnCntKey (b i f k : Nat) : Nat := (b * 16 + i) * 256 + 8 * f + k

/-- One kind counted n times under a format by a station. -/
def State.countKind (s : State) (b i f k n : Nat) : State :=
  if n = 0 then s
  else { s with stnCnt := Tab.put s.stnCnt (stnCntKey b i f k) ((Tab.get s.stnCnt 0 (stnCntKey b i f k) + n) % 2 ^ 64) }.bump (Conv.count b f k) n

/-- Several elements' kinds counted under a format. -/
def State.countKinds (s : State) (b i f : Nat) (ks : List (List Nat)) : State :=
  (List.range 8).foldl (fun t k => t.countKind b i f k ((ks.map fun l => (l.filter (· == k)).length).sum)) s

/-- Conversions to a destination format: each element counts ELEMENTS and its kinds (R91, R92). -/
def State.countConv (s : State) (b i f : Nat) (ks : List (List Nat)) : State := (s.countKind b i f 0 ks.length).countKinds b i f ks

/-- NAN_IN and INF_IN of decoded operands under their source format (R91). -/
def State.countIn (s : State) (b i f : Nat) (vs : List Val) : State :=
  (s.countKind b i f 6 (vs.filter Val.isNan).length).countKind b i f 7 (vs.filter Val.isInf).length

/-- The latched counters of a station: kinds 0-5 under a format, 6-7 over all formats (R439). -/
def State.latchNow (s : State) (b i dst : Nat) : List Nat :=
  (List.range 8).map fun k =>
    if k < 6 then Tab.get s.stnCnt 0 (stnCntKey b i dst k)
    else ((List.range 17).map fun f => Tab.get s.stnCnt 0 (stnCntKey b i f k)).sum

/-! ### Completion, refusal and abandonment (R439, R442) -/

/-- The collective ordinal of a bound slice channel; 0 otherwise (R439). -/
def State.streamOrd (s : State) (b : Nat) (x : Stream) : Nat :=
  match ((x.ins ++ x.outs).find? fun v => v.kind == 3).bind fun v => s.chanOfBench b v.id with
  | some c => s.ordinal 0 c.coll
  | none => 0

/-- The bucket ID of a stream: P1 of Anvil forms, P2 of Temper, P0 of Proof DIGEST_TILE; 0 otherwise (R439, R168). -/
def Stream.bucket (x : Stream) : Nat :=
  match kindCode x.stn with
  | 1 => if x.form = 4 ∨ x.form = 5 then 0 else x.p1
  | 2 => x.p2
  | _ => 0

/-- The latch record of a stream (R439). -/
def State.latchRecord (s : State) (b i : Nat) (x : Stream) (status : Nat) : Nat :=
  let d := (s.latchNow b i x.dstFmt).zip x.startCnt
  packDetail ([(1, 4), (b, 6), (s.logical b, 5), (0, 1), (i, 4), (x.form, 4), (x.dstFmt, 5), (0, 3), (x.streamNo, 32), (x.startStamp, 64),
    (s.now, 64), (x.startEvent, 48), (0, 16), (s.get (Rgn.event b), 48), (0, 16), (x.startStep, 64), (s.streamOrd b x, 24), (x.bucket, 24),
    (x.srcFmt, 5), (0, 11), (x.units, 64)] ++ d.map (fun e => ((e.1 + 2 ^ 64 - e.2) % 2 ^ 48, 48)) ++
    [(x.tokensIn, 32), (x.tokensOut, 32), (status, 8), (x.recomputes, 16)])

/-- A latch record written to the ring at LATCH_BASE (R439), and the trace record of the stream's end (R442). -/
def State.latchStream (s : State) (b i : Nat) (x : Stream) (status : Nat) : State :=
  let s := s.trace b 2 [(i, 4), (0, 4), (0, 8), (s.streamOrd b x, 24), (x.bucket, 24), (status + 256 * (x.streamNo % 2 ^ 32), 64)]
  let n := s.get Obs.latchCount
  if s.flag Obs.latchEn ∧ n ≠ 0 then
    let a := s.get Obs.latchBase + 128 * (s.get Obs.latchNext % n)
    (match s.storeErr a 128 with
    | none => s.store a (leBytes 128 (s.latchRecord b i x status))
    | some _ => s).bump Obs.latchNext 1
  else s

/-- A stream that ends without completing: its latch record, no signal. -/
def State.dropStream (s : State) (b i status : Nat) : State :=
  match s.stream b i with
  | some x => (s.latchStream b i x status).delStream b i
  | none => s

/-- A station's stream halted, with its record (R141, R439). -/
def State.stnStop (s : State) (b i : Nat) : State := (s.haltStation b i).dropStream b i 2

/-- An ACCESS_VIOLATION that halts a running stream (R141, R171). -/
def State.stnFault (s : State) (b i a : Nat) : State := (s.stnViolation b i a).stnStop b i

/-- A token that the stream may not process (R128, R166): REFUSED, the address, the stream halted. -/
def State.stnRefuse (s : State) (b i a : Nat) : State := ((s.stnViolation b i a).set (Stn.refused b i) 1).stnStop b i

/-- A SEQUENCE fault that halts a stream, with its details after the station index (R121, R126, R137). -/
def State.stnSequence (s : State) (b i : Nat) (details : List (Nat × Nat)) : State :=
  (s.logE clSequence (.bench b) 0 (stnDetail i :: details)).stnStop b i

/-- A tag mismatch (R126). -/
def State.stnTag (s : State) (b i p expected seen : Nat) (last : Bool) : State :=
  ((s.setAll [(Stn.expected b i, expected), (Stn.seen b i, seen), (Stn.seenLast b i, b2n last), (Stn.port b i, p),
    (Stn.tagFault b i, 1)]).logE clSequence (.bench b) 0 [stnDetail i, (p, 3), (expected, 8), (seen, 8)]).stnStop b i

/-- An uncorrectable error in an input (R142, R476): stone control counts a stone word, the bench logs, no recomputation. -/
def State.stnUncorr (s : State) (b i a : Nat) : State :=
  let s := if isStone a then (s.bump (Sc.uncorr (dieOf a)) 1).set (Sc.lastOff (dieOf a)) (a % 0x6000000) else s
  ((s.logE clEccUncorr (.bench b) a [stnDetail i]).set (Stn.eccFault b i) 1).stnStop b i

/-! ### Tokens at input ports -/

/-- A token as a station sees it: its word's fields, its bytes, where they lie, the device it came from, and for a master tile of
which only some rows are emitted the mask of its emitted blocks (R210; log entry 15), for a maximum or minimum the contributions in it
(R478), and whether it is of a packet that the Anvil discards (R121). -/
structure Tok where
  fmt   : Nat
  count : Nat
  dflag : Nat := 0
  piece : Nat := 0
  bytes : List Byte
  addr  : Nat := 0
  src   : Nat := 0
  mask  : Nat := 0
  contrib : Nat := 0
  bad   : Bool := false
  deriving DecidableEq, Repr

/-- What a station finds at an input port. -/
inductive Peek where
  | wait
  | bad (s : State)
  | tok (t : Tok)
  deriving DecidableEq, Repr

/-- The token word of R123, with the length of its data above it (log entry 3). -/
def tokWord (tag last dflag count fmt piece addr len : Nat) : Nat :=
  packDetail [(tag, 8), (last, 1), (dflag, 1), (count, 11), (fmt, 5), (piece, 2), (0, 4), (addr, 27), (0, 5), (len, 32)]

/-- The code that the model's token words carry for exact sums, to which the spec gives no format code; such a token keeps its
values beside its word, since their layout in stone is not given (log entry 14). -/
abbrev exactFmt : Nat := 31

/-- Base of bench b's stone window (R147). -/
def State.window (s : State) (b : Nat) : Nat := stoneBase (b / 5) + s.get (Ben.stoneWin b)

/-- Token j of a queue's sequence for a stream of which n tokens are taken. -/
def State.peekQueue (s : State) (b i p q j n count : Nat) : Peek :=
  match ((Tab.get s.queues {} (64 * b + q)).toks)[j - n]? with
  | none => .wait
  | some w =>
    let last := bitAt w 8
    if bits w 0 8 ≠ j % 256 ∨ last ≠ (j + 1 == count) then .bad (s.stnTag b i p (j % 256) (bits w 0 8) last)
    else
      let a := stoneBase (b / 5) + bits w 32 27
      let len := bits w 64 32
      if bits w 21 5 = exactFmt then .tok { fmt := exactFmt, count := bits w 10 11, bytes := leBytes len (w / 2 ^ 96), addr := a, src := s.get Fab.deviceId }
      else match s.readErr a len with
      | some e => .bad (s.stnUncorr b i e)
      | none => .tok { fmt := bits w 21 5, count := bits w 10 11, dflag := bits w 9 1, piece := bits w 26 2, bytes := s.rdBytes a len, addr := a
                       src := s.get Fab.deviceId, mask := bits w 96 32, contrib := w / 2 ^ 128 }

/-- The run of elements that token j of a tensor port moves (R167, R171); k is the port's number in the loop descriptor. -/
def Stream.pieceOf (x : Stream) (d : Desc) (k j : Nat) : Option Piece :=
  match x.loop.bind fun lw => (loopSlot lw k).map fun sl => (lw, sl) with
  | some (lw, sl) => d.pieceAt (d.base + loopOffset lw sl j)
  | none => d.tile j

/-- Whether a station of bench b may read n bytes at a through a descriptor: data memory, LPDDR5X of any die, stone of its own
die (R148). -/
def State.mayRead (s : State) (b : Nat) (d : Desc) (a n : Nat) : Bool :=
  if d.space = 2 then decide (a + n ≤ benchBase b + 0x40000) else s.ramOk a n && (isLpddr a || dieOf a == b / 5)

/-- What a station finds at n bytes from a of a tensor: a violation, an uncorrectable error, or a token of the bytes (R142, R148). -/
def State.readTok (s : State) (b i : Nat) (d : Desc) (a n : Nat) (tok : List Byte → Tok) : Peek :=
  if !s.mayRead b d a n then .bad (s.stnFault b i (s.faultPlace d.addr a n))
  else
    match s.readErr a n with
    | some e => .bad (s.stnUncorr b i e)
    | none => .tok { tok (s.rdBytes a n) with addr := a, src := s.get Fab.deviceId }

/-- Token j of a tensor port. A remote tensor is no input of a station: a stream that binds one is refused (R148). -/
def State.peekTensor (s : State) (b i p j : Nat) (x : Stream) (d : Desc) : Peek :=
  match x.pieceOf d p j with
  | none => .bad (s.stnFault b i d.addr)
  | some g => s.readTok b i d (d.deviceAddr b g.addr) (d.bytesOf g.elems) fun bs => { fmt := d.fmt, count := g.elems, bytes := bs }

/-- Token j of a slice channel, its tags those of the stream (log entry 11). Its data lie in the slice's staging stone, whose place the
spec leaves to the slice: the address is that of the die's stone (log entry 11). -/
def State.peekChan (s : State) (b c j n : Nat) : Peek :=
  match (Tab.get s.chans [] (chanKey b c))[j - n]? with
  | none => .wait
  | some t => .tok { fmt := bits t.word 21 5, count := bits t.word 10 11, dflag := bits t.word 9 1, piece := bits t.word 26 2, bytes := t.bytes
                     addr := stoneBase (b / 5), src := t.src, bad := t.bad }

/-- Token j of input port p, j counted from the stream's start. -/
def State.peek (s : State) (b i p j : Nat) (x : Stream) : Peek :=
  match x.ins[p]? with
  | none => .wait
  | some v =>
    if v.count ≤ j then .wait
    else
      match v.kind with
      | 1 => s.peekQueue b i p v.id j (nth 0 x.inPos p) v.count
      | 2 =>
        match x.descOf b v.id with
        | some d => s.peekTensor b i p j x d
        | none => .wait
      | _ => s.peekChan b v.id j (nth 0 x.inPos p)

/-- What a collection of tokens gives. -/
inductive Got where
  | wait
  | bad (s : State)
  | toks (l : List Tok)
  deriving DecidableEq, Repr

/-- Tokens from a list of (port, position), in order. A token that the form does not accept is refused (R128), and a row piece
of Forme by every other station (R135). -/
def State.collect (s : State) (b i : Nat) (x : Stream) (ok : Tok → Bool) : List (Nat × Nat) → List Tok → Got
  | [], acc => .toks acc
  | (p, j) :: rest, acc =>
    match s.peek b i p j x with
    | .wait => .wait
    | .bad t => .bad t
    | .tok t => if ok t && (t.piece == 0 || kindCode i == 4) then s.collect b i x ok rest (acc ++ [t]) else .bad (s.stnRefuse b i t.addr)

/-! ### Results of a step, tokens at output ports -/

/-- What a station step comes to: it waits, it has stopped on a fault, or it has done its work. -/
inductive Res where
  | wait
  | stop (s : State)
  | ok (s : State)
  deriving DecidableEq, Repr

/-- A further action on success. -/
def Res.bind (r : Res) (f : State → Res) : Res :=
  match r with
  | .ok s => f s
  | _ => r

/-- An action on the state of a successful step. -/
def Res.map (r : Res) (f : State → State) : Res := r.bind fun s => .ok (f s)

/-- Tokens needed, or the end of the step. -/
def Got.andThen (g : Got) (f : List Tok → Res) : Res :=
  match g with
  | .wait => .wait
  | .bad s => .stop s
  | .toks l => f l

/-- The stream of a station changed. -/
def State.onStream (s : State) (b i : Nat) (f : Stream → Stream) : State :=
  match s.stream b i with
  | some x => s.setStream b i (f x)
  | none => s

/-- One input token of port p released to its producer (R127). -/
def State.consume (s : State) (b i p : Nat) : State :=
  match s.stream b i with
  | none => s
  | some x =>
    let v := nth ⟨0, 0, 0⟩ x.ins p
    let k := 64 * b + v.id
    let q := Tab.get s.queues {} k
    let seen := if v.kind = 1 then bits (q.toks.headD 0) 21 5
      else if v.kind = 3 then bits (((Tab.get s.chans [] (chanKey b v.id)).head?.map (·.word)).getD 0) 21 5 else x.srcFmt
    let s := s.setStream b i { x with inPos := setNth x.inPos p (nth 0 x.inPos p + 1), tokensIn := x.tokensIn + 1
                                      srcFmt := if p = 0 then seen else x.srcFmt }
    let s := s.bump (Stn.tokensIn b i) 1
    if v.kind = 1 then { s with queues := Tab.set s.queues {} k { q with toks := q.toks.drop 1, released := q.released + 1 } }
    else if v.kind = 3 then
      let c := Tab.get s.chans [] (chanKey b v.id)
      let s := s.unstage (b / 5) (((c.head?).map (·.bytes.length)).getD 0)
      { s with chans := Tab.set s.chans [] (chanKey b v.id) (c.drop 1) }
    else s

/-- n tokens of port p released. -/
def State.consumeN (s : State) (b i p : Nat) : Nat → State
  | 0 => s
  | n + 1 => State.consumeN (s.consume b i p) b i p n

/-- One token of every input port released. -/
def State.consumeAll (s : State) (b i : Nat) (x : Stream) : State := (List.range x.ins.length).foldl (fun t p => t.consume b i p) s

/-- Whether output port p has space for its next token (R166). -/
def State.space (s : State) (b : Nat) (x : Stream) (p : Nat) : Bool :=
  let v := nth ⟨0, 0, 0⟩ x.outs p
  if v.kind = 1 then
    let q := Tab.get s.queues {} (64 * b + v.id)
    decide (q.made - q.released < s.get (Cmp.queueSlots b v.id))
  else true

/-- Whether n bytes at a meet a word that a signal directory of the device registers (R246). -/
def State.signalIn (s : State) (a n : Nat) : Bool :=
  (List.range 8).any fun k => (s.dirEntries k).any fun e => decide (s.rdNat e 6 < a + n ∧ a < s.rdNat e 6 + 8)

/-- Bytes of the reservation of a global result of nb blocks whose stone holds so many entries (R100). -/
def resultBytes (nb entries : Nat) : Nat := roundUp nb 8 + 16 + 8 * entries

/-- Whether n bytes at a lie in a reservation of a global result in the shared area of bench b's die (R100, R147, R148). -/
def State.inResult (s : State) (b a n : Nat) : Bool :=
  let sh := stoneBase (b / 5) + 0x5600000
  s.sched.results.any fun e =>
    decide (sh ≤ e.1 ∧ e.1 + resultBytes e.2.1 e.2.2 ≤ sh + 0x980000 ∧ e.1 ≤ a ∧ a + n ≤ e.1 + resultBytes e.2.1 e.2.2)

/-- Whether a station of bench b may write n bytes at a (R148): its window and LPDDR5X, but no signal word; the reservations of global
results in the shared area through an Anvil SCALE stream's output port. -/
def State.mayWrite (s : State) (b i a n : Nat) (scale : Bool) : Bool :=
  let w := s.window b
  (((isLpddr a && s.ramOk a n) || decide (w ≤ a ∧ a + n ≤ w + 0xE00000)) && !s.signalIn a n) ||
    (scale && kindCode i == 1 && s.inResult b a n)

/-- Bytes stored by a station's stream: monitor slots fire, and its bench's Compositor reads stone as it was until it has waited for the
stream (R154, R172). -/
def State.stnPut (s : State) (b i a : Nat) (bs : List Byte) : State :=
  let t := State.fireMons (s.store a bs) a bs.length
  match s.stream b i with
  | some x =>
    if isStone a then
      let v : Veil := ⟨x.streamNo, if x.sigEn then some x.sigAddr else none, a, s.rdBytes a bs.length⟩
      { t with veils := Tab.put s.veils (16 * b + i) (Tab.get s.veils [] (16 * b + i) ++ [v]) }
    else t
  | none => t

/-- Bytes written by a station, under R148 and R339. -/
def State.stnWrite (s : State) (b i a : Nat) (bs : List Byte) (scale : Bool) : Res :=
  if !s.mayWrite b i a bs.length scale then .stop (s.stnFault b i a)
  else
    match s.storeErr a bs.length with
    | some e => .stop (s.stnUncorr b i e)
    | none => .ok (s.stnPut b i a bs)

/-- An output token counted: TAG position, TOKENS_OUT, the region's event, its trace record (R126, R437, R442). -/
def State.emitted (s : State) (b i p w : Nat) : State :=
  match s.stream b i with
  | none => s
  | some x =>
    let s := s.setStream b i { x with outPos := setNth x.outPos p (nth 0 x.outPos p + 1), tokensOut := x.tokensOut + 1 }
    let s := ((s.bump (Stn.tokensOut b i) 1).bump (Aoc.tokens b) 1).bump (Rgn.event b) 1
    s.trace b 3 [(i, 4), (8 + p, 4), (bits w 0 8, 8), (s.streamOrd b x, 24), (x.bucket, 24), (w % 2 ^ 64, 64)]

/-- A token's packets on the scheduled plane: one WRITE with the collective's ordinal (R245, R310; log entry 11). In the sum phase of a
collective with PARTNER_MC the owner's shard is multicast to the owner and its partner (R234). -/
def State.emitChan (s : State) (b i p : Nat) (x : Stream) (c : SliceChan) (t : Tok) : State :=
  let off := c.offset + nth 0 x.outBytes p
  let d : Draft := { vc := 0, kind := 0, dst := c.dst, rhandle := c.rhandle, offset := off, ordinal := s.ordinal 0 c.coll, payload := t.bytes }
  let s := s.onStream b i fun y => { y with outBytes := setNth y.outBytes p (nth 0 y.outBytes p + t.bytes.length) }
  match if bitAt (s.collEntry c.coll) 24 ∧ (c.phase = 1 ∨ c.phase = 2) then c.mcast else none with
  | some g => s.multicast (b / 5) (some (b, i)) g d
  | none => s.inject (b / 5) (some (b, i)) none d

/-- A token emitted on output port p (R123-R127, R166, R167). addr gives the place of a record or block in a tensor where
the form computes it; without it the tensor's next tile is written. -/
def State.emitTok (s : State) (b i p : Nat) (t : Tok) (addr : Option Int) : Res :=
  match s.stream b i with
  | none => .stop s
  | some x =>
    let v := nth ⟨0, 0, 0⟩ x.outs p
    let j := nth 0 x.outPos p
    let word (a : Nat) : Nat := tokWord (j % 256) (b2n (j + 1 == v.count)) t.dflag t.count t.fmt t.piece a t.bytes.length
    match v.kind with
    | 1 =>
      let k := 64 * b + v.id
      let q := Tab.get s.queues {} k
      let size := 32 * s.get (Cmp.queueSlotb b v.id)
      if t.fmt = exactFmt then
        let w := word 0 + leNat t.bytes * 2 ^ 96
        .ok ({ s with queues := Tab.set s.queues {} k { q with toks := q.toks ++ [w], made := q.made + 1 } }.emitted b i p w)
      else if size < t.bytes.length then .stop (s.stnRefuse b i (queueAddr b v.id))
      else
        let a := s.window b + s.get (Cmp.queueBase b v.id) + q.made % max 1 (s.get (Cmp.queueSlots b v.id)) * size
        let w := word (a - stoneBase (b / 5))
        (s.stnWrite b i a t.bytes false).map fun u =>
          { u with queues := Tab.set u.queues {} k { q with toks := q.toks ++ [w + t.mask % 2 ^ 32 * 2 ^ 96 + t.contrib * 2 ^ 128], made := q.made + 1 } }.emitted b i p w
    | 2 =>
      match x.descOf b v.id with
      | none => .stop s
      | some d =>
        let place : Option Int := match addr with
          | some a => some a
          | none => (x.pieceOf d (8 + p) j).bind fun g => if t.count ≤ g.elems then some g.addr else none
        match place with
        | none => .stop (s.stnFault b i d.addr)
        | some a =>
          if d.space = 3 then
            let pk : Draft := { vc := 3, kind := 0, dst := d.device, rhandle := d.rhandle, offset := a.toNat, payload := t.bytes }
            .ok ((s.inject (b / 5) (some (b, i)) none pk).emitted b i p (word 0))
          else
            (s.stnWrite b i (d.deviceAddr b a) t.bytes (x.form == 0)).map fun u => u.emitted b i p (word (a.toNat % 0x6000000))
    | _ =>
      match s.chanOfBench b v.id with
      | none => .stop s
      | some c => .ok ((s.emitChan b i p x c t).emitted b i p (word 0))

/-- The token of a position of which nothing is left: it holds no units, writes nothing to a tensor and crosses a slice channel as no packet (R104, R124, R125;
log entry 11). -/
def State.emitNone (s : State) (b i p fmt : Nat) : Res :=
  match s.stream b i with
  | none => .stop s
  | some x =>
    if (nth ⟨0, 0, 0⟩ x.outs p).kind ≠ 1 then .ok (s.emitted b i p (tokWord (nth 0 x.outPos p % 256) 0 0 0 fmt 0 0 0))
    else s.emitTok b i p { fmt := fmt, count := 0, bytes := [] } none

/-! ### One step of a station (R46, R127, R141) -/

/-- Work in the units of R140 added to a stream. -/
def State.addUnits (s : State) (b i n : Nat) : State := s.onStream b i fun x => { x with units := x.units + n }

/-- A station begins to wait (R144, R442). -/
def State.stnWait (s : State) (b i : Nat) : State :=
  if s.get (Stn.state b i) = 1 then
    (((s.set (Stn.state b i) 2).set (Aoc.waitSince b i) s.now).onStream b i fun x => { x with waitSince := s.now }).trace b 4
      [(i, 4), (0, 4), (0, 8), (0, 24), (0, 24), (7, 64)]
  else s

/-- A station that waited goes on. -/
def State.stnGo (s : State) (b i : Nat) : State :=
  if s.get (Stn.state b i) = 2 then
    (s.setAll [(Stn.state b i, 1), (Aoc.waitSince b i, 0)]).trace b 5
      [(i, 4), (0, 4), (0, 8), (0, 24), (0, 24), (s.get (Aoc.waitSince b i), 64)]
  else s

/-- A failed check of a token position (R46, R141): CHECK_FAULT, the entry, R42, then RECOMPUTING. The moving stations have
parity, which is logged as ECC_UNCORR. -/
def State.checkFail (s : State) (b i : Nat) : State :=
  let k := kindCode i
  let cls := if k = 4 ∨ k = 5 ∨ k = 6 ∨ k = 8 then clEccUncorr else clResidue
  let s := if cls = clResidue then s.logR cls (.bench b) 0 [stnDetail i] else s.logE cls (.bench b) 0 [stnDetail i]
  s.setAll [(Stn.checkFault b i, 1), (Stn.recomputing b i, 1)]

/-- A corrected error of an input (R141, R476). -/
def State.stnCorrected (s : State) (b i a : Nat) : State :=
  if isStone a then (s.bump (Sc.corr (dieOf a)) 1).logR clEccCorr (.bench b) a [stnDetail i]
  else if isLpddr a then s.lineCorrected a
  else s

/-- An error that makes an input uncorrectable: the memory finds it (R476), and the stream halts (R142). -/
def State.stnBroken (s : State) (b i a : Nat) : State :=
  let s := if isLpddr a then s.lineUncorr a
    else { s with badWords := a / 8 * 8 :: s.badWords }
  s.stnUncorr b i (if isLpddr a then a / 64 * 64 else a / 8 * 8)

/-- Whether every token of a stream has crossed its port (R170). -/
def Stream.crossed (x : Stream) : Bool :=
  (List.range x.ins.length).all (fun p => decide ((nth ⟨0, 0, 0⟩ x.ins p).count ≤ nth 0 x.inPos p)) &&
    (List.range x.outs.length).all (fun p => decide ((nth ⟨0, 0, 0⟩ x.outs p).count ≤ nth 0 x.outPos p))

/-- Whether the next slot of memory controller n is another station's than the one of a key that has slots there (R49). -/
def State.slotHeld (s : State) (key n : Nat) (l : List Nat) : Bool :=
  l.contains key && nth key l (Tab.get s.slotCur 0 n % max 1 l.length) != key

/-- Whether a memory controller holds the accesses of station i of bench b until the slots before theirs are served (R49). -/
def State.slotWaits (s : State) (b i : Nat) : Bool := s.sched.slots.any fun e => s.slotHeld (16 * s.logical b + i) e.1 e.2

/-- The slots that station i of bench b has used are served (R49). -/
def State.slotServed (s : State) (b i : Nat) : State :=
  let mine := s.sched.slots.filter fun e => e.2.contains (16 * s.logical b + i)
  { s with slotCur := mine.foldl (fun (t : Tab Nat) e => Tab.put t e.1 ((Tab.get t 0 e.1 + 1) % max 1 e.2.length)) s.slotCur }

/-- One token position of station i of bench b under a check's outcome: a step that would complete is undone by a failed
check and waits for its recomputation. A position whose memory slot is not the next waits (R49). -/
def State.position (s : State) (b i : Nat) (c : Check) (work : State → Stream → Res) : State :=
  match s.stream b i with
  | none => s
  | some x =>
    if !s.benchRuns b || s.flag (Stn.recomputing b i) || x.crossed then s
    else if s.slotWaits b i then s.stnWait b i
    else
      let s := s.stnGo b i
      let s' := match c with
        | .corrected a => s.stnCorrected b i a
        | _ => s
      match work s' x with
      | .wait => s.stnWait b i
      | .stop t => t
      | .ok t =>
        match c with
        | .mismatch => s.checkFail b i
        | .uncorrectable a => s.stnBroken b i a
        | _ => t.slotServed b i

/-- A position of a form, for the station kinds and form code that the command names. -/
def State.formStep (s : State) (b i kind form : Nat) (c : Check) (work : State → Stream → Res) : State :=
  match s.stream b i with
  | none => s
  | some x => if kindCode i = kind ∧ i < 10 ∧ x.form = form then s.position b i c work else s

/-! ### Stream end (R170) -/

/-- Whether every token of a stream has crossed its port and every fabric write is acknowledged (R170, R245). -/
def State.streamDone (s : State) (b i : Nat) (x : Stream) : Bool := x.crossed && s.unacked b i == 0

/-- The bench's cursor notes that a stream of the collective at it has completed (R237). -/
def State.collDone (s : State) (b : Nat) (x : Stream) : State :=
  if (x.ins ++ x.outs).any (·.kind == 3) then
    let c := Tab.get s.benchCur 0 (s.logical b)
    { s with benchCur := Tab.set s.benchCur 0 (s.logical b) (c / 2 * 2 + 1) }
  else s

/-- What the device knows of a bucket. -/
def State.bk (s : State) (id : Nat) : BkState := Tab.get s.buckets {} id

/-- The state with what is known of a bucket replaced. -/
def State.setBk (s : State) (id : Nat) (x : BkState) : State := { s with buckets := Tab.set s.buckets {} id x }

/-- The schedule's placement of a bucket. -/
def State.bucket (s : State) (id : Nat) : Option Bucket := s.sched.buckets.find? fun k => k.id == id

/-- The touched map of a bucket for a step (R209; log entry 5). -/
def touchedAt (k : Bucket) (step : Nat) : Nat := k.touched + step % 2 * roundUp k.blocks 32

/-- The global results of a bucket freed by firmware: COMPLETE is cleared (R100). -/
def State.freeGlob (s : State) (id : Nat) : State :=
  ((s.sched.chans.map (·.2)).filter fun c => c.bucket == id && c.gsBlocks != 0).foldl (fun t c =>
    let w := c.gsBase + roundUp c.gsBlocks 8 + 8
    t.storeNat w 8 (t.rdNat w 8 % 2 ^ 63)) s

/-- Whether a global result of a bucket has a block of a lane: 1 normal, 2 special (R106). -/
def State.bucketLane (s : State) (id lane : Nat) : Bool :=
  (s.sched.chans.map (·.2)).any fun c => c.bucket == id &&
    (s.rdBytes c.gsBase c.gsBlocks).any fun x => if lane = 2 then x.toNat == 0xFF else x.toNat != 0 && x.toNat != 0xFF

/-- Whether the touched map of a bucket's step holds the global scale bytes: the program has copied them (R100, R209). -/
def State.mapCopied (s : State) (k : Bucket) (step : Nat) : Bool :=
  (s.sched.chans.map (·.2)).all fun c => c.bucket != k.id || s.rdBytes (touchedAt k step) c.gsBlocks == s.rdBytes c.gsBase c.gsBlocks

/-- A bucket that the device owns or replicates: its result is freed once its shard is held, ZFILL's blocks among it, and its touched map
is copied (R100). -/
def State.freeShard (s : State) (k : Bucket) : State :=
  match (s.bk k.id).gradStep with
  | some t => if s.mapCopied k t then s.freeGlob k.id else s
  | none => s

/-- A stream has ended that may have been the last to read a global result (R100): a lane's sum sent on by a device that does not hold
the bucket, or a copy of touched maps by Forme (log entry 11). -/
def State.laneSent (s : State) (x : Stream) : State :=
  if kindCode x.stn = 4 then s.sched.buckets.foldl State.freeShard s
  else if kindCode x.stn = 1 ∧ (x.form = 1 ∨ x.form = 2) ∧ (x.outs.any fun v => v.kind != 1) ∧ (s.bucket x.p1).isNone then
    let y := s.bk x.p1
    let ls := x.form :: y.lanes
    if [1, 2].all fun l => ls.contains l || !s.bucketLane x.p1 l then (s.setBk x.p1 { y with lanes := [] }).freeGlob x.p1
    else s.setBk x.p1 { y with lanes := ls }
  else s

/-- The Quench stream that adds to a bucket's update signal word has ended: the copy of the step after its own is complete, and its slot is
no longer empty (R210, R220). -/
def State.copyDone (s : State) (x : Stream) : State :=
  match s.sched.buckets.find? fun k => kindCode x.stn == 3 && x.sigEn && k.updWord != 0 && x.sigAddr == k.updWord with
  | some k =>
    let y := s.bk k.id
    let odd := x.startStep % 2 == 0
    s.setBk k.id { y with copied := some (x.startStep + 1), copying := none, empty0 := y.empty0 && odd, empty1 := y.empty1 && !odd }
  | none => s

/-- A stream completes (R170, R438, R439): record, STREAMS, the station idle, the signal add. A stream whose destination
was given up raises no signal (R270). -/
def State.finishStream (s : State) (b i : Nat) (x : Stream) : State :=
  let s := (s.latchStream b i x 0).delStream b i
  let s := (((s.bump (Stn.streams b i) 1).bump (Stn.streams b 15) 1).setAll [(Stn.state b i, 0), (Aoc.waitSince b i, 0)]).collDone b x
  let s := s.laneSent x
  let s := if x.failedDst then s else s.copyDone x
  if x.sigEn ∧ ¬ x.failedDst then s.signal (.bench b) x.sigAddr x.sigInc ⟨s.get Fab.deviceId, s.logical b⟩ else s

end Sys2Proof.Machine
end

