-- ==== Sys2Proof/Machine/Reduce.lean ====
section
/-! DEFINITION. Exact reduction: payload headers, records, the grid, scale-phase partials and the global result (R95-R121,
R479). -/

namespace Sys2Proof.Machine

open Sys2Proof

/-! ### The reduction header (R104) -/

/-- A reduction header as its fields. -/
structure RedHdr where
  version : Nat := 1
  phase   : Nat
  fmt     : Nat
  bucket  : Nat
  first   : Nat
  blocks  : Nat := 1
  contrib : Nat
  ext     : Nat := 0
  clean   : Bool := true
  deriving DecidableEq, Repr

/-- The header of a payload. -/
def RedHdr.ofBytes (bs : List Byte) : RedHdr :=
  let h := leNat (bs.take 16)
  { version := bits h 0 4, phase := bits h 4 4, fmt := bits h 8 5, bucket := bits h 16 24, first := bits h 40 24, blocks := bits h 64 16
    contrib := bits h 80 24, ext := bits h 104 10, clean := bits h 13 3 == 0 && bits h 114 14 == 0 }

/-- The 16 bytes of a header. -/
def RedHdr.bytes (h : RedHdr) : List Byte :=
  leBytes 16 (packDetail [(h.version, 4), (h.phase, 4), (h.fmt, 5), (0, 3), (h.bucket, 24), (h.first, 24), (h.blocks, 16), (h.contrib, 24),
    (h.ext, 10), (0, 14)])

/-- Bytes of a record, for the (PHASE, FMT) pairs of R105 and R478. -/
def recordBytes (phase fmt : Nat) : Option Nat :=
  let elems := [128, 64, 64, 0, 33, 33, 25, 25, 17]
  if (phase = 1 ∨ phase = 4) ∧ fmt ≤ 8 ∧ fmt ≠ 3 then some (nth 0 elems fmt)
  else if phase = 1 ∧ 13 ≤ fmt ∧ fmt ≤ 15 then some (nth 0 [200, 232, 264] (fmt - 13))
  else if phase = 2 ∧ fmt = 0 then some 136
  else if phase = 2 ∧ fmt = 15 then some 280
  else if phase = 3 ∧ fmt = 15 then some 104
  else none

/-- The largest CONTRIB of a wire format (R108); a contributor record and a norm record count 1 (R109, R116). -/
def contribLimit (phase fmt : Nat) : Nat :=
  if phase = 3 then 1 else if fmt = 13 then 128 else if fmt = 14 then 32768 else 2 ^ 23

/-- Whether a header of a record packet is one that R104, R105 and R108 allow, with its record count. -/
def RedHdr.sound (h : RedHdr) (payload : Nat) : Bool :=
  h.version == 1 && h.clean && h.ext == 0 && decide (1 ≤ h.blocks ∧ 1 ≤ h.contrib) && decide (h.contrib ≤ contribLimit h.phase h.fmt) &&
    match recordBytes h.phase h.fmt with
    | some n => payload == 16 + n * h.blocks
    | none => false

/-- The 16 bytes of a packet's header as those of the token of one block: FIRST_BLOCK and BLOCKS are the record's own, every other bit
is the packet's (R479). -/
def headerFor (payload : List Byte) (blk : Nat) : List Byte :=
  let w := leNat (payload.take 16)
  leBytes 16 (bits w 0 40 + blk % 2 ^ 24 * 2 ^ 40 + 2 ^ 64 + bits w 80 48 * 2 ^ 80)

/-- The slot of a record token (R479). -/
def recordSlot (phase fmt : Nat) : Nat := roundUp (16 + (recordBytes phase fmt).getD 0) 32

/-- A record token: the header of one block before its record (R479). -/
def recordTok (h : RedHdr) (record : List Byte) (src : Nat) : Tok :=
  { fmt := h.fmt, count := 1, bytes := h.bytes ++ record, src := src }

/-! ### The grid (R96, R97, R101-R103) -/

/-- An MX value of magnitude 2^128 or more is an infinity (R97). -/
def capMx (fmt : Nat) (v : Val) : Val :=
  match v with
  | .fin n m e => if isMx fmt ∧ m ≠ 0 ∧ 128 ≤ (Nat.log2 m : Int) + e then .inf n else v
  | _ => v

/-- Whether a value is exactly -0. -/
def Val.negZero (v : Val) : Bool := v.isZero && v.neg?

/-- A finite value in units of 2^u, rounded RNE, with the kinds it counts (R101). -/
def gridOf (u : Int) (v : Val) : Int × List Nat :=
  match v with
  | .fin n m e =>
    let p := pow2 e
    let (k, exact) := roundUnits .rne n (m * p.1) p.2 u
    (if n then -(k : Int) else k, (if exact then [] else [1]) ++ (if k = 0 ∧ m ≠ 0 then [2] else []))
  | _ => (0, [])

/-- Exponent of the quantum for a scale byte or F (R101). -/
def quantum (sc : Nat) : Int := (sc : Int) - 127 - 39

/-- The elements of a contributor record, which starts with the scale byte in the MX formats (R105). -/
def recordVals (fmt : Nat) (rec : List Byte) : List Val :=
  let sc := if isMx fmt then (nth 0 rec 0).toNat else 0
  let a := leNat (if isMx fmt then rec.drop 1 else rec)
  let w := elemWidth fmt
  (List.range 32).map fun i => capMx fmt (decodeElem fmt sc (bits a (w * i) w))

/-! ### Records -/

/-- What a record says of a block: 32 sums and the masks (R107, R110). -/
structure Part where
  sums    : List Int
  nzm     : Nat
  scale   : Nat
  fmax    : Nat := 0
  posInf  : Nat := 0
  negInf  : Nat := 0
  nan     : Nat := 0
  contrib : Nat
  deriving DecidableEq, Repr

/-- The mask of the elements for which p holds. -/
def maskOf (l : List Val) (p : Val → Bool) : Nat := ((l.zip (List.range l.length)).map fun e => if p e.1 then 2 ^ e.2 else 0).sum

/-- The element sums of a partial record of w-bit elements. -/
def partSums (w : Nat) (a : Nat) : List Int := (List.range 32).map fun i => sext w (bits a (w * i) w)

/-- A partial record read (R107, R110); none where a reserved bit is set. -/
def Part.ofRecord (phase fmt contrib : Nat) (rec : List Byte) : Option Part :=
  let h := leNat (rec.take 24)
  if phase = 2 then
    if bits h 48 16 ≠ 0 ∨ bits h 160 32 ≠ 0 then none
    else some { sums := partSums 64 (leNat (rec.drop 24)), nzm := bits h 0 32, scale := bits h 32 8, fmax := bits h 40 8
                posInf := bits h 64 32, negInf := bits h 96 32, nan := bits h 128 32, contrib := contrib }
  else if bits h 40 24 ≠ 0 then none
  else some { sums := partSums (8 * (fmt - 13) + 48) (leNat (rec.drop 8)), nzm := bits h 0 32, scale := bits h 32 8, contrib := contrib }

/-- The sums packed in two's complement of w bits. -/
def packSums (w : Nat) (l : List Int) : Nat := packCodes w (l.map (twos w))

/-- A partial record written in a wire format (R107, R110). -/
def Part.record (p : Part) (phase fmt : Nat) : List Byte :=
  if phase = 2 then
    leBytes 24 (packDetail [(p.nzm, 32), (0xFF, 8), (p.fmax, 8), (0, 16), (p.posInf, 32), (p.negInf, 32), (p.nan, 32), (0, 32)]) ++
      leBytes 256 (packSums 64 p.sums)
  else
    let w := 8 * (fmt - 13) + 48
    leBytes 8 (packDetail [(p.nzm, 32), (p.scale, 8), (0, 24)]) ++ leBytes (4 * w) (packSums w p.sums)

/-- A contribution brought onto the grid of its block (R101-R103, R109, R110), with the kinds of each element; none where the
contributor's scale byte was wrong (R121). -/
def Part.ofVals (special : Bool) (scale fmax : Nat) (vs : List Val) : Option (Part × List (List Nat)) :=
  let sc := if special then fmax else scale
  let fin := vs.filter fun v => !v.isNan && !v.isInf
  if !special && fin.length ≠ vs.length then none
  else if sc = 0 ∧ fin.any (fun v => !v.isZero) then none
  else
    let ks := vs.map fun v => if sc = 0 then (0, []) else gridOf (quantum sc) v
    if ks.any fun k => decide ((2 ^ 40 : Nat) ≤ k.1.natAbs) then none
    else some ({ sums := ks.map (·.1), nzm := maskOf vs Val.negZero, scale := if special then 0xFF else scale
                 fmax := if special then fmax else 0, posInf := maskOf vs fun v => v.isInf && !v.neg?
                 negInf := maskOf vs fun v => v.isInf && v.neg?, nan := maskOf vs Val.isNan, contrib := 1 }, ks.map (·.2))

/-- Two partials of a block combined (R109, R110). -/
def Part.add (p q : Part) : Part :=
  { p with sums := (p.sums.zip q.sums).map fun e => e.1 + e.2, nzm := p.nzm &&& q.nzm, posInf := p.posInf ||| q.posInf
           negInf := p.negInf ||| q.negInf, nan := p.nan ||| q.nan, contrib := p.contrib + q.contrib }

/-! ### The global result (R100) -/

/-- The two words after the scale bytes of a result of nb blocks at base. -/
def globWord0 (base nb : Nat) : Nat := base + roundUp nb 8

/-- Whether a result is COMPLETE. -/
def State.globComplete (s : State) (base nb : Nat) : Bool := bitAt (s.rdNat (globWord0 base nb + 8) 8) 63

/-- Address of extension entry n. -/
def State.globEntry (s : State) (base nb n : Nat) : Nat :=
  let st := s.rdNat (globWord0 base nb + 4) 4
  if n < st then globWord0 base nb + 16 + 8 * n else bits (s.rdNat (globWord0 base nb + 8) 8) 0 48 + 8 * (n - st)

/-- The VALUE of the extension entry of a type for a block; 0 where there is none (R100). -/
def State.globExt (s : State) (base nb type blk : Nat) : Nat :=
  let n := s.rdNat (globWord0 base nb) 4
  match ((List.range n).map fun k => s.rdNat (s.globEntry base nb k) 8).find? fun e => bits e 0 4 == type && bits e 8 24 == blk with
  | some e => bits e 32 32
  | none => 0

/-- The global scale byte of a block. -/
def State.globByte (s : State) (base blk : Nat) : Nat := (s.rd (base + blk)).toNat

/-- F of a special block. -/
def State.globF (s : State) (base nb blk : Nat) : Nat := s.globExt base nb 1 blk % 256

/-- M of a block of scale byte 0. -/
def State.globM (s : State) (base nb blk : Nat) : Nat := s.globExt base nb 2 blk

/-- Whether a scale byte is of a lane: 1 normal, 2 special (R106). -/
def laneHas (lane sc : Nat) : Bool := if lane = 2 then sc == 0xFF else decide (1 ≤ sc ∧ sc ≤ 0xFE)

/-- Whether a record of a block is one whose packet is not discarded for its reserved bits, SCALE or FMAX (R121). A block of scale byte 0
has no record; a record that comes for it all the same is discarded alone. -/
def State.recordFits (s : State) (base nb : Nat) (h : RedHdr) (blk : Nat) (rec : List Byte) : Bool :=
  let sc := s.globByte base blk
  let f := s.globF base nb blk
  if h.phase = 3 then bits (leNat (rec.take 8)) 2 62 == 0
  else if h.phase = 4 ∨ sc = 0 then true
  else if h.fmt ≤ 8 then h.phase != 2 || leNat (rec.take 8) == 0xFF * 2 ^ 32 + f * 2 ^ 40
  else
    match Part.ofRecord h.phase h.fmt h.contrib rec with
    | some p => if h.phase = 2 then p.scale == 0xFF && p.fmax == f else p.scale == sc
    | none => false

/-- The n-th block of a lane from a first one (R106, R479). -/
def State.laneBlock (s : State) (base nb lane first n : Nat) : Option Nat :=
  ((List.range (nb - first)).filter fun k => laneHas lane (s.globByte base (first + k)))[n]?.map (first + ·)

/-! ### Scale-phase partials (R98, R99) -/

/-- The extension entries of a scale-phase payload. -/
def scaleExts (h : RedHdr) (bs : List Byte) : List Nat :=
  (List.range h.ext).map fun k => leNat ((bs.drop (16 + roundUp h.blocks 8 + 8 * k)).take 8)

/-- The scale bytes of a scale-phase payload. -/
def scaleBytes (h : RedHdr) (bs : List Byte) : List Nat := ((bs.drop 16).take h.blocks).map BitVec.toNat

/-- Whether the blocks named by entries strictly rise. -/
def blocksRise : List Nat → Bool
  | a :: c :: rest => decide (bits a 8 24 < bits c 8 24) && blocksRise (c :: rest)
  | _ => true

/-- Whether a scale-phase payload is no reserved encoding (R99, R104, R121). -/
def scaleSound (bs : List Byte) : Bool :=
  let h := RedHdr.ofBytes bs
  let es := scaleExts h bs
  let ss := scaleBytes h bs
  h.version == 1 && h.clean && h.phase == 0 && h.fmt == 0x10 && decide (1 ≤ h.blocks ∧ h.blocks ≤ 512 ∧ h.ext ≤ h.blocks) &&
    bs.length == 16 + roundUp h.blocks 8 + 8 * h.ext &&
    ((bs.drop (16 + h.blocks)).take (roundUp h.blocks 8 - h.blocks)).all (· == 0) && blocksRise es &&
    es.all (fun e =>
      let blk := bits e 8 24
      let sc := nth 0 ss (blk - h.first)
      bits e 4 4 == 0 && decide (h.first ≤ blk ∧ blk < h.first + h.blocks) &&
        ((bits e 0 4 == 1 && sc == 0xFF && bits e 40 24 == 0 && bits e 32 8 != 0xFF) || (bits e 0 4 == 2 && sc == 0 && bits e 32 32 != 0))) &&
    (List.range h.blocks).all fun k => nth 0 ss k != 0xFF || es.any fun e => bits e 0 4 == 1 && bits e 8 24 == h.first + k

/-- The (S, F, M) of the blocks of a payload (R98): F where S is 0xFF, M where S is 0. -/
def scaleParts (bs : List Byte) : List (Nat × Nat × Nat) :=
  let h := RedHdr.ofBytes bs
  let es := scaleExts h bs
  let val (t blk : Nat) : Nat := ((es.find? fun e => bits e 0 4 == t && bits e 8 24 == blk).map fun e => bits e 32 32).getD 0
  (scaleBytes h bs).zip (List.range h.blocks) |>.map fun e =>
    (e.1, if e.1 = 0xFF then val 1 (h.first + e.2) % 256 else 0, if e.1 = 0 then val 2 (h.first + e.2) else 0)

/-- fin of R98. -/
def partFin (p : Nat × Nat × Nat) : Nat := if p.1 = 0xFF then p.2.1 else p.1

/-- Two scale-phase partials of a block combined (R98). -/
def scaleJoin (p q : Nat × Nat × Nat) : Nat × Nat × Nat :=
  let sc := max p.1 q.1
  (sc, if sc = 0xFF then max (partFin p) (partFin q) else 0, if sc = 0 then p.2.2 &&& q.2.2 else 0)

/-- The payload of a combined partial (R99). -/
def scalePayload (bucket first contrib : Nat) (ps : List (Nat × Nat × Nat)) : List Byte :=
  let es := (ps.zip (List.range ps.length)).filterMap fun e =>
    if e.1.1 = 0xFF then some (1 + (first + e.2) * 2 ^ 8 + e.1.2.1 * 2 ^ 32)
    else if e.1.1 = 0 ∧ e.1.2.2 ≠ 0 then some (2 + (first + e.2) * 2 ^ 8 + e.1.2.2 * 2 ^ 32)
    else none
  let h : RedHdr := { phase := 0, fmt := 0x10, bucket := bucket, first := first, blocks := ps.length, contrib := contrib, ext := es.length }
  h.bytes ++ padTo (roundUp ps.length 8) (ps.map fun p => BitVec.ofNat 8 p.1) ++ (es.map (leBytes 8)).flatten

/-- The extension entries that the stone reservation of the result at base holds (R100; log entry 5). -/
def State.stoneEntries (s : State) (base : Nat) : Nat := (Tab.get s.sched.results (0, 0) base).2

/-- A payload put into a global result (R100): its scale bytes, then its entries after those held. Entries beyond the stone reservation
continue in the LPDDR5X reservation that word 1 names. -/
def State.globPut (s : State) (base nb : Nat) (bs : List Byte) : State :=
  let h := RedHdr.ofBytes bs
  let w := globWord0 base nb
  let n := s.rdNat w 4
  let s := s.store (base + h.first) ((bs.drop 16).take h.blocks)
  let s := (s.storeNat w 4 (n + h.ext)).storeNat (w + 4) 4 (min (s.stoneEntries base) (n + h.ext))
  (List.range h.ext).foldl (fun t k => t.storeNat (t.globEntry base nb (n + k)) 8 (nth 0 (scaleExts h bs) k)) s

/-- The places of a global result that a station reads: scale bytes, words, entries in stone, entries in LPDDR5X. -/
def State.globPlaces (s : State) (base nb : Nat) : List (Nat × Nat) :=
  let w := globWord0 base nb
  let n := s.rdNat w 4
  let st := s.rdNat (w + 4) 4
  [(base, roundUp nb 8 + 16 + 8 * min n st), (bits (s.rdNat (w + 8) 8) 0 48, 8 * (n - st))].filter fun e => e.2 != 0

/-- The first uncorrectable error that a station meets in a global result (R141, R142). -/
def State.globErr (s : State) (base nb : Nat) : Option Nat := (s.globPlaces base nb).findSome? fun e => s.readErr e.1 e.2

/-- Where the entries of a payload put into a result would lie beyond its reservations: a violation of R148 there. -/
def State.globSpill (s : State) (b i base nb : Nat) (bs : List Byte) : Option Nat :=
  let h := RedHdr.ofBytes bs
  let n := s.rdNat (globWord0 base nb) 4 + h.ext
  let st := s.stoneEntries base
  let resv := bits (s.rdNat (globWord0 base nb + 8) 8) 0 48
  if !s.mayWrite b i base (resultBytes nb (min n st)) true ∨ nb < h.first + h.blocks then some base
  else if st < n ∧ ¬ (isLpddr resv ∧ s.ramOk resv (8 * (n - st))) then some resv
  else none

/-- COMPLETE set last (R100). -/
def State.globDone (s : State) (base nb : Nat) : State :=
  s.storeNat (globWord0 base nb + 8) 8 (s.rdNat (globWord0 base nb + 8) 8 % 2 ^ 63 + 2 ^ 63)

/-- A result about to be formed holds no entries and is not COMPLETE. -/
def State.globClear (s : State) (base nb : Nat) : State :=
  (s.storeNat (globWord0 base nb) 8 0).storeNat (globWord0 base nb + 8) 8 (s.rdNat (globWord0 base nb + 8) 8 % 2 ^ 63)

/-! ### Faults of the reduction (R121) -/

/-- A record that an Anvil discards: the entry, and the registers of R146. -/
def State.discard (s : State) (b i bucket blk src : Nat) : State :=
  (((s.logE clSequence (.bench b) src [stnDetail i, (bucket, 24), (blk, 24)]).setAll
    [(Stn.anvBucket b i, bucket), (Stn.anvBlock b i, blk), (Stn.anvSrc b i, src)])).bump (Stn.anvDiscards b i) 1

end Sys2Proof.Machine
end

