-- ==== Sys2Proof/Machine/Pieces.lean ====
section
/-! DEFINITION. The piece map, management messages, bulk state on VC5 and the feed of a bucket's holders (R361-R362, R372-R374). -/

namespace Sys2Proof.Machine

open Sys2Proof

/-! ### The piece map (R372) -/

/-- BUCKET of a piece map entry. -/
def pmBucket (w : Nat) : Nat := bits w 0 24
/-- OWNER. -/
def pmOwner (w : Nat) : Nat := bits w 24 20
/-- HOLDER. -/
def pmHolder (w : Nat) : Nat := bits w 44 20
/-- STATE: 0 UNFILLED, 1 FILLING, 2 FILLED. -/
def pmState (w : Nat) : Nat := bits w 64 2
/-- ATTEMPTS. -/
def pmTries (w : Nat) : Nat := bits w 66 4

/-- Entry j of the piece map. -/
def State.pmEntry (s : State) (j : Nat) : Nat := s.rdNat (s.get Surv.pmBase + 16 * j) 16

/-- The piece map with the numbers of its entries. -/
def State.pieces (s : State) : List (Nat × Nat) := (List.range (s.get Surv.pmCount)).map fun j => (j, s.pmEntry j)

/-- This device's fabric ID. -/
def State.me (s : State) : Nat := s.get Fab.deviceId

/-- The entries that name this device OWNER. -/
def State.owned (s : State) : List (Nat × Nat) := s.pieces.filter fun e => pmOwner e.2 == s.me

/-- PIECES_FILLED and PIECES_OPEN follow the map (R385). -/
def State.showPieces (s : State) : State :=
  let l := s.owned
  s.setAll [(Surv.piecesFilled, (l.filter fun e => pmState e.2 == 2).length), (Surv.piecesOpen, (l.filter fun e => pmState e.2 != 2).length)]

/-- STATE and ATTEMPTS of entry j written. -/
def State.setPiece (s : State) (j st tries : Nat) : State :=
  (s.storeNat (s.get Surv.pmBase + 16 * j + 8) 1 (st + 4 * tries)).showPieces

/-- The entry of a bucket between an owner and a holder. -/
def State.pieceOf (s : State) (bucket owner holder : Nat) : Option (Nat × Nat) :=
  s.pieces.find? fun e => pmBucket e.2 == bucket && pmOwner e.2 == owner && pmHolder e.2 == holder

/-- Whether the replica of an owned bucket is lost (R361, R368): the device runs unpaired and no holder has it. -/
def State.replicaLost (s : State) (bucket : Nat) : Bool :=
  s.get Surv.pairState != 2 && s.owned.all fun e => pmBucket e.2 != bucket || pmState e.2 != 2

/-! ### Messages (R362) -/

/-- A management message sent. -/
def State.sendMsg (s : State) (dst type lo step hi len : Nat) : State :=
  s.sendMgmt dst (leBytes len (1 + type * 2 ^ 4 + lo * 2 ^ 8 + step % 2 ^ 64 * 2 ^ 64 + hi % 2 ^ 128 * 2 ^ 128))

/-- FILL. -/
def State.sendFill (s : State) (dst phase bucket step digest : Nat) : State := s.sendMsg dst 5 (phase + bucket * 2 ^ 4) step digest 32

/-- REPLICA_DIGEST. -/
def State.sendReplicaDigest (s : State) (dst bucket step digest : Nat) : State := s.sendMsg dst 6 bucket step digest 32

/-- Bytes of memory sent on VC5 as writes. Where in the receiver's regions they go the spec does not give: handle and offset are
free values (log entry 10). -/
def State.sendBulk (s : State) (dst a n : Nat) : State :=
  (chunks 8192 (s.rdBytes a n)).foldl (fun t c =>
    let (h, t) := t.fresh
    let (o, t) := t.fresh
    t.inject (sliceOf a) none none { vc := 5, kind := 0, dst := dst, rhandle := h % 0xFF00, offset := o % 2 ^ 40, payload := c }) s

/-- The feed of a bucket to a holder: its reduced gradient, in the format it was written, and its touched map of a step (R374). -/
def State.feed (s : State) (dst : Nat) (k : Bucket) (step : Nat) : State :=
  (s.sendBulk dst k.grad k.gradBytes).sendBulk dst (touchedAt k step) k.blocks

/-- The gradient of a step that is written whole is fed to the holders of a bucket's FILLING and FILLED pieces (R374). -/
def State.feedPieces (s : State) (k : Bucket) (step : Nat) : State :=
  (s.owned.filter fun e => pmBucket e.2 == k.id && (pmState e.2 == 1 || pmState e.2 == 2)).foldl (fun t e => t.feed (pmHolder e.2) k step) s

end Sys2Proof.Machine
end

