-- ==== Sys2Proof/Machine/Anvil.lean ====
section
/-! DEFINITION. The Anvil forms: scale phase, sums of both lanes, norms, row and column sums, maximum and minimum (R98-R121,
R131-R132, R478-R479). -/

namespace Sys2Proof.Machine

open Sys2Proof

/-! ### Exact sums (R116; log entry 14) -/

/-- An exact sum as 104 bytes, in the layout of a norm record: NaN, infinite and negative flags, and the magnitude in units of
2^-330. -/
def exactBytes (n : Nat) : List Byte := leBytes 104 n

/-- The value of an exact sum. -/
def exactVal (n : Nat) : Val :=
  if bitAt n 0 then .nan else if bitAt n 1 then .inf (bitAt n 2) else .fin (bitAt n 2) (n / 2 ^ 64) (-330)

/-- A value as an exact sum. -/
def exactOf (v : Val) : Nat :=
  match v with
  | .nan => 1
  | .inf n => 2 + 4 * b2n n
  | .fin n m e => 4 * b2n n + 2 ^ 64 * (if 0 ≤ e + 330 then m * 2 ^ (e + 330).toNat else m / 2 ^ (-(e + 330)).toNat)

/-- Two norm sums combined (R116): flags by OR, sums by addition. -/
def normAdd (a c : Nat) : Nat := (a % 8 ||| c % 8) + (a / 2 ^ 64 + c / 2 ^ 64) * 2 ^ 64

/-- The term of an element: its square, or a flag (R116). -/
def normTerm (v : Val) : Nat :=
  match v with
  | .nan => 1
  | .inf _ => 2
  | .fin _ m e => exactOf (.fin false (m * m) (2 * e))

/-- The element values of a reduced record: the sums on their grid, and the special elements of R111. -/
def Part.vals (p : Part) (special : Bool) : List Val :=
  let u := quantum (if special then p.fmax else p.scale)
  (p.sums.zip (List.range 32)).map fun e =>
    if bitAt p.nan e.2 ∨ (bitAt p.posInf e.2 ∧ bitAt p.negInf e.2) then .nan
    else if bitAt p.posInf e.2 then .inf false
    else if bitAt p.negInf e.2 then .inf true
    else .fin (decide (e.1 < 0) || (e.1 == 0 && bitAt p.nzm e.2)) e.1.natAbs (if special ∧ p.fmax = 0 then 0 else u)

/-! ### Launch checks -/

/-- Whether a queue bound to output port p has slots for n bytes (R166). -/
def State.slotCheck (s : State) (b : Nat) (x : Stream) (p n : Nat) : Bool × Nat :=
  let v := nth ⟨0, 0, 0⟩ x.outs p
  (v.kind != 1 || decide (n ≤ 32 * s.get (Cmp.queueSlotb b v.id)), queueAddr b v.id)

/-- The address of the record of a stream. -/
def Stream.recDev (x : Stream) (b : Nat) : Nat := dmemAddr b x.recAddr

/-- Whether each tensor bound to an input has a format that the form takes (R79). -/
def Stream.inFmts (x : Stream) (b : Nat) (ok : Nat → Bool) : List (Bool × Nat) :=
  (x.ins.filterMap (x.portDesc b)).map fun d => (ok d.fmt && d.space != 3, d.addr)

/-- Whether every input has the count of output port 0 (R132). -/
def Stream.equalCounts (x : Stream) : Bool := x.ins.all fun v => v.count == (nth ⟨0, 0, 0⟩ x.outs 0).count

/-- KIND of output port 0. -/
def Stream.outKind (x : Stream) : Nat := (nth ⟨0, 0, 0⟩ x.outs 0).kind

/-- Whether a code is that of a grid wire format. -/
def isGrid (f : Nat) : Bool := decide (13 ≤ f ∧ f ≤ 15)

/-- The formats of R478. -/
def isMaxFmt (f : Nat) : Bool := decide (f ≤ 2) || isMx f

/-- The output tensor's ELEM0 is a multiple of 32 (R479). -/
def Stream.blockOut (x : Stream) (b : Nat) : List (Bool × Nat) :=
  ((x.outs.filterMap (x.portDesc b))).map fun d => (d.elem0 % 32 == 0, d.addr)

/-- The launch checks of an Anvil stream (R128, R132, R166, R168, R478, R479). A tensor in a contributor's format holds record tokens as
R479 lays out, one of format SCALE whole payloads (log entry 14). -/
def State.anvilChecks (s : State) (b : Nat) (x : Stream) : List (Bool × Nat) :=
  let a := x.recDev b
  let f := x.p0 % 32
  match x.form with
  | 0 => [(f == 0x10 && x.equalCounts, a), s.slotCheck b x 0 4624] ++ x.inFmts b (· == 0x10)
  | 1 => [((f == 0 || isGrid f) && x.equalCounts, a), s.slotCheck b x 0 (recordSlot 1 (if f = 0 then 15 else f))] ++
      x.inFmts b (fun g => isMaxFmt g || isGrid g) ++ x.blockOut b
  | 2 => [((f == 0 || f == 15) && x.equalCounts, a), s.slotCheck b x 0 (recordSlot 2 15)] ++ x.inFmts b (fun g => g == 0 || g == 15) ++
      x.blockOut b
  | 3 => [((f == 0 || f == 15) && (nth ⟨0, 0, 0⟩ x.outs 0).count == 1 && (f != 0 || x.outKind == 1), a),
      s.slotCheck b x 0 (if f = 0 then 1 else recordSlot 3 15)] ++ x.inFmts b isGrid ++ x.blockOut b
  | 4 => [(x.p0 != 0 && x.outKind == 1, a)] ++ x.inFmts b fun g => isMaxFmt g || isGrid g
  | 5 => [(x.p0 != 0 && x.outKind == 1, a)] ++ x.inFmts b fun g => isMaxFmt g || isGrid g
  | _ => [(decide (f ≤ 2) && x.equalCounts, a), s.slotCheck b x 0 (tileBytes f)] ++ x.inFmts b isMaxFmt

/-! ### Records at the inputs -/

/-- The place of a block's record in a tensor (R479). -/
def recordAddr (d : Desc) (blk phase fmt : Nat) : Int := d.base + ((blk : Int) - (d.elem0 / 32 : Nat)) * recordSlot phase fmt

/-- The address that the loop descriptor of a stream gives for the next token of input port p (R171), if it steps that port. -/
def Stream.loopPlace (x : Stream) (d : Desc) (p : Nat) : Option Int :=
  (x.loop.bind fun lw => (loopSlot lw p).map fun sl => (lw, sl)).map fun e => d.base + loopOffset e.1 e.2 (nth 0 x.inPos p)

/-- A record token read at an address of a tensor. -/
def State.recordTokAt (s : State) (b i : Nat) (d : Desc) (a : Int) (phase : Nat) : Peek :=
  s.readTok b i d (d.deviceAddr b a) (16 + (recordBytes phase d.fmt).getD 0) fun bs => { fmt := d.fmt, count := 1, bytes := bs }

/-- The record of a block at input port p: from a queue or a channel its next token, from a tensor the record at the block's
place, as R479 lays records out, or at the place that the loop descriptor gives. -/
def State.peekRec (s : State) (b i p : Nat) (x : Stream) (phase blk : Nat) : Peek :=
  match x.portDesc b (nth ⟨0, 0, 0⟩ x.ins p) with
  | none => s.peek b i p (nth 0 x.inPos p) x
  | some d => s.recordTokAt b i d ((x.loopPlace d p).getD (recordAddr d blk phase d.fmt)) phase

/-- The header of the record token at an address of a tensor. -/
def State.headerAt (s : State) (b : Nat) (d : Desc) (a : Int) : RedHdr := RedHdr.ofBytes (s.rdBytes (d.deviceAddr b a) 16)

/-- Whether the place of a block in a tensor holds a record of that block in a lane (R479). -/
def State.holdsRecord (s : State) (b : Nat) (d : Desc) (phase blk : Nat) : Bool :=
  let h := s.headerAt b d (recordAddr d blk phase d.fmt)
  h.version == 1 && h.phase == phase && h.fmt == d.fmt && h.blocks == 1 && h.first == blk

/-- The records that a tensor holds, in block order: of the first lane of which it holds any (log entry 14). -/
def State.recordsIn (s : State) (b : Nat) (d : Desc) : List (Nat × Nat) :=
  let of (phase : Nat) : List (Nat × Nat) :=
    (((List.range (ceilDiv d.size 32)).map (d.elem0 / 32 + ·)).filter (s.holdsRecord b d phase)).map fun k => (phase, k)
  ([1, 2, 3].map of).find? (fun l => l != []) |>.getD []

/-- The next record at input port p of a form that takes the records of a port as they come (R113, R116): from a tensor the next one that
it holds, or the one at the place that the loop descriptor gives. -/
def State.peekNext (s : State) (b i p : Nat) (x : Stream) : Peek :=
  match x.portDesc b (nth ⟨0, 0, 0⟩ x.ins p) with
  | none => s.peek b i p (nth 0 x.inPos p) x
  | some d =>
    match x.loopPlace d p with
    | some a =>
      let phase := (s.headerAt b d a).phase
      s.recordTokAt b i d a (if phase = 2 ∨ phase = 3 then phase else 1)
    | none =>
      let next := (s.recordsIn b d)[nth 0 x.inPos p]?.getD (1, d.elem0 / 32 + nth 0 x.inPos p)
      s.recordTokAt b i d (recordAddr d next.2 next.1 d.fmt) next.1

/-- Whether a station takes a record token: whole rows of formats that the form takes, and what it discards (R121, R128, R135). -/
def takesRecord (ok : Nat → Bool) (t : Tok) : Bool := t.piece == 0 && (ok t.fmt || t.bad)

/-- The next record at port p, of a format that the form takes. -/
def State.nextRec (s : State) (b i p : Nat) (x : Stream) (ok : Nat → Bool) : Got :=
  match s.peekNext b i p x with
  | .wait => .wait
  | .bad t => .bad t
  | .tok t => if takesRecord ok t then .toks [t] else .bad (s.stnRefuse b i t.addr)

/-- The records of a block at every input, of formats that the form takes. -/
def State.collectRec (s : State) (b i : Nat) (x : Stream) (phase blk : Nat) (ok : Nat → Bool) : List Nat → List Tok → Got
  | [], acc => .toks acc
  | p :: rest, acc =>
    match s.peekRec b i p x phase blk with
    | .wait => .wait
    | .bad t => .bad t
    | .tok t => if takesRecord ok t then s.collectRec b i x phase blk ok rest (acc ++ [t]) else .bad (s.stnRefuse b i t.addr)

/-! ### SUM and SUMSP (R101, R106-R110, R121, R132) -/

/-- The partial that a record token brings to block blk, or none when it is discarded (R121) or holds nothing (R124). -/
def State.useRecord (s : State) (b i lane blk sc f : Nat) (t : Tok) : State × Option Part :=
  if t.count = 0 then (s, none) else
  let h := RedHdr.ofBytes t.bytes
  let rec' := t.bytes.drop 16
  let no := (s.discard b i h.bucket h.first t.src, none)
  if t.bad || !h.sound t.bytes.length || h.blocks != 1 || h.phase != lane || h.first != blk then no
  else if h.fmt ≤ 8 then
    let head := leNat (rec'.take 8)
    if lane = 2 ∧ head ≠ 0xFF * 2 ^ 32 + f * 2 ^ 40 then no
    else
      let vs := recordVals h.fmt (if lane = 2 then rec'.drop 8 else rec')
      match Part.ofVals (lane == 2) sc f vs with
      | none => no
      | some (p, ks) => ((s.countConv b i h.fmt ks).countIn b i h.fmt vs, some p)
  else
    match Part.ofRecord lane h.fmt h.contrib rec' with
    | none => no
    | some p => if p.scale = (if lane = 2 then 0xFF else sc) ∧ (lane ≠ 2 ∨ p.fmax = f) then (s, some p) else no

/-- Whether a sound token names another bucket, lane or block than the position's (R121); a record of a block whose scale
byte is 0 is only discarded. -/
def State.misplaced (s : State) (base nb lane bucket blk : Nat) (t : Tok) : Bool :=
  let h := RedHdr.ofBytes t.bytes
  !t.bad && h.sound t.bytes.length && (h.bucket != bucket || h.phase != lane || h.first != blk) &&
    !(h.bucket == bucket && decide (h.first < nb) && s.globByte base h.first == 0)

/-- The sum of the records of one block from every input. -/
def State.sumTokens (s : State) (b i lane blk sc f : Nat) (ts : List Tok) : State × Part :=
  let zero : Part := { sums := List.replicate 32 0, nzm := 2 ^ 32 - 1, scale := sc, fmax := f, contrib := 0 }
  ts.foldl (fun acc t =>
    match acc.1.useRecord b i lane blk sc f t with
    | (u, some p) => (u, acc.2.add p)
    | (u, none) => (u, acc.2)) (s, zero)

/-- A partial record emitted in the stream's wire format; beyond the format's limit the stream halts (R108, R109). With no
contribution left there is no record. -/
def State.emitPart (s : State) (b i lane blk : Nat) (x : Stream) (p : Part) : Res :=
  let fmt := if x.p0 % 32 = 0 then 15 else x.p0 % 32
  let place := (x.portDesc b (nth ⟨0, 0, 0⟩ x.outs 0)).map fun d => recordAddr d blk lane fmt
  if p.contrib = 0 then s.emitNone b i 0 fmt
  else if contribLimit lane fmt < p.contrib then .stop (s.stnSequence b i [(x.p1, 24), (blk, 24), (p.contrib, 24)])
  else
    let h : RedHdr := { phase := lane, fmt := fmt, bucket := x.p1, first := blk, contrib := p.contrib }
    s.emitTok b i 0 (recordTok h (p.record lane fmt) 0) place

/-- One position of SUM (lane 1) or SUMSP (lane 2): the next block of the lane from every input (R106, R132). It waits
until the global result is complete (R100). -/
def State.sumWork (b i lane : Nat) (s : State) (x : Stream) : Res :=
  match x.descOf b x.p3 with
  | none => .stop s
  | some d =>
    let base := d.deviceAddr b d.base
    let nb := d.size
    if !s.globComplete base nb || !s.space b x 0 then .wait
    else
      match s.globErr base nb with
      | some e => .stop (s.stnUncorr b i e)
      | none =>
      match s.laneBlock base nb lane x.p2 (nth 0 x.outPos 0) with
      | none => .stop (s.stnSequence b i [(x.p1, 24), (nb, 24)])
      | some blk =>
        let ok (f : Nat) : Bool := if lane = 2 then f == 0 || f == 15 else isMaxFmt f || isGrid f
        (s.collectRec b i x lane blk ok (List.range x.ins.length) []).andThen fun ts =>
          match ts.find? (s.misplaced base nb lane x.p1 blk) with
          | some t =>
            .stop ((s.logE clSequence (.bench b) t.src [stnDetail i, ((RedHdr.ofBytes t.bytes).bucket, 24), ((RedHdr.ofBytes t.bytes).first, 24)]).stnStop b i)
          | none =>
            let r := s.sumTokens b i lane blk (s.globByte base blk) (if lane = 2 then s.globF base nb blk else 0) ts
            (r.1.emitPart b i lane blk x r.2).map fun u => (u.consumeAll b i x).addUnits b i (32 * ts.length)

/-! ### SCALE (R98-R100) -/

/-- The partial of one position: sound packets of the expected blocks joined. -/
def joinScale (ts : List Tok) : List (Nat × Nat × Nat) :=
  match ts with
  | [] => []
  | t :: rest => rest.foldl (fun acc u => (acc.zip (scaleParts u.bytes)).map fun e => scaleJoin e.1 e.2) (scaleParts t.bytes)

/-- A scale-phase partial emitted: into a global result when the port is bound to a tensor (R100). -/
def State.emitScale (s : State) (b i : Nat) (x : Stream) (payload : List Byte) (blocks : Nat) : Res :=
  let j := nth 0 x.outPos 0
  let v := nth ⟨0, 0, 0⟩ x.outs 0
  match x.portDesc b v with
  | none => s.emitTok b i 0 { fmt := 0x10, count := blocks, bytes := payload } none
  | some d =>
    let base := d.deviceAddr b d.base
    let nb := d.size
    if !s.mayWrite b i base (resultBytes nb 0) true then .stop (s.stnFault b i base)
    else
      let s := if j = 0 then s.globClear base nb else s
      match s.globSpill b i base nb payload with
      | some a => .stop (s.stnFault b i a)
      | none =>
      let s := s.globPut base nb payload
      let s := if j + 1 = v.count ∧ nth 0 x.fold 0 = 0 then s.globDone base nb else s
      .ok (s.emitted b i 0 (tokWord (j % 256) (b2n (j + 1 == v.count)) 0 blocks 0x10 0 (base % 0x6000000) 0))

/-- The position of a SCALE stream of which every packet was discarded: nothing is put into a global result, which stays incomplete
(R100, R121). -/
def State.scaleNone (s : State) (b i : Nat) (x : Stream) : Res :=
  let j := nth 0 x.outPos 0
  let v := nth ⟨0, 0, 0⟩ x.outs 0
  match x.portDesc b v with
  | none => s.emitNone b i 0 0x10
  | some d =>
    let base := d.deviceAddr b d.base
    let s := (if j = 0 then s.globClear base d.size else s).onStream b i fun y => { y with fold := [1] }
    .ok (s.emitted b i 0 (tokWord (j % 256) (b2n (j + 1 == v.count)) 0 0 0x10 0 (base % 0x6000000) 0))

/-- The slot of a scale-phase payload in a tensor: the largest payload in units of 32 bytes (log entry 14). -/
abbrev scaleSlot : Nat := 4640

/-- The payload at input port p of SCALE: the next token, from a tensor the payload at the next slot or at the loop's place (R99, R479). -/
def State.peekScale (s : State) (b i p : Nat) (x : Stream) : Peek :=
  match x.portDesc b (nth ⟨0, 0, 0⟩ x.ins p) with
  | none => s.peek b i p (nth 0 x.inPos p) x
  | some d =>
    let a := (x.loopPlace d p).getD (d.base + (scaleSlot * nth 0 x.inPos p : Nat))
    let h := s.headerAt b d a
    s.readTok b i d (d.deviceAddr b a) (min scaleSlot (16 + roundUp h.blocks 8 + 8 * h.ext)) fun bs => { fmt := 0x10, count := h.blocks, bytes := bs }

/-- The payloads of a position at every input. -/
def State.collectScale (s : State) (b i : Nat) (x : Stream) : List Nat → List Tok → Got
  | [], acc => .toks acc
  | p :: rest, acc =>
    match s.peekScale b i p x with
    | .wait => .wait
    | .bad t => .bad t
    | .tok t => if takesRecord (· == 0x10) t then s.collectScale b i x rest (acc ++ [t]) else .bad (s.stnRefuse b i t.addr)

/-- One position of SCALE: a packet from every input, all of the same blocks (R98, R121). -/
def State.scaleWork (b i : Nat) (s : State) (x : Stream) : Res :=
  if !s.space b x 0 then .wait
  else
    (s.collectScale b i x (List.range x.ins.length) []).andThen fun ts =>
      let hdr (t : Tok) : RedHdr := RedHdr.ofBytes t.bytes
      let good := ts.filter fun t => !t.bad && scaleSound t.bytes
      let h := hdr (nth { fmt := 0, count := 0, bytes := [] } good 0)
      match good.find? fun t => (hdr t).bucket != x.p1 || (hdr t).first != h.first || (hdr t).blocks != h.blocks with
      | some t =>
        .stop ((s.logE clSequence (.bench b) t.src [stnDetail i, ((hdr t).bucket, 24), ((hdr t).first, 24)]).stnStop b i)
      | none =>
        let s := (ts.filter fun t => t.count != 0 && (t.bad || !scaleSound t.bytes)).foldl (fun u t =>
          u.discard b i (hdr t).bucket (hdr t).first t.src) s
        let ps := joinScale good
        let contrib := ((good.map fun t => (hdr t).contrib).sum)
        (if good = [] then s.scaleNone b i x else s.emitScale b i x (scalePayload x.p1 h.first contrib ps) ps.length).map fun u =>
          (u.consumeAll b i x).addUnits b i ((good.map fun t => (hdr t).blocks).sum)

/-! ### NORM, ROWSUM and COLSUM (R116, R117) -/

/-- The lowest input port with a token left. -/
def Stream.openPort (x : Stream) : Option Nat :=
  (List.range x.ins.length).find? fun p => decide (nth 0 x.inPos p < (nth ⟨0, 0, 0⟩ x.ins p).count)

/-- The element values of a reduced record token, or none for a record that is discarded. -/
def recordElems (t : Tok) : Option (List Val) :=
  let h := RedHdr.ofBytes t.bytes
  if t.bad || !h.sound t.bytes.length || h.blocks != 1 || !isGrid h.fmt || !(h.phase == 1 || h.phase == 2) then none
  else
    match Part.ofRecord h.phase h.fmt h.contrib (t.bytes.drop 16) with
    | some p => if (h.phase = 2) = (p.scale = 0xFF) ∧ p.scale ≠ 0 then some (p.vals (h.phase == 2)) else none
    | none => none

/-- What a token adds to a norm: a norm record's own sum, or the squares of a reduced record. -/
def normToken (t : Tok) : Option Nat :=
  let h := RedHdr.ofBytes t.bytes
  if h.phase = 3 then
    if ¬ t.bad ∧ h.sound t.bytes.length ∧ h.blocks = 1 ∧ bits (leNat (t.bytes.drop 16)) 2 62 = 0 then some (leNat (t.bytes.drop 16)) else none
  else (recordElems t).map fun vs => vs.foldl (fun a v => normAdd a (normTerm v)) 0

/-- The norm of a norm record's 104 bytes, as FP32 bits: NaN, +infinity, or the square root of N768 rounded once (R117). -/
def normResult (n : Nat) : Nat :=
  if bitAt n 0 then 0x7FC00000
  else if bitAt n 1 then 0x7F800000
  else (fp32.sqrt .rne (.fin false (n / 2 ^ 64) (-330))).1.code

/-- NORM: one token folded, or after the last the one output token (R127). -/
def State.normWork (b i : Nat) (s : State) (x : Stream) : Res :=
  match x.openPort with
  | some p =>
    (s.nextRec b i p x isGrid).andThen fun ts =>
      let t := nth { fmt := 0, count := 0, bytes := [] } ts 0
      let h := RedHdr.ofBytes t.bytes
      match normToken t with
      | none => .ok ((if t.count = 0 then s else s.discard b i h.bucket h.first t.src).consume b i p)
      | some n =>
        let s := s.onStream b i fun y => { y with fold := [normAdd (nth 0 y.fold 0) n] }
        .ok ((s.consume b i p).addUnits b i (if h.phase = 3 then 1 else 32))
  | none =>
    let n := nth 0 x.fold 0
    let h : RedHdr := { phase := 3, fmt := 15, bucket := x.p1, first := x.p2, contrib := 1 }
    if !s.space b x 0 then .wait
    else if x.p0 % 32 = 0 then s.emitTok b i 0 { fmt := exactFmt, count := 1, bytes := exactBytes n } none
    else
      s.emitTok b i 0 (recordTok h (leBytes 104 n) 0) ((x.portDesc b (nth ⟨0, 0, 0⟩ x.outs 0)).map fun d => recordAddr d x.p2 3 15)

/-- The element values of a tile token. -/
def tokVals (t : Tok) : List Val := (tileVals t.fmt t.count t.bytes).map (capMx t.fmt)

/-- The sums of rows or columns after the values vs, which follow n elements (R116): entry 0 counts elements. -/
def foldSums (col : Bool) (len : Nat) (fold : List Nat) (vs : List Val) : List Nat :=
  let n := nth 0 fold 0
  let sums := (vs.zip (List.range vs.length)).foldl (fun acc e =>
    let j := if col then (n + e.2) % len else (n + e.2) / len
    let acc := acc ++ List.replicate (j + 1 - acc.length) 0
    setNth acc j (normAdd (nth 0 acc j) (normTerm e.1))) (fold.drop 1)
  (n + vs.length) :: sums

/-- ROWSUM and COLSUM: one tile folded, or after the last the next sum emitted (R127). -/
def State.lineSumWork (b i : Nat) (col : Bool) (s : State) (x : Stream) : Res :=
  match x.openPort with
  | some p =>
    (s.collect b i x (fun t => isMaxFmt t.fmt || isGrid t.fmt) [(p, nth 0 x.inPos p)] []).andThen fun ts =>
      let t := nth { fmt := 0, count := 0, bytes := [] } ts 0
      let vs := if isGrid t.fmt then recordElems t else some (tokVals t)
      match vs with
      | none =>
        .ok ((if t.count = 0 then s else s.discard b i (RedHdr.ofBytes t.bytes).bucket (RedHdr.ofBytes t.bytes).first t.src).consume b i p)
      | some vs =>
        let s := if isGrid t.fmt then s else s.countIn b i t.fmt vs
        let s := s.onStream b i fun y => { y with fold := foldSums col y.p0 y.fold vs }
        .ok ((s.consume b i p).addUnits b i vs.length)
  | none =>
    if !s.space b x 0 then .wait
    else s.emitTok b i 0 { fmt := exactFmt, count := 1, bytes := exactBytes (nth 0 (x.fold.drop 1) (nth 0 x.outPos 0)) } none

/-! ### Reduced blocks of a bucket (R114) -/

/-- The step whose gradient a bucket gathers: the one in progress until its shard is held, then the next. -/
def State.gradTarget (s : State) (bucket : Nat) : Nat := if (s.bk bucket).gradStep = some s.step then s.step + 1 else s.step

/-- The digest of a bucket's gradient as it lies in memory, which the repeat of an aborted step is held against (R368). -/
def State.gradDigest (s : State) (k : Bucket) : Nat :=
  itemDigest (leBytes 16 k.id ++ s.rdBytes k.grad k.gradBytes)

/-- A bucket whose every block is finished (R114, R240): its holders are fed (R374). One whose update was carried over an abort must have
the gradient of the aborted attempt again; another one withholds its update and is a DIGEST_MISMATCH (R368). -/
def State.shardHeld (s : State) (k : Bucket) (b : Nat) : State :=
  let y := s.bk k.id
  let bad := y.carried == some s.step && y.held != s.gradDigest k
  let step := s.gradTarget k.id
  let s := s.setBk k.id { y with gradBlocks := 0, gradStep := some step, heldBad := y.heldBad || bad }
  let s := (if bad then (s.logE clDigest (.bench b) 0 []).setAll [(Coll.digStep, s.step), (Coll.digestEvt, 1)] else s).freeShard k
  if k.owned then s.feedPieces k step else s

/-- n finished blocks of a bucket; a record whose CONTRIB is not the data-parallel width is logged and the bucket withheld
(R114, R229). -/
def State.noteBlock (s : State) (b bucket blk n : Nat) (contrib : Option Nat) : State :=
  match s.bucket bucket with
  | none => s
  | some k =>
    let bad := contrib.any (· != (s.dpWidth bucket).getD k.width)
    let s := if bad then s.logE clSequence .hub 0 [(bucket, 24), (blk, 24), (contrib.getD 0, 24)] else s
    let y := s.bk bucket
    let s := s.setBk bucket { y with gradBlocks := y.gradBlocks + n, countBad := y.countBad || bad }
    if k.blocks ≤ y.gradBlocks + n then s.shardHeld k b else s

/-! ### MAX and MIN (R89, R118, R478) -/

/-- The values of a token at an input: a PHASE 4 record from a slice channel, a tile elsewhere. -/
def maxVals (t : Tok) (record : Bool) : Option (List Val) :=
  if record then
    let h := RedHdr.ofBytes t.bytes
    if ¬ t.bad ∧ h.sound t.bytes.length ∧ h.blocks = 1 ∧ h.phase = 4 then some (recordVals h.fmt (t.bytes.drop 16)) else none
  else some (tokVals t)

/-- Element-wise maximum or minimum. -/
def pickVals (maxOp num : Bool) (a c : List Val) : List Val := (a.zip c).map fun e => Val.pick maxOp num e.1 e.2

/-- The result tile of the values, written exactly (R478). -/
def exactTile (fmt : Nat) (vs : List Val) : List Byte := (encodeTile fmt (vs.map fun v => (v, Round.rne))).1

/-- Contributions in a token of MAX or MIN: a record's CONTRIB, what an Anvil before put into a tile, else one (R478). -/
def maxContrib (t : Tok) (record : Bool) : Nat := if record then (RedHdr.ofBytes t.bytes).contrib else max 1 t.contrib

/-- The blocks of a maximum or minimum that reaches a tensor are finished blocks of its bucket (R114, R478). -/
def State.noteMax (s : State) (b : Nat) (x : Stream) (first blocks contrib : Nat) : State :=
  if x.outKind = 2 then s.noteBlock b x.p1 first blocks (some contrib) else s

/-- One position of MAX or MIN. Tokens of one position that hold different counts of elements halt the stream (log entry 14). -/
def State.maxWork (b i : Nat) (maxOp : Bool) (s : State) (x : Stream) : Res :=
  if !s.space b x 0 then .wait
  else
    (s.collect b i x (fun t => t.bad || (isMaxFmt t.fmt && (x.p0 % 32 == 0 || t.fmt == x.p0 % 32)))
      ((List.range x.ins.length).map fun p => (p, nth 0 x.inPos p)) []).andThen fun ts =>
      let k := nth 0 x.outPos 0
      let ps := ts.zip (x.ins.map fun v => v.kind == 3)
      let blk := x.p2 + k
      let off (e : Tok × Bool) : Bool :=
        let h := RedHdr.ofBytes e.1.bytes
        e.2 && (maxVals e.1 true).isSome && (h.bucket != x.p1 || h.first != blk)
      let n := ((ps.map fun e => if e.2 then 32 else e.1.count)).headD 0
      match ps.find? fun e => off e || (if e.2 then 32 else e.1.count) != n with
      | some e =>
        .stop ((s.logE clSequence (.bench b) e.1.src [stnDetail i, ((RedHdr.ofBytes e.1.bytes).bucket, 24), ((RedHdr.ofBytes e.1.bytes).first, 24)]).stnStop b i)
      | none =>
        let s := ps.foldl (fun u e =>
          match maxVals e.1 e.2 with
          | some vs => u.countIn b i e.1.fmt vs
          | none => u.discard b i (RedHdr.ofBytes e.1.bytes).bucket (RedHdr.ofBytes e.1.bytes).first e.1.src) s
        let good := ps.filterMap fun e => (maxVals e.1 e.2).map fun vs => (vs, maxContrib e.1 e.2)
        let vs := match good with
          | [] => []
          | g :: rest => rest.foldl (fun acc e => pickVals maxOp x.numMode acc e.1) g.1
        let f := x.p0 % 32
        let body := exactTile f vs
        let h : RedHdr := { phase := 4, fmt := f, bucket := x.p1, first := x.p2 + k * ceilDiv n 32, blocks := ceilDiv n 32, contrib := (good.map (·.2)).sum }
        (if good = [] then s.emitNone b i 0 f
          else (s.emitTok b i 0 { fmt := f, count := n, bytes := if x.outKind = 3 then h.bytes ++ body else body, contrib := h.contrib } none).map fun u =>
            u.noteMax b x h.first h.blocks h.contrib).map fun u =>
          (u.consumeAll b i x).addUnits b i (n * ts.length)

/-! ### The work of an Anvil's station, by form -/

/-- One position of an Anvil stream. -/
def State.anvilWork (b i form : Nat) (s : State) (x : Stream) : Res :=
  match form with
  | 0 => s.scaleWork b i x
  | 1 => s.sumWork b i 1 x
  | 2 => s.sumWork b i 2 x
  | 3 => s.normWork b i x
  | 4 => s.lineSumWork b i false x
  | 5 => s.lineSumWork b i true x
  | 6 => s.maxWork b i true x
  | _ => s.maxWork b i false x

end Sys2Proof.Machine
end

