-- ==== Sys2Proof/Machine/Layers.lean ====
section
/-! DEFINITION. Layers and row records: descriptors, tables of the serving benches, stored tiles and heads (R179, R181-R185). -/

namespace Sys2Proof.Machine

open Sys2Proof

/-! ### The layer table (R179) -/

/-- Address of the descriptor of layer i. -/
def State.layerAddr (s : State) (i : Nat) : Nat := s.get Ws.ltBase + 128 * i

/-- The descriptor of layer i. -/
def State.layer (s : State) (i : Nat) : Nat := s.rdNat (s.layerAddr i) 128

/-- MODE. -/
def lyMode (w : Nat) : Nat := bits w 4 2
/-- NSETS. -/
def lySets (w : Nat) : Nat := bits w 8 4
/-- ROWS. -/
def lyRows (w : Nat) : Nat := bits w 16 24
/-- NBENCH. -/
def lyBenches (w : Nat) : Nat := bits w 40 6
/-- CAPB. -/
def lyCapb (w : Nat) : Nat := bits w 48 24
/-- SKETCH. -/
def lySketch (w : Nat) : Nat := bits w 128 10
/-- RANK. -/
def lyRank (w : Nat) : Nat := bits w 138 9
/-- PFMT. -/
def lyPfmt (w : Nat) : Nat := bits w 147 5
/-- VERIFY_N. -/
def lyVerifyN (w : Nat) : Nat := bits w 224 16
/-- POOL_FMT. -/
def lyPool (w : Nat) : Nat := bits w 256 5
/-- BUCKET. -/
def lyBucket (w : Nat) : Nat := bits w 261 24
/-- The row set entry m. -/
def lySet (w m : Nat) : Nat := bits w (512 + 64 * m) 64
/-- FMT of a row set. -/
def rsFmt (e : Nat) : Nat := bits e 20 5
/-- TILES of a row set. -/
def rsTiles (e : Nat) : Nat := bits e 25 5
/-- Bytes of a row slot (R181). -/
def rowSlot (fmt tiles : Nat) : Nat := 64 + tiles * tileBytes fmt

/-- Whether a format is a compact format (R77). -/
def isCompact (f : Nat) : Bool := f == 1 || f == 2 || isMx f

/-- The physical bench that holds a logical number. -/
def State.physOf (s : State) (j : Nat) : Option Nat :=
  (List.range 40).find? fun b => s.flag (Ben.lvalid b) && s.logical b == j

/-- Whether a row set entry is one that R179 allows. -/
def setOk (e : Nat) : Bool := isCompact (rsFmt e) && decide (1 ≤ rsTiles e ∧ rsTiles e ≤ 16) && bits e 41 23 == 0

/-! ### Stored tiles and row records (R181-R183) -/

/-- The values of a tile in its stored form: dense, or kept values behind 128 bytes of metadata (R182). -/
def storedVals (fmt : Nat) (dense : Bool) (bs : List Byte) : List Val :=
  if dense then tileVals fmt 1024 bs
  else
    let keep := leNat (bs.take 128)
    let at' (e : Nat) : Nat := ((List.range e).filter (bitAt keep)).length
    let p := at' 1024
    let w := elemWidth fmt
    let scales := if isMx fmt then (bs.drop 128).take (ceilDiv p 32) else []
    let codes := leNat ((bs.drop (128 + scales.length)).take (ceilDiv (p * w) 8))
    (List.range 1024).map fun e =>
      if bitAt keep e then decodeElem fmt (nth 0 scales (at' e / 32)).toNat (bits codes (w * at' e) w) else .fin false 0 0

/-- The values of every tile of a row record. -/
def recordRow (fmt : Nat) (masked : Bool) (bs : List Byte) : List Val :=
  let h := leNat (bs.take 64)
  ((List.range (bits h 40 5)).map fun j =>
    storedVals fmt (!masked || bitAt h (48 + j)) (bs.drop (32 * bits h (256 + 16 * j) 16))).flatten

/-- The elements that a mask of 1,024 bits keeps, in ascending order. -/
def maskKept (keep : Nat) : List Nat := (List.range 1024).filter (bitAt keep)

/-- Bytes of a compressed tile that keeps p elements (R182, R183). -/
def packedBytes (fmt p : Nat) : Nat :=
  roundUp (128 + (if isMx fmt then ceilDiv p 32 else 0) + ceilDiv (p * elemWidth fmt) 8) 32

/-- The stored form of a tile: whether it is dense, and its length in units of 32 bytes (R182, R183). It follows from the mask alone. -/
def storedForm (fmt : Nat) (mask : Option Nat) : Bool × Nat :=
  let n := tileBytes fmt
  match mask with
  | none => (true, n / 32)
  | some keep => let p := packedBytes fmt (maskKept keep).length; if n ≤ p then (true, n / 32) else (false, p / 32)

/-- The head of a row record whose tiles have the given stored forms (R181). -/
def recordHead (lrow fmt step : Nat) (tiles : List (Bool × Nat)) : List Byte :=
  let off (j : Nat) : Nat := 2 + ((tiles.take j).map (·.2)).sum
  let dense := ((tiles.zipIdx.filter fun e => e.1.1).map fun e => 2 ^ e.2).sum
  leBytes 64 (packDetail ([(1, 4), (0, 4), (lrow, 24), (fmt, 5), (0, 3), (tiles.length, 5), (0, 3), (dense, 16), (step, 64), (off tiles.length, 16),
    (0, 112)] ++ (List.range tiles.length).map fun j => (off j, 16)))

/-- The head of a row record with dense tiles (R181, R197). -/
def denseHead (lrow fmt tiles step : Nat) : List Byte := recordHead lrow fmt step (List.replicate tiles (storedForm fmt none))

/-! ### The tables of a serving bench (R179, R185) -/

/-- The skip index and the padding of lists (R135, R136). -/
abbrev skipIdx : Nat := 0xFFFFFFFF

/-- The tile that holds element e of a tensor, and the element's place in it. -/
def Desc.elemPlace (d : Desc) (e : Nat) : Int × Nat :=
  (d.base + d.rowOff (e / d.row) + (e % d.row / 1024 * d.tileLen : Nat), e % d.row % 1024)

/-- Entry n of a UINT32 table bound to a handle on a bench. -/
def State.tableEntry (s : State) (b h n : Nat) : Nat :=
  match s.desc b h with
  | some d => let e := d.elemPlace n; s.rdNat (d.deviceAddr b (e.1 + (4 * e.2 : Nat))) 4
  | none => skipIdx

/-- The local row of logical row i on a bench, or the skip index (R185). -/
def State.localRow (s : State) (b w i : Nat) : Nat := if i = skipIdx then skipIdx else s.tableEntry b (bits w 80 10) i

/-- The logical row of local row l on a bench, or the skip index. -/
def State.logicalRow (s : State) (b w l : Nat) : Nat := s.tableEntry b (bits w 90 10) l

/-- Address of local row l of row set m in the slot of a step. -/
def State.rowAddr (s : State) (b w m step l : Nat) : Nat :=
  let e := lySet w m
  match s.desc b (if step % 2 = 0 then bits e 0 10 else bits e 10 10) with
  | some d => d.deviceAddr b d.base + l * rowSlot (rsFmt e) (rsTiles e)
  | none => 0

/-- The bytes of a row record in a slot: ROWLEN units, at most the slot. -/
def State.rowBytes (s : State) (b w m step l : Nat) : List Byte :=
  let e := lySet w m
  let a := s.rowAddr b w m step l
  s.rdBytes a (min (rowSlot (rsFmt e) (rsTiles e)) (32 * bits (s.rdNat (a + 16) 2) 0 16))

/-- The masks of the tiles of local row l of a row set: row l of the tensor that MASK names, 128 bytes to a tile (R179; log entry 17). -/
def State.rowMasks (s : State) (b e l : Nat) : List (Option Nat) :=
  (List.range (rsTiles e)).map fun j =>
    if bitAt e 30 then
      match s.desc b (bits e 31 10) with
      | some d => some (s.rdNat (d.deviceAddr b (d.base + d.rowOff l + (128 * j : Nat))) 128)
      | none => some 0
    else none

/-- The layer and the row set that a handle of bench b names as a compact slot of a format: the layer's descriptor and the row set. -/
def State.rowSetOf (s : State) (b h fmt : Nat) : Option (Nat × Nat) :=
  ((List.range (s.get Ws.ltCount)).filter fun i => i ∉ s.badLayers).findSome? fun i =>
    let w := s.layer i
    if s.flag (Ben.lvalid b) ∧ s.logical b < lyBenches w then
      ((List.range (lySets w)).find? fun m => let e := lySet w m; rsFmt e == fmt && (bits e 0 10 == h || bits e 10 10 == h)).map fun m => (w, m)
    else none

end Sys2Proof.Machine
end

