-- ==== Sys2Proof/Machine/Quench.lean ====
section
/-! DEFINITION. The Quench forms: conversion, row records, finishing of reduced blocks, zero blocks (R80-R86, R111-R114, R133,
R181-R183). -/

namespace Sys2Proof.Machine

open Sys2Proof

/-! ### Conversion parameter sets (R80, R81) -/

/-- FMT_OUT. -/
def psetFmt (ps : Nat) : Nat := bits ps 4 5

/-- An FP32 field of a parameter set. -/
def psetVal (ps lo : Nat) : Val := fp32.decode (bits ps lo 32)

/-- Whether a value is finite. -/
def Val.finite (v : Val) : Bool := !v.isNan && !v.isInf

/-- Whether a parameter set is one that Quench accepts (R81). -/
def psetOk (ps : Nat) : Bool :=
  bits ps 0 4 == 1 && decide (bits ps 9 3 ≤ 4) && decide (psetFmt ps ≤ 0xB) && (!bitAt ps 12 || (psetVal ps 32).finite) &&
    (!bitAt ps 13 || (psetVal ps 64).finite) &&
    (!bitAt ps 14 || (!(psetVal ps 96).isNan && !(psetVal ps 128).isNan && !(psetVal ps 128).lt (psetVal ps 96))) &&
    !bitAt ps 15 && bits ps 24 8 == 0 && bits ps 160 96 == 0

/-- Steps 2 to 4 of R80 on a value: the value to round and the kinds counted on the way. -/
def psetApply (ps : Nat) (rdn : Bool) (v : Val) : Val × List Nat :=
  let (t, i) := if bitAt ps 12 then Val.mul (psetVal ps 32) v else (v, false)
  let (w, j) := if bitAt ps 13 then Val.add rdn t (psetVal ps 64) else (t, false)
  let c := if !bitAt ps 14 || w.isNan then w
    else if w.lt (psetVal ps 96) then psetVal ps 96
    else if (psetVal ps 128).lt w then psetVal ps 128
    else w
  (c, (if i || j then [5] else []) ++ (if c = w then [] else [3]))

/-- The kinds of an element, each once; an INVALID or NaN element does not count INEXACT (R91). -/
def mergeKinds (v : Val) (pre enc : List Nat) : List Nat :=
  let ks := (pre ++ enc).dedup
  if 5 ∈ ks ∨ v.isNan then ks.filter (· != 1) else ks

/-- Values converted under a parameter set, with the rounding of each element: bytes and kinds (R80). -/
def convertVals (ps : Nat) (vs : List (Val × Round)) : List Byte × List (List Nat) :=
  let pre := vs.map fun v => (psetApply ps (v.2 == .rdn) v.1, v.2)
  let r := encodeTile (psetFmt ps) (pre.map fun e => (e.1.1, e.2))
  (r.1, (pre.zip r.2).map fun e => mergeKinds e.1.1.1 e.1.1.2 e.2)

/-- The random word of an element at index e of an output tensor (R86). An output that no descriptor assigns an element index takes that of
the schedule's channel, or bucket 0, and counts its elements from the stream's first (log entry 14): the word depends on the seed, the
step and the position alone (R30). -/
def State.randomFor (s : State) (ps bucket e : Nat) : Nat := srWord s.sched.jobSeed.toNat s.step bucket e (bits ps 16 8)

/-- The rounding of n elements of a bucket from element index e on (R84, R86). -/
def State.rounds (s : State) (ps bucket e : Nat) : Nat → List Round
  | 0 => []
  | n + 1 =>
    (match bits ps 9 3 with
      | 0 => Round.rne
      | 1 => .rtz
      | 2 => .rup
      | 3 => .rdn
      | _ => .sr (s.randomFor ps bucket e)) :: State.rounds s ps bucket (e + 1) n

/-- Bucket and element index of the elements that follow `done` elements at output port 0 of a stream (R86). -/
def State.outIndex (s : State) (b : Nat) (x : Stream) (done : Nat) : Nat × Nat :=
  let v := nth ⟨0, 0, 0⟩ x.outs 0
  match x.portDesc b v with
  | some d => (d.bucket, d.elem0 + done)
  | none => (if v.kind = 3 then ((s.chanOfBench b v.id).map (·.bucket)).getD 0 else 0, done)

/-! ### Launch checks -/

/-- The device-local address of a stream's parameter set, when it lies in stone or data memory (R80, R158). -/
def State.psetAddr (s : State) (b p0 : Nat) : Option Nat :=
  match s.localAt b p0 1, s.localAt b (p0 + 31) 1 with
  | .memory a, .memory c => if c = a + 31 then some a else none
  | .shared a, .shared c => if c = a + 31 then some a else none
  | _, _ => none

/-- The launch checks of a Quench stream: the parameter set (R81), formats (R79), ZFILL's counts (R133), slots (R166). -/
def State.quenchChecks (s : State) (b : Nat) (x : Stream) : List (Bool × Nat) :=
  match s.psetAddr b x.p0 with
  | none => [(false, x.recDev b)]
  | some pa =>
    let ps := s.rdNat pa 32
    let outs := (x.outs.filterMap (x.portDesc b)).map fun d => (d.fmt == psetFmt ps && d.space ≤ 1, d.addr)
    [(psetOk ps, pa)] ++ outs ++
      (match x.form with
      | 0 => [s.slotCheck b x 0 (tileBytes (psetFmt ps)), (x.equalCounts, x.recDev b)] ++ x.inFmts b fun f => decide (f ≤ 12)
      | 1 => [s.slotCheck b x 0 (tileBytes (psetFmt ps)), (x.equalCounts, x.recDev b)] ++ x.inFmts b isGrid ++ x.blockOut b
      | _ => [(x.outKind == 2 && x.p2 % 32 == 0 && decide (1 ≤ x.p3 ∧ x.p3 ≤ 16777215) &&
          (nth ⟨0, 0, 0⟩ x.outs 0).count == ceilDiv x.p3 32, x.recDev b)] ++ x.blockOut b)

/-! ### Blocks written into a tensor -/

/-- Where the bytes of n elements from position pos go (R479, R69, R74): scale and element areas, or each element. -/
def Desc.blockWrites (d : Desc) (pos n : Nat) (bs : List Byte) : List (Int × List Byte) :=
  let (t, k) := d.elemPlace pos
  let w := elemWidth d.fmt
  if isMx d.fmt then [(t + (k / 32 : Nat), bs.take 1), (t + 32 + (k * w / 8 : Nat), (bs.drop 32).take (n * w / 8))]
  else if d.fmt = 10 then [(t + (k / 2 : Nat), bs.take (n / 2))]
  else if d.fmt = 3 then [(t + (4 * k : Nat), bs.take (4 * n)), (t + 4096 + (2 * k : Nat), (bs.drop 4096).take (2 * n))]
  else (List.range n).map fun j =>
    let (u, m) := d.elemPlace (pos + j)
    (u + (m * w / 8 : Nat), (bs.drop (j * w / 8)).take (w / 8))

/-- Writes of a station one after another. -/
def State.writeAll (s : State) (b i : Nat) : List (Int × List Byte) → Res
  | [] => .ok s
  | (a, bs) :: rest => (s.stnWrite b i a.toNat bs false).bind fun t => State.writeAll t b i rest

/-- A block of a tensor written, inside the tensor (R479). -/
def State.writeBlock (s : State) (b i : Nat) (d : Desc) (pos n : Nat) (bs : List Byte) : Res :=
  if d.size < pos + n then .stop (s.stnFault b i d.addr) else s.writeAll b i (d.blockWrites pos n bs)

/-- Output token of port 0 counted, its data written by the form; DFLAG marks a masked tile stored dense (R183). -/
def State.emittedTile (s : State) (b i : Nat) (x : Stream) (dflag count fmt : Nat) : State :=
  let j := nth 0 x.outPos 0
  s.emitted b i 0 (tokWord (j % 256) (b2n (j + 1 == (nth ⟨0, 0, 0⟩ x.outs 0).count)) dflag count fmt 0 0 0)

/-- Output token of port 0 counted, its data written by the form. -/
def State.emitted0 (s : State) (b i : Nat) (x : Stream) (count fmt : Nat) : State := s.emittedTile b i x 0 count fmt

/-! ### Stored tiles and row records (R181-R183) -/

/-- A tile in its stored form, from values that steps 2 to 4 of R80 have passed: its bytes, and the kinds of each element stored with
the element's index. An element that the mask drops is +0 in a dense tile and absent from a compressed one. -/
def storeTile (fmt : Nat) (mask : Option Nat) (vs : List (Val × Round)) : List Byte × List (Nat × List Nat) :=
  match mask with
  | none => let r := encodeTile fmt vs; (r.1, (List.range vs.length).zip r.2)
  | some keep =>
    let idx := maskKept keep
    let at' (i : Nat) : Val × Round := nth (.fin false 0 0, Round.rne) vs i
    if (storedForm fmt mask).1 then
      let r := encodeTile fmt ((List.range 1024).map fun i => if bitAt keep i then at' i else (.fin false 0 0, Round.rne))
      (r.1, idx.map fun i => (i, nth [] r.2 i))
    else
      let r := encodeTile fmt (idx.map at')
      let p := idx.length
      let data := if isMx fmt then r.1.take (ceilDiv p 32) ++ (r.1.drop 32).take (ceilDiv (p * elemWidth fmt) 8) else r.1
      (padTo (packedBytes fmt p) (leBytes 128 keep ++ data), idx.zip r.2)

/-- What Quench writes for tile j of local row l of a row set, with the step of the copy (R181): the record's head and, where an element of the
tile is given, the tile in its stored form, with the kinds of its conversions. vs holds the tile's values with their rounding, those of
elements past its end +0; blocks lists the 32-element blocks given; the others keep what the slot holds (log entry 15). -/
def State.tileWrites (s : State) (b w m l j addr step ps : Nat) (vs : List (Val × Round)) (blocks : List Nat) :
    List (Nat × List Byte) × List (List Nat) × Bool :=
  let e := lySet w m
  let fmt := rsFmt e
  let masks := s.rowMasks b e l
  let forms := masks.map (storedForm fmt)
  let f := nth (true, 0) forms j
  let at' := addr + 64 + 32 * ((forms.take j).map (·.2)).sum
  let head := (addr, recordHead (s.logicalRow b w l) fmt step forms)
  let dflag := bitAt e 30 && f.1
  if blocks = [] then ([head], [], dflag)
  else
    let old := if blocks.length = 32 then [] else storedVals fmt f.1 (s.rdBytes at' (32 * f.2))
    let pre := (List.range 1024).map fun i =>
      let v := nth (.fin false 0 0, Round.rne) vs i
      if i / 32 ∈ blocks then (psetApply ps (v.2 == .rdn) v.1, v.2) else ((nth (.fin false 0 0) old i, []), Round.rne)
    let r := storeTile fmt (nth none masks j) (pre.map fun x => (x.1.1, x.2))
    let ks := (r.2.filter fun x => decide (x.1 / 32 ∈ blocks ∧ x.1 < vs.length)).map fun x =>
      let v := nth ((.fin false 0 0, []), Round.rne) pre x.1
      mergeKinds v.1.1 v.1.2 x.2
    ([head, (at', r.1)], ks, dflag)

/-- A master tile converted into the row record that holds it (R181-R183): element `first` of the slot's tensor begins it, mask tells which
of its 32-element blocks the token gives, 0 for all. -/
def State.convertRow (s : State) (b i : Nat) (x : Stream) (d : Desc) (w m first mask : Nat) (vs : List Val) : Res :=
  let l := first / max 1 d.row
  let e := lySet w m
  let addr := d.deviceAddr b d.base + l * rowSlot (rsFmt e) (rsTiles e)
  let blocks := if vs = [] then [] else (List.range 32).filter fun q => mask == 0 || bitAt mask q
  let r := s.tileWrites b w m l (first % max 1 d.row / 1024) addr (x.startStep + 1) x.pset
    (vs.zip (s.rounds x.pset d.bucket (d.elem0 + first) vs.length)) blocks
  let id := lyBucket w
  let s := s.setBk id { s.bk id with copying := some x.startStep }
  ((s.countConv b i x.dstFmt r.2.1).writeAll b i (r.1.map fun y => ((y.1 : Int), y.2))).map fun u =>
    u.emittedTile b i x (b2n r.2.2) (if mask = 0 then vs.length else 32 * blocks.length) x.dstFmt

/-! ### CONVERT -/

/-- The element values of a token: a tile's, or exact sums. -/
def convVals (t : Tok) : List Val :=
  if t.fmt = exactFmt then (chunks 104 t.bytes).map fun c => exactVal (leNat c) else tileVals t.fmt (if t.mask = 0 then t.count else 1024) t.bytes

/-- The emitted blocks of a master tile converted and written one by one, from element position e (R210; log entry 15). -/
def State.convertBlocks (s : State) (b i : Nat) (x : Stream) (d : Desc) (vs : List Val) (e mask : Nat) : List Nat → Res
  | [] => .ok s
  | q :: rest =>
    if bitAt mask q then
      let ms := s.rounds x.pset d.bucket (d.elem0 + e + 32 * q) 32
      let r := convertVals x.pset (((vs.drop (32 * q)).take 32).zip ms)
      (((s.countConv b i x.dstFmt r.2).writeBlock b i d (e + 32 * q) 32 r.1)).bind fun t => t.convertBlocks b i x d vs e mask rest
    else s.convertBlocks b i x d vs e mask rest

/-- One position of CONVERT (R80). Exact sums round with RNE (R76, R83). -/
def State.convertWork (b i : Nat) (s : State) (x : Stream) : Res :=
  if !s.space b x 0 then .wait
  else
    (s.collect b i x (fun t => t.fmt ≤ 12 || (t.fmt == exactFmt && (nth ⟨0, 0, 0⟩ x.ins 0).kind == 1)) [(0, nth 0 x.inPos 0)] []).andThen fun ts =>
      let t := nth { fmt := 0, count := 0, bytes := [] } ts 0
      let k := nth 0 x.outPos 0
      let vs := convVals t
      let od := x.portDesc b (nth ⟨0, 0, 0⟩ x.outs 0)
      let s := if t.fmt = exactFmt then s else s.countIn b i t.fmt vs
      let done (r : Res) : Res := r.map fun u => (u.consume b i 0).addUnits b i vs.length
      let first := match od with
        | some d => ((x.pieceOf d 8 k).map (·.first)).getD 0
        | none => 0
      match od with
      | some d =>
        match if t.fmt = exactFmt then none else s.rowSetOf b (nth ⟨0, 0, 0⟩ x.outs 0).id d.fmt with
        | some (w, m) => done (s.convertRow b i x d w m first t.mask (if t.count = 0 then [] else vs))
        | none =>
        if t.mask ≠ 0 then done ((s.convertBlocks b i x d vs first t.mask (List.range 32)).map fun u => u.emitted0 b i x t.count x.dstFmt)
        else if t.fmt = exactFmt ∧ t.count = 1 ∧ !wholeTiles d.fmt then
          let r := convertVals x.pset (vs.map fun v => (v, Round.rne))
          done (((s.countConv b i x.dstFmt r.2).writeBlock b i d k 1 r.1).map fun u => u.emitted0 b i x 1 x.dstFmt)
        else if t.count = 0 then done (.ok (s.emitted0 b i x 0 x.dstFmt))
        else
          let ms := if t.fmt = exactFmt then List.replicate vs.length Round.rne else s.rounds x.pset d.bucket (d.elem0 + first) vs.length
          let r := convertVals x.pset (vs.zip ms)
          done ((s.countConv b i x.dstFmt r.2).emitTok b i 0 { fmt := x.dstFmt, count := vs.length, bytes := r.1 } none)
      | none =>
        let at' := s.outIndex b x (nth 0 x.fold 0)
        let ms := if t.fmt = exactFmt then List.replicate vs.length Round.rne else s.rounds x.pset at'.1 at'.2 vs.length
        let s := s.onStream b i fun y => { y with fold := [nth 0 y.fold 0 + vs.length] }
        let r := convertVals x.pset (vs.zip ms)
        done ((s.countConv b i x.dstFmt r.2).emitTok b i 0 { fmt := x.dstFmt, count := t.count, bytes := r.1, mask := t.mask } none)

/-! ### FINISH (R111-R113) -/

/-- The kinds of the elements of a reduced block before conversion: INVALID where both infinities met (R111). -/
def clashKinds (p : Part) : List (List Nat) := (List.range 32).map fun i => if bitAt p.posInf i && bitAt p.negInf i then [5] else []

/-- A record token that FINISH processes, with its header, or none for a malformed one (R113). -/
def finishRecord (t : Tok) : Option (RedHdr × Part) :=
  let h := RedHdr.ofBytes t.bytes
  if (recordElems t).isNone then none
  else (Part.ofRecord h.phase h.fmt h.contrib (t.bytes.drop 16)).map fun p => (h, p)

/-- One position of FINISH: a block's sums rounded once and written (R113). -/
def State.finishWork (b i : Nat) (s : State) (x : Stream) : Res :=
  if !s.space b x 0 then .wait
  else
    (s.nextRec b i 0 x fun _ => true).andThen fun ts =>
      let t := nth { fmt := 0, count := 0, bytes := [] } ts 0
      let h := RedHdr.ofBytes t.bytes
      if t.count = 0 then (s.emitNone b i 0 x.dstFmt).map fun u => u.consume b i 0 else
      match if isGrid t.fmt then finishRecord t else none with
      | none => .stop (s.stnSequence b i [(h.bucket, 24), (h.first, 24)])
      | some (h, p) =>
        let vs := p.vals (h.phase == 2)
        let r := convertVals x.pset (vs.map fun v => (v, Round.rne))
        let ks := ((clashKinds p).zip r.2).map fun e => if e.1 = [] then e.2 else (5 :: e.2).dedup.filter (· != 1)
        let s := (s.countConv b i x.dstFmt ks).noteBlock b h.bucket h.first 1 (some h.contrib)
        (match x.portDesc b (nth ⟨0, 0, 0⟩ x.outs 0) with
        | some d =>
          if h.first < d.elem0 / 32 then Res.stop (s.stnFault b i d.addr)
          else (s.writeBlock b i d (32 * (h.first - d.elem0 / 32)) 32 r.1).map fun u => u.emitted0 b i x 32 x.dstFmt
        | none => s.emitTok b i 0 { fmt := x.dstFmt, count := 32, bytes := r.1 } none).map fun u => (u.consume b i 0).addUnits b i 32

/-! ### ZFILL (R112, R133) -/

/-- The zero blocks among some block indices written (R133). -/
def State.zeroBlocks (s : State) (b i : Nat) (x : Stream) (d : Desc) (base nb : Nat) : List Nat → Res
  | [] => .ok s
  | blk :: rest =>
    if s.globByte base blk = 0 then
      let m := s.globM base nb blk
      let vs := (List.range 32).map fun j => (Val.fin (bitAt m j) 0 0, Round.rne)
      let r := convertVals x.pset vs
      if blk < d.elem0 / 32 then .stop (s.stnFault b i d.addr)
      else
        (((s.countConv b i x.dstFmt r.2).writeBlock b i d (32 * (blk - d.elem0 / 32)) 32 r.1)).bind fun u =>
          (u.addUnits b i 32).zeroBlocks b i x d base nb rest
    else s.zeroBlocks b i x d base nb rest

/-- One position of ZFILL: the zero blocks of the next tile of the range. It waits for a complete global result. -/
def State.zfillWork (b i : Nat) (s : State) (x : Stream) : Res :=
  match x.descOf b x.p1, x.portDesc b (nth ⟨0, 0, 0⟩ x.outs 0) with
  | some g, some d =>
    let base := g.deviceAddr b g.base
    let nb := g.size
    if !s.globComplete base nb then .wait
    else
      match s.globErr base nb with
      | some e => .stop (s.stnUncorr b i e)
      | none =>
      let first := x.p2 + 32 * nth 0 x.outPos 0
      let blks := (List.range (min 32 (x.p2 + x.p3 - first))).map (first + ·)
      let n := (blks.filter fun k => s.globByte base k == 0).length
      (s.zeroBlocks b i x d base nb blks).map fun u => (u.noteBlock b d.bucket first n none).emitted0 b i x (32 * n) x.dstFmt
  | _, _ => .stop s

/-- One position of a Quench stream. -/
def State.quenchWork (b i form : Nat) (s : State) (x : Stream) : Res :=
  match form with
  | 0 => s.convertWork b i x
  | 1 => s.finishWork b i x
  | _ => s.zfillWork b i x

end Sys2Proof.Machine
end

