-- ==== Sys2Proof/Machine/Movers.lean ====
section
/-! DEFINITION. Forme, Hardy and Galley: moving rows, selecting, sorting and merging (R135-R137). -/

namespace Sys2Proof.Machine

open Sys2Proof

/-- No token. -/
def noTok : Tok := { fmt := 0, count := 0, bytes := [] }

/-- The UINT32 entries of a token. -/
def tokIdx (t : Tok) : List Nat := (chunks 4 (t.bytes.take (4 * t.count))).map leNat

/-- Tokens of port p from position j on until they hold need units, by a measure of each, or the port's tokens end. -/
def State.collectUntil (s : State) (b i : Nat) (x : Stream) (ok : Tok → Bool) (size : Tok → Nat) (p need : Nat) : Nat → Nat → List Tok → Got
  | 0, _, acc => .toks acc
  | n + 1, j, acc =>
    if need ≤ (acc.map size).sum then .toks acc
    else
      match s.peek b i p j x with
      | .wait => .wait
      | .bad t => .bad t
      | .tok t => if ok t then s.collectUntil b i x ok size p need n (j + 1) (acc ++ [t]) else .bad (s.stnRefuse b i t.addr)

/-- The most indices and row bytes of a Forme stream (R135). -/
abbrev maxIndices : Nat := 16777215

/-- All tokens of port p that are left. -/
def State.collectAll (s : State) (b i : Nat) (x : Stream) (ok : Tok → Bool) (p : Nat) : Got :=
  s.collect b i x ok ((List.range ((nth ⟨0, 0, 0⟩ x.ins p).count - nth 0 x.inPos p)).map fun k => (p, nth 0 x.inPos p + k)) []

/-- All tokens of every port released. -/
def State.consumeRest (s : State) (b i : Nat) (x : Stream) : State :=
  (List.range x.ins.length).foldl (fun t p => t.consumeN b i p ((nth ⟨0, 0, 0⟩ x.ins p).count - nth 0 x.inPos p)) s

/-! ### Forme (R135) -/

/-- The slot size S of Forme's output: of its queue, or the largest slot where the port is no queue. -/
def State.formeSlot (s : State) (b : Nat) (x : Stream) : Nat :=
  let v := nth ⟨0, 0, 0⟩ x.outs 0
  if v.kind = 1 then 32 * s.get (Cmp.queueSlotb b v.id) else 6144

/-- Output tokens for n index positions of rows of B bytes into slots of S bytes. -/
def formeTokens (n B S : Nat) : Nat := if B ≤ S then ceilDiv n (S / B) else n * ceilDiv B S

/-- Whether some list of lo to hi positions gives count tokens. -/
def formeFits (lo hi B S count : Nat) : Bool :=
  if B ≤ S then decide (formeTokens lo B S ≤ count ∧ count ≤ formeTokens hi B S)
  else let p := ceilDiv B S; count % p == 0 && decide (lo ≤ count / p ∧ count / p ≤ hi)

/-- The launch checks of a Forme stream (R128, R135, R168). -/
def State.formeChecks (s : State) (b : Nat) (x : Stream) : List (Bool × Nat) :=
  match x.descOf b x.p0 with
  | none => [(false, x.recDev b)]
  | some d =>
    let S := s.formeSlot b x
    let rows := (decide (1 ≤ d.rowLen ∧ d.rowLen ≤ 65536) && d.space != 3, d.addr)
    let out := (nth ⟨0, 0, 0⟩ x.outs 0).count
    match x.form with
    | 0 =>
      let c := (nth ⟨0, 0, 0⟩ x.ins 0).count
      let whole := match x.portDesc b (nth ⟨0, 0, 0⟩ x.ins 0) with
        | some t => if x.loop.isNone ∧ c = t.tiles then some t.size else none
        | none => none
      let (lo, hi) := match whole with
        | some n => (n, n)
        | none => ((c - 1) * 1024 + 1, min maxIndices (c * 1024))
      [rows, (decide (lo ≤ maxIndices), x.recDev b), (formeFits lo hi d.rowLen S out, x.recDev b)] ++ x.inFmts b (· == 12)
    | 1 => [rows, (decide ((nth ⟨0, 0, 0⟩ x.ins 0).count ≤ maxIndices), x.recDev b)] ++
        ((x.ins.take 1).filterMap (x.portDesc b)).map fun t =>
          (t.fmt == 12 && t.space != 3 && (x.loop.isSome || decide (t.size ≤ maxIndices)), t.addr)
    | 2 =>
      match x.descOf b x.p1 with
      | none => [(false, x.recDev b)]
      | some t => [rows, (t.fmt == 12 && t.space != 3 && decide (t.size ≤ maxIndices), t.addr), (formeTokens t.size d.rowLen S == out, x.recDev b)]
    | _ => [(d.space != 3 && decide (d.rowLen ≤ 65536), d.addr), s.slotCheck b x 0 d.tileLen]

/-- Row r of a tensor, read by a station. -/
def State.readRow (s : State) (b i : Nat) (d : Desc) (r : Nat) : Peek :=
  s.readTok b i d (d.deviceAddr b (d.base + d.rowOff r)) d.rowLen fun bs => { fmt := d.fmt, count := d.row, bytes := bs }

/-- An index that names no row (R135). -/
def State.badIndex (s : State) (b i : Nat) (d : Desc) (k : Nat) : State := (s.set (Stn.fmBadidx b i) k).stnFault b i d.addr

/-- The rows that some indices name, packed without gaps; skipped ones take no space. -/
def State.readRows (s : State) (b i : Nat) (d : Desc) : List Nat → List Byte → Nat → Got
  | [], acc, n => .toks [{ fmt := d.fmt, count := n, bytes := acc }]
  | k :: rest, acc, n =>
    if k = skipIdx then s.readRows b i d rest acc n
    else if d.rows ≤ k then .bad (s.badIndex b i d k)
    else
      match s.readRow b i d k with
      | .tok t => s.readRows b i d rest (acc ++ t.bytes) (n + 1)
      | .bad t => .bad t
      | .wait => .wait

/-- PIECE of piece j of p (R123). -/
def pieceCode (j p : Nat) : Nat := if j = 0 then 1 else if j + 1 = p then 3 else 2

/-- A Forme token emitted; in a tensor its bytes follow those before (R135). -/
def State.emitForme (s : State) (b i : Nat) (x : Stream) (t : Tok) : Res :=
  let at' := (x.portDesc b (nth ⟨0, 0, 0⟩ x.outs 0)).map fun d => d.base + (nth 0 x.outBytes 0 : Nat)
  (s.emitTok b i 0 t at').map fun u =>
    (if x.outKind = 3 then u else u.onStream b i fun y => { y with outBytes := setNth y.outBytes 0 (nth 0 y.outBytes 0 + t.bytes.length) }).addUnits b i t.bytes.length

/-- The token at output position k for index positions given by idx (position q of the list at idx[q - off]). -/
def State.gatherTok (s : State) (b i : Nat) (x : Stream) (d : Desc) (S k off : Nat) (idx : List Nat) : Res :=
  let B := d.rowLen
  if B ≤ S then
    let r := S / B
    let mine := (idx.drop (k * r - off)).take r
    (s.readRows b i d mine [] 0).andThen fun ts =>
      ((s.bump (Stn.fmSkips b i) (mine.filter (· == skipIdx)).length)).emitForme b i x (nth noTok ts 0)
  else
    let p := ceilDiv B S
    let j := k % p
    let q := nth skipIdx (idx.drop (k / p - off)) 0
    if q = skipIdx then
      (if j = 0 then s.bump (Stn.fmSkips b i) 1 else s).emitForme b i x { fmt := d.fmt, count := 0, piece := pieceCode j p, bytes := [] }
    else
      (s.readRows b i d [q] [] 0).andThen fun ts =>
        let bs := ((nth noTok ts 0).bytes.drop (j * S)).take S
        s.emitForme b i x { fmt := d.fmt, count := ceilDiv bs.length 32, piece := pieceCode j p, bytes := bs }

/-- Index tokens whose positions all lie before position e are released; off positions lie in tokens released before. -/
def State.releaseIdx (s : State) (b i e : Nat) : List Tok → Nat → State
  | [], off => s.onStream b i fun y => { y with fold := [off] }
  | t :: rest, off =>
    if off + t.count ≤ e then (s.consume b i 0).releaseIdx b i e rest (off + t.count)
    else s.onStream b i fun y => { y with fold := [off] }

/-- The index position after the last that output token k depends on. -/
def idxEnd (B S k : Nat) : Nat :=
  if B ≤ S then (k + 1) * (S / B) else if (k + 1) % ceilDiv B S = 0 then (k + 1) / ceilDiv B S else k / ceilDiv B S

/-- The first index position that output token k depends on. -/
def idxStart (B S k : Nat) : Nat := if B ≤ S then k * (S / B) else k / ceilDiv B S

/-- The index tokens that are left after the last output token: they may hold no position that asks for another output token, else the
declared count is not that of the list and the stream is refused (R128, R135). -/
def State.gatherRest (s : State) (b i : Nat) (x : Stream) (covered : Nat) : Res :=
  (s.collect b i x (fun t => t.fmt == 12) [(0, nth 0 x.inPos 0)] []).andThen fun ts =>
    if covered < nth 0 x.fold 0 + (nth noTok ts 0).count then .stop (s.stnRefuse b i (x.recDev b)) else .ok (s.consume b i 0)

/-- One output token of GATHER. A list that ends before the position that the token needs has another token count than declared
(R128, R135). -/
def State.gatherWork (b i : Nat) (s : State) (x : Stream) : Res :=
  match x.descOf b x.p0 with
  | none => .stop s
  | some d =>
    let S := s.formeSlot b x
    let k := nth 0 x.outPos 0
    let off := nth 0 x.fold 0
    let v := nth ⟨0, 0, 0⟩ x.ins 0
    let need := (if d.rowLen ≤ S then (k + 1) * (S / d.rowLen) else k / ceilDiv d.rowLen S + 1) - off
    if (nth ⟨0, 0, 0⟩ x.outs 0).count ≤ k then
      if nth 0 x.inPos 0 < v.count then s.gatherRest b i x (idxEnd d.rowLen S (k - 1)) else .wait
    else if !s.space b x 0 then .wait
    else
      (s.collectUntil b i x (fun t => t.fmt == 12) (·.count) 0 need (v.count - nth 0 x.inPos 0) (nth 0 x.inPos 0) []).andThen fun ts =>
        let total := off + (ts.map (·.count)).sum
        if total ≤ idxStart d.rowLen S k ∨ maxIndices < total then .stop (s.stnRefuse b i (x.recDev b)) else
        (s.gatherTok b i x d S k off ((ts.map tokIdx).flatten)).map fun u => u.releaseIdx b i (idxEnd d.rowLen S k) ts off

/-- One output token of PERMUTE: the table's entries are the indices. -/
def State.permuteWork (b i : Nat) (s : State) (x : Stream) : Res :=
  match x.descOf b x.p0, x.descOf b x.p1 with
  | some d, some t =>
    let S := s.formeSlot b x
    let k := nth 0 x.outPos 0
    if !s.space b x 0 || decide ((nth ⟨0, 0, 0⟩ x.outs 0).count ≤ k) then .wait
    else
      let first := if d.rowLen ≤ S then k * (S / d.rowLen) else k / ceilDiv d.rowLen S
      let n := min (if d.rowLen ≤ S then S / d.rowLen else 1) (t.size - first)
      let places := (List.range n).map fun q => let e := t.elemPlace (first + q); t.deviceAddr b (e.1 + (4 * e.2 : Nat))
      match places.findSome? fun a => if !s.mayRead b t a 4 then some (s.stnFault b i (s.faultPlace t.addr a 4)) else (s.readErr a 4).map (s.stnUncorr b i) with
      | some u => .stop u
      | none => s.gatherTok b i x d S k first (places.map fun a => s.rdNat a 4)
  | _, _ => .stop s

/-- One output tile of STRIDED: the next tile of the source. -/
def State.stridedWork (b i : Nat) (s : State) (x : Stream) : Res :=
  match x.descOf b x.p0 with
  | none => .stop s
  | some d =>
    if !s.space b x 0 || decide ((nth ⟨0, 0, 0⟩ x.outs 0).count ≤ nth 0 x.outPos 0) then .wait
    else
      match s.peekTensor b i 15 (nth 0 x.outPos 0) { x with loop := none } d with
      | .wait => .wait
      | .bad t => .stop t
      | .tok t => (s.emitTok b i 0 t none).map fun u => u.addUnits b i t.bytes.length

/-- Row tokens wholly used are released: used bytes lie before the next row. -/
def State.releaseRows (s : State) (b i : Nat) : List Tok → Nat → Nat × State
  | [], used => (used, s)
  | t :: rest, used => if t.bytes.length ≤ used then (s.consume b i 1).releaseRows b i rest (used - t.bytes.length) else (used, s)

/-- One index of SCATTER: its row, taken from the row stream, is written; a skipped index takes none (R135). fold holds the
place in the index token and the bytes of the row stream's head already used. -/
def State.scatterWork (b i : Nat) (s : State) (x : Stream) : Res :=
  match x.descOf b x.p0 with
  | none => .stop s
  | some d =>
    if (nth ⟨0, 0, 0⟩ x.ins 0).count ≤ nth 0 x.inPos 0 then
      if nth 0 x.inPos 1 < (nth ⟨0, 0, 0⟩ x.ins 1).count then .ok (s.consume b i 1) else .wait
    else
      (s.collect b i x (fun t => t.fmt == 12) [(0, nth 0 x.inPos 0)] []).andThen fun ts =>
        let t := nth noTok ts 0
        let j := nth 0 x.fold 0
        let used := nth 0 x.fold 1
        let step (u : State) (used : Nat) : State :=
          if t.count ≤ j + 1 then (u.onStream b i fun y => { y with fold := [0, used] }).consume b i 0
          else u.onStream b i fun y => { y with fold := [j + 1, used] }
        if t.count = 0 then .ok (s.consume b i 0)
        else
          let k := nth skipIdx (tokIdx t) j
          if k = skipIdx then .ok (step (s.bump (Stn.fmSkips b i) 1) used)
          else if d.rows ≤ k then .stop (s.badIndex b i d k)
          else
            (s.collectUntil b i x (fun _ => true) (·.bytes.length) 1 (used + d.rowLen)
              ((nth ⟨0, 0, 0⟩ x.ins 1).count - nth 0 x.inPos 1) (nth 0 x.inPos 1) []).andThen fun rs =>
              let bs := ((rs.map (·.bytes)).flatten.drop used).take d.rowLen
              if bs.length < d.rowLen then .stop (s.stnRefuse b i (x.recDev b))
              else
                (s.stnWrite b i (d.deviceAddr b (d.base + d.rowOff k)) bs false).map fun u =>
                  let r := u.releaseRows b i rs (used + d.rowLen)
                  (step r.2 r.1).addUnits b i d.rowLen

/-- One position of a Forme stream. -/
def State.formeWork (b i form : Nat) (s : State) (x : Stream) : Res :=
  match form with
  | 0 => s.gatherWork b i x
  | 1 => s.scatterWork b i x
  | 2 => s.permuteWork b i x
  | _ => s.stridedWork b i x

/-! ### Hardy (R88, R90, R136) -/

/-- The formats of Hardy, and of Galley's keys (R79). -/
def isKeyFmt (f : Nat) : Bool := decide (f ≤ 2) || f == 9 || f == 11 || f == 12

/-- Whether a SELECT stream writes a mask stream, for which the record has no bit (log entry 14): a tensor or channel that is no UINT32
list takes masks; so does a queue whose slots hold no list token or whose stream has no list's count. -/
def State.masks (s : State) (b : Nat) (x : Stream) : Bool :=
  let v := nth ⟨0, 0, 0⟩ x.outs 0
  match v.kind with
  | 1 => v.count != ceilDiv x.p0 1024 || decide (32 * s.get (Cmp.queueSlotb b v.id) < 4 * min 1024 x.p0)
  | 2 => ((x.portDesc b v).map (·.fmt)) != some 12
  | _ => ((s.chanOfBench b v.id).map (·.fmt)) != some 12

/-- Whether SELECT's constant is one of a format: its other bits are reserved (R168); without a constant all of P2 is. -/
def constFits (x : Stream) (fmt : Nat) : Bool := if bitAt x.p1 3 then decide (x.p2 < 2 ^ elemWidth fmt) else x.p2 == 0

/-- The launch checks of a Hardy stream (R128, R136, R168). -/
def State.hardyChecks (s : State) (b : Nat) (x : Stream) : List (Bool × Nat) :=
  let a := x.recDev b
  let out := (nth ⟨0, 0, 0⟩ x.outs 0).count
  let sizes := (x.ins.filterMap (x.portDesc b)).map fun d => (decide (d.size ≤ 16777215), d.addr)
  if x.form = 0 then
    [(decide (1 ≤ x.p0 ∧ x.p0 ≤ 1048576) && decide (x.p1 % 8 ≤ 5) && (x.ins.length == if bitAt x.p1 3 then 1 else 2), a),
      (bitAt x.p1 3 || x.p2 == 0, a), (out == if s.masks b x then (nth ⟨0, 0, 0⟩ x.ins 0).count else ceilDiv x.p0 1024, a),
      (x.ins.all fun v => v.count == (nth ⟨0, 0, 0⟩ x.ins 0).count, a), s.slotCheck b x 0 (if s.masks b x then 128 else 4 * min 1024 x.p0)] ++
      ((x.ins.take 1).filterMap (x.portDesc b)).map (fun d => (constFits x d.fmt, a)) ++ x.inFmts b isKeyFmt
  else
    [(decide (1 ≤ x.p0 ∧ x.p0 ≤ 65536) && out == ceilDiv x.p0 1024, a), s.slotCheck b x 0 (4 * min 1024 x.p0)] ++ sizes ++ x.inFmts b isKeyFmt

/-- The (format, code) of every element of some tokens. -/
def tokCodes (ts : List Tok) : List (Nat × Nat) := (ts.map fun t => (tileCodes t.fmt t.count t.bytes).map fun c => (t.fmt, c)).flatten

/-- The value of an element code. -/
def codeVal (e : Nat × Nat) : Val := decodeElem e.1 0 e.2

/-- Which elements SELECT selects. -/
def selectBits (x : Stream) (a c : List (Nat × Nat)) : List Bool :=
  if bitAt x.p1 3 then a.map fun e => Val.cmp (x.p1 % 8) (codeVal e) (decodeElem e.1 0 x.p2)
  else (a.zip c).map fun e => Val.cmp (x.p1 % 8) (codeVal e.1) (codeVal e.2)

/-- The positions at which a list holds true. -/
def trueAt (l : List Bool) : List Nat := ((l.zip (List.range l.length)).filter (·.1)).map (·.2)

/-- Token k of an index list padded to cap entries. -/
def listTok (idx : List Nat) (cap k : Nat) : Tok :=
  let l := ((idx ++ List.replicate (cap - idx.length) skipIdx).drop (1024 * k)).take (min 1024 (cap - 1024 * k))
  { fmt := 12, count := l.length, bytes := (l.map (leBytes 4)).flatten }

/-- The end of a stream that holds its inputs to the end: on its last output token every input is released and the counters follow. -/
def State.lastOut (s : State) (b i : Nat) (x : Stream) (units : Nat) (f : State → State) : State :=
  if nth 0 x.outPos 0 + 1 = (nth ⟨0, 0, 0⟩ x.outs 0).count then (f (s.consumeRest b i x)).addUnits b i units else s

/-- An element that TOPK or SELECT keeps: its index, format and code, as one number of the stream's state. -/
def keptOf (idx : Nat) (e : Nat × Nat) : Nat := e.2 + 2 ^ 32 * (e.1 + 32 * idx)

/-- Its index. -/
def keptIdx (n : Nat) : Nat := n / 2 ^ 37

/-- Its order key (R90). -/
def keptKey (n : Nat) : Nat := orderKey (n / 2 ^ 32 % 32) (n % 2 ^ 32)

/-- The k elements that TOPK keeps of some: the largest or smallest keys, lower indices first among equals. -/
def topKept (desc : Bool) (k : Nat) (l : List Nat) : List Nat :=
  let before (p q : Nat) : Bool :=
    if keptKey p = keptKey q then decide (keptIdx p ≤ keptIdx q) else if desc then decide (keptKey q < keptKey p) else decide (keptKey p < keptKey q)
  (l.mergeSort before).take k

/-- The indices that a list stream has kept, ascending. -/
def keptIndices (l : List Nat) : List Nat := (l.map keptIdx).mergeSort (· ≤ ·)

/-- The elements of a token numbered from e on. -/
def keptToks (e : Nat) (t : Tok) : List Nat :=
  let cs := tokCodes [t]
  (cs.zip (List.range cs.length)).map fun c => keptOf (e + c.2) c.1

/-- The next token of every input of a Hardy stream, of formats that it takes. -/
def State.nextKeys (s : State) (b i : Nat) (x : Stream) : Got :=
  s.collect b i x (fun t => isKeyFmt t.fmt) ((List.range x.ins.length).map fun p => (p, nth 0 x.inPos p)) []

/-- NAN_IN and INF_IN of the tokens of a step (R91). -/
def State.countToks (s : State) (b i : Nat) (ts : List Tok) : State :=
  ts.foldl (fun u t => u.countIn b i t.fmt ((tokCodes [t]).map codeVal)) s

/-- One token of every input folded into a list stream's state and released (R127): entry 0 counts elements, entry 1 those found, the rest
are kept. -/
def State.foldList (s : State) (b i : Nat) (x : Stream) (ts : List Tok) (fold : List Nat) : Res :=
  .ok ((((s.countToks b i ts).onStream b i fun y => { y with fold := fold }).consumeAll b i x).addUnits b i ((ts.map (·.count)).headD 0))

/-- One output token of a list stream whose inputs are all folded; the counters follow the last (R136, R146). -/
def State.emitList (s : State) (b i : Nat) (x : Stream) (cap : Nat) : Res :=
  let k := nth 0 x.outPos 0
  let idx := keptIndices (x.fold.drop 2)
  if !s.space b x 0 || decide ((nth ⟨0, 0, 0⟩ x.outs 0).count ≤ k) then .wait
  else
    (s.emitTok b i 0 (listTok idx cap k) none).map fun u =>
      if k + 1 = (nth ⟨0, 0, 0⟩ x.outs 0).count then (u.bump (Stn.hdSelected b i) idx.length).bump (Stn.hdDropped b i) (nth 0 x.fold 1 - idx.length)
      else u

/-- Whether an input of a stream has tokens left. -/
def Stream.hasInput (x : Stream) : Bool := x.openPort.isSome

/-- One step of SELECT. A list stream folds its inputs token by token and then emits (R125, R136; log entry 14); a mask stream emits one
mask token, of one bit per element, for each token of its inputs. -/
def State.selectWork (b i : Nat) (s : State) (x : Stream) : Res :=
  if s.masks b x then
    if !s.space b x 0 || !x.hasInput then .wait
    else
      (s.nextKeys b i x).andThen fun ts =>
        let t := nth noTok ts 0
        if !constFits x t.fmt ∨ (x.ins.length = 2 ∧ (nth noTok ts 1).count ≠ t.count) then .stop (s.stnRefuse b i t.addr)
        else
          let sel := selectBits x (tokCodes [t]) (tokCodes (ts.drop 1))
          let m := (sel.zip (List.range sel.length)).map fun e => if e.1 then 2 ^ e.2 else 0
          let n := ceilDiv t.count 8
          ((s.countToks b i ts).emitTok b i 0 { fmt := 9, count := n, bytes := leBytes n m.sum } none).map fun u =>
            (u.consumeAll b i x).addUnits b i t.count
  else if x.hasInput then
    (s.nextKeys b i x).andThen fun ts =>
      let t := nth noTok ts 0
      if !constFits x t.fmt ∨ (x.ins.length = 2 ∧ (nth noTok ts 1).count ≠ t.count) then .stop (s.stnRefuse b i t.addr)
      else
        let hits := trueAt (selectBits x (tokCodes [t]) (tokCodes (ts.drop 1)))
        let e := nth 0 x.fold 0
        let kept := ((x.fold.drop 2) ++ hits.map fun j => keptOf (e + j) (0, 0)).take x.p0
        s.foldList b i x ts ([e + t.count, nth 0 x.fold 1 + hits.length] ++ kept)
  else s.emitList b i x x.p0

/-- One step of TOPK: each input token is folded and released, then the list is emitted (R127, R136). -/
def State.topkWork (b i : Nat) (s : State) (x : Stream) : Res :=
  if x.hasInput then
    (s.nextKeys b i x).andThen fun ts =>
      let t := nth noTok ts 0
      let e := nth 0 x.fold 0
      if maxIndices < e + t.count then .stop (s.stnRefuse b i (x.recDev b))
      else
        let kept := topKept x.desc x.p0 (x.fold.drop 2 ++ keptToks e t)
        s.foldList b i x ts ([e + t.count, kept.length] ++ kept)
  else s.emitList b i x x.p0

/-! ### Galley (R90, R137) -/

/-- Bytes of a payload (R168). -/
def payBytes (x : Stream) : Nat := nth 0 [0, 4, 8, 16] (x.p0 % 4)

/-- The ports of a Galley stream that bring keys: with payloads every other one (log entry 14). -/
def Stream.keyPorts (x : Stream) : List Nat := (List.range x.ins.length).filter fun p => payBytes x == 0 || p % 2 == 0

/-- The lengths of the runs at key port p of MERGE: a tensor moved row by row holds one run in each row, any other port one run, of which
none gives the length (log entry 14). -/
def Stream.runRows (x : Stream) (b p : Nat) : List (Option Nat) :=
  match x.portDesc b (nth ⟨0, 0, 0⟩ x.ins p) with
  | some d => if x.loop.isNone then List.replicate d.rows (some d.row) else [none]
  | none => [none]

/-- The launch checks of a Galley stream: with payloads the ports come in pairs of keys and payloads; MERGE takes 2 to 16 runs (R137; log
entry 14). -/
def State.galleyChecks (_s : State) (b : Nat) (x : Stream) : List (Bool × Nat) :=
  let pay := payBytes x != 0
  let runs := ((x.keyPorts.map (x.runRows b)).flatten).length
  let shape := if x.form = 0 then x.ins.length == (if pay then 2 else 1) else (!pay || x.ins.length % 2 == 0) && decide (2 ≤ runs ∧ runs ≤ 16)
  let keys := x.keyPorts.filterMap fun p => x.portDesc b (nth ⟨0, 0, 0⟩ x.ins p)
  [(shape && x.outs.length == (if pay then 2 else 1), x.recDev b)] ++
    (keys.map fun d => (isKeyFmt d.fmt && d.space != 3 && decide (d.size ≤ 1048576 ∨ x.form = 1), d.addr))

/-- One keyed element: its order key, code, run, position and payload. -/
structure Keyed where
  key  : Nat
  fmt  : Nat
  code : Nat
  run  : Nat
  pos  : Nat
  pay  : List Byte
  deriving DecidableEq, Repr

/-- The keyed elements of a run. -/
def keyedRun (run size : Nat) (keys pays : List Tok) : List Keyed :=
  let pb := (pays.map (·.bytes)).flatten
  let cs := tokCodes keys
  (cs.zip (List.range cs.length)).map fun e => ⟨orderKey e.1.1 e.1.2, e.1.1, e.1.2, run, e.2, (pb.drop (size * e.2)).take size⟩

/-- The order of a Galley stream, with equal keys in the order of run and position. -/
def keyedLe (desc : Bool) (p q : Keyed) : Bool :=
  if p.key = q.key then decide (p.run < q.run ∨ (p.run = q.run ∧ p.pos ≤ q.pos)) else if desc then decide (q.key < p.key) else decide (p.key < q.key)

/-- The first place at which a run is out of order (R137). -/
def unsortedAt (desc : Bool) : List Keyed → Option Keyed
  | p :: q :: rest => if (if desc then decide (p.key < q.key) else decide (q.key < p.key)) then some q else unsortedAt desc (q :: rest)
  | _ => none

/-- Key token k of sorted elements: tiles of 1,024 keys. -/
def keyTok (l : List Keyed) (k : Nat) : Tok :=
  let t := (l.drop (1024 * k)).take 1024
  let f := ((t.head?).map (·.fmt)).getD 0
  { fmt := f, count := t.length, bytes := leBytes (ceilDiv (t.length * elemWidth f) 8) (packCodes (elemWidth f) (t.map (·.code))) }

/-- Payload token k: tiles of the payload's format. -/
def payTok (fmt : Nat) (l : List Keyed) (k : Nat) : Tok :=
  let bs := (l.map (·.pay)).flatten
  let n := if fmt ≤ 12 then tileBytes fmt else 4096
  let t := (bs.drop (n * k)).take n
  { fmt := fmt, count := min 1024 (elemsOf fmt t.length), bytes := t }

/-- Passes of a sort of n keys (R137). -/
def sortPasses (n : Nat) : Nat := if n ≤ 1024 then 1 else 1 + Nat.clog 16 (ceilDiv n 1024)

/-- Runs in the last merge pass of a sort of n keys. -/
def lastWays (n : Nat) : Nat := if n ≤ 1024 then 0 else ceilDiv (ceilDiv n 1024) (16 ^ (sortPasses n - 2))

/-- The keyed elements of a port cut into its runs, numbered from r on. -/
def cutRuns : Nat → List (Option Nat) → List Keyed → List (List Keyed)
  | _, [], _ => []
  | r, none :: _, l => [l.map fun e => { e with run := r }]
  | r, some n :: rest, l =>
    (((l.take n).zip (List.range n)).map fun e => { e.1 with run := r, pos := e.2 }) :: cutRuns (r + 1) rest (l.drop n)

/-- The runs of a Galley stream, as lists of keyed elements. -/
def State.galleyRuns (s : State) (b i : Nat) (x : Stream) (pay : Bool) : List Nat → List (List Keyed) → Nat → Option Res × List (List Keyed) × Nat
  | [], acc, f => (none, acc, f)
  | p :: rest, acc, f =>
    match s.collectAll b i x (fun t => isKeyFmt t.fmt) p with
    | .wait => (some .wait, acc, f)
    | .bad t => (some (.stop t), acc, f)
    | .toks ks =>
      match (if pay then s.collectAll b i x (fun _ => true) (p + 1) else .toks []) with
      | .wait => (some .wait, acc, f)
      | .bad t => (some (.stop t), acc, f)
      | .toks ps =>
        let l := keyedRun acc.length (payBytes x) ks ps
        let runs := if x.form = 1 then cutRuns acc.length (x.runRows b p) l else [l]
        s.galleyRuns b i x pay rest (acc ++ runs) (if pay then (nth noTok ps 0).fmt else f)

/-- The output port that emits next: the one with the fewest tokens emitted, keys first, among those not complete. -/
def Stream.nextOut (x : Stream) : Option Nat :=
  let open' (p : Nat) : Bool := decide (nth 0 x.outPos p < (nth ⟨0, 0, 0⟩ x.outs p).count)
  if open' 0 ∧ (¬ (x.outs.length = 2 ∧ open' 1) ∨ nth 0 x.outPos 0 ≤ nth 0 x.outPos 1) then some 0
  else if x.outs.length = 2 ∧ open' 1 then some 1 else none

/-- Tokens that an output port of a Galley stream has for n keys. -/
def galleyCount (x : Stream) (fmt n p : Nat) : Nat :=
  if p = 0 then ceilDiv n 1024 else ceilDiv (n * payBytes x) (if fmt ≤ 12 then tileBytes fmt else 4096)

/-- One output token of SORT or MERGE. -/
def State.galleyWork (b i form : Nat) (s : State) (x : Stream) : Res :=
  let pay := payBytes x != 0
  match x.nextOut with
  | none => .wait
  | some p =>
    if !s.space b x p then .wait
    else
      match s.galleyRuns b i x pay x.keyPorts [] 0 with
      | (some r, _, _) => r
      | (none, runs, fmt) =>
        let n := (runs.map List.length).sum
        match (if form = 1 then runs.findSome? (unsortedAt x.desc) else none) with
        | some e => .stop (s.stnSequence b i [(e.run, 4), (e.pos, 24)])
        | none =>
          if (form = 0 ∧ 1048576 < n) ∨ (List.range x.outs.length).any fun q => (nth ⟨0, 0, 0⟩ x.outs q).count != galleyCount x fmt n q then
            .stop (s.stnRefuse b i (x.recDev b))
          else
            let l := runs.flatten.mergeSort (keyedLe x.desc)
            let k := nth 0 x.outPos p
            let ways := if form = 1 then runs.length else lastWays n
            (s.emitTok b i p (if p = 0 then keyTok l k else payTok fmt l k) none).map fun u =>
              let left := ((List.range x.outs.length).map fun q => (nth ⟨0, 0, 0⟩ x.outs q).count - nth 0 x.outPos q).sum
              if left = 1 then
                let codes := l.map fun e => (e.fmt, e.code)
                let u := u.countIn b i ((codes.map (·.1)).headD 0) (codes.map codeVal)
                (((u.consumeRest b i x).set (Stn.galWays b i) 0).bump (Stn.galPasses b i) (if form = 1 then 1 else sortPasses n)).addUnits b i
                  (n * if form = 1 then 1 else sortPasses n)
              else u.set (Stn.galWays b i) ways

end Sys2Proof.Machine
end

