-- ==== Sys2Proof/Machine/Products.lean ====
section
/-! DEFINITION. Platen and Proof: exact products and multiset digests (R76, R138, R139). -/

namespace Sys2Proof.Machine

open Sys2Proof

/-! ### Platen (R76, R138) -/

/-- The formats of Platen (R79). -/
def isPlatenFmt (f : Nat) : Bool := isMaxFmt f || f == 9 || f == 10

/-- Elements of a tensor bound to a port, when its tiles are moved in order. -/
def Stream.portSize (x : Stream) (b p : Nat) : Option Nat := (x.portDesc b (nth ⟨0, 0, 0⟩ x.ins p)).map Desc.size

/-- The launch checks of a Platen stream (R128, R138). -/
def State.platenChecks (_s : State) (b : Nat) (x : Stream) : List (Bool × Nat) :=
  let a := x.recDev b
  let out := (nth ⟨0, 0, 0⟩ x.outs 0).count
  if x.form = 0 then
    match x.descOf b x.p0 with
    | none => [(false, a)]
    | some d => [(isPlatenFmt d.fmt && d.space != 3 && decide (d.rows ≤ 65536 ∧ d.row ≤ 4096), d.addr), (out == d.rows && x.outKind == 1, a)] ++
        x.inFmts b isPlatenFmt
  else
    [((x.portSize b 0).all (· ≤ 65536) && (x.portSize b 1).all (· ≤ 4096) && x.outKind == 1, a)] ++ x.inFmts b isPlatenFmt

/-- Whether a format is an integer format of Platen. -/
def isIntFmt (f : Nat) : Bool := f == 9 || f == 10

/-- The exact dot product of two vectors (R76), with whether an operation in it is invalid (R87). The sum starts with the first product, so
that a sum of -0 products is -0. -/
def dotVals (a c : List Val) : Val × Bool :=
  match (a.zip c).map fun e => Val.mul e.1 e.2 with
  | [] => (.fin false 0 0, false)
  | p :: rest => rest.foldl (fun acc e => let r := Val.add false acc.1 e.1; (r.1, acc.2 || e.2 || r.2)) p

/-- An integer sum saturated to INT32, and whether that changed it (R76). -/
def satInt32 (v : Val) : Val × Bool :=
  let n := v.units 0
  if 2 ^ 31 ≤ n then (.ofInt (2 ^ 31 - 1), true) else if n < -(2 ^ 31) then (.ofInt (-(2 ^ 31)), true) else (v, false)

/-- The values of row r of a matrix. -/
def State.matrixRow (s : State) (b : Nat) (d : Desc) (r : Nat) : List Val :=
  ((List.range d.rowTiles).map fun j =>
    match d.tile (r * d.rowTiles + j) with
    | some g => tileVals d.fmt g.elems (s.rdBytes (d.deviceAddr b g.addr) (d.bytesOf g.elems))
    | none => []).flatten

/-- One row of MATVEC: its exact dot product with the whole vector. Platen's results have no destination format: INVALID counts under the
matrix's (R92; log entry 14). -/
def State.matvecWork (b i : Nat) (s : State) (x : Stream) : Res :=
  match x.descOf b x.p0 with
  | none => .stop s
  | some d =>
    let k := nth 0 x.outPos 0
    if !s.space b x 0 || decide ((nth ⟨0, 0, 0⟩ x.outs 0).count ≤ k) then .wait
    else
      (s.collectAll b i x (fun t => isPlatenFmt t.fmt) 0).andThen fun ts =>
        let f := (nth noTok ts 0).fmt
        let v := (ts.map fun t => tileVals t.fmt t.count t.bytes).flatten
        let a := d.deviceAddr b (d.base + d.rowOff k)
        if v.length ≠ d.row then .stop (s.stnRefuse b i d.addr)
        else if !s.mayRead b d a d.rowLen then .stop (s.stnFault b i (s.faultPlace d.addr a d.rowLen))
        else
          match s.readErr a d.rowLen with
          | some e => .stop (s.stnUncorr b i e)
          | none =>
            let row := s.matrixRow b d k
            let (sum, bad) := dotVals row v
            let ints := isIntFmt f && isIntFmt d.fmt
            let (sum, sat) := if ints then satInt32 sum else (sum, false)
            let s := (((s.countKind b i 11 3 (b2n sat)).countKind b i d.fmt 5 (b2n bad)).countIn b i d.fmt row).set (Stn.plFmtX b i) f
            (s.emitTok b i 0 { fmt := exactFmt, count := 1, bytes := exactBytes (exactOf sum) } none).map fun u =>
              (u.lastOut b i x 0 fun w => w.countIn b i f v).addUnits b i (2 * d.row)

/-- One output tile of OUTER: products of one element of the row vector with a tile of the column vector. -/
def State.outerWork (b i : Nat) (s : State) (x : Stream) : Res :=
  let k := nth 0 x.outPos 0
  if !s.space b x 0 || decide ((nth ⟨0, 0, 0⟩ x.outs 0).count ≤ k) then .wait
  else
    (s.collectAll b i x (fun t => isPlatenFmt t.fmt) 0).andThen fun ts =>
      (s.collectAll b i x (fun t => isPlatenFmt t.fmt) 1).andThen fun us =>
        let r := (ts.map fun t => tileVals t.fmt t.count t.bytes).flatten
        let c := (us.map fun t => tileVals t.fmt t.count t.bytes).flatten
        let tiles := ceilDiv c.length 1024
        if (nth ⟨0, 0, 0⟩ x.outs 0).count ≠ r.length * tiles ∨ 65536 < r.length ∨ 4096 < c.length then .stop (s.stnRefuse b i (x.recDev b))
        else
          let e := nth (.fin false 0 0) r (k / tiles)
          let rs := ((c.drop (1024 * (k % tiles))).take 1024).map fun v => Val.mul e v
          let ps := rs.map (·.1)
          let s := s.countKind b i (nth noTok ts 0).fmt 5 (rs.filter (·.2)).length
          let s := (s.set (Stn.plFmtA b i) (nth noTok ts 0).fmt).set (Stn.plFmtX b i) (nth noTok us 0).fmt
          (s.emitTok b i 0 { fmt := exactFmt, count := ps.length, bytes := (ps.map fun v => exactBytes (exactOf v)).flatten } none).map fun u =>
            (u.lastOut b i x 0 fun w => (w.countIn b i (nth noTok ts 0).fmt r).countIn b i (nth noTok us 0).fmt c).addUnits b i ps.length

/-- One position of a Platen stream. -/
def State.platenWork (b i form : Nat) (s : State) (x : Stream) : Res :=
  match form with
  | 0 => s.matvecWork b i x
  | _ => s.outerWork b i x

/-! ### Proof (R139) -/

/-- The launch checks of a Proof stream: packets come from a slice channel, tiles do not need to; one digest leaves. -/
def State.proofChecks (s : State) (b : Nat) (x : Stream) : List (Bool × Nat) :=
  [((nth ⟨0, 0, 0⟩ x.outs 0).count == 1 && (x.form == 1 || (nth ⟨0, 0, 0⟩ x.ins 0).kind == 3), x.recDev b), s.slotCheck b x 0 16] ++
    x.inFmts b fun _ => true

/-- The label of token j of a DIGEST_TILE stream (R139). -/
def tileLabel (x : Stream) (fmt j : Nat) : List Byte :=
  leBytes 16 (packDetail [(x.p0, 24), (fmt, 5), (0, 3), ((x.p1 + j * x.p2) % 2 ^ 32, 32),
    (if bitAt x.p3 0 then x.startStep - 1 else x.startStep, 64)])

/-- One item folded; at the last token the digest is written (R127, R139). -/
def State.proofWork (b i form : Nat) (s : State) (x : Stream) : Res :=
  let j := nth 0 x.inPos 0
  let last := decide ((nth ⟨0, 0, 0⟩ x.ins 0).count ≤ j + 1)
  if last && !s.space b x 0 then .wait
  else
    (s.collect b i x (fun _ => true) [(0, j)] []).andThen fun ts =>
      let t := nth noTok ts 0
      let item := if form = 0 then t.bytes else tileLabel x t.fmt j ++ t.bytes
      let n := (s.get (Stn.prfDigestLo b i) + s.get (Stn.prfDigestHi b i) * 2 ^ 64 + itemDigest item) % 2 ^ 128
      let s := (s.setAll [(Stn.prfDigestLo b i, n % 2 ^ 64), (Stn.prfDigestHi b i, n / 2 ^ 64)]).bump (Stn.prfItems b i) 1
      let s := s.addUnits b i (128 * ceilDiv (item.length + 17) 128)
      (if last then
        s.emitTok b i 0 { fmt := 9, count := 16, bytes := leBytes 16 n } ((x.portDesc b (nth ⟨0, 0, 0⟩ x.outs 0)).map (·.base))
      else Res.ok s).map fun u => u.consume b i 0

end Sys2Proof.Machine
end

