-- ==== Sys2Proof/Machine/Impress.lean ====
section
/-! DEFINITION. State tiles, their digests, and the claiming of buckets by an impression (R202, R253, R349-R352). -/

namespace Sys2Proof.Machine

open Sys2Proof

/-- The planes of a state tile as (number, format code, offset, bytes), by the tile's size (R202, R253). A tile of two FP32
planes fewer than AdamW's holds M. -/
def planes (tileBytes : Nat) : List (Nat × Nat × Nat × Nat) :=
  [(0, 3, 0, 4096), (1, 3, 4096, 2048)] ++ (if 10240 ≤ tileBytes then [(2, 0, 6144, 4096)] else []) ++
    (if 14336 ≤ tileBytes then [(3, 0, 10240, 4096)] else [])

/-- The multiset digest of a segment's planes (R253). -/
def segDigest (bucket step : Nat) (g : Segment) (data : List Byte) : Nat :=
  ((List.range g.tiles).map fun i =>
    ((planes g.tileBytes).map fun (n, f, o, len) =>
      itemDigest (leBytes 16 (packDetail [(bucket, 24), (f, 5), (0, 3), ((4 * (g.firstTile + i) + n) % 2 ^ 32, 32), (step, 64)]) ++
        (data.drop (g.tileBytes * i + o)).take len)).sum).sum % 2 ^ 128

/-- The segment record of a group segment as memory holds it now (R350). -/
def State.segRecord (s : State) (k : Bucket) (step : Nat) (g : Segment) : SegRec :=
  let data := s.rdBytes g.base (g.tiles * g.tileBytes)
  { bucket := k.id, group := g.group, role := if k.owned then 0 else 1, firstTile := g.firstTile, tileBytes := g.tileBytes
    data := data, stats := s.rdBytes g.stats g.statsBytes, digest := segDigest k.id step g data }

/-- The digest of a bucket: the sum of its segments' (R350). -/
def State.bucketDigest (s : State) (k : Bucket) (step : Nat) : Nat :=
  ((k.segments.map fun g => (s.segRecord k step g).digest).sum) % 2 ^ 128

/-- Bytes of a segment record on flash, from its 16 KiB boundary (R349). -/
def SegRec.flashBytes (r : SegRec) : Nat := roundUp (64 + r.data.length + r.stats.length) 16384

/-- Whether an impression being written is to hold a bucket and has not claimed it. -/
def State.unclaimed (s : State) (k : Bucket) : Bool :=
  match s.impWrite with
  | some w => w.plan.any (fun e => e.1 == k.id) && !(w.claimed.any fun e => e.1 == k.id)
  | none => false

/-- Whether Temper's use of a bucket in a step forwards its old state: the state that the impression being written holds is that of the step
before (R26). A REPLAY of the impression's own step, or a late UPDATE of it, finds an older state. -/
def State.forwards (s : State) (step : Nat) : Bool := s.impWrite.any fun w => w.imp.step + 1 == step

/-- A bucket claimed whole and its segments written to flash (R352). -/
def State.claim (s : State) (k : Bucket) : State :=
  match s.impWrite with
  | some w =>
    if s.unclaimed k then
      let role := Tab.get w.plan 0 k.id
      let rs := k.segments.map fun g => { s.segRecord k w.imp.step g with role := role }
      ({ s with impWrite := some { w with
          claimed := w.claimed ++ [(k.id, role)]
          imp := { w.imp with segs := w.imp.segs ++ rs } } }).bump Imp.bytesWritten ((rs.map SegRec.flashBytes).sum)
    else s
  | none => s

end Sys2Proof.Machine
end

