-- ==== Sys2Proof/Machine/Temper.lean ====
section
/-! DEFINITION. Temper: parameter groups, schedules and step constants, microprograms, UPDATE and REPLAY (R202-R222). -/

namespace Sys2Proof.Machine

open Sys2Proof

/-! ### Group records (R205) -/

/-- The group record of a number. -/
def State.groupRec (s : State) (g : Nat) : Nat := s.rdNat (s.get Upd.gtBase + 64 * g) 64

/-- UPROG. -/
def grUprog (w : Nat) : Nat := bits w 8 8
/-- CLIP_IN. -/
def grClipIn (w : Nat) : Bool := bitAt w 16
/-- MOMENTUM. -/
def grMomentum (w : Nat) : Bool := bitAt w 17
/-- MASK_EN. -/
def grMaskEn (w : Nat) : Bool := bitAt w 18
/-- ROWLEN. -/
def grRowlen (w : Nat) : Nat := bits w 32 24
/-- S0. -/
def grS0 (w : Nat) : Nat := bits w 64 64
/-- CURVE. -/
def grCurve (w : Nat) : Nat := bits w 128 48
/-- NPOINTS. -/
def grNpoints (w : Nat) : Nat := bits w 176 13
/-- MASK. -/
def grMask (w : Nat) : Nat := bits w 192 48
/-- EPS. -/
def grEps (w : Nat) : Nat := bits w 256 32
/-- ROWS. -/
def grRows (w : Nat) : Nat := bits w 288 24
/-- STATS. -/
def grStats (w : Nat) : Nat := bits w 320 48

/-! ### Schedule curves (R206) -/

/-- Point n of a group's curve. -/
def State.curvePoint (s : State) (w n : Nat) : Nat := s.rdNat (grCurve w + 32 * n) 32

/-- The FP32 field of a point: 0 ETA, 1 BETA1, 2 BETA2, 3 LAMBDA. -/
def pointField (pt k : Nat) : Nat := bits pt (64 + 32 * k) 32

/-- v_a + (v_b - v_a) x n / d, exactly, rounded once to FP32 with RNE. -/
def interpolate (va vb n d : Nat) : Nat :=
  let a := fp32.decode va
  let c := fp32.decode vb
  let x := min a.exp c.exp
  let t : Int := a.units x * d + (c.units x - a.units x) * n
  let p := pow2 x
  (fp32.encodeMag .rne (decide (t < 0)) (t.natAbs * p.1) (d * p.2)).code

/-- A curve's value for a step. -/
def State.curveAt (s : State) (w k step : Nat) : Nat :=
  let n := grNpoints w
  let at' (i : Nat) : Nat := bits (s.curvePoint w i) 0 64
  let val (i : Nat) : Nat := pointField (s.curvePoint w i) k
  match (List.range n).find? fun i => decide (step < at' i) with
  | none => val (n - 1)
  | some 0 => val 0
  | some (i + 1) => interpolate (val i) (val (i + 1)) (step - at' i) (at' (i + 1) - at' i)

/-- Whether an FP32 code is finite and not negative. -/
def fpNonNeg (c : Nat) : Bool := (fp32.decode c).finite && (!(fp32.decode c).neg? || (fp32.decode c).isZero)

/-- Whether an FP32 code lies in [0, 1). -/
def fpUnit (c : Nat) : Bool := fpNonNeg c && (fp32.decode c).lt (.fin false 1 0)

/-- The checks of R207 on a group record and its curve. -/
def State.groupOk (s : State) (g : Nat) : Bool :=
  let w := s.groupRec g
  let n := grNpoints w
  bits w 0 4 == 1 && bits w 4 4 == 0 && bits w 19 13 == 0 && bits w 56 8 == 0 && bits w 189 3 == 0 && bits w 240 16 == 0 &&
    bits w 312 8 == 0 && bits w 368 144 == 0 && decide (32 ≤ grRowlen w ∧ grRowlen w ≤ 16777184) && grRowlen w % 32 == 0 &&
    grCurve w % 32 == 0 && decide (1 ≤ n ∧ n ≤ 4096) && grMask w % 8 == 0 && decide (1 ≤ grRows w) && grStats w % 32 == 0 &&
    fpNonNeg (grEps w) && !(fp32.decode (grEps w)).isZero &&
    (List.range n).all fun i =>
      let p := s.curvePoint w i
      bits p 192 64 == 0 && fpNonNeg (pointField p 0) && fpNonNeg (pointField p 3) && fpUnit (pointField p 1) && fpUnit (pointField p 2) &&
        (i == 0 || decide (bits (s.curvePoint w (i - 1)) 0 64 < bits p 0 64))

/-! ### Step constants (R208) -/

/-- A value rounded with RNE to 40 significant bits (R213). -/
def r40 (v : Val) : Val := lm48.decode (lm48.encode .rne v).code

/-- b^t by square-and-multiply from the most significant bit of t, each product rounded to 40 bits (R208). -/
def pow40 (x : Val) (t : Nat) : Val :=
  ((List.range (Nat.log2 t + 1)).reverse).foldl (fun acc i =>
    let sq := r40 (Val.mul acc acc).1
    if bitAt t i then r40 (Val.mul sq x).1 else sq) (.fin false 1 0)

/-- 1 / (1 - b^t) as FP32: each step to 40 bits, then to FP32 (R208). -/
def biasCorr (beta t : Nat) : Nat :=
  let one : Val := .fin false 1 0
  let d := r40 (Val.add false one (pow40 (fp32.decode beta) t).negate).1
  (fp32.encode .rne (lm48.decode (lm48.div .rne one d).1.code)).code

/-- The clip factor of a norm (R216). -/
def State.clipFactor (s : State) (n : Nat) : Nat :=
  let m := fp32.decode (s.get Upd.clipMax)
  let v := fp32.decode n
  if v.finite ∧ m.lt v then (fp32.div .rne m v).1.code else 0x3F800000

/-- The address of the step constants of a group for a step. -/
def State.scAddr (s : State) (g step : Nat) : Nat := s.get Upd.scBase + 64 * g + 32 * (step % 2)

/-- The step constants of a group for a step, with clip factor k (R208). -/
def State.stepConst (s : State) (g step k : Nat) : Nat :=
  let w := s.groupRec g
  let t := step + 1 - grS0 w
  let b1 := s.curveAt w 1 step
  let b2 := s.curveAt w 2 step
  let c (x : Nat) : Nat := if step < grS0 w then 0x3F800000 else biasCorr x t
  packDetail [(s.curveAt w 0 step, 32), (b1, 32), (b2, 32), (s.curveAt w 3 step, 32), (c b1, 32), (c b2, 32), (k, 32), (step, 32)]

/-- The clip factor that a step starts with (R217): in previous-step mode from the newest committed norm, which is 0 while none is stored; in
held mode from the step's own norm once it is known, 1 before. -/
def State.startClip (s : State) : Nat :=
  match s.get Upd.clipMode with
  | 1 => (s.normNow.map s.clipFactor).getD 0x3F800000
  | 2 => s.clipFactor (s.get Upd.normCur)
  | _ => 0x3F800000

/-- Firmware writes the step constants of every usable group for the step that the counter names (R208). In held mode the
entry's K is not yet that of the step; UPDATE waits for it (R217). -/
def State.writeConstants (s : State) : State :=
  ((List.range (s.get Upd.gtCount)).filter fun g => g ∉ s.badGroups).foldl
    (fun t g => t.storeNat (t.scAddr g t.step) 32 (t.stepConst g t.step t.startClip)) (s.set Upd.kCur s.startClip)

/-- Whether a norm makes the step that it applies to skipped (R216). -/
def normBad (n : Nat) : Bool := !(fp32.decode n).finite

/-- Whether step t, in progress or the newest committed, is skipped (R217). -/
def State.skipped (s : State) (t : Nat) : Bool :=
  match s.get Upd.clipMode with
  | 1 => if t = s.step then s.normNow.any normBad else normBad (s.get Upd.normCur)
  | 2 => if t = s.step then normBad (s.get Upd.normCur) else normBad (s.get Upd.normPrev)
  | _ => false

/-! ### Microprograms (R212-R214) -/

/-- Base of a bench's microprogram bank (R134). -/
def bankBase (b bank : Nat) : Nat := benchBase b + 0x80000 + 0x4000 * bank

/-- The directory entry of a microprogram. -/
def State.uprogAt (s : State) (b bank n : Nat) : Nat := s.rdNat (bankBase b bank + 4 * n) 4

/-- The header of a microprogram. -/
def State.uprogHdr (s : State) (b bank n : Nat) : Nat := s.rdNat (bankBase b bank + s.uprogAt b bank n) 8

/-- The operation words of section k: 0 MAT, 1 ROW, 2 COL, 3 ELEM, in that order after the header. -/
def State.uprogOps (s : State) (b bank n k : Nat) : List Nat :=
  let h := s.uprogHdr b bank n
  let lens := [bits h 30 6, bits h 18 6, bits h 24 6, bits h 12 6]
  let start := bankBase b bank + s.uprogAt b bank n + 8 + 4 * (lens.take k).sum
  (List.range (nth 0 lens k)).map fun j => s.rdNat (start + 4 * j) 4

/-- What running operations holds: the registers, what was stored by OP, and the kinds counted under LM48. -/
structure Micro where
  regs   : List Val
  stored : Tab Val := []
  kinds  : List (List Nat) := []
  deriving DecidableEq, Repr

/-- A result rounded to 40 bits and put into a register; OVERFLOW and INVALID are counted (R213). -/
def Micro.put (m : Micro) (d : Nat) (v : Val) (invalid : Bool) : Micro :=
  let e := lm48.encode .rne v
  let ks := (if invalid then [5] else []) ++ e.kinds.filter (· == 4)
  { m with regs := setNth m.regs d (lm48.decode e.code), kinds := if ks = [] then m.kinds else m.kinds ++ [ks] }

/-- A quotient or root, rounded once by the format itself. -/
def Micro.putEnc (m : Micro) (d : Nat) (r : Enc × Bool) : Micro :=
  let ks := (if r.2 then [5] else []) ++ r.1.kinds.filter (· == 4)
  { m with regs := setNth m.regs d (lm48.decode r.1.code), kinds := if ks = [] then m.kinds else m.kinds ++ [ks] }

/-- One operation word (R213). -/
def Micro.step (m : Micro) (w : Nat) : Micro :=
  let r (k : Nat) : Val := nth (.fin false 0 0) m.regs k
  let d := bits w 6 5
  let a := r (bits w 11 5)
  let c := r (bits w 16 5)
  let e := r (bits w 21 5)
  match bits w 0 6 with
  | 1 => let x := Val.add false a c; m.put d x.1 x.2
  | 2 => let x := Val.add false a c.negate; m.put d x.1 x.2
  | 3 => let x := Val.mul a c; m.put d x.1 x.2
  | 4 => let p := Val.mul a c; let x := Val.add false p.1 e; m.put d x.1 (p.2 || x.2)
  | 5 => let p := Val.mul a c; let x := Val.add false e p.1.negate; m.put d x.1 (p.2 || x.2)
  | 6 => m.putEnc d (lm48.div .rne a c)
  | 7 => m.putEnc d (lm48.sqrt .rne a)
  | 8 => m.put d (Val.pick true false a c) false
  | 9 => m.put d (Val.pick false false a c) false
  | 10 => m.put d (if a.isNan then .nan else if a.isZero then a else .fin a.neg? 1 0) false
  | op => if 0x20 ≤ op ∧ op ≤ 0x25 then { m with stored := Tab.put m.stored op a } else m

/-- A section run from preloaded registers (R214). -/
def runSection (ops : List Nat) (pre : Tab Val) : Micro :=
  ops.foldl Micro.step { regs := (List.range 32).map fun k => Tab.get pre (.fin false 0 0) k }

/-- An operation word of its fields (R213). -/
def opWord (op d a b c : Nat) : Nat := packDetail [(op, 6), (d, 5), (a, 5), (b, 5), (c, 5), (0, 6)]

/-- The ELEM section of the library's AdamW, program 0x03, as shipped (R215). -/
def adamWElem : List Nat :=
  [opWord 3 0 0 11 0, opWord 2 16 15 5 0, opWord 2 17 15 6 0, opWord 3 18 16 0 0, opWord 4 2 5 2 18, opWord 3 19 0 0 0, opWord 3 19 17 19 0] ++
    [opWord 4 3 6 3 19, opWord 0x21 0 2 0 0, opWord 0x22 0 3 0 0, opWord 3 20 2 9 0, opWord 3 21 3 10 0, opWord 7 21 21 0 0, opWord 1 21 21 8 0] ++
    [opWord 6 20 20 21 0, opWord 3 22 4 7 0, opWord 2 22 15 22 0, opWord 3 1 1 22 0, opWord 5 1 4 20 1, opWord 0x20 0 1 0 0]

/-- The registers that every section finds (R214). -/
def constRegs (w sc : Nat) : Tab Val :=
  let f (lo : Nat) : Val := fp32.decode (bits sc lo 32)
  [(4, f 0), (5, f 32), (6, f 64), (7, f 96), (8, fp32.decode (grEps w)), (9, f 128), (10, f 160), (11, f 192), (15, .fin false 1 0)]

/-- Whether the state tiles of a group have plane M: as the program says, for the factored optimizer as MOMENTUM says (R202). -/
def planeM (w h : Nat) : Bool := if grUprog w = 5 then grMomentum w else bitAt h 36

/-- Bytes of a state tile (R202). -/
def stateTile (w h : Nat) : Nat := 6144 + (if planeM w h then 4096 else 0) + (if bitAt h 37 then 4096 else 0)

/-! ### Launch (R203, R207, R212) -/

/-- The group of a stream. -/
def Stream.group (x : Stream) : Nat := bits x.p0 8 12

/-- The bucket and the segment that a stream updates. -/
def State.target' (s : State) (x : Stream) : Option (Bucket × Segment) :=
  match s.bucket x.p2 with
  | none => none
  | some k => (k.segments.find? fun g => g.group == x.group).map fun g => (k, g)

/-- The launch checks of a Temper stream. -/
def State.temperChecks (s : State) (b : Nat) (x : Stream) : List (Bool × Nat) :=
  let a := x.recDev b
  let g := x.group
  let n := bits x.p0 0 8
  let w := s.groupRec g
  let h := s.uprogHdr b x.bank n
  let shape := match x.descOf b x.p1 with
    | some d => d.fmt == 3 && d.space ≤ 1 && nth 0 d.counts 0 == 1024 && (d.counts.drop 2).all (· == 1) &&
        nth 0 d.strides 1 == (stateTile w h : Nat) && x.ins.all (fun v => v.count == nth 0 d.counts 1) &&
        x.outs.all fun v => v.count == nth 0 d.counts 1
    | none => false
  [(decide (g < s.get Upd.gtCount) && g ∉ s.badGroups, a), (n == grUprog w, a),
    (decide (1 ≤ n) && !decide (6 ≤ n ∧ n ≤ 0x7F) && s.uprogAt b x.bank n != 0, a), (shape, descAddr b x.p1), ((s.target' x).isSome, a),
    s.slotCheck b x 0 6144] ++ x.inFmts b fun f => f == 0 || f == 1 || f == 3

/-- The matrix record that a stream writes besides its descriptors (R129). -/
def State.matrixRange (s : State) (b : Nat) (x : Stream) : Option (Nat × Nat) :=
  if kindCode x.stn = 2 ∧ bitAt (s.uprogHdr b x.bank (bits x.p0 0 8)) 38 then
    (s.target' x).map fun e => (e.2.stats, e.2.statsBytes)
  else none

/-! ### Rows (R209, R210) -/

/-- Whether row r of a group is touched in a step. -/
def State.rowTouched (s : State) (k : Bucket) (g : Segment) (rowlen step r : Nat) : Bool :=
  let first := 32 * g.firstTile + (r - g.rowLo) * rowlen / 32
  (List.range (rowlen / 32)).any fun j => (s.rd (touchedAt k step + first + j)) != 0

/-- Whether row r of a group is frozen. -/
def State.rowFrozen (s : State) (w r : Nat) : Bool := grMaskEn w && (s.rd (grMask w + r / 8)).getLsbD (r % 8)

/-- Whether a step updates row r of a group (R210). A carried bucket is not updated again (R368). -/
def State.rowUpdated (s : State) (k : Bucket) (g : Segment) (w step r : Nat) : Bool :=
  decide (g.rowLo ≤ r ∧ r < g.rowLo + g.rowCount) && (s.bk k.id).carried.isNone && !s.skipped step && decide (grS0 w ≤ step) &&
    !s.rowFrozen w r && s.rowTouched k g (grRowlen w) step r

/-! ### The sections before ELEM (R212, R214) -/

/-- An FP32 value in memory. -/
def State.fpAt (s : State) (a : Nat) : Val := fp32.decode (s.rdNat a 4)

/-- One run of a section before ELEM: its operations, the registers and addresses of its FP32 operands, the place of what it stores and the
operation that stores it. -/
structure StatRun where
  ops : List Nat
  ins : List (Nat × Nat)
  at' : Nat
  op  : Nat
  deriving DecidableEq, Repr

/-- A section's run: its FP32 operands read and counted, the section run, its stored FP32 written and counted (R91, R148, R213, R214). -/
def State.statRun (s : State) (b : Nat) (base : Tab Val) (r : StatRun) : Res :=
  let vs := r.ins.map fun e => (e.1, s.fpAt e.2)
  let m := runSection r.ops (vs.foldl (fun t e => Tab.put t e.1 e.2) base)
  let s := (s.countIn b 2 0 (vs.map (·.2))).countKinds b 2 3 m.kinds
  match Tab.find m.stored r.op with
  | some v => let e := fp32.encode .rne v; (s.countConv b 2 0 [e.kinds]).stnWrite b 2 r.at' (leBytes 4 e.code) false
  | none => .ok s

/-- Runs of sections one after another. -/
def State.statRuns (s : State) (b : Nat) (base : Tab Val) : List StatRun → Res
  | [] => .ok s
  | r :: rs => (s.statRun b base r).bind fun t => State.statRuns t b base rs

/-- MAT, ROW for every updated row, COL for every column (R212). rho, gamma and tau lie where the schedule says (log entry 5). A matrix record
with a reserved bit is not used (R204, R474); an unreadable operand halts the bench (R142). -/
def State.runStats (s : State) (b : Nat) (x : Stream) (k : Bucket) (g : Segment) (w sc step : Nat) : Res :=
  let n := bits x.p0 0 8
  let rows := ((List.range g.rowCount).map (g.rowLo + ·)).filter (s.rowUpdated k g w step)
  let len := 32 + 4 * (grRows w + grRowlen w)
  if rows = [] then .ok s
  else
    match s.readErr g.stats len, s.readErr g.sums len with
    | some e, _ => .stop (s.stnUncorr b 2 e)
    | none, some e => .stop (s.stnUncorr b 2 e)
    | none, none =>
      if s.rdNat (g.stats + 4) 28 ≠ 0 then .stop (s.stnSequence b 2 [(g.stats, 48)])
      else
        let ops (j : Nat) : List Nat := s.uprogOps b x.bank n j
        let rAt (r : Nat) : Nat := 32 + 4 * r
        let cAt (j : Nat) : Nat := 32 + 4 * grRows w + 4 * j
        let s := s.setBk k.id { s.bk k.id with wroteTile := some step }
        s.statRuns b (constRegs w sc) (⟨ops 0, [(14, g.stats), (26, g.sums)], g.stats, 0x25⟩ ::
          (rows.map fun r => ⟨ops 1, [(12, g.stats + rAt r), (24, g.sums + rAt r)], g.stats + rAt r, 0x23⟩) ++
          (List.range (grRowlen w)).map fun j => ⟨ops 2, [(13, g.stats + cAt j), (25, g.sums + cAt j)], g.stats + cAt j, 0x24⟩)

/-! ### ELEM over a tile -/

/-- One element: the codes of master, M and V after its ELEM section, the kinds of
the conversions to LM48 and FP32, and the kinds that its operations count under LM48. -/
structure ElemOut where
  w    : Nat
  m    : Nat
  v    : Nat
  lm   : List (List Nat) := []
  fp   : List (List Nat) := []
  ops  : List (List Nat) := []
  deriving DecidableEq, Repr

/-- An element updated (R213, R214). -/
def updateElem (ops : List Nat) (base : Tab Val) (w m v : Nat) (g : Val) (stats : List (Nat × Val)) : ElemOut :=
  let pre := ([(0, g), (1, lm48.decode w), (2, fp32.decode m), (3, fp32.decode v)] ++ stats).foldl (fun (t : Tab Val) (e : Nat × Val) => Tab.put t e.1 e.2) base
  let r := runSection ops pre
  let st (op : Nat) (f : FpFmt) (old : Nat) : Nat × List (List Nat) :=
    match Tab.find r.stored op with
    | some x => let e := f.encode .rne x; (e.code, [e.kinds])
    | none => (old, [])
  let a := st 0x20 lm48 w
  let c := st 0x21 fp32 m
  let d := st 0x22 fp32 v
  { w := a.1, m := c.1, v := d.1, lm := a.2, fp := c.2 ++ d.2, ops := r.kinds }

/-- The mask of the 32-element blocks of a tile whose row satisfies p. -/
def blockMask (e0 rowlen elems : Nat) (p : Nat → Bool) : Nat :=
  ((List.range (elems / 32)).map fun q => if p ((e0 + 32 * q) / rowlen) then 2 ^ q else 0).sum

/-- Temper's use of a bucket in a step begins: an unswept bucket whose state an impression holds is claimed (R26, R352), and at the first
UPDATE stream of the step the rows updated in the step before are remembered (R210). -/
def State.beginUpdate (s : State) (k : Bucket) (step : Nat) (replay : Bool) : State :=
  let s := if s.forwards step then s.claim k else s
  let y := s.bk k.id
  if replay ∨ y.carried.isSome ∨ y.begun = some step then s
  else s.setBk k.id { y with begun := some step, rowsPrev := if y.updated = some (step - 1) ∧ 0 < step then y.rowsNow else [], rowsNow := [] }

/-- The byte ranges of a state tile at a that hold the 32-element blocks of a mask, in the master planes or in one FP32 plane. -/
def blockRanges (a mask : Nat) (master : Bool) : List (Nat × Nat) :=
  ((List.range 32).filter (bitAt mask)).map (fun q => [(a + 128 * q, 128)] ++ (if master then [(a + 4096 + 64 * q, 64)] else [])) |>.flatten

/-- What Temper does with a state tile: the mask of the blocks that it updates, that of the blocks that it emits, and the step's constants.
A tile that a REPLAY of the step has done already, or whose bucket's replay is complete, is not updated again (R24). -/
structure TilePlan where
  e0    : Nat
  elems : Nat
  mask  : Nat
  emit  : Nat
  dup   : Bool
  deriving DecidableEq, Repr

/-- The plan of tile j of a segment (R210). -/
def State.tilePlan (s : State) (replay : Bool) (step group : Nat) (k : Bucket) (g : Segment) (e0 j : Nat) : TilePlan :=
  let w := s.groupRec group
  let rowlen := grRowlen w
  let y := s.bk k.id
  let elems := min 1024 ((g.rowLo + g.rowCount) * rowlen - e0)
  let dup := replay && (y.replayed == some step || (group * 2 ^ 32 + j) ∈ y.repTiles)
  let up (r : Nat) : Bool := !dup && s.rowUpdated k g w step r
  let emit := blockMask e0 rowlen elems fun r => up r || (group * 2 ^ 24 + r) ∈ y.rowsPrev || (if step % 2 = 0 then y.empty1 else y.empty0)
  { e0 := e0, elems := elems, mask := blockMask e0 rowlen elems up, emit := emit, dup := dup }

/-- The results of the ELEM section over a tile, and what the tile's conversions and operations count (R213, R214). -/
structure TileOut where
  outs   : List ElemOut
  wBytes : List Byte
  writes : List (Nat × List Byte)
  old    : List Val
  deriving DecidableEq, Repr

/-- The ELEM section over the blocks of a state tile at a (R213, R214). old are the state values that it reads of FP32 planes. -/
def State.tileElems (s : State) (b : Nat) (x : Stream) (g : Segment) (step a : Nat) (pl : TilePlan) (gs : List Val) : TileOut :=
  let w := s.groupRec x.group
  let n := bits x.p0 0 8
  let h := s.uprogHdr b x.bank n
  let sc := s.rdNat (s.scAddr x.group step) 32
  let rowlen := grRowlen w
  let mOff := 6144
  let vOff := 6144 + (if planeM w h then 4096 else 0)
  let ws := tileCodes 3 1024 (s.rdBytes a 6144)
  let ms := if planeM w h then tileCodes 0 1024 (s.rdBytes (a + mOff) 4096) else []
  let vs := if bitAt h 37 then tileCodes 0 1024 (s.rdBytes (a + vOff) 4096) else []
  let ops := s.uprogOps b x.bank n 3
  let base := constRegs w sc
  let stat (e : Nat) : List (Nat × Val) :=
    if bitAt h 38 then [(12, s.fpAt (g.stats + 32 + 4 * (e / rowlen))), (13, s.fpAt (g.stats + 32 + 4 * grRows w + 4 * (e % rowlen))),
      (14, s.fpAt g.stats)] else []
  let outs := (List.range 1024).map fun i =>
    let old : ElemOut := { w := nth 0 ws i, m := nth 0 ms i, v := nth 0 vs i }
    if bitAt pl.mask (i / 32) then updateElem ops base old.w old.m old.v (nth (.fin false 0 0) gs i) (stat (pl.e0 + i)) else old
  let wBytes := leBytes 4096 (packCodes 32 (outs.map fun o => o.w / 65536)) ++ leBytes 2048 (packCodes 16 (outs.map (·.w)))
  let upd (cs : List Nat) : List Val := (cs.zipIdx.filter fun e => bitAt pl.mask (e.2 / 32)).map fun e => decodeElem 0 0 e.1
  let cut (at' : Nat) (bs : List Byte) (master : Bool) : List (Nat × List Byte) :=
    (blockRanges at' pl.mask master).map fun r => (r.1, (bs.drop (r.1 - at')).take r.2)
  { outs := outs, wBytes := wBytes, old := upd (ms.take 1024) ++ upd (vs.take 1024)
    writes := cut a wBytes true ++ (if planeM w h then cut (a + mOff) (leBytes 4096 (packCodes 32 (outs.map (·.m)))) false else []) ++
      (if bitAt h 37 then cut (a + vOff) (leBytes 4096 (packCodes 32 (outs.map (·.v)))) false else []) }

/-- What Temper reads of a state tile: the masters of the blocks that it updates or emits, the moments of those that it updates. -/
def State.tileReads (s : State) (b : Nat) (x : Stream) (a : Nat) (pl : TilePlan) : List (Nat × Nat) :=
  let w := s.groupRec x.group
  let h := s.uprogHdr b x.bank (bits x.p0 0 8)
  let seen := if x.outs = [] then pl.mask else pl.mask ||| pl.emit
  blockRanges a seen true ++ (if planeM w h then blockRanges (a + 6144) pl.mask false else []) ++
    (if bitAt h 37 then blockRanges (a + 6144 + (if planeM w h then 4096 else 0)) pl.mask false else [])

/-- What the device notes of a tile that Temper has done (R100, R210, R223). -/
def State.noteTile (s : State) (replay : Bool) (step group j : Nat) (k : Bucket) (rowlen : Nat) (pl : TilePlan) : State :=
  let y := s.bk k.id
  let t := group * 2 ^ 32 + j
  let rows := ((List.range (pl.elems / 32)).filter fun q => bitAt pl.mask q).map fun q => group * 2 ^ 24 + (pl.e0 + 32 * q) / rowlen
  if replay then (if pl.dup then s else s.setBk k.id { y with repTiles := t :: y.repTiles })
  else if pl.mask = 0 then s.setBk k.id { y with tiles := t :: y.tiles }
  else s.setBk k.id { y with rowsNow := (y.rowsNow ++ rows).dedup, wroteTile := some step, tiles := t :: y.tiles }

/-- The ELEM section over a state tile: updated rows written in place after the checks, the master tile emitted (R127, R210, R213). -/
def State.elemTile (b : Nat) (replay : Bool) (step : Nat) (x : Stream) (k : Bucket) (g : Segment) (a : Nat) (pl : TilePlan) (t : Tok) (s : State) : Res :=
  match (s.tileReads b x a pl).findSome? fun r => s.readErr r.1 r.2 with
  | some e => .stop (s.stnUncorr b 2 e)
  | none =>
    let j := nth 0 x.inPos 0
    let gs := tokVals t
    let o := s.tileElems b x g step a pl gs
    let masters := ((tileCodes 3 1024 (s.rdBytes a 6144)).zipIdx.filter fun e => bitAt pl.mask (e.2 / 32)).map fun e => decodeElem 3 0 e.1
    let s := ((s.countIn b 2 t.fmt gs).countIn b 2 3 masters).countIn b 2 0 o.old
    let s := s.countConv b 2 0 ((o.outs.map (·.fp)).flatten)
    let s := (s.countConv b 2 3 ((o.outs.map (·.lm)).flatten)).countKinds b 2 3 ((o.outs.map (·.ops)).flatten)
    let s := s.noteTile replay step x.group j k (grRowlen (s.groupRec x.group)) pl
    (s.writeAll b 2 (o.writes.map fun e => ((e.1 : Int), e.2))).bind fun s =>
      let done (u : State) : State := (u.consume b 2 0).addUnits b 2 pl.elems
      if x.outs = [] then .ok (done s)
      else
        let count := 32 * ((List.range 32).filter (bitAt pl.emit)).length
        (s.emitTok b 2 0 { fmt := 3, count := count, bytes := o.wBytes, mask := if count = 1024 then 0 else pl.emit } none).map done

/-- One state tile of UPDATE or REPLAY: at the first, the bucket is claimed and the statistics are brought up to date (R210, R212). -/
def State.tileWork (b : Nat) (replay : Bool) (step : Nat) (x : Stream) (k : Bucket) (g : Segment) (d : Desc) (t : Tok) (s : State) : Res :=
  let j := nth 0 x.inPos 0
  let w := s.groupRec x.group
  let h := s.uprogHdr b x.bank (bits x.p0 0 8)
  let s := if j = 0 then s.beginUpdate k step replay else s
  let pl := s.tilePlan replay step x.group k g (d.elem0 + 1024 * j) j
  (if j = 0 ∧ bitAt h 38 ∧ !pl.dup then s.runStats b x k g w (s.rdNat (s.scAddr x.group step) 32) step else Res.ok s).bind
    (State.elemTile b replay step x k g (d.base + d.rowOff j).toNat pl t)

/-- One position of UPDATE or REPLAY (R221, R222): the waits, among them for the check of every record of the bucket (R114), then the tile. -/
def State.temperWork (b : Nat) (replay : Bool) (s : State) (x : Stream) : Res :=
  match s.target' x, x.descOf b x.p1 with
  | some (k, g), some d =>
    let step := if replay then x.startStep - 1 else x.startStep
    let sc := s.rdNat (s.scAddr x.group step) 32
    let held := !replay && s.get Upd.clipMode == 1 && step == s.step && s.normNow.isNone
    if (replay ∧ x.startStep = 0) ∨ bits sc 224 32 ≠ step % 2 ^ 32 ∨ held ∨ (s.bk k.id).countBad ∨ (s.bk k.id).heldBad ∨
        ¬ ((s.bk k.id).gradStep.any fun u => decide (step ≤ u)) ∨ ¬ (x.outs = [] ∨ s.space b x 0) then .wait
    else
      (s.collect b 2 x (fun t => t.fmt == 0 || t.fmt == 1 || t.fmt == 3) [(0, nth 0 x.inPos 0)] []).andThen fun ts =>
        State.tileWork b replay step x k g d (nth noTok ts 0) s
  | _, _ => .stop s

/-- The end of an UPDATE or REPLAY stream: once every group of the bucket is done, the bucket is (R210, R219, R221). -/
def State.temperDone (s : State) (x : Stream) : State :=
  match s.bucket x.p2 with
  | none => s
  | some k =>
    let y := s.bk k.id
    let all (l : List Nat) : Bool := k.segments.all fun g => g.group ∈ l
    if x.form = 1 then
      let l := (x.group :: y.repsDone).dedup
      s.setBk k.id (if all l then { y with replayed := some (x.startStep - 1), repsDone := [], repTiles := [] } else { y with repsDone := l })
    else
      let l := (x.group :: y.segsDone).dedup
      s.setBk k.id (if all l then
        { y with updated := some x.startStep, segsDone := [], carried := none, tiles := [] }
      else { y with segsDone := l })

end Sys2Proof.Machine
end

