-- ==== Sys2Proof/Machine/Sequencer.lean ====
section
/-! DEFINITION. The Compositor's stream, wait, signal and boundary instructions, and the commands of the stations' forms
(R125-R131, R141, R150, R154-R178, R237-R238). -/

namespace Sys2Proof.Machine

open Sys2Proof

/-! ### Launch (R128, R165, R169) -/

/-- The checks of a record that its station makes (R128). -/
def State.stationChecks (s : State) (b : Nat) (x : Stream) : List (Bool × Nat) :=
  match kindCode x.stn with
  | 1 => s.anvilChecks b x
  | 2 => s.temperChecks b x
  | 3 => s.quenchChecks b x
  | 4 => s.formeChecks b x
  | 5 => s.hardyChecks b x
  | 6 => s.galleyChecks b x
  | 7 => s.platenChecks b x
  | _ => s.proofChecks b x

/-- What a station's launch registers show of a stream (R146). -/
def State.showLaunch (s : State) (b : Nat) (x : Stream) : State :=
  let i := x.stn
  match kindCode i with
  | 2 =>
    let h := s.uprogHdr b x.bank (bits x.p0 0 8)
    s.setAll [(Stn.tmpUprog b i, bits x.p0 0 8), (Stn.tmpSlots b i, bits h 12 6)]
  | 3 => s.set (Stn.qnPset b i) ((s.psetAddr b x.p0).getD 0)
  | 7 => if x.form = 0 then s.set (Stn.plFmtA b i) (((x.descOf b x.p0).map (·.fmt)).getD 0) else s
  | 8 => s.setAll [(Stn.prfDigestLo b i, 0), (Stn.prfDigestHi b i, 0), (Stn.prfItems b i, 0)]
  | _ => s

/-- The destination format of a form (R92, R439): 0x1F where it has none. -/
def State.launchFmt (s : State) (b : Nat) (x : Stream) : Nat :=
  match kindCode x.stn with
  | 1 => if x.form = 4 ∨ x.form = 5 ∨ (x.p0 % 32 = 0 ∧ x.form ≤ 3) then 31 else x.p0 % 32
  | 2 => 3
  | 3 => psetFmt (s.rdNat ((s.psetAddr b x.p0).getD 0) 32)
  | _ => 31

/-- The snapshot of a record completed by what the station copies at launch: formats, parameter set, latched counters. -/
def State.launchOf (s : State) (b recLocal w : Nat) : Stream :=
  let x := s.snapshotOf b recLocal w
  let dst := s.launchFmt b x
  { x with
    dstFmt := dst
    srcFmt := (((x.portDesc b (nth ⟨0, 0, 0⟩ x.ins 0))).map (·.fmt)).getD 0
    pset := if kindCode x.stn = 3 then s.rdNat ((s.psetAddr b x.p0).getD 0) 32 else 0
    startCnt := s.latchNow b x.stn dst }

/-- A stream refused at launch (R128): its latch record has STATUS 1 (R439). A record that names no station is the
Compositor's to log. -/
def State.refuseLaunch (s : State) (b recLocal w a : Nat) : State :=
  let i := bits w 4 4
  let s := s.waitDone b
  if i ≤ 9 then (s.latchStream b i (s.launchOf b recLocal w) 1).refuseStream b i a
  else (s.stnViolation b 15 a).haltBench b

/-- Whether a running stream holds a queue side that a record binds (R169). -/
def State.sideHeld (s : State) (b : Nat) (x : Stream) : Bool :=
  s.streams.any fun e => e.1 / 16 == b &&
    ((x.ins.any fun v => v.kind == 1 && e.2.ins.any fun u => u.kind == 1 && u.id == v.id) ||
      (x.outs.any fun v => v.kind == 1 && e.2.outs.any fun u => u.kind == 1 && u.id == v.id))

/-- A stream bound to a slice channel out of its turn (R238): the station sets REFUSED and the bench halts. -/
def State.refuseOrder (s : State) (b recLocal w expected coll : Nat) : State :=
  let i := bits w 4 4
  let s := (s.waitDone b).latchStream b i (s.launchOf b recLocal w) 1
  ((s.orderViolation (.bench b) (s.get Fab.deviceId) (some i) expected (s.ordinal 0 coll)).set (Stn.refused b i) 1).haltBench b

/-- The launch itself, order 5 of R169. -/
def State.launchStream (s : State) (b recLocal w : Nat) : State :=
  let x := s.launchOf b recLocal w
  let i := x.stn
  let s := ((s.setStream b i x).showLaunch b x).set (Stn.state b i) 1
  let s := s.trace b 1 [(i, 4), (0, 4), (0, 8), (s.streamOrd b x, 24), (x.bucket, 24), (recLocal + 65536 * (x.streamNo % 2 ^ 32), 64)]
  (s.waitDone b).nextPc b

/-- The Compositor's banks exchanged (R174): SWAP_PENDING and SHADOW_VALID are cleared. -/
def State.swapCmp (s : State) (b : Nat) : State :=
  s.setAll [(Cmp.activeBank b, 1 - s.get (Cmp.activeBank b)), (Cmp.swapPending b, 0), (Cmp.shadowValid b, 0)]

/-- Temper's banks exchanged (R134). -/
def State.swapTmp (s : State) (b : Nat) : State :=
  s.setAll [(Stn.tmpActiveBank b 2, 1 - s.get (Stn.tmpActiveBank b 2)), (Stn.tmpSwapPending b 2, 0)]

/-- Temper's stream boundary: no stream runs on it (R134). -/
def State.tmpBoundary (s : State) (b : Nat) : State :=
  if s.flag (Stn.tmpSwapPending b 2) ∧ (s.stream b 2).isNone then s.swapTmp b else s

/-- Orders 4 to 6 of R169 on a record whose station is idle. -/
def State.strmLaunch (s : State) (b a w : Nat) : State :=
    let x := s.launchOf b a w
    match s.overlaps b x (s.matrixRange b) with
    | some e => s.refuseLaunch b a w e
    | none =>
      match firstBad (s.stationChecks b x) with
      | some e => s.refuseLaunch b a w e
      | none =>
        match (s.recColls b w).find? fun c => !(s.benchTurn b c).1 with
        | some c => s.refuseOrder b a w (s.benchOrd b (s.benchTurn b c).2) c
        | none =>
          let cur := ((s.recColls b w).head?).map fun c => (s.benchTurn b c).2
          (match cur with
          | some c => { s with benchCur := Tab.set s.benchCur 0 (s.logical b) c }
          | none => s).launchStream b a w

/-- Orders 3 to 6 of R169 on a record that passed order 2. An idle Temper is at a stream boundary, where a pending swap takes place
(R134). -/
def State.strmGo (s : State) (b : Nat) (ra : BitVec 5) (imm : BitVec 16) (a w : Nat) : State :=
  let x := s.launchOf b a w
  let i := x.stn
  if s.get (Stn.state b i) ≠ 0 ∨ (s.stream b i).isSome ∨ s.sideHeld b x then s.wait b (.strm ra imm) 1 i 0 0 0
  else (if i = 2 then s.tmpBoundary b else s).strmLaunch b a w

/-- The first uncorrectable word that STRM meets in the descriptors and the loop descriptor of a record (R162). -/
def State.strmErr (s : State) (b w : Nat) : Option Nat :=
  let hs := portHandles w ++ paramHandles (kindCode (bits w 4 4)) (bits w 8 4) w ++ (if bitAt w 15 then [bits w 24 10] else [])
  let loop := if bitAt w 14 ∧ bits w 64 16 + 256 ≤ 0x10000 then s.readErr (dmemAddr b (bits w 64 16)) 256 else none
  (((hs.filter (· < 1024)).findSome? fun h => s.readErr (descAddr b h) 64)).orElse fun _ => loop

/-- STRM (R169). A record address outside data memory or not a multiple of 128 is a local access fault (R167). -/
def State.strm (s : State) (b : Nat) (ra : BitVec 5) (imm : BitVec 16) : State :=
  let a := s.effective b ra imm
  if a % 128 ≠ 0 ∨ 0x10000 < a + 128 then s.localFault b a
  else
    match s.readErr (dmemAddr b a) 128 with
    | some e => s.cmpUncorr b e
    | none =>
      let w := s.rdNat (dmemAddr b a) 128
      match s.strmErr b w with
      | some e => s.cmpUncorr b e
      | none =>
      match firstBad (s.recChecks b a w) with
      | some e => s.refuseLaunch b a w e
      | none => s.strmGo b ra imm a w

/-- STRM (R169). -/
def execStrm (b : Nat) (ra : BitVec 5) (imm : BitVec 16) (s : State) : Host.Outcome State Fault Refusal :=
  .next (s.instr b fun t => t.strm b ra imm)

/-! ### SWAIT, FENCE, END, BNDRY -/

/-- Whether stations 0 to 9 are idle. -/
def State.allIdle (s : State) (b : Nat) : Bool := (List.range 10).all fun i => s.get (Stn.state b i) == 0

/-- The first station that is not idle. -/
def State.busyStation (s : State) (b : Nat) : Nat := ((List.range 10).find? fun i => s.get (Stn.state b i) != 0).getD 0

/-- SWAIT: the stores of the streams of the stations that it names are seen from then on (R154). -/
def State.swait (s : State) (b : Nat) (sel : BitVec 5) : State :=
  if !swaitOk sel.toNat then s.illegal b (encI 0x21 0 0 sel.toNat)
  else if sel.toNat = 16 then
    if s.allIdle b then ((List.range 10).foldl (fun (t : State) i => t.unveil (16 * b + i) none) (s.waitDone b)).nextPc b
    else s.wait b (.swait sel) 2 (s.busyStation b) 0 0 0
  else if s.get (Stn.state b sel.toNat) = 0 then ((s.waitDone b).unveil (16 * b + sel.toNat) none).nextPc b
  else s.wait b (.swait sel) 2 sel.toNat 0 0 0

/-- SWAIT (R161, R162). -/
def execSwait (b : Nat) (sel : BitVec 5) (s : State) : Host.Outcome State Fault Refusal := .next (s.instr b fun t => t.swait b sel)

/-- FENCE: every store and signal add of the model is performed before the next instruction (R154). -/
def execFence (b : Nat) (s : State) : Host.Outcome State Fault Refusal := .next (s.instr b fun t => t.nextPc b)

/-- A bench whose STATE is 0 is at a stream boundary: pending swaps take place (R134, R174). -/
def State.boundaries (s : State) (b : Nat) : State := (if s.flag (Cmp.swapPending b) then s.swapCmp b else s).tmpBoundary b

/-- A bench stopped: STATE 0, its region stopped, pending swaps take place (R174). -/
def State.benchStopped (s : State) (b : Nat) : State :=
  (s.setAll [(Ben.state b, 0), (Rgn.state b, 1), (Stn.state b 15, 0)]).boundaries b

/-- END. -/
def State.endProgram (s : State) (b : Nat) : State :=
  if s.allIdle b then ((s.waitDone b).nextPc b).benchStopped b else s.wait b .endW 6 (s.busyStation b) 0 0 0

/-- END (R161). -/
def execEndB (b : Nat) (s : State) : Host.Outcome State Fault Refusal := .next (s.instr b fun t => t.endProgram b)

/-- BNDRY (R174). -/
def execBndry (b : Nat) (target : BitVec 13) (s : State) : Host.Outcome State Fault Refusal :=
  .next (s.instr b fun t => if t.flag (Cmp.swapPending b) then (t.swapCmp b).goto b (4 * target.toNat) else t.nextPc b)

/-! ### Signal words (R158, R164, R172, R246) -/

/-- A local address of a word of the bench's own window or of the shared area; 0 where there is none. -/
def State.localOf (s : State) (b a : Nat) : Nat :=
  let w := stoneBase (b / 5) + s.get (Ben.stoneWin b)
  let sh := stoneBase (b / 5) + 0x5600000
  if w ≤ a ∧ a < w + 0xE00000 then 0x1000000 + (a - w) else if sh ≤ a ∧ a < sh + 0xA00000 then 0x2000000 + (a - sh) else 0

/-- The word of index k of handle h for a signal-word instruction: BASE a multiple of 8, SPACE 0 or 1, k within the words. -/
def State.sigWord (s : State) (b h k : Nat) : Option Nat :=
  match s.desc b h with
  | none => none
  | some d => if d.space ≤ 1 ∧ d.base % 8 = 0 ∧ k < d.size then some (d.base + 8 * k) else none

/-- A local access fault at the descriptor of handle h. -/
def State.handleFault (s : State) (b h : Nat) : State := s.localFault b (0x10000 + 64 * h)

/-- A local access fault at a word that no usable entry of the directory registers (R158). -/
def State.wordFault (s : State) (b a : Nat) : State := s.cmpViolation b a [(s.localOf b a, 32)]

/-- What a signal-word instruction finds: its word's address and its directory entry. -/
inductive SigRef where
  | fault (s : State)
  | word (a e : Nat)
  deriving DecidableEq, Repr

/-- The word that an instruction names, looked up in the directory. -/
def State.sigRef (s : State) (b : Nat) (ra : BitVec 5) (hd : BitVec 10) : SigRef :=
  match s.readErr (descAddr b hd.toNat) 64, s.sigWord b hd.toNat (s.g b ra).toNat with
  | some e, _ => .fault (s.cmpUncorr b e)
  | none, none => .fault (s.handleFault b hd.toNat)
  | none, some a =>
    match s.dirFind a with
    | none => .fault (s.wordFault b a)
    | some e =>
      match s.readErr a 8 with
      | some x => .fault (s.cmpUncorr b x)
      | none => .word a e

/-- The word on which a Compositor waits by SIGWAIT. -/
def State.waitsOn (s : State) (b : Nat) : Option Nat :=
  match (s.comp b).waiting with
  | some (.sigwait _ ra hd) => s.sigWord b hd.toNat (s.g b ra).toNat
  | _ => none

/-- WAITERS of a word follows what its bench waits on and monitors (R246). -/
def State.syncWaiter (s : State) (b a : Nat) : State :=
  match s.dirFind a with
  | none => s
  | some e => s.sigWaiter e (s.logical b) (s.waitsOn b == some a || (s.comp b).mons.any fun m => m.2.armed && m.2.word == a)

/-- SIGRD. -/
def State.sigrd (s : State) (b : Nat) (rd ra : BitVec 5) (hd : BitVec 10) : State :=
  if !evenReg rd then s.illegal b (encI 0x24 rd ra hd.toNat)
  else
    match s.sigRef b ra hd with
    | .fault t => t
    | .word a _ => (s.setPair b rd (s.rdNat a 8)).nextPc b

/-- SIGRD (R161, R172). -/
def execSigrd (b : Nat) (rd ra : BitVec 5) (hd : BitVec 10) (s : State) : Host.Outcome State Fault Refusal :=
  .next (s.instr b fun t => t.sigrd b rd ra hd)

/-- SIGADD: an overflow leaves the word and lets the program go on (R247). -/
def State.sigaddI (s : State) (b : Nat) (rd ra : BitVec 5) (hd : BitVec 10) : State :=
  match s.sigRef b ra hd with
  | .fault t => t
  | .word a _ =>
    match s.sigAdd a (s.g b rd).toNat ⟨s.get Fab.deviceId, s.logical b⟩ with
    | .added t => t.nextPc b
    | .overflow t => t.nextPc b
    | .absent => s.wordFault b a
    | .unreadable => s.cmpUncorr b a

/-- SIGADD (R161, R172, R247). -/
def execSigadd (b : Nat) (rd ra : BitVec 5) (hd : BitVec 10) (s : State) : Host.Outcome State Fault Refusal :=
  .next (s.instr b fun t => t.sigaddI b rd ra hd)

/-- SIGWAIT. -/
def State.sigwait (s : State) (b : Nat) (rd ra : BitVec 5) (hd : BitVec 10) : State :=
  if !evenReg rd then s.illegal b (encI 0x26 rd ra hd.toNat)
  else
    match s.sigRef b ra hd with
    | .fault t => t
    | .word a _ =>
      if s.gPair b rd ≤ s.rdNat a 8 then (((s.waitDone b).unveilSig b a).syncWaiter b a).nextPc b
      else (s.wait b (.sigwait rd ra hd) 3 0 hd.toNat (s.g b ra).toNat 0).syncWaiter b a

/-- SIGWAIT (R161, R172). -/
def execSigwait (b : Nat) (rd ra : BitVec 5) (hd : BitVec 10) (s : State) : Host.Outcome State Fault Refusal :=
  .next (s.instr b fun t => t.sigwait b rd ra hd)

/-- SIGMON: the slot takes its word and threshold; it has fired when the word is there already. -/
def State.sigmon (s : State) (b : Nat) (rd ra : BitVec 5) (slot : BitVec 3) (hd : BitVec 10) : State :=
  if !evenReg rd then s.illegal b (encI 0x27 rd ra (slot.toNat * 1024 + hd.toNat))
  else
    match s.sigRef b ra hd with
    | .fault t => t
    | .word a _ =>
      let x := s.comp b
      let old := Tab.find x.mons slot.toNat
      let m : MonSlot := ⟨a, hd.toNat, (s.g b ra).toNat, s.gPair b rd, true, decide (s.gPair b rd ≤ s.rdNat a 8)⟩
      let s := (s.setComp b { x with mons := Tab.put x.mons slot.toNat m }).syncWaiter b a
      ((match old with
      | some o => s.syncWaiter b o.word
      | none => s).showMons b).nextPc b

/-- SIGMON (R161, R172). -/
def execSigmon (b : Nat) (rd ra : BitVec 5) (slot : BitVec 3) (hd : BitVec 10) (s : State) : Host.Outcome State Fault Refusal :=
  .next (s.instr b fun t => t.sigmon b rd ra slot hd)

/-- Armed slots whose words have reached their thresholds fire (R172). -/
def State.refreshMons (s : State) (b : Nat) : State :=
  let x := s.comp b
  (s.setComp b { x with mons := x.mons.map fun e =>
    (e.1, { e.2 with fired := e.2.fired || (e.2.armed && (s.readErr e.2.word 8).isNone && decide (e.2.threshold ≤ s.rdNat e.2.word 8)) }) }).showMons b

/-- MWAIT: waits for every armed slot of the mask, then disarms them. -/
def State.mwait (s : State) (b : Nat) (mask : BitVec 8) : State :=
  let s := s.refreshMons b
  let x := s.comp b
  let named := x.mons.filter fun e => e.2.armed && bitAt mask.toNat e.1
  if named.all (·.2.fired) then
    let s := s.waitDone b
    let y := s.comp b
    let s := (s.setComp b { y with mons := y.mons.filter fun e => !(e.2.armed && bitAt mask.toNat e.1) }).showMons b
    ((named.map (·.2.word)).foldl (fun t a => (t.unveilSig b a).syncWaiter b a) s).nextPc b
  else s.wait b (.mwait mask) 4 0 0 0 mask.toNat

/-- MWAIT (R161, R172). -/
def execMwait (b : Nat) (mask : BitVec 8) (s : State) : Host.Outcome State Fault Refusal := .next (s.instr b fun t => t.mwait b mask)

/-! ### BCNT, FEATQ, CSRR -/

/-- BCNT. -/
def State.bcnt (s : State) (b : Nat) (rd ra : BitVec 5) (hd : BitVec 10) : State :=
  if !evenReg rd then s.illegal b (encI 0x2C rd ra hd.toNat)
  else
    let n := (s.g b ra).toNat
    match s.readErr (descAddr b hd.toNat) 64, s.desc b hd.toNat with
    | some e, _ => s.cmpUncorr b e
    | none, none => s.handleFault b hd.toNat
    | none, some d =>
      if 1 < d.space ∨ d.base % 32 ≠ 0 ∨ d.size < n ∨ (n ≠ 0 ∧ ¬ s.ramOk d.base n) then s.handleFault b hd.toNat
      else
        match (if n = 0 then none else s.readErr d.base n) with
        | some e => s.cmpUncorr b e
        | none =>
          let bs := s.rdBytes d.base n
          let hi := (bs.filter (· == 0xFF)).length
          let lo := (bs.filter fun x => x != 0 && x != 0xFF).length
          ((s.setG b rd (BitVec.ofNat 32 lo)).setG b (rd + 1) (BitVec.ofNat 32 hi)).nextPc b

/-- BCNT (R161, R164). -/
def execBcnt (b : Nat) (rd ra : BitVec 5) (hd : BitVec 10) (s : State) : Host.Outcome State Fault Refusal :=
  .next (s.instr b fun t => t.bcnt b rd ra hd)

/-- FEATQ: half of the copy of a feature register (R161, R175). -/
def execFeatq (b : Nat) (rd : BitVec 5) (sel : BitVec 4) (s : State) : Host.Outcome State Fault Refusal :=
  .next (s.instr b fun t =>
    t.result b rd (BitVec.ofNat 32 (bits (t.get (Cmp.feat b (sel.toNat / 2))) (32 * (sel.toNat % 2)) 32)))

/-- The status words of R177; none for a reserved selector. -/
def State.statusWord (s : State) (b sel : Nat) : Option Nat :=
  match sel with
  | 0 => some (s.now % 2 ^ 32)
  | 1 => some (s.comp b).csrrHi
  | 2 => some (s.step % 2 ^ 32)
  | 3 => some (bits s.step 32 32)
  | 4 => some (if s.flag (Ben.lvalid b) then s.logical b else 0xFFFFFFFF)
  | 5 => some b
  | 6 => some (b / 5)
  | 7 => some (s.get (Rgn.event b) % 2 ^ 32)
  | 8 => some (bits s.sched.jobSeed.toNat 0 32)
  | 9 => some (bits s.sched.jobSeed.toNat 32 32)
  | 10 => some (bits s.sched.jobSeed.toNat 64 32)
  | 11 => some (bits s.sched.jobSeed.toNat 96 32)
  | 12 => some (s.get (Cmp.instret b) % 2 ^ 32)
  | _ => none

/-- CSRR: selector 0 latches the high half of the count for selector 1. -/
def State.csrr (s : State) (b : Nat) (rd sel : BitVec 5) : State :=
  match s.statusWord b sel.toNat with
  | none => s.illegal b (encI 0x31 rd 0 sel.toNat)
  | some v =>
    let s := if sel = 0 then s.setComp b { s.comp b with csrrHi := bits s.now 32 32 } else s
    s.result b rd (BitVec.ofNat 32 v)

/-- CSRR (R161, R162, R177). -/
def execCsrr (b : Nat) (rd : BitVec 5) (sel : BitVec 5) (s : State) : Host.Outcome State Fault Refusal :=
  .next (s.instr b fun t => t.csrr b rd sel)

/-! ### Waits that end (R155) -/

/-- A waiting instruction executed again. -/
def State.redo (s : State) (b : Nat) (w : Wait) : State :=
  match w with
  | .strm ra imm => s.strm b ra imm
  | .swait sel => s.swait b sel
  | .sigwait rd ra hd => s.sigwait b rd ra hd
  | .mwait m => s.mwait b m
  | .storeW rd ra imm => s.storeLocal b (s.effective b ra imm) 4 (s.g b rd).toNat (.storeW rd ra imm)
  | .storeD rd ra imm => s.storeLocal b (s.effective b ra imm) 8 (s.gPair b rd) (.storeD rd ra imm)
  | .endW => s.endProgram b

/-- One position of the stream of a station, by its kind and form. -/
def State.stationWork (b i form : Nat) (s : State) (x : Stream) : Res :=
  match kindCode i with
  | 1 => s.anvilWork b i form x
  | 2 => s.temperWork b (form == 1) x
  | 3 => s.quenchWork b i form x
  | 4 => s.formeWork b i form x
  | 5 => if form = 0 then s.selectWork b i x else s.topkWork b i x
  | 6 => s.galleyWork b i form x
  | 7 => s.platenWork b i form x
  | _ => s.proofWork b i form x

/-- A waiting station resumes once its next position would not wait. -/
def State.resumeStation (s : State) (b i : Nat) : State :=
  match s.stream b i with
  | none => s
  | some x =>
    if s.benchRuns b ∧ s.get (Stn.state b i) = 2 then
      match s.stationWork b i x.form x with
      | .wait => s
      | _ => s.stnGo b i
    else s

/-- WAIT_ENDS (R155, R166): the waiter's condition is met and it goes on. -/
def execWaitEnds (who : Waiter) (s : State) : Host.Outcome State Fault Refusal :=
  match who with
  | .compositor b =>
    match (s.comp b).waiting with
    | some w => .next (if s.benchRuns b then s.redo b w else s)
    | none => .next s
  | .station b i => .next (s.resumeStation b i)

/-! ### The forms of the stations (R131) -/

/-- SCALE (R98, R99). -/
def execScale (b i : Nat) (c : Check) (s : State) : Host.Outcome State Fault Refusal :=
  .next (s.formStep b i 1 0 c fun t x => t.anvilWork b i 0 x)

/-- SUM (R101, R107-R109). -/
def execSum (b i : Nat) (c : Check) (s : State) : Host.Outcome State Fault Refusal :=
  .next (s.formStep b i 1 1 c fun t x => t.anvilWork b i 1 x)

/-- SUMSP (R110, R111). -/
def execSumsp (b i : Nat) (c : Check) (s : State) : Host.Outcome State Fault Refusal :=
  .next (s.formStep b i 1 2 c fun t x => t.anvilWork b i 2 x)

/-- NORM (R116, R117). -/
def execNorm (b i : Nat) (c : Check) (s : State) : Host.Outcome State Fault Refusal :=
  .next (s.formStep b i 1 3 c fun t x => t.anvilWork b i 3 x)

/-- ROWSUM (R116). -/
def execRowsum (b i : Nat) (c : Check) (s : State) : Host.Outcome State Fault Refusal :=
  .next (s.formStep b i 1 4 c fun t x => t.anvilWork b i 4 x)

/-- COLSUM (R116). -/
def execColsum (b i : Nat) (c : Check) (s : State) : Host.Outcome State Fault Refusal :=
  .next (s.formStep b i 1 5 c fun t x => t.anvilWork b i 5 x)

/-- MAX (R89, R478). -/
def execMax (b i : Nat) (c : Check) (s : State) : Host.Outcome State Fault Refusal :=
  .next (s.formStep b i 1 6 c fun t x => t.anvilWork b i 6 x)

/-- MIN (R89, R478). -/
def execMin (b i : Nat) (c : Check) (s : State) : Host.Outcome State Fault Refusal :=
  .next (s.formStep b i 1 7 c fun t x => t.anvilWork b i 7 x)

/-- UPDATE (R221). -/
def execUpdate (b : Nat) (c : Check) (s : State) : Host.Outcome State Fault Refusal :=
  .next (s.formStep b 2 2 0 c fun t x => t.temperWork b false x)

/-- REPLAY (R222). -/
def execReplay (b : Nat) (c : Check) (s : State) : Host.Outcome State Fault Refusal :=
  .next (s.formStep b 2 2 1 c fun t x => t.temperWork b true x)

/-- CONVERT (R80-R86). -/
def execConvert (b i : Nat) (c : Check) (s : State) : Host.Outcome State Fault Refusal :=
  .next (s.formStep b i 3 0 c fun t x => t.quenchWork b i 0 x)

/-- FINISH (R83, R111-R113). -/
def execFinish (b i : Nat) (c : Check) (s : State) : Host.Outcome State Fault Refusal :=
  .next (s.formStep b i 3 1 c fun t x => t.quenchWork b i 1 x)

/-- ZFILL (R112, R133). -/
def execZfill (b i : Nat) (c : Check) (s : State) : Host.Outcome State Fault Refusal :=
  .next (s.formStep b i 3 2 c fun t x => t.quenchWork b i 2 x)

/-- GATHER (R135). -/
def execGather (b : Nat) (c : Check) (s : State) : Host.Outcome State Fault Refusal :=
  .next (s.formStep b 5 4 0 c fun t x => t.formeWork b 5 0 x)

/-- SCATTER (R135). -/
def execScatter (b : Nat) (c : Check) (s : State) : Host.Outcome State Fault Refusal :=
  .next (s.formStep b 5 4 1 c fun t x => t.formeWork b 5 1 x)

/-- PERMUTE (R135). -/
def execPermute (b : Nat) (c : Check) (s : State) : Host.Outcome State Fault Refusal :=
  .next (s.formStep b 5 4 2 c fun t x => t.formeWork b 5 2 x)

/-- STRIDED (R135). -/
def execStrided (b : Nat) (c : Check) (s : State) : Host.Outcome State Fault Refusal :=
  .next (s.formStep b 5 4 3 c fun t x => t.formeWork b 5 3 x)

/-- SELECT (R88, R136). -/
def execSelect (b : Nat) (c : Check) (s : State) : Host.Outcome State Fault Refusal :=
  .next (s.formStep b 6 5 0 c fun t x => t.selectWork b 6 x)

/-- TOPK (R90, R136). -/
def execTopk (b : Nat) (c : Check) (s : State) : Host.Outcome State Fault Refusal :=
  .next (s.formStep b 6 5 1 c fun t x => t.topkWork b 6 x)

/-- SORT (R90, R137). -/
def execSort (b : Nat) (c : Check) (s : State) : Host.Outcome State Fault Refusal :=
  .next (s.formStep b 7 6 0 c fun t x => t.galleyWork b 7 0 x)

/-- MERGE (R90, R137). -/
def execMerge (b : Nat) (c : Check) (s : State) : Host.Outcome State Fault Refusal :=
  .next (s.formStep b 7 6 1 c fun t x => t.galleyWork b 7 1 x)

/-- MATVEC (R76, R138). -/
def execMatvec (b : Nat) (c : Check) (s : State) : Host.Outcome State Fault Refusal :=
  .next (s.formStep b 8 7 0 c fun t x => t.platenWork b 8 0 x)

/-- OUTER (R76, R138). -/
def execOuter (b : Nat) (c : Check) (s : State) : Host.Outcome State Fault Refusal :=
  .next (s.formStep b 8 7 1 c fun t x => t.platenWork b 8 1 x)

/-- DIGEST_PKT (R139). -/
def execDigestPkt (b : Nat) (c : Check) (s : State) : Host.Outcome State Fault Refusal :=
  .next (s.formStep b 9 8 0 c fun t x => t.proofWork b 9 0 x)

/-- DIGEST_TILE (R139). -/
def execDigestTile (b : Nat) (c : Check) (s : State) : Host.Outcome State Fault Refusal :=
  .next (s.formStep b 9 8 1 c fun t x => t.proofWork b 9 1 x)

/-! ### Stream end, recomputation, retirement (R46, R141, R150, R170) -/

/-- A stream that has done its work completes. -/
def State.endStream (s : State) (b i : Nat) (x : Stream) : State :=
  let t := s.finishStream b i x
  if kindCode i = 2 then (t.temperDone x).tmpBoundary b else t

/-- STREAM_END (R170): every token has crossed its port and every fabric write is acknowledged. -/
def execStreamEnd (b i : Nat) (s : State) : Host.Outcome State Fault Refusal :=
  match s.stream b i with
  | none => .next s
  | some x => .next (if s.benchRuns b ∧ i < 10 ∧ ¬ s.flag (Stn.recomputing b i) ∧ s.streamDone b i x then s.endStream b i x else s)

/-- The single recomputation of the failing position from its retained inputs (R46, R127). -/
def State.recompute (s : State) (b i : Nat) (x : Stream) : State :=
  let s := ((s.set (Stn.recomputing b i) 0).bump (Stn.recomputes b i) 1).onStream b i fun y => { y with recomputes := y.recomputes + 1 }
  match s.stationWork b i x.form { x with recomputes := x.recomputes + 1 } with
  | .wait => s
  | .stop t => t
  | .ok t => t

/-- TILE_RECOMPUTATION (R46, R141): a recomputation that fails its checks again is logged and the bench retired, cause 1; the
spare then performs it (R151). -/
def execTileRecomputation (b i : Nat) (ok : Bool) (s : State) : Host.Outcome State Fault Refusal :=
  match s.stream b i with
  | none => .next s
  | some x =>
    .next (
      if s.benchRuns b ∧ i < 10 ∧ s.flag (Stn.recomputing b i) then
        if ok then s.recompute b i x else (s.checkFail b i).retireStart b 1
      else s)

/-- The key of a measurement entry: KIND, INDEX, and the bank of a bench's memory (R425). -/
def measKey (kind index bank : Nat) : Nat := 1024 * kind + 2 * index + bank

/-- Whether a measurement is that of a Compositor or Temper bank. -/
def isBankMeas (k : Nat) : Bool := k / 1024 == 3 || k / 1024 == 4

/-- The measurements of a bench's banks moved with their copies to another's. -/
def State.moveMeas (s : State) (b k : Nat) : State :=
  let mine (x : Nat) (e : Nat × Meas) : Bool := isBankMeas e.1 && e.1 % 1024 / 2 == x
  let kept : Tab Meas := s.meas.filter fun e => !mine b e && !mine k e
  { s with meas := (s.meas.filter (mine b)).foldl (fun (t : Tab Meas) (e : Nat × Meas) => Tab.put t (e.1 - 2 * b + 2 * k) e.2) kept }

/-- Memory with the n bytes at src copied to dst. -/
def moveCells (m : List Host.Cell) (src dst n : Nat) : List Host.Cell :=
  m.filter (fun c => decide (c.1 < dst)) ++
    (m.filter fun c => decide (src ≤ c.1 ∧ c.1 < src + n)).map (fun c => (c.1 - src + dst, c.2)) ++
    m.filter (fun c => decide (dst + n ≤ c.1))

/-- n bytes copied from one address to another, with their errors. -/
def State.copyRange (s : State) (src dst n : Nat) : State :=
  { s with
    mem := moveCells s.mem src dst n
    badWords := (s.badWords.filter fun a => decide (¬ (dst ≤ a ∧ a < dst + n))) ++
      (s.badWords.filter fun a => decide (src ≤ a ∧ a < src + n)).map fun a => dst + (a - src) }

/-- The memories of a bench copied to another: data memory and descriptors, instruction banks, Temper banks, stone window. -/
def State.copyMem (s : State) (b k : Nat) : State :=
  let s := s.copyRange (benchBase b + 0x20000) (benchBase k + 0x20000) 0x30000
  let s := s.copyRange (benchBase b + 0x80000) (benchBase k + 0x80000) 0x8000
  s.copyRange (s.window b) (s.window k) 0xE00000

/-- The register fields of bench b's block from an offset range, as (bench offset x 64 + lowest bit, value). -/
def State.benchFields (s : State) (b : Nat) : Tab Nat :=
  (s.csr.filter fun e => decide (64 * (benchBase b + 0x1000) ≤ e.1 ∧ e.1 < 64 * (benchBase b + 0x50000)) &&
    !decide (64 * (benchBase b + 0xF000) ≤ e.1 ∧ e.1 < 64 * (benchBase b + 0x10000))).map fun e => (e.1 - 64 * benchBase b, e.2)

/-- Station and Compositor registers, streams, queues and Compositor state moved from a bench to another (R150 order 3). -/
def State.copyBench (s : State) (b k : Nat) : State :=
  let fs := s.benchFields b
  let here (e : Nat) : Bool := decide (64 * (benchBase k + 0x1000) ≤ e ∧ e < 64 * (benchBase k + 0x50000)) &&
    !decide (64 * (benchBase k + 0xF000) ≤ e ∧ e < 64 * (benchBase k + 0x10000))
  let csr := fs.foldl (fun t e => Tab.put t (e.1 + 64 * benchBase k) e.2) (s.csr.filter fun e => !here e.1)
  let moveTab {α : Type} (t : Tab α) (unit : Nat) : Tab α :=
    (t.filter fun e => e.1 / unit == b).foldl (fun u e => Tab.put u (e.1 % unit + unit * k) e.2)
      (t.filter fun e => e.1 / unit != b && e.1 / unit != k)
  let owner (o : Option (Nat × Nat)) : Option (Nat × Nat) := o.map fun e => if e.1 = b then (k, e.2) else e
  let flight (f : Flight) : Flight := { f with owner := owner f.owner }
  { s with
    csr := csr
    comps := moveTab s.comps 1
    streams := moveTab s.streams 16
    queues := moveTab s.queues 64
    stnCnt := moveTab s.stnCnt 4096
    veils := moveTab s.veils 16
    dsts := s.dsts.map fun e => (e.1, { e.2 with flights := e.2.flights.map flight, waiting := e.2.waiting.map flight }) }

/-- Every stream of a retiring bench gets its record of abandonment, and its continuation begins a record of its own (R439). -/
def State.abandonStreams (s : State) (b k : Nat) : State :=
  (List.range 10).foldl (fun t i =>
    match t.stream b i with
    | none => t
    | some x =>
      let t := t.latchStream b i x 3
      t.setStream b i { x with startStamp := t.now, startEvent := t.get (Rgn.event k), startStep := x.startStep
                               startCnt := t.latchNow b i x.dstFmt, units := 0, tokensIn := 0, tokensOut := 0 }) s

/-- A place of bench b's stone window moved to bench k's; any other stays. -/
def State.moveAddr (s : State) (b k a : Nat) : Nat :=
  if s.window b ≤ a ∧ a < s.window b + 0xE00000 then a - s.window b + s.window k else a

/-- A descriptor whose BASE lies in bench b's window, moved to bench k's. -/
def State.moveDesc (s : State) (b k w : Nat) : Nat :=
  if bits w 4 3 = 1 then w - bits w 16 48 * 2 ^ 16 + s.moveAddr b k (bits w 16 48) * 2 ^ 16 else w

/-- The descriptor table of bench k moved from bench b's window to its own (R147; log entry 16). -/
def State.rebaseDescs (s : State) (b k : Nat) : State :=
  (s.validHandles k).foldl (fun t h => t.storeNat (descAddr k h) 64 (s.moveDesc b k (t.rdNat (descAddr k h) 64))) s

/-- What names a place of one bench's stone window, moved to the other's (R147; log entry 16): descriptors of the table and of
launched streams, token words, completion words. -/
def State.rebase (s : State) (b k : Nat) : State :=
  let mv (a : Nat) : Nat := s.moveAddr b k a
  let off := stoneBase (b / 5)
  let desc (w : Nat) : Nat := s.moveDesc b k w
  let tok (w : Nat) : Nat := w - bits w 32 27 * 2 ^ 32 + (mv (off + bits w 32 27) - off) * 2 ^ 32
  let strm (x : Stream) : Stream := { x with descs := x.descs.map (fun d => (d.1, desc d.2)), sigAddr := mv x.sigAddr }
  let queue (q : Queue) : Queue := { q with toks := q.toks.map tok }
  let veil (v : Veil) : Veil := { v with addr := mv v.addr, sig := v.sig.map mv }
  let s := { s with
    streams := s.streams.map fun (e : Nat × Stream) => if e.1 / 16 = k then (e.1, strm e.2) else e
    queues := s.queues.map fun (e : Nat × Queue) => if e.1 / 64 = k then (e.1, queue e.2) else e
    veils := s.veils.map fun (e : Nat × List Veil) =>
      if e.1 / 16 = k then (e.1, e.2.map veil) else e }
  s.rebaseDescs b k

/-- The STATE that a spare takes over (R150 order 4; log entry 16): running on a running device, or as the bench was. -/
def State.takenState (s : State) (b : Nat) : Nat :=
  if s.get (Stn.state b 15) = 3 then 2 else if s.running ∧ s.get (Stn.state b 15) ≠ 0 then 1 else 0

/-- Orders 3 to 6 of R150. -/
def State.handover (s : State) (b k : Nat) : State :=
  let st := s.takenState b
  let s := ((((s.abandonStreams b k).copyMem b k).copyBench b k).moveMeas b k).rebase b k
  let s := s.setAll [(Ben.logical k, s.get (Ben.logical b)), (Ben.lvalid k, 1), (Ben.state k, st),
    (Rgn.state k, if st = 1 then 0 else 1), (Ben.state b, 5), (Ben.cause b, Tab.get s.retCause 0 b), (Ben.lvalid b, 0), (Rgn.state b, 3), (Rgn.vread b, 0), (Ben.cause k, 0)]
  (if st = 0 then s.boundaries k else s).slowSend b 1

/-- A retirement abandoned at its handover: the spare's CAUSE is 4, the bench is lost as on a die with no spare (R150). -/
def State.handoverFailed (s : State) (b k : Nat) : State :=
  let cause := Tab.get s.retCause 0 b
  ((s.setAll [(Ben.cause k, 4), (Ben.state k, 5), (Rgn.state k, 3), (Rgn.vread k, 0)]).loseBench b cause).slowSend b 1

/-- Retirements of a die that waited for another find no spare (R13, R151). -/
def State.waitingRetire (s : State) (n : Nat) : State :=
  if (s.spareOf n).isSome then s
  else (List.range 5).foldl (fun t j =>
    if t.get (Ben.state (5 * n + j)) = 3 then t.loseBench (5 * n + j) (Tab.get t.retCause 0 (5 * n + j)) else t) s

end Sys2Proof.Machine
end

