-- ==== Sys2Proof/Machine/Weights.lean ====
section
/-! DEFINITION. The weight service: layers, row records, fetch requests, replies, miss reports (R23, R179-R201). -/

namespace Sys2Proof.Machine

open Sys2Proof

/-! ### The checks of the layer table (R180) -/

/-- The handles that a layer descriptor names. -/
def lyHandles (w : Nat) : List Nat :=
  [bits w 80 10, bits w 90 10] ++ (if lyMode w = 1 then [bits w 100 10, bits w 110 10] else []) ++
    ((List.range (lySets w)).map fun m =>
      let e := lySet w m
      [bits e 0 10, bits e 10 10] ++ (if bitAt e 30 then [bits e 31 10] else [])).flatten

/-- Whether a layer descriptor passes the checks of R180; the serving bench of ordinal j is logical bench j (log entry 17). -/
def State.layerOk (s : State) (i : Nat) : Bool :=
  let w := s.layer i
  let n := lyBenches w
  (s.readErr (s.layerAddr i) 128).isNone && bits w 0 4 == 1 && bits w 6 2 == 0 && bits w 12 4 == 0 && bits w 46 2 == 0 && bits w 72 8 == 0 &&
    bits w 120 8 == 0 && bits w 152 8 == 0 && bits w 285 227 == 0 && decide (1 ≤ lySets w ∧ lySets w ≤ 8 ∧ 1 ≤ lyRows w ∧ 1 ≤ n ∧ n ≤ 32) &&
    lyCapb w == ceilDiv (lyRows w) n && decide (lyCapb w ≤ 1048576) &&
    (lyVerifyN w == 0 && bits w 240 16 == 0 || decide (bits w 240 16 < lyVerifyN w)) &&
    (lyMode w != 1 || decide (1 ≤ lySketch w ∧ lySketch w ≤ 512 ∧ 1 ≤ lyRank w ∧ lyRank w ≤ 256) && (lyPfmt w == 9 || lyPfmt w == 10)) &&
    (lyMode w != 3 || decide (lyPool w ≤ 2)) && (List.range (lySets w)).all (fun m => setOk (lySet w m)) &&
    (List.range n).all fun j =>
      match s.physOf j with
      | some b => (lyHandles w).all fun h => (s.desc b h).any fun d => d.base % 32 == 0
      | none => false

/-- Firmware's check of the layer table at START (R180): an unusable layer is marked and logged. -/
def State.checkLayers (s : State) : State :=
  (List.range (s.get Ws.ltCount)).foldl (fun t i =>
    if s.layerOk i then t else { t with badLayers := t.badLayers ++ [i] }.logE clAccess .hub (s.layerAddr i) []) { s with badLayers := [] }

/-! ### Requests (R187-R189) -/

/-- KIND of a request head. -/
def fqKind (h : Nat) : Nat := bits h 4 4
/-- LAYER. -/
def fqLayer (h : Nat) : Nat := bits h 16 16
/-- STEP. -/
def fqStep (h : Nat) : Nat := bits h 64 64
/-- NIDX. -/
def fqNidx (h : Nat) : Nat := bits h 184 24
/-- BAG. -/
def fqBag (h : Nat) : Nat := bits h 224 8
/-- A head with PART zero. -/
def fqHead (h : Nat) : Nat := h - bits h 208 16 * 2 ^ 208

/-- The packets of a request. -/
def fqParts (h : Nat) : Nat := if 2 ≤ fqKind h then max 1 (ceilDiv (fqNidx h) 2040) else 1

/-- The body length of part k. -/
def fqBody (h k : Nat) : Nat :=
  if fqKind h = 0 then 0 else if fqKind h = 1 then roundUp (fqNidx h) 8 else 4 * min 2040 (fqNidx h - 2040 * k)

/-- Whether two requests from one source are one: LAYER, TBLOCK, STEP and PASS agree (R200). -/
def fqSame (a b : Nat) : Bool :=
  bits a 8 1 == bits b 8 1 && bits a 16 112 == bits b 16 112

/-- The kinds that a MODE accepts (R188). -/
def kindInMode (mode kind : Nat) : Bool :=
  match kind with
  | 0 => decide (mode ≤ 2)
  | 1 => mode == 1
  | 2 => true
  | 3 => mode == 2
  | 4 => mode == 3
  | _ => false

/-- The indices of a request, parts in order. -/
def FetchReq.indices (q : FetchReq) : List Nat :=
  (chunks 4 (((List.range (fqParts q.head)).map fun k => Tab.get q.parts [] k).flatten)).map leNat

/-- Whether a list of indices strictly rises. -/
def rises : List Nat → Bool
  | a :: b :: rest => decide (a < b) && rises (b :: rest)
  | _ => true

/-- The update signal word of a bucket (R220): one more than the newest step whose compact copy is complete. -/
def State.updValue (s : State) (bucket : Nat) : Nat :=
  match s.bucket bucket with
  | some k => if k.updWord = 0 ∨ s.readErr k.updWord 8 ≠ none then 0 else s.rdNat k.updWord 8
  | none => 0

/-- Whether the compact slot of a parity is marked empty. -/
def State.slotEmpty (s : State) (bucket par : Nat) : Bool := if par = 0 then (s.bk bucket).empty0 else (s.bk bucket).empty1

/-- The steps that the two slots of a bucket hold, lower first (R23, R186). The older one is gone once Quench writes its slot. -/
def State.heldSteps (s : State) (bucket : Nat) : Option Nat × Option Nat :=
  let v := s.updValue bucket
  if v = 0 then (none, none)
  else
    let n := v - 1
    let newest := if s.slotEmpty bucket (n % 2) then none else some n
    let older := if n = 0 ∨ s.slotEmpty bucket ((n + 1) % 2) ∨ (s.bk bucket).copying = some n then none else some (n - 1)
    (older, newest)

/-- Whether a layer is in the table and usable (R180). -/
def State.layerKnown (s : State) (i : Nat) : Bool := decide (i < s.get Ws.ltCount) && i ∉ s.badLayers

/-- The status of a request whose parts are gathered (R189). None where it waits under R23. -/
def State.fetchStatus (s : State) (q : FetchReq) : Option Nat :=
  let h := q.head
  let kind := fqKind h
  let i := fqLayer h
  let known := s.layerKnown i
  let w := s.layer i
  let n := fqNidx h
  let idx := q.indices
  let (older, newest) := s.heldSteps (lyBucket w)
  if bits h 0 4 ≠ 1 then some 2
  else if 4 < kind ∨ bits h 9 7 ≠ 0 ∨ bits h 144 6 ≠ 0 ∨ bits h 232 24 ≠ 0 ∨ (known ∧ ¬ kindInMode (lyMode w) kind) then some 3
  else if !known then some 4
  else if q.bad ∨ (kind = 1 ∧ n ≠ lySketch w) ∨ (kind = 0 ∧ n ≠ 0) ∨ (kind = 4 ∧ fqBag h ≠ 0 ∧ n % fqBag h ≠ 0) then some 6
  else if 2 ≤ kind ∧ (idx.any (fun k => k != skipIdx && decide (lyRows w ≤ k)) ∨ (kind = 3 ∧ ¬ rises idx)) then some 5
  else if some (fqStep h) = older ∨ some (fqStep h) = newest then some 0
  else if fqStep h = s.updValue (lyBucket w) then none
  else some 1

/-! ### Writing into the requester's buffer (R190, R191) -/

/-- Bytes at a buffer offset cut into packets' payloads. -/
def cutWrites (l : List (Nat × List Byte)) : List (Nat × List Byte) :=
  (l.map fun e => ((chunks 8192 e.2).zip (List.range e.2.length)).map fun c => (e.1 + 8192 * c.2, c.1)).flatten

/-- Writes into the buffer of a request by slice n, and after their acknowledgement one add to the completion word. -/
def State.sendReply (s : State) (n : Nat) (q : FetchReq) (writes : List (Nat × List Byte)) (inc bench : Nat) : State :=
  let base := bits q.head 150 34 * 64
  let rh := bits q.head 128 16
  let ws := cutWrites writes
  let k := ((List.range (s.dmas.length + 1)).find? fun j => (Tab.find s.dmas j).isNone).getD 0
  let d : Dma := { left := max 1 ws.length, dst := q.src, rh := rh, off := base, inc := inc + bench * 2 ^ 64, ord := q.ord }
  let s := { s with dmas := Tab.put s.dmas k d }
  if ws = [] then s.dmaAcked k
  else ws.foldl (fun t e =>
    t.inject n none (some k) { vc := 0, kind := 0, dst := q.src, rhandle := rh, offset := base + e.1, ordinal := q.ord, payload := e.2 }) s

/-- A held step as the refusal record gives it. -/
def heldNat (o : Option Nat) : Nat := o.getD 0xFFFFFFFFFFFFFFFF

/-- A request refused (R189-R191, R201): entry, registers, refusal record, one add of 2^63 from ordinal 0. -/
def State.refuseFetch (s : State) (q : FetchReq) (status : Nat) : State :=
  let h := q.head
  let i := fqLayer h
  let w := s.layer i
  let a := if status = 4 then s.get Ws.ltBase else s.layerAddr i
  let more := if status = 1 then [(lyBucket w, 24), (fqStep h, 64)] else []
  let s := s.logE (if status = 1 ∨ status = 2 then clSequence else clAccess) .hub a ((q.src, 20) :: more)
  let s := (s.bump Ws.refusals 1).setAll [(Ws.lastStatus, status), (Ws.lastLayer, i), (Ws.lastSrc, q.src), (Ws.lastStep, fqStep h), (Ws.refusedEvt, 1)]
  let (x, y) := if s.layerKnown i then s.heldSteps (lyBucket w) else (none, none)
  let lo := min (heldNat x) (heldNat y)
  let hi := max (heldNat x) (heldNat y)
  s.sendReply (((s.physOf 0).getD 0) / 5) q [(8, leBytes 24 (status + lo * 2 ^ 64 + hi * 2 ^ 128))] (2 ^ 63) 0

/-! ### Serving (R192-R197) -/

/-- Bytes of one segment of the list area. -/
def listSegment (w : Nat) : Nat := roundUp (8 + 4 * lyCapb w) 64

/-- Buffer offset of slot k of row set m, for areas of n slots whose sizes are given per row set. -/
def slotOffset (w : Nat) (size : Nat → Nat) (n m k : Nat) : Nat :=
  0x40 + lyBenches w * listSegment w + ((List.range m).map fun j => n * size j).sum + k * size m

/-- The writes of rows of a bench: (slot, local row) pairs, every row set. -/
def State.rowWrites (s : State) (b w step n : Nat) (rows : List (Nat × Nat)) : List (Nat × List Byte) :=
  let size (m : Nat) : Nat := rowSlot (rsFmt (lySet w m)) (rsTiles (lySet w m))
  (rows.map fun r => (List.range (lySets w)).map fun m => (slotOffset w size n m r.1, s.rowBytes b w m step r.2)).flatten

/-- The first unreadable row of those that a bench sends. -/
def State.badRow (s : State) (b w step : Nat) (rows : List (Nat × Nat)) : Option Nat :=
  (rows.map fun r => (List.range (lySets w)).filterMap fun m =>
    s.readErr (s.rowAddr b w m step r.2) (rowSlot (rsFmt (lySet w m)) (rsTiles (lySet w m)))).flatten.head?

/-- h of R192 with the kinds of its conversions. -/
def State.sketchH (s : State) (b w : Nat) (x : List Val) : List (Val × List Nat) :=
  match s.desc b (bits w 100 10) with
  | none => []
  | some d =>
    (List.range (lyRank w)).map fun r =>
      let e := intEncode (elemWidth (lyPfmt w)) .rne (Val.mul (fp32.decode (bits w 160 32)) (dotVals ((s.matrixRow b d r).take (lySketch w)) x).1).1
      (decodeElem (lyPfmt w) 0 e.code, e.kinds)

/-- The active local rows of a bench (R192, R193 orders 3 and 4), those that INV names. -/
def State.activeRows (s : State) (b w : Nat) (h : List Val) : List Nat :=
  match s.desc b (bits w 110 10) with
  | none => []
  | some d =>
    (List.range (lyCapb w)).filter fun l =>
      s.logicalRow b w l != skipIdx && decide (sext 32 (bits w 192 32) ≤ (dotVals ((s.matrixRow b d l).take (lyRank w)) h).1.units 0)

/-- Whether a step is a verify step of a layer (R194). -/
def verifyStep (w step : Nat) : Bool := lyMode w == 1 && lyVerifyN w != 0 && step % max 1 (lyVerifyN w) == bits w 240 16

/-- What a serving bench sends: rows as (slot, local row), and its list segment; how many listed indices Forme skips, and the kinds of the
conversions to h (R192). -/
structure Share where
  rows   : List (Nat × Nat)
  list   : Option (List Nat) := none
  active : Nat := 0
  skips  : Nat := 0
  kinds  : List (List Nat) := []
  deriving DecidableEq, Repr

/-- Every logical row that a bench holds, at its own slot. -/
def State.allRows (s : State) (b w : Nat) : List (Nat × Nat) :=
  ((List.range (lyCapb w)).map fun l => (s.logicalRow b w l, l)).filter fun e => e.1 != skipIdx

/-- The share of the bench of ordinal j of a request without pooling. -/
def State.shareOf (s : State) (q : FetchReq) (b : Nat) : Share :=
  let h := q.head
  let w := s.layer (fqLayer h)
  match fqKind h with
  | 0 => { rows := s.allRows b w }
  | 1 =>
    let x := ((Tab.get q.parts [] 0).take (fqNidx h)).map fun c => decodeElem 9 0 c.toNat
    let hs := s.sketchH b w x
    let act := s.activeRows b w (hs.map (·.1))
    let named := act.map fun l => (s.logicalRow b w l, l)
    { rows := if verifyStep w (fqStep h) then s.allRows b w else named, list := some (named.map (·.1)), active := act.length
      skips := lyCapb w - act.length, kinds := hs.map (·.2) }
  | k =>
    let rows := ((q.indices.zip (List.range q.indices.length)).map fun e => (if k = 4 then e.2 else e.1, s.localRow b w e.1)).filter fun e => e.2 != skipIdx
    { rows := rows, skips := q.indices.length - rows.length }

/-- Tokens that a station of a serving bench takes and emits outside a stream record. -/
def State.ranTokens (s : State) (b i nin nout : Nat) : State :=
  (((s.bump (Stn.tokensIn b i) nin).bump (Stn.tokensOut b i) nout).bump (Aoc.tokens b) nout).bump (Rgn.event b) nout

/-- Orders 2 to 5 of R193 on the stations' counters: Platen and Quench form h and the scores row by row, Hardy selects, Forme gathers the
listed rows of every row set and skips the padding. The token counts follow from SKETCH, RANK, CAPB, NSETS and TILES, or from the list's
length (log entry 17). -/
def State.ranStations (s : State) (q : FetchReq) (b : Nat) (sh : Share) : State :=
  let h := q.head
  let w := s.layer (fqLayer h)
  let tiles := ((List.range (lySets w)).map fun m => rsTiles (lySet w m)).sum
  let n := if fqKind h ≤ 1 then lyCapb w else fqNidx h
  let s := if fqKind h = 1 then
      let k := lyRank w + lyCapb w
      ((((s.countConv b 3 (lyPfmt w) sh.kinds).ranTokens b 8 2 k).ranTokens b 3 k k).ranTokens b 6 (ceilDiv n 1024) (ceilDiv n 1024)).bump
        (Stn.hdSelected b 6) sh.active
    else s
  let s := if fqKind h = 1 ∧ verifyStep w (fqStep h) then s.ranTokens b 5 0 (lyCapb w * tiles) else s
  (s.ranTokens b 5 (if fqKind h = 0 then 0 else ceilDiv n 1024) (n * tiles)).bump (Stn.fmSkips b 5) sh.skips

/-- The slots of each row set area (R190). -/
def fetchSlots (h w : Nat) : Nat := if fqKind h = 4 then fqNidx h else lyRows w

/-- The service of one bench: its list segment, its rows, its add. An unreadable row halts the bench (R142). -/
def State.serveBench (s : State) (q : FetchReq) (j b : Nat) (sh : Share) : State :=
  let w := s.layer (fqLayer q.head)
  let step := fqStep q.head
  match s.badRow b w step sh.rows with
  | some a => s.stnUncorr b 5 a
  | none =>
    let list := match sh.list with
      | some l => [(0x40 + j * listSegment w, leBytes 8 l.length ++ (l.map (leBytes 4)).flatten)]
      | none => []
    let ws := list ++ s.rowWrites b w step (fetchSlots q.head w) sh.rows
    let i := fqLayer q.head
    let ct := s.get Ws.ctBase + 64 * i
    let add (t : State) (k v : Nat) : State := t.storeNat (ct + 8 * k) 8 ((t.rdNat (ct + 8 * k) 8 + v) % 2 ^ 64)
    let s := add (add (add (s.ranStations q b sh) 1 sh.rows.length) 2 ((ws.map (·.2.length)).sum)) 3 sh.active
    s.sendReply (b / 5) q ws (2 ^ 32 + sh.rows.length) (s.logical b)

/-! ### Pooled rows (R197) -/

/-- The bench that holds the row of an index, with the local row. -/
def State.heldAt (s : State) (w i : Nat) : Option (Nat × Nat) :=
  (List.range (lyBenches w)).findSome? fun j =>
    (s.physOf j).bind fun b => let l := s.localRow b w i; if l = skipIdx then none else some (b, l)

/-- The row of an index in row set m, from the bench that holds it. -/
def State.heldRow (s : State) (w m step i : Nat) : Option (List Val) :=
  (s.heldAt w i).map fun e => recordRow (rsFmt (lySet w m)) (bitAt (lySet w m) 30) (s.rowBytes e.1 w m step e.2)

/-- The exponent byte of a value (R95): 0 for zero, 1 for subnormals. -/
def expByte (v : Val) : Nat :=
  match v with
  | .fin _ m e => if m = 0 then 0 else ((Nat.log2 m : Int) + e + 127).toNat |> max 1
  | _ => 0

/-- A block of a bag summed on the grid of its largest element and rounded once (R197): codes and kinds of its elements, INVALID where both
infinities met (R111), and the kinds of the conversions to the grid (R101). -/
def poolBlock (fmt : Nat) (rows : List (List Val)) : List (Nat × List Nat) × List (List Nat) :=
  let all := rows.flatten
  let special := all.any fun v => !v.finite
  let fmax := (all.map expByte).foldl max 0
  let parts := rows.filterMap (Part.ofVals special fmax fmax)
  let (vals, clash) : List Val × List (List Nat) := match parts.map (·.1) with
    | [] => (List.replicate 32 (Val.fin false 0 0), [])
    | p :: rest =>
      let t := rest.foldl Part.add p
      (if fmax = 0 ∧ ¬ special then (List.range 32).map fun i => .fin (bitAt t.nzm i) 0 0 else t.vals special, clashKinds t)
  (vals.zipIdx.map fun v => let e := (fpOf fmt).encode .rne v.1; (e.code, mergeKinds v.1 (nth [] clash v.2) e.kinds), (parts.map (·.2)).flatten)

/-- Block k of a row. -/
def blockAt (vs : List Val) (k : Nat) : List Val := (vs.drop (32 * k)).take 32

/-- What a bench makes of a bag in one row set: the row record, the kinds of its conversions, those of the conversions to the grid, and the
values that Anvil read with their format. -/
structure Pooled where
  bytes : List Byte
  kinds : List (List Nat)
  grid  : List (List Nat)
  fmt   : Nat
  vals  : List Val
  deriving DecidableEq, Repr

/-- The pooled row of bag k in row set m, as a row record. -/
def State.pooledRow (s : State) (q : FetchReq) (w m k : Nat) : Pooled :=
  let bag := fqBag q.head
  let step := fqStep q.head
  let tiles := rsTiles (lySet w m)
  let rows := ((q.indices.drop (bag * k)).take bag).filterMap fun i => (s.heldRow w m step i).map fun vs => vs.map (capMx (rsFmt (lySet w m)))
  let bs := (List.range (32 * tiles)).map fun t => poolBlock (lyPool w) (rows.map fun r => blockAt r t)
  let cs := (bs.map (·.1)).flatten
  let width := elemWidth (lyPool w)
  { bytes := denseHead k (lyPool w) tiles step ++ leBytes (tiles * tileBytes (lyPool w)) (packCodes width (cs.map (·.1)))
    kinds := cs.map (·.2), grid := (bs.map (·.2)).flatten, fmt := rsFmt (lySet w m), vals := rows.flatten }

/-- The first unreadable row of those that some bags hold. -/
def State.badBag (s : State) (q : FetchReq) (w : Nat) (bags : List Nat) : Option Nat :=
  let idx := (bags.map fun k => (q.indices.drop (fqBag q.head * k)).take (fqBag q.head)).flatten
  (idx.filterMap (s.heldAt w)).findSome? fun e => s.badRow e.1 w (fqStep q.head) [(0, e.2)]

/-- A pooled request: bag k is written by the bench of ordinal k mod NBENCH (log entry 17). -/
def State.servePooled (s : State) (q : FetchReq) (w j b : Nat) : State :=
  let bags := fqNidx q.head / fqBag q.head
  let mine := (List.range bags).filter fun k => k % lyBenches w == j
  match s.badBag q w mine with
  | some a => s.stnUncorr b 5 a
  | none =>
  let size (m : Nat) : Nat := rowSlot (lyPool w) (rsTiles (lySet w m))
  let out := (mine.map fun k => (List.range (lySets w)).map fun m => (slotOffset w size bags m k, s.pooledRow q w m k)).flatten
  let ws := out.map fun e => (e.1, e.2.bytes)
  let ct := s.get Ws.ctBase + 64 * fqLayer q.head
  let add (t : State) (k v : Nat) : State := t.storeNat (ct + 8 * k) 8 ((t.rdNat (ct + 8 * k) 8 + v) % 2 ^ 64)
  let s := out.foldl (fun t e => ((t.countIn b 0 e.2.fmt e.2.vals).countConv b 0 e.2.fmt e.2.grid).countConv b 3 (lyPool w) e.2.kinds) s
  let s := add (add s 1 mine.length) 2 ((ws.map (·.2.length)).sum)
  s.sendReply (b / 5) q ws (2 ^ 32 + mine.length) (s.logical b)

/-- A request served by every serving bench (R188, R193, R199). -/
def State.serveFetch (s : State) (q : FetchReq) : State :=
  let i := fqLayer q.head
  let w := s.layer i
  let ct := s.get Ws.ctBase + 64 * i
  let s := (s.bump Ws.fetches 1).storeNat ct 8 ((s.rdNat ct 8 + 1) % 2 ^ 64)
  (List.range (lyBenches w)).foldl (fun t j =>
    match t.physOf j with
    | none => t
    | some b => if fqKind q.head = 4 ∧ fqBag q.head ≠ 0 then t.servePooled q w j b else t.serveBench q j b (t.shareOf q b)) s

/-- Whether a request has every part, or can have no more of them: its head or a part is bad. -/
def FetchReq.whole (q : FetchReq) : Bool := q.bad || bits q.head 0 4 != 1 || q.parts.length == fqParts q.head

/-- Whether a request waits for an update under R23. -/
def State.fetchWaits (s : State) (q : FetchReq) : Bool := q.whole && s.fetchStatus q == none

/-- The requests that wait under R23 counted in WAITING. -/
def State.showWaiting (s : State) : State := s.set Ws.waiting ((s.fetches.filter s.fetchWaits).length)

/-- A whole request: served, refused, or kept waiting (R23, R189). While the device is stopped it is held (R200). -/
def State.decideFetch (s : State) (q : FetchReq) : State :=
  if !s.running then { s with fetches := s.fetches ++ [q] }
  else
    match s.fetchStatus q with
    | none => { s with fetches := s.fetches ++ [q] }.showWaiting
    | some 0 => s.serveFetch q
    | some k => s.refuseFetch q k

/-- The requests held while the device was stopped are served or refused at START, under the layout that it leaves (R186, R200). -/
def State.serveHeld (s : State) : State :=
  let l := s.fetches.filter FetchReq.whole
  (l.foldl State.decideFetch { s with fetches := s.fetches.filter fun q => !q.whole }).showWaiting

/-- A part of a request (R187, R200). -/
def State.fetchBody (s : State) (p : Nat) (pkt : Pkt) : Done :=
  let h := leNat (pkt.payload.take 32)
  let k := bits h 208 16
  let body := pkt.payload.drop 32
  if pkt.payload.length < 32 ∨ pktVc pkt ≠ 0 then (s.logE clSequence (.port p) (pktSrc pkt) [], .nack 2)
  else
    let hit (q : FetchReq) : Bool := q.src == pktSrc pkt && fqSame q.head h && !q.whole
    let old := (s.fetches.find? hit).getD { src := pktSrc pkt, ord := pktOrd pkt, head := fqHead h, parts := [] }
    let s := { s with fetches := s.fetches.filter fun q => !hit q }
    let bad := old.head != fqHead h || (Tab.find old.parts k).isSome || decide (fqParts h ≤ k) || body.length != fqBody h k
    let q : FetchReq := { old with parts := Tab.put old.parts k body, head := fqHead h, bad := bad }
    (if q.whole then s.decideFetch q else { s with fetches := s.fetches ++ [q] }, .accept)

/-- FETCH_WAIT_ENDS (R23): the update signal word has reached the step that request idx names, plus one. -/
def execFetchWaitEnds (idx : Nat) (s : State) : Host.Outcome State Fault Refusal :=
  match s.fetches[idx]? with
  | none => .next s
  | some q =>
    .next (
      if s.active ∧ s.running ∧ q.whole ∧ fqStep q.head + 1 ≤ s.updValue (lyBucket (s.layer (fqLayer q.head))) then
        ({ s with fetches := s.fetches.eraseIdx idx }.decideFetch q).showWaiting
      else s)

/-- Every request that waits for a step is refused (R25, R200). -/
def State.refuseWaiting (s : State) : State :=
  let hit (q : FetchReq) : Bool := s.fetchWaits q
  ((s.fetches.filter hit).foldl (fun (t : State) (q : FetchReq) => t.refuseFetch q 1) { s with fetches := s.fetches.filter fun q => !hit q }).showWaiting

/-! ### Miss reports (R198, R199) -/

/-- A miss report: added to the layer's counters, or discarded and counted. -/
def State.missBody (s : State) (p : Nat) (pkt : Pkt) : Done :=
  let w := leNat pkt.payload
  let i := bits w 16 16
  let l := s.layer i
  let step := bits w 64 64
  let v := bitAt w 224
  if pkt.payload.length ≠ 32 then (s.logE clSequence (.port p) (pktSrc pkt) [], .nack 2)
  else if bits w 0 4 ≠ 1 ∨ bits w 4 4 ≠ 1 ∨ bits w 8 8 ≠ 0 ∨ bits w 225 31 ≠ 0 ∨ s.get Ws.ltCount ≤ i ∨ lyMode l ≠ 1 ∨
      v ≠ verifyStep l step ∨ (bits w 160 32 ≠ 0 ∧ ¬ verifyStep l step) then (s.bump Ws.reportsDiscarded 1, .accept)
  else
    let ct := s.get Ws.ctBase + 64 * i
    let add (t : State) (k n : Nat) : State := t.storeNat (ct + 8 * k) 8 ((t.rdNat (ct + 8 * k) 8 + n) % 2 ^ 64)
    let m := bits w 192 32
    let s := if v then add (add s 5 (bits w 160 32)) 6 m else add s 4 m
    (add s 7 1, .accept)

end Sys2Proof.Machine
end

