-- ==== Sys2Proof/Machine/HostOps.lean ====
section
/-! DEFINITION. What every host command shares: the checks of R396, mailboxes, replies, long commands, the latch areas
(R388-R403, R440). -/

namespace Sys2Proof.Machine

open Sys2Proof

/-! ### Arrival on the Dreril Link -/

/-- The flits of an arriving packet of n bytes on channel ch are counted, their credits due to go back (R388-R390). -/
def State.takeFlits (s : State) (ch n : Nat) : State :=
  let k := ceilDiv n 30
  { s with dreril := { s.dreril with
      rxSeq := (s.dreril.rxSeq + k) % 4096
      toReturn := Tab.set s.dreril.toReturn 0 ch (Tab.get s.dreril.toReturn 0 ch + k) } }

/-! ### The latch areas (R440) -/

/-- Word k of mailbox m's latch area. -/
def latchAddr (m k : Nat) : Nat := 0x3F000D060000 + 0x1000 * m + 8 * k

/-- The device-wide sum of conversion counter j = 8 x format code + kind. -/
def State.convSum (s : State) (j : Nat) : Nat := ((List.range 40).map fun b => s.get (Conv.count b (j / 8) (j % 8))).sum % 2 ^ 64

/-- The latch at a command's start (e = 0) or end (e = 1): the count and the 136 sums. -/
def State.latchArea (s : State) (m e : Nat) : State :=
  (s.storeNat (latchAddr m e) 8 s.now).store (latchAddr m (2 + 136 * e)) (((List.range 136).map fun j => leBytes 8 (s.convSum j)).flatten)

/-! ### Completion (R393, R401) -/

/-- A mailbox command completes: end latch, completion word, stored reply and state as one update, then the reply. -/
def State.complete (s : State) (op tag status fault : Nat) (words : List Nat) : State :=
  let m := tag % 32
  let r : Reply := ⟨op, tag, status, fault, words.map (BitVec.ofNat 64)⟩
  let seq := (bits (s.get (Mb.completion m)) 0 32 + 1) % 2 ^ 32
  let s := s.latchArea m 1
  State.reply ({ s with mailboxes := Tab.put s.mailboxes m r }.setAll
    [(Mb.completion m, packDetail [(seq, 32), (tag, 16), (op, 8), (status, 8)]), (Mb.mbState m, 2)]) r

/-- What the work of a command answers: its reply now, or later. -/
inductive Answer where
  | done (s : State) (status fault : Nat) (words : List Nat)
  | later (s : State)
  deriving DecidableEq, Repr

/-- OK with result words. -/
def Answer.ok (s : State) (words : List Nat) : Answer := .done s stOk 0 words

/-- A refusal. -/
def Answer.err (s : State) (status : Nat) : Answer := .done s status 0 []

/-- An access violation of a command (R405). -/
def Answer.violation (s : State) (op a : Nat) (words : List Nat) : Answer := .done (s.violation op a) stAccess a words

/-! ### The checks of R396 -/

/-- The run states that a command's Accepted column admits (R398). -/
inductive Accepted where
  | any
  | stopped
  | stoppedOrRouting
  | running
  deriving DecidableEq, Repr

/-- Check 1: VERSION, reserved bits, LENGTH, and the reserved TAG. -/
def headerOk (h : HostHdr) (w : List W64) : Bool :=
  h.version == 1 && h.rsvLo == 0 && h.rsvHi == 0 && decide (h.length.toNat ≤ 2048) && h.length.toNat == 8 * w.length && h.tag != 0xFFFF

/-- Check 4: the run state, then the power state for a command that needs a forge or port die; a fifth long command is BUSY
(R397, R403). -/
def State.allow (s : State) (acc : Accepted) (die long : Bool) : Option Nat :=
  let r := s.get Cmd.runState
  if acc ≠ .any ∧ (r = 1 ∨ r = 3) then some stBusy
  else if acc = .stopped ∧ r ≠ 0 then some stStopReq
  else if acc = .stoppedOrRouting ∧ r ≠ 0 ∧ ¬ s.flag Cmd.routingStopped then some stStopReq
  else if acc = .running ∧ r ≠ 2 then some stNotReady
  else if die ∧ ¬ s.active then some stNotReady
  else if long ∧ 4 ≤ s.get Cmd.longActive then some stBusy
  else none

/-- In BOOT_RECOVERY only IDENTIFY, GET_STATUS, UPDATE_FW and ACTIVATE_FW are taken (R420). -/
def State.recovering (s : State) (op : Nat) : Bool := s.flag Sec.bootRecovery && !(op == 0x01 || op == 0x03 || op == 0x61 || op == 0x62)

/-- The mailbox takes a command: an unread result is displaced, the state becomes pending, the start is latched (R401, R440). -/
def State.mailboxTake (s : State) (m : Nat) : State :=
  let s := if s.get (Mb.mbState m) = 2 then s.set Cmd.mbOverwriteEvt 1 else s
  (s.set (Mb.mbState m) 1).latchArea m 0

/-- The outcome of a command's work delivered. -/
def State.settle (op tag : Nat) (a : Answer) : State :=
  match a with
  | .done t st fa ws => t.complete op tag st fa ws
  | .later t => t

/-- A command packet received. -/
def State.received (s : State) (w : List W64) : State := (s.takeFlits 0 (16 + 8 * w.length)).bump Cmd.cmds 1

/-- A mailbox command (R393, R396, R397): shape tells that LENGTH, FORM and the reserved parameter bits are right. -/
def State.mailbox (s : State) (h : HostHdr) (w : List W64) (op : Nat) (acc : Accepted) (die long shape : Bool) (body : State → Answer) : State :=
  let tag := h.tag.toNat
  let s := s.received w
  if !headerOk h w then s.reply ⟨op, tag, stBadParam, 0, []⟩
  else if s.get (Mb.mbState (tag % 32)) = 1 then s.reply ⟨op, tag, stBusy, 0, []⟩
  else
    let s := s.mailboxTake (tag % 32)
    match (if s.recovering op then some stNotReady else s.allow acc die long) with
    | some st => s.complete op tag st 0 []
    | none => if !shape then s.complete op tag stBadParam 0 [] else State.settle op tag (body s)

/-- A direct command (R393): its reply goes on the status channel alone. -/
def State.direct (s : State) (h : HostHdr) (w : List W64) (op : Nat) (shape : Bool) (body : State → State × Nat × List Nat) : State :=
  let s := s.received w
  if !headerOk h w then s.reply ⟨op, h.tag.toNat, stBadParam, 0, []⟩
  else if s.recovering op then s.reply ⟨op, h.tag.toNat, stNotReady, 0, []⟩
  else if ¬ shape then s.reply ⟨op, h.tag.toNat, stBadParam, 0, []⟩
  else
    let r := body s
    r.1.reply ⟨op, h.tag.toNat, r.2.1, 0, r.2.2.map (BitVec.ofNat 64)⟩

/-- Parameter word n of a command. -/
def param (w : List W64) (n : Nat) : Nat := (nth 0 w n).toNat

/-! ### Long commands (R394, R397) -/

/-- A long command begins; need is the count of bulk bytes that it takes, if it takes any. -/
def State.longStart (s : State) (h : HostHdr) (w : List W64) (op : Nat) (need : Option Nat) (arg : Nat) : Answer :=
  let l : LongCmd := ⟨op, h, w, need, [], arg⟩
  .later (State.set { s with longs := s.longs ++ [l] } Cmd.longActive (s.longs.length + 1))

/-- A long command ends with its reply. -/
def State.longEnd (s : State) (l : LongCmd) (status fault : Nat) (words : List Nat) : State :=
  let rest := s.longs.filter fun x => x.hdr.tag != l.hdr.tag
  (State.set { s with longs := rest, restores := Tab.del s.restores l.hdr.tag.toNat } Cmd.longActive rest.length).complete l.opcode l.hdr.tag.toNat status fault words

/-- Whether the work of a RETIRE has ended: the bench's handover, the channel's migration, or the port's narrowing (R150, R327,
R344). arg holds KIND above NUMBER. -/
def State.retireDone (s : State) (l : LongCmd) : Bool :=
  let n := l.arg % 512
  match l.arg / 512 with
  | 0 => s.get (Ben.state n) != 3
  | 1 => !s.flag (Mc.migrating (n / 48))
  | _ => s.ctxState (n / modeLanes (s.get (Oct.mode (n / 8))) * modeLanes (s.get (Oct.mode (n / 8)))) != 4

/-- Every RETIRE whose work has ended is answered. -/
def State.settleRetires (s : State) : State :=
  (s.longs.filter fun l => l.opcode == 0x48 && s.retireDone l).foldl (fun t l => t.longEnd l stOk 0 []) s

/-- The cut of GLOBAL_STOP ends with its reply: every mark is held, or a link has given none in time (R278, R279, R399). -/
def State.cutEnd (s : State) (lost : Bool) : State :=
  match s.stopAt with
  | some (_, h) =>
    if s.cut ∧ s.get Cmd.runState = 3 ∧ (s.allMarks ∨ lost) then
      let n := ((List.range 512).map fun p => s.get (Fab.captured p)).sum
      ({ s with stopAt := none }.set Cmd.runState 0).complete 0x23 h.tag.toNat stOk 0 [b2n lost, n]
    else s
  | none => s

end Sys2Proof.Machine
end

