-- ==== Sys2Proof/Machine/Reset.lean ====
section
/-! DEFINITION. The function reset of a bench, its start snapshot, and the beginning of its program (R130, R145). -/

namespace Sys2Proof.Machine

open Sys2Proof

/-- The fields that a function reset keeps (R145). -/
def keptFields (b : Nat) : List Field :=
  [Cmp.activeBank b, Cmp.shadowValid b, Cmp.entry b, Stn.tmpActiveBank b 2] ++ (List.range 8).map (Cmp.feat b)

/-- Whether a register key lies in the station, conversion or Compositor registers of bench b. -/
def inBenchRegs (b k : Nat) : Bool :=
  decide (64 * (benchBase b + 0x1000) ≤ k ∧ k < 64 * (benchBase b + 0xF000)) ||
    decide (64 * (benchBase b + 0x10000) ≤ k ∧ k < 64 * (benchBase b + 0x11000))

/-- Whether an address lies in the data memory or descriptor table of bench b (R157). -/
def inBenchData (b a : Nat) : Bool := decide (benchBase b + 0x30000 ≤ a ∧ a < benchBase b + 0x50000)

/-- The waits of bench b's program end with it: its bit of WAITERS leaves every word it waited on (R246). -/
def State.dropWaits (s : State) (b : Nat) : State :=
  let words := (s.waitsOn b).toList ++ ((s.comp b).mons.filter (·.2.armed)).map (·.2.word)
  if s.flag (Ben.lvalid b) then
    words.foldl (fun t a => match t.dirFind a with
      | some e => t.sigWaiter e (t.logical b) false
      | none => t) s
  else s

/-- The function reset of bench b (R145). The PC register returns to R178's reset value of 0, while R153 names ENTRY, which is kept and is
where the program starts again (log entry 21). -/
def State.benchReset (s : State) (b : Nat) : State :=
  let s := s.dropWaits b
  let kept := (keptFields b).map fun f => (f, s.get f)
  State.setAll { s with
    csr := s.csr.filter fun e => !inBenchRegs b e.1
    mem := s.mem.filter fun c => !inBenchData b c.1
    badWords := s.badWords.filter (fun a => !inBenchData b a)
    streams := s.streams.filter fun e => e.1 / 16 != b
    queues := s.queues.filter fun e => e.1 / 64 != b
    comps := Tab.del s.comps b
    stnCnt := s.stnCnt.filter fun e => e.1 / 4096 != b
    veils := s.veils.filter fun e => e.1 / 16 != b } kept

/-- The place of bench b's start snapshot in the image staging part of the shared stone area (R145, R147; log entry 35). -/
def snapBase (b : Nat) : Nat := stoneBase (b / 5) + 0x5E80000 + 0x20200 * (b % 5)

/-- The token queue table of bench b as bytes. -/
def State.queueTable (s : State) (b : Nat) : List Byte := ((List.range 64).map fun q => leBytes 8 (s.queueWord b q)).flatten

/-- The start snapshot of bench b (R145): data memory and descriptor table, then the queue table, copied into stone. -/
def State.takeSnapshot (s : State) (b : Nat) : State :=
  let a := snapBase b
  let t := (s.copyRange (benchBase b + 0x30000) a 0x20000).store (a + 0x20000) (s.queueTable b)
  { t with snaps := Tab.put s.snaps b ⟨a⟩ }

/-- The program's start state restored from the snapshot, the program counter at ENTRY (R130). -/
def State.restoreStart (s : State) (b : Nat) : State :=
  match Tab.find s.snaps b with
  | none => s.set (Cmp.pc b) (s.get (Cmp.entry b))
  | some x =>
    let t := s.copyRange x.base (benchBase b + 0x30000) 0x20000
    ((List.range 64).foldl (fun u q => u.setQueueWord b q (s.rdNat (x.base + 0x20000 + 8 * q) 8)) t).set (Cmp.pc b) (s.get (Cmp.entry b))

/-- Bench b runs: its Compositor executes, its region works. -/
def State.runBench (s : State) (b : Nat) : State := s.setAll [(Ben.state b, 1), (Rgn.state b, 0), (Stn.state b 15, 1)]

/-- A halted bench made ready again: function reset and start state; it runs at once on a running device (R130). -/
def State.reviveBench (s : State) (b : Nat) : State :=
  let s := ((s.benchReset b).restoreStart b).set (Ben.state b) 0
  if s.running then s.runBench b else s

/-- The benches that hold a logical number and are neither retiring nor lost. -/
def State.liveBenches (s : State) : List Nat := (List.range 40).filter fun b => s.flag (Ben.lvalid b) && decide (s.get (Ben.state b) ≤ 2)

end Sys2Proof.Machine
end

