-- ==== Sys2Proof/Machine/Survive.lean ====
section
/-! DEFINITION. The piece map and refill, heartbeats, pairing, stragglers (R348, R357-R363, R372-R375, R383). -/

namespace Sys2Proof.Machine

open Sys2Proof

/-! ### The state of a bucket (R373) -/

/-- The state of a bucket sent: every segment's tiles and matrix record (R373 order 3). -/
def State.sendState (s : State) (dst : Nat) (k : Bucket) : State :=
  k.segments.foldl (fun t g => (t.sendBulk dst g.base (g.tiles * g.tileBytes)).sendBulk dst g.stats g.statsBytes) s

/-- Bytes of the state of a bucket. -/
def stateBytes (k : Bucket) : Nat := (k.segments.map fun g => g.tiles * g.tileBytes + g.statsBytes).sum

/-! ### Refill (R373) -/

/-- Recovery mode begins and ends with a refill or a reroute (R272). -/
def State.refillEnds (s : State) : State :=
  let s := s.set Surv.refillDone 1
  if s.alarms.isEmpty then s.setLinkMode 0 else s

/-- A piece abandoned: FILL PHASE 3, ATTEMPTS counted; at 4 the piece is given up (R373). -/
def State.abandonPiece (s : State) (e : Nat × Nat) : State :=
  let k := pmBucket e.2
  let f := Tab.get s.fills ⟨0, 0, false⟩ (2 * k)
  let tries := pmTries e.2 + 1
  let s := ({ s with fills := Tab.del s.fills (2 * k) }.setPiece e.1 0 tries).sendFill (pmHolder e.2) 3 k f.step 0
  if 4 ≤ tries then (s.set Surv.fillFailEvt 1).alert else s

/-- The pieces of this device that are FILLING, abandoned when p holds of their fill. -/
def State.abandonPieces (s : State) (p : FillState → Bool) : State :=
  (s.owned.filter fun e => pmState e.2 == 1 && p (Tab.get s.fills ⟨0, 0, false⟩ (2 * pmBucket e.2))).foldl State.abandonPiece s

/-- The next piece that the sweeper takes: UNFILLED, not given up, of a bucket whose update of the step has not begun. -/
def State.nextPiece (s : State) : Option (Nat × Nat × Bucket) :=
  (s.owned.filter fun e => pmState e.2 == 0 && decide (pmTries e.2 < 4)).findSome? fun e =>
    (s.bucket (pmBucket e.2)).bind fun k =>
      let y := s.bk k.id
      if k.owned ∧ y.updated ≠ some s.step ∧ y.tiles = [] ∧ y.segsDone = [] then some (e.1, e.2, k) else none

/-- REFILL_SWEEPER (R373 orders 1 to 3): the piece begins, its bucket's committed state is sent, its digest kept. -/
def State.refillSweep (s : State) : State :=
  match s.nextPiece with
  | none => s
  | some (j, w, k) =>
    let c := s.get Upd.committed
    let s := (s.setPiece j 1 (pmTries w)).sendFill (pmHolder w) 0 k.id c 0
    let f : FillState := ⟨c, s.bucketDigest k c, true⟩
    let s := (State.setLinkMode { s with fills := Tab.put s.fills (2 * k.id) f } 2).sendState (pmHolder w) k
    if (s.bk k.id).gradStep = some s.step then s.feed (pmHolder w) k s.step else s

/-- REFILL_SWEEPER (R373). -/
def execRefillSweeper (s : State) : Host.Outcome State Fault Refusal :=
  .next (
    if s.active ∧ s.running ∧ 1 ≤ s.step ∧ (s.owned.filter fun e => pmState e.2 == 1).length < s.get Surv.fillPar then s.refillSweep else s)

/-- A DIGEST_MISMATCH recorded (R254, R256). -/
def State.digestBad (s : State) (step : Nat) (details : List (Nat × Nat)) : State :=
  (s.logE clDigest .hub 0 details).setAll [(Coll.digStep, step), (Coll.digestEvt, 1)]

/-- FILL PHASE 1 at the owner: the digests compared (R373 order 5). -/
def State.fillDigest (s : State) (src bucket digest : Nat) : State :=
  match s.pieceOf bucket s.me src with
  | none => s
  | some e =>
    let f := Tab.get s.fills ⟨0, 0, false⟩ (2 * bucket)
    if pmState e.2 ≠ 1 then s
    else if f.own = digest then
      let s := ({ s with fills := Tab.del s.fills (2 * bucket) }.setPiece e.1 2 (pmTries e.2)).sendFill src 2 bucket f.step digest
      if s.owned.all fun x => pmState x.2 == 2 then s.refillEnds else s
    else (s.digestBad f.step []).abandonPiece e

/-- FILL at a device (R373). -/
def State.fillIn (s : State) (src phase bucket step digest : Nat) : State :=
  let mine := s.pieceOf bucket src s.me
  match phase with
  | 0 =>
    match mine with
    | some e =>
      let f : FillState := ⟨step, 0, false⟩
      { s with fills := Tab.put s.fills (2 * bucket + 1) f }.setPiece e.1 1 (pmTries e.2)
    | none => s
  | 1 => s.fillDigest src bucket digest
  | 2 =>
    match mine with
    | some e => ({ s with fills := Tab.del s.fills (2 * bucket + 1) }.setPiece e.1 2 (pmTries e.2)).setBk bucket
        { s.bk bucket with replayed := some step }
    | none => s
  | _ =>
    match mine with
    | some e => { s with fills := Tab.del s.fills (2 * bucket + 1) }.setPiece e.1 0 (pmTries e.2)
    | none => s

/-- FILL's body (R362, R373). -/
def State.fillBody (s : State) (pkt : Pkt) : Done :=
  let w := mgmtNat pkt
  if 3 < bits w 8 4 then (s.bump Surv.mgmtBad 1, .accept)
  else s.mgmtBody pkt 32 fun t => t.fillIn (pktSrc pkt) (bits w 8 4) (bits w 12 24) (bits w 64 64) (bits w 128 128)

/-- State of a filling piece that arrives on VC5: when the whole bucket is held, its digest goes to the owner (R373 order 4). -/
def State.fillBytes (s : State) (a n : Nat) : State :=
  let hit (k : Bucket) : Bool := !k.owned && (Tab.find s.fills (2 * k.id + 1)).isSome && k.segments.any fun g =>
    decide ((g.base ≤ a ∧ a < g.base + g.tiles * g.tileBytes) ∨ (g.stats ≤ a ∧ a < g.stats + g.statsBytes))
  match s.sched.buckets.find? hit with
  | none => s
  | some k =>
    let f := Tab.get s.fills ⟨0, 0, false⟩ (2 * k.id + 1)
    let g : FillState := { f with own := f.own + n }
    let s := { s with fills := Tab.put s.fills (2 * k.id + 1) g }
    match s.pieces.find? fun e => pmBucket e.2 == k.id && pmHolder e.2 == s.me with
    | some e => if g.own = stateBytes k then s.sendFill (pmOwner e.2) 1 k.id f.step (s.bucketDigest k f.step) else s
    | none => s

/-! ### Heartbeats (R362, R363) -/

/-- The peers of R362: the partner, and every device that shares a piece. -/
def State.peers (s : State) : List Nat :=
  ((if s.get Surv.pairState = 2 then [s.get Surv.partner] else []) ++
    (s.pieces.filterMap fun e => if pmOwner e.2 = s.me then some (pmHolder e.2) else if pmHolder e.2 = s.me then some (pmOwner e.2) else none)).dedup

/-- HEARTBEAT_SEND (R362). -/
def execHeartbeatSend (s : State) : Host.Outcome State Fault Refusal :=
  .next (if s.active && s.running then s.peers.foldl (fun t d => t.sendMsg d 2 0 (t.get Upd.committed) 0 16) s else s)

/-- HB_MISS (R363). -/
def execHbMiss (peer : Nat) (s : State) : Host.Outcome State Fault Refusal :=
  .next (if s.active && decide (peer ∈ s.peers) then ((s.logE clE2eTimeout .hub peer []).set Surv.peerLostEvt 1).alert else s)

/-! ### Pairing (R358-R360) -/

/-- Whether two tags are correlated (R358). -/
def correlatedTags (a b : Nat) : Bool :=
  let f (k : Nat) : Bool := bits a (16 * k) 16 == bits b (16 * k) 16
  (f 0 && f 1 && f 2) || (f 0 && f 1 && f 3) || (List.range 4).any fun k => bits a (16 * k) 16 == 0 || bits b (16 * k) 16 == 0

/-- IMP_EFF follows IMP_N and CORRELATED (R348, R360). -/
def State.showImpEff (s : State) : State :=
  let n := s.get Imp.impN
  s.set Imp.impEff (if s.flag Surv.correlated ∧ n ≠ 0 then max 1 (n / 2) else n)

/-- The pieces of either owner of a pair that others hold leave the map (R375). -/
def State.pairMap (s : State) (peer : Nat) : State :=
  let pair := [s.me, peer]
  let kept := s.pieces.filter fun e => !(pmOwner e.2 ∈ pair && pmHolder e.2 ∉ pair)
  let s := (s.store (s.get Surv.pmBase) ((kept.map fun e => leBytes 16 e.2).flatten)).set Surv.pmCount kept.length
  s.showPieces

/-- The outstanding SET_PAIR answered. -/
def State.pairReply (s : State) (status : Nat) : State :=
  match s.pairCmd with
  | some h => { s with pairCmd := none, pairWith := none }.complete 0x30 h.tag.toNat status 0 []
  | none => { s with pairWith := none }

/-- Order 3 of R359, with the partner's message in hand. -/
def State.pairUp (s : State) (peer : Nat) (override : Bool) (w : Nat) : State :=
  let tag := bits w 64 64
  let c := correlatedTags (s.get Surv.fdTag) tag
  let s := { s with pairPeer := none }.set Surv.partnerTag tag
  if c ∧ ¬ (override ∧ bitAt w 8) then (s.set Surv.pairState 0).pairReply stBadParam
  else
    let s := s.setAll [(Surv.partner, peer), (Surv.pairState, 2), (Surv.correlated, b2n c)]
    ((s.showImpEff).pairMap peer).pairReply stOk

/-- PAIR's body (R359): the message is used when SET_PAIR has named its source, else held. -/
def State.pairBody (s : State) (pkt : Pkt) : Done :=
  let w := mgmtNat pkt
  s.mgmtBody pkt 16 fun t =>
    match t.pairWith with
    | some (d, o) => if d = pktSrc pkt then t.pairUp d o w else { t with pairPeer := some (pktSrc pkt, w) }
    | none => { t with pairPeer := some (pktSrc pkt, w) }

/-- PAIR_TIMEOUT (R359): the reply is NOT_READY and PAIR_STATE stays 1. -/
def execPairTimeout (s : State) : Host.Outcome State Fault Refusal :=
  .next (if s.active && s.pairCmd.isSome then s.pairReply stNotReady else s)

/-- SET_PAIR's exchange begins (R359 order 1). -/
def State.pairBegin (s : State) (h : HostHdr) (peer : Nat) (override : Bool) : State :=
  let s := { s with pairWith := some (peer, override), pairCmd := some h }.set Surv.pairState 1
  let s := s.sendMsg peer 4 (b2n override) (s.get Surv.fdTag) 0 16
  match s.pairPeer with
  | some (d, w) => if d = peer then s.pairUp peer override w else s
  | none => s

/-! ### Stragglers (R383) -/

/-- STRAGGLE_US (R383): one entry for each missing source. -/
def execStraggleUs (bucket : Nat) (missing : List Nat) (s : State) : Host.Outcome State Fault Refusal :=
  .next (
    if s.active && s.running && s.get Surv.straggleUs != 0 && !missing.isEmpty then
      ((missing.foldl (fun t d => t.logE clE2eTimeout .hub d [(bucket, 24)]) s).set Surv.straggleEvt 1).alert
    else s)

end Sys2Proof.Machine
end

