-- ==== Sys2Proof/Machine/Flash.lean ====
section
/-! DEFINITION. Impressions on flash: their start at a commit, the sweeper, replica digests, the commit record; flash blocks
(R253-R254, R347-R353, R378). -/

namespace Sys2Proof.Machine

open Sys2Proof

/-! ### What an impression holds (R349) -/

/-- Whether this device holds the replica of a bucket whole: as partner, or as holder of a FILLED piece (R353, R374, R384). -/
def State.replicaHeld (s : State) (k : Bucket) : Bool :=
  !k.owned &&
    match s.pieces.find? fun e => pmBucket e.2 == k.id && pmHolder e.2 == s.me with
    | some e => pmState e.2 == 2
    | none => s.get Surv.pairState == 2

/-- The buckets of an impression that begins now: owned ones, and replicas held whole. -/
def State.impBuckets (s : State) : List Bucket := s.sched.buckets.filter fun k => k.owned || s.replicaHeld k

/-- The buckets of an impression being written, in schedule order. -/
def State.impPlan (s : State) (w : ImpWrite) : List Bucket := s.sched.buckets.filter fun k => w.plan.any fun e => e.1 == k.id

/-- The items of CONFIG_DIGEST: every group record, its curve, its frozen mask, each once (R349). -/
def State.configItems (s : State) : List (Nat × Nat) :=
  ((List.range (s.get Upd.gtCount)).map fun g =>
    let w := s.groupRec g
    [(s.get Upd.gtBase + 64 * g, 64), (grCurve w, 32 * grNpoints w)] ++ (if grMaskEn w then [(grMask w, ceilDiv (grRows w) 8)] else [])).flatten.dedup

/-- CONFIG_DIGEST (R139, R349). -/
def State.configDigest (s : State) : Nat := ((s.configItems.map fun e => itemDigest (s.rdBytes e.1 e.2)).sum) % 2 ^ 128

/-- Flash bytes of an impression of these buckets: header page, segments, commit page. -/
def plannedBytes (l : List Bucket) : Nat :=
  32768 + ((l.map fun k => (k.segments.map fun g => roundUp (64 + g.tiles * g.tileBytes + g.statsBytes) 16384).sum).sum)

/-- Flash bytes of a stored impression. -/
def Impression.flashBytes (i : Impression) : Nat := 32768 + (i.segs.map SegRec.flashBytes).sum

/-- The size of the impression area (R346). -/
def impArea : Nat := 3840 * 2 ^ 30

/-- An impression step that commits, order 2 of R352, or its skip (R348). -/
def State.impressStart (s : State) (step : Nat) : State :=
  let n := s.get Imp.impEff
  if ¬ ((n ≠ 0 ∧ step % n = 0) ∨ s.impNext) then s
  else
    let s := { s with impNext := false }
    if s.impWrite.isSome ∨ impArea < plannedBytes s.impBuckets + (s.imps.map Impression.flashBytes).sum then
      (s.bump Imp.impSkipped 1).set Imp.skipEvt 1
    else
      let i : Impression :=
        { step := step, epoch := s.get Coll.epoch, norm := s.get Upd.normCur, correlated := s.flag Surv.correlated
          partner := s.get Surv.partner, config := s.configDigest, segs := [], suspect := false, pinned := false }
      let expect := (s.impBuckets.filter fun k => k.owned && !s.replicaLost k.id).map (·.id)
      let w : ImpWrite := { imp := i, plan := s.impBuckets.map fun k => (k.id, b2n (!k.owned)), expect := expect, claimed := [], compared := []
                            mismatch := false, early := [], sent := false }
      ({ s with impWrite := some w }.set Imp.writingStep step).bump Imp.bytesWritten 16384

/-! ### The sweeper (R352) -/

/-- Whether the sweeper may claim a bucket: its state is the committed one of the impression's step, its UPDATE or its REPLAY of that step
having ended (R26). -/
def State.sweepable (s : State) (step : Nat) (k : Bucket) : Bool :=
  let y := s.bk k.id
  let role := s.impWrite.elim 0 fun w => Tab.get w.plan 0 k.id
  s.unclaimed k && (if role = 0 then y.updated == some step && y.carried.isNone else y.replayed == some step)

/-- The digest of a bucket as an impression's segments give it. -/
def impDigest (i : Impression) (bucket role : Nat) : Nat :=
  (((i.segs.filter fun g => g.bucket == bucket && g.role == role).map (·.digest)).sum) % 2 ^ 128

/-- The owner of a replica bucket held here. -/
def State.ownerOf (s : State) (k : Bucket) : Nat :=
  match s.pieces.find? fun e => pmBucket e.2 == k.id && pmHolder e.2 == s.me with
  | some e => pmOwner e.2
  | none => s.get Surv.partner

/-- The digests of the replicas of an impression sent to their owners, once all is written (R253). -/
def State.sendDigests (s : State) (w : ImpWrite) : State :=
  let s := ((s.impPlan w).filter fun k => !k.owned).foldl (fun t k =>
    t.sendReplicaDigest (t.ownerOf k) k.id w.imp.step (impDigest w.imp k.id 1)) s
  { s with impWrite := some { w with sent := true } }

/-- SWEEPER (R352): the next bucket in schedule order is claimed; after the last the digests of the replicas go out. -/
def execSweeper (s : State) : Host.Outcome State Fault Refusal :=
  .next (
    match s.impWrite with
    | none => s
    | some w =>
      if ¬ (s.active ∧ s.running) then s
      else
        match (s.impPlan w).find? (s.sweepable w.imp.step) with
        | some k => s.claim k
        | none => if w.sent ∨ (s.impPlan w).any s.unclaimed then s else s.sendDigests w)

/-! ### Replica digests (R253, R254) -/

/-- A replica mismatch on the owner (R254). -/
def State.replicaMismatch (s : State) (step bucket : Nat) : State := (s.digestBad step [(step, 64), (bucket, 24)]).alert

/-- A partner's digest against the impression being written. -/
def State.compareNow (s : State) (w : ImpWrite) (bucket digest : Nat) : State :=
  let bad := impDigest w.imp bucket 0 != digest
  let s := { s with impWrite := some { w with compared := w.compared ++ [bucket], mismatch := w.mismatch || bad } }
  if bad then s.replicaMismatch w.imp.step bucket else s

/-- A partner's digest for a stored impression: a mismatch makes it suspect. -/
def State.compareStored (s : State) (step bucket digest : Nat) : State :=
  if s.imps.any fun i => i.step == step && impDigest i bucket 0 != digest then
    let l := s.imps.map fun (i : Impression) => if i.step = step then { i with suspect := true } else i
    State.replicaMismatch { s with imps := l } step bucket
  else s

/-- REPLICA_DIGEST at the owner: compared at once, or kept until the bucket is written. -/
def State.replicaDigest (s : State) (bucket step digest : Nat) : State :=
  match s.impWrite with
  | some w =>
    if w.imp.step = step then
      if (bucket, 0) ∈ w.claimed then s.compareNow w bucket digest
      else { s with impWrite := some { w with early := Tab.put w.early bucket digest } }
    else s.compareStored step bucket digest
  | none => s.compareStored step bucket digest

/-- REPLICA_DIGEST's body (R362). -/
def State.replicaBody (s : State) (pkt : Pkt) : Done :=
  let w := mgmtNat pkt
  s.mgmtBody pkt 32 fun t => t.replicaDigest (bits w 8 24) (bits w 64 64) (bits w 128 128)

/-! ### The commit record (R351, R352, R378) -/

/-- The impressions kept: the IMP_KEEP newest, and pinned ones beside them. -/
def keepImps (n : Nat) (l : List Impression) : List Impression :=
  let plain := l.filter fun i => !i.pinned
  l.filter fun i => i.pinned || decide (i ∈ plain.drop (plain.length - n))

/-- The impression written becomes valid; every SHARED_M-th is pinned for export. -/
def State.impressEnd (s : State) (w : ImpWrite) : State :=
  let m := s.get Surv.sharedM
  let pin := m != 0 && (s.validCount + 1) % m == 0
  let i := { w.imp with suspect := w.mismatch, pinned := pin }
  let s := { s with impWrite := none, validCount := s.validCount + 1, imps := keepImps (s.get Imp.impKeep) (s.imps ++ [i]) }
  let s := (s.setAll [(Imp.validStep, i.step), (Imp.writingStep, 2 ^ 64 - 1)]).bump Imp.bytesWritten 16384
  if pin then s.setAll [(Surv.exportStep, i.step), (Surv.exportReady, 1)] else s

/-- The digests that came before their buckets were written, compared. -/
def State.compareEarly (s : State) : List (Nat × Nat) → State
  | [] => s
  | e :: rest =>
    match s.impWrite with
    | some w => State.compareEarly (s.compareNow w e.1 e.2) rest
    | none => s

/-- COMMIT_RECORD (R352 order 5): every bucket is written and the digests are out. A bucket that had a replica when the impression began, and
whose digests could not be compared, sets UNCOMPARED: the partner sent none, or it failed and its bucket is owned here (R353). -/
def State.commitRecord (s : State) (w : ImpWrite) : State :=
  let s := s.compareEarly w.early
  match s.impWrite with
  | none => s
  | some w =>
    let open' := w.expect.any (fun id => id ∉ w.compared) || (s.impPlan w).any fun k => k.owned && Tab.get w.plan 0 k.id == 1
    (if open' then s.set Imp.uncompared 1 else s).impressEnd w

/-- COMMIT_RECORD (R351, R352). -/
def execCommitRecord (s : State) : Host.Outcome State Fault Refusal :=
  .next (
    match s.impWrite with
    | none => s
    | some w =>
      if s.active ∧ s.running ∧ ¬ (s.impPlan w).any s.unclaimed ∧ (w.sent ∨ (s.impPlan w).all (·.owned)) then s.commitRecord w else s)

/-! ### Flash blocks (R347) -/

/-- FLASH_PROGRAM_FAILURE (R347): the block is retired, the data goes to another. -/
def execFlashProgramFailure (block : Nat) (s : State) : Host.Outcome State Fault Refusal :=
  let (e, f, r) := Tab.get s.flash (0, 0, false) block
  .next (
    if s.alive && !r then ({ s with flash := Tab.put s.flash block (e, f + 1, true) }.bump Imp.blocksRetired 1).set Imp.flashEvt 1 else s)

end Sys2Proof.Machine
end

