-- ==== Sys2Proof/Machine/Commit.lean ====
section
/-! DEFINITION. The commit and barrier collectives: votes, the decision, the result, and what a commit does (R216-R219,
R240-R244, R248, R252-R254). -/

namespace Sys2Proof.Machine

open Sys2Proof

/-- The tree of a collective. -/
def State.tree (s : State) (i : Nat) : Tree := Tab.get s.sched.trees { children := [], parent := none, members := [] } i

/-! ### Completed work (R237, R240) -/

/-- How many entries of an ascending list come before collective i. -/
def entriesBefore (l : List Nat) (i : Nat) : Nat := (l.filter (decide <| · < i)).length

/-- Whether port p has served every collective of the epoch before i. -/
def State.portDone (s : State) (p i : Nat) : Bool := decide (entriesBefore (s.portList p) i ≤ (s.port p).cursor)

/-- Whether logical bench g on bench b has completed every collective of its list before i. -/
def State.benchDone (s : State) (b i : Nat) : Bool :=
  let l := Tab.get s.sched.benchLists [] (s.logical b)
  let c := Tab.get s.benchCur 0 (s.logical b)
  (List.range (entriesBefore l i)).all fun j =>
    decide (j < c / 2) || (!s.collRuns b (nth 0 l j) && ((decide (j = c / 2) && c % 2 == 1) || s.laneEmpty (nth 0 l j)))

/-- Whether every collective before i is complete at each port and bench (R240, R244). -/
def State.workDone (s : State) (i : Nat) : Bool :=
  (s.sched.portLists.all fun e => s.portDone e.1 i) && ((List.range 40).filter fun b => s.flag (Ben.lvalid b)).all fun b => s.benchDone b i

/-! ### The vote (R240, R248, R252) -/

/-- The buckets this device owns. -/
def State.ownBuckets (s : State) : List Bucket := s.sched.buckets.filter (·.owned)

/-- The sums of the digests of sent and of received packets differ (R218, R252). -/
def State.digestsDiffer (s : State) : Bool :=
  match s.sched.sums with
  | some a => s.rdNat a 16 != s.rdNat (a + 16) 16
  | none => false

/-- Whether the device may vote on collective i: for a COMMIT entry every condition of R240, for a BARRIER its work is done. -/
def State.mayVote (s : State) (i : Nat) : Bool :=
  s.workDone i && (s.collKind i == 7 ||
    (s.ownBuckets.all (fun k => (s.bk k.id).gradStep.any fun g => decide (s.step ≤ g)) &&
      s.sched.buckets.all (fun k => !s.replicaHeld k || s.step == 0 || (s.bk k.id).replayed.any fun r => decide (s.step ≤ r + 1)) &&
      (s.get Upd.clipMode == 0 || s.normNow.isSome)))

/-- A word below its target at the vote (R248): FAULT, the entry, CNT_ADDR. -/
def State.underflow (s : State) (e v target : Nat) : State :=
  let a := s.rdNat e 6
  ((s.sigFault e).logE clCountUnder (.forgeDie (dieOf a)) a [(v, 64), (target, 64)]).countFault a 0

/-- An unreadable word met by firmware: the memory logs its own error (R476). -/
def State.wordError (s : State) (a : Nat) : State := if isStone a then s.stoneUncorr (a / 8 * 8) else s.logE clEccUncorr .hub a []

/-- What a directory entry's CHK word holds when it falls short of its target for step s - LAG (R248); an unreadable one counts as
0. Below step LAG the target is BASE, which is also the target of step 0 then. -/
def State.wordShort (s : State) (e : Nat) : Option (Nat × Nat) :=
  let a := s.rdNat e 6
  let target := s.sigTarget e (s.step - s.sigLag e)
  let v := if s.readErr a 8 ≠ none then 0 else s.rdNat a 8
  if bits (s.rdNat (e + 6) 1) 1 1 = 1 ∧ (s.readErr a 8 ≠ none ∨ v < target) then some (v, target) else none

/-- The check of R248 over one directory entry. -/
def State.checkWord (s : State) (e : Nat) : State :=
  match s.wordShort e with
  | none => s
  | some (v, target) =>
    let a := s.rdNat e 6
    (if s.readErr a 8 ≠ none then s.wordError a else s).underflow e v target

/-- Every readable directory entry of the device. -/
def State.allEntries (s : State) : List Nat := ((List.range 8).map s.dirEntries).flatten

/-- Whether some VALID entry of the directories cannot be read (R246). -/
def State.entryLost (s : State) : Bool :=
  s.mem.any fun c => (List.range 8).any (fun n => decide (dirBase n ≤ c.1 ∧ c.1 < dirBase n + 0x80000)) && c.1 % 64 == 6 &&
    c.2.getLsbD 0 && (s.readErr (c.1 - 6) 64).isSome

/-- REASON of the vote on the commit, after the check of R248 (R241). -/
def State.voteReason (s : State) (short : Bool) (mismatch : Bool) : Nat :=
  b2n (s.sched.buckets.any fun k => (k.owned || s.replicaHeld k) && (s.bk k.id).countBad) +
    2 * b2n (s.entryLost || s.allEntries.any fun e => bitAt (s.rdNat (e + 6) 1) 2) + 4 * b2n short +
    8 * b2n ((List.range 40).any fun b => s.get (Ben.state b) == 2) + 16 * b2n mismatch

/-- A vote or a result as its 32-byte payload's number (R241). -/
def votePayload (type : Nat) (ok : Bool) (reason step votes first : Nat) : Nat :=
  packDetail [(1, 4), (type, 4), (b2n ok, 1), (0, 7), (reason, 8), (0, 40), (step, 64), (votes, 24), (first, 20), (0, 84)]

/-- OK of a payload. -/
def voteOk (v : Nat) : Bool := bitAt v 8
/-- REASON. -/
def voteWhy (v : Nat) : Nat := bits v 16 8
/-- STEP. -/
def voteStep (v : Nat) : Nat := bits v 64 64
/-- VOTES. -/
def voteCount (v : Nat) : Nat := bits v 128 24
/-- FIRST_FAIL. -/
def voteFirst (v : Nat) : Nat := bits v 152 20

/-- The position of a device in the topology; devices outside it rank last (R229). -/
def State.posOf (s : State) (d : Nat) : Nat := ((List.range s.positions).find? fun i => s.topoEntry i % 2 ^ 20 == d).getD (2 ^ 20)

/-- Two votes combined: AND of OK, OR of REASON, sum of VOTES, the lower-ranked failing device (R241). -/
def State.joinVotes (s : State) (a b : Nat) : Nat :=
  let first := if voteOk a then voteFirst b else if voteOk b then voteFirst a
    else if s.posOf (voteFirst a) ≤ s.posOf (voteFirst b) then voteFirst a else voteFirst b
  votePayload 1 (voteOk a && voteOk b) (voteWhy a ||| voteWhy b) (voteStep a) (voteCount a + voteCount b) first

/-! ### What a commit does (R219, R242) -/

/-- Firmware frees the global results of an epoch that has ended: COMPLETE is cleared (R100; log entry 11). -/
def State.freeResults (s : State) : State :=
  ((s.sched.chans.map fun e => (e.2.gsBase, e.2.gsBlocks)).filter fun g => g.2 != 0).foldl (fun t g =>
    let w := g.1 + roundUp g.2 8 + 8
    t.storeNat w 8 (t.rdNat w 8 % 2 ^ 63)) s

/-- The cursors of ports and benches move with the epoch (R236, R237). -/
def State.cursorsOn (s : State) : State :=
  { s with
    ports := s.ports.map fun (e : Nat × Port) =>
      let n := (Tab.get s.sched.portLists [] e.1).length
      (e.1, if e.2.cursor < n then { e.2 with cursor := 0, served := 0 } else { e.2 with cursor := e.2.cursor - n })
    benchCur := s.benchCur.map fun e => (e.1, e.2 - 2 * (Tab.get s.sched.benchLists [] e.1).length) }

/-- The norm of the committed step kept; in previous-step mode a non-finite one makes the next step a skipped one (R217, R218). -/
def State.shiftNorm (s : State) : State :=
  match s.normNow with
  | none => s
  | some n =>
    let t := { s with normNow := none }.setAll [(Upd.normPrev, s.get Upd.normCur), (Upd.normCur, n)]
    if t.get Upd.clipMode = 2 ∧ normBad n then t.bump Upd.skipped 1 else t

/-- Order 5 of R242 on a COMMITTED result: votes that have come for barriers of the next epoch stay (R244); counters, words, constants, the
impression (R20, R208, R352), and the pieces that are FILLING for too long (R373). -/
def State.commitStep (s : State) : State :=
  let n := s.step
  let later (o : Nat) : Bool := decide (0 ≤ ordDiff o (s.ordinal 1 0))
  let s := ({ s with step := n + 1, commit := { votes := s.commit.votes.filter fun e => later (e.1 / 2 ^ 20) } }.set Upd.committed n).bump Coll.epoch 1
  let s := (s.cursorsOn.freeResults).shiftNorm
  let s := s.sched.commitWords.foldl (fun t a => t.signal .hub a 1 ⟨t.me, 0x3E⟩) s
  let s := (s.writeConstants).impressStart n
  s.abandonPieces fun f => decide (f.step + 2 ≤ n)

/-- Order 5 of R242 on a FAILED result. -/
def State.commitFails (s : State) (v : Nat) : State :=
  ({ s with commit := { votes := [], own := s.commit.own, failed := true } }.set Coll.commitFailEvt 1).logE clSequence .hub (voteFirst v) [(voteStep v, 64), (voteWhy v, 8)]

/-- The result of collective i on this device (R242-R244). -/
def State.applyResult (s : State) (i v : Nat) : State :=
  if s.collKind i = 8 then if voteOk v then s.commitStep else s.commitFails v
  else
    let o := s.ordinal 0 i
    { s with commit := { s.commit with
      votes := s.commit.votes.filter (fun e => e.1 / 2 ^ 20 != o), own := Tab.del s.commit.own o, done := o :: s.commit.done } }

/-- A commit packet sent to a device with the collective's ordinal. -/
def State.sendCommit (s : State) (i dst v : Nat) : State :=
  s.send { vc := 0, kind := 0, dst := dst, ordinal := s.ordinal 0 i, payload := leBytes 32 v }

/-- The devices that a collective's decision covers: for the commit every Protumos device of the job, for a barrier the tree's members. -/
def State.voters (s : State) (i : Nat) : Nat :=
  if s.collKind i = 8 then ((List.range s.positions).filter s.posRole).length else (s.tree i).members.length

/-- Whether this device is the root of a collective: rank ROOT of a COMMIT entry (R241), for a barrier the device whose tree names no
parent. -/
def State.isRoot (s : State) (i : Nat) : Bool := if s.collKind i = 8 then s.rootOf i == some s.me else (s.tree i).parent.isNone

/-- The root decides and multicasts the result to every member (R242, R243). -/
def State.rootDecides (s : State) (i v : Nat) : State :=
  if voteCount v ≠ s.voters i then s
  else
    let r := votePayload 2 (voteOk v) (voteWhy v) (voteStep v) (voteCount v) (voteFirst v)
    (s.multicast 0 none (s.tree i).group { vc := 0, kind := 0, dst := 0, ordinal := s.ordinal 0 i, payload := leBytes 32 r }).applyResult i r

/-- Orders 2 and 3 of R242: with its own vote and every child's, a device forwards the combined vote, and the root decides. -/
def State.forwardVotes (s : State) (i : Nat) : State :=
  let t := s.tree i
  let o := s.ordinal 0 i
  let kids := t.children.map fun d => Tab.find s.commit.votes (o * 2 ^ 20 + d)
  match Tab.find s.commit.own o with
  | none => s
  | some own =>
    if kids.any (·.isNone) then s
    else
      let v := (kids.filterMap id).foldl s.joinVotes own
      if s.isRoot i then s.rootDecides i v
      else
        match t.parent with
        | some d => s.sendCommit i d v
        | none => s

/-- The device's own vote on collective i recorded and sent on. -/
def State.castVote (s : State) (i v : Nat) : State :=
  State.forwardVotes { s with commit := { s.commit with own := Tab.put s.commit.own (s.ordinal 0 i) v } } i

/-- The comparison of traffic digests at the vote (R252, R254): in mode 2 it fails the vote, in mode 1 it reports the committed
step. -/
def State.compareDigests (s : State) : State :=
  let m := s.get Coll.trafficMode
  if m = 0 ∨ ¬ s.digestsDiffer then s
  else
    let t := if m = 2 then s.step else s.step - 1
    (s.digestBad t [(t, 64)]).alert

/-- The commit vote (R240): the check of R248, the comparison of R252, LAST_VOTE. -/
def State.voteCommit (s : State) (i : Nat) : State :=
  let t := s.allEntries.foldl State.checkWord s
  let short := s.allEntries.any fun e => (s.wordShort e).isSome
  let mismatch := s.get Coll.trafficMode == 2 && s.digestsDiffer
  let t := t.compareDigests
  let why := t.voteReason short mismatch
  let t := t.setAll [(Surv.lastVoteStep, s.step), (Surv.lastVoteOk, b2n (why == 0))]
  t.castVote i (votePayload 1 (why == 0) why s.step 1 (if why = 0 then 0 else s.me))

/-- The first barrier or commit collective on which this device has not voted and that has not completed. -/
def State.nextVote (s : State) : Option Nat :=
  (s.sched.trees.map (·.1)).find? fun i => (Tab.find s.commit.own (s.ordinal 0 i)).isNone && s.ordinal 0 i ∉ s.commit.done

/-- What VOTE does (R240, R242, R244). -/
def State.voteNext (s : State) : State :=
  match s.nextVote with
  | none => s
  | some i =>
    if s.active ∧ s.running ∧ s.mayVote i then
      if s.collKind i = 8 then s.voteCommit i else s.castVote i (votePayload 1 true 0 s.step 1 0)
    else s

/-! ### Commit packets received (R241-R243) -/

/-- Whether a commit payload is one that a receiver uses. -/
def commitOk (pkt : Pkt) : Bool :=
  let v := leNat pkt.payload
  pkt.payload.length == 32 && bits v 0 4 == 1 && (bits v 4 4 == 1 || bits v 4 4 == 2) && bits v 9 7 == 0 && bits v 21 3 == 0 &&
    bits v 24 40 == 0 && bits v 172 84 == 0

/-- A vote from a child: one for a step already decided is a duplicate (R243, R255). -/
def State.voteIn (s : State) (src o v : Nat) : State :=
  let i := s.collIndex o
  if voteStep v < s.step ∨ (s.commit.failed ∧ s.collKind i = 8 ∧ voteStep v = s.step) then s.bump Fab.duplicates 1
  else if src ∈ (s.tree i).children then
    State.forwardVotes { s with commit := { s.commit with votes := Tab.put s.commit.votes (o * 2 ^ 20 + src) v } } i
  else s

/-- A result: a second one for a step already decided is a duplicate (R243). -/
def State.resultIn (s : State) (i v : Nat) : State :=
  if voteStep v ≠ s.step ∨ (s.commit.failed ∧ s.collKind i = 8) ∨ s.ordinal 0 i ∈ s.commit.done then s.bump Fab.duplicates 1 else s.applyResult i v

/-- A commit packet (R241). -/
def State.commitBody (s : State) (p : Nat) (pkt : Pkt) : Done :=
  let v := leNat pkt.payload
  let i := s.collIndex (pktOrd pkt)
  if !commitOk pkt then (s.logE clSequence (.port p) (pktSrc pkt) [], .accept)
  else if bits v 4 4 = 1 then (s.voteIn (pktSrc pkt) (pktOrd pkt) v, .accept)
  else (s.resultIn i v, .accept)

/-- COMMIT_TIMEOUT (R243): voted, and no result. -/
def execCommitTimeout (s : State) : Host.Outcome State Fault Refusal :=
  .next (if s.active && s.running && !s.commit.own.isEmpty && !s.commit.failed then (s.timeout .hub 0 [(s.step, 64)]).alert else s)

/-! ### The norm of a step (R216, R217) -/

/-- n of the step in progress is known: in held mode K is written and a non-finite norm skips the step; in previous-step mode the
norm waits for the commit. -/
def State.normKnown (s : State) (n : Nat) : State :=
  let s := { s with normNow := some n }
  let s := if normBad n then s.set Upd.nonfiniteEvt 1 else s
  if s.get Upd.clipMode = 1 then
    let k := s.clipFactor n
    let s := if normBad n then s.bump Upd.skipped 1 else s
    ((List.range (s.get Upd.gtCount)).filter fun g => g ∉ s.badGroups).foldl
      (fun t g => t.storeNat (t.scAddr g t.step + 24) 4 k) (s.set Upd.kCur k)
  else s

/-- The global norm: the root of the sum over the groups with CLIP_IN of the squares of the reduced gradient, from the exact records that the
schedule names (R116, R117, R216). -/
def State.globalNorm (s : State) : Nat :=
  let l := s.sched.norms.filter fun e => decide (e.1 < s.get Upd.gtCount) && e.1 ∉ s.badGroups && grClipIn (s.groupRec e.1)
  normResult (l.foldl (fun n e => normAdd n (s.rdNat e.2 104)) 0)

/-- CLIP_FACTOR_WRITE (R217): n is the global norm of the schedule's records; where the schedule names none, n comes from outside (log
entry 36). -/
def execClipFactorWrite (norm : W32) (s : State) : Host.Outcome State Fault Refusal :=
  .next (if s.active && s.running && s.get Upd.clipMode != 0 && s.normNow.isNone && (s.sched.norms.isEmpty || norm.toNat == s.globalNorm) then
    s.normKnown norm.toNat else s)

end Sys2Proof.Machine
end

