-- ==== Sys2Proof/Machine/Abort.lean ====
section
/-! DEFINITION. Aborting a step: halting, finishing forward, restoring from replicas, orders 2 to 5 of R223; adoption; the
handover of a retirement (R25, R130, R150-R151, R223, R249, R365-R370, R384). -/

namespace Sys2Proof.Machine

open Sys2Proof

/-! ### A bucket finished without its bench (R367, R368) -/

/-- The format of a bucket's reduced gradient, by its bytes per block. -/
def gradFmt (k : Bucket) : Nat :=
  let n := k.gradBytes / max 1 k.blocks
  if n = 64 then 1 else if n = 192 then 3 else 0

/-- A bench that holds a group's microprogram. -/
def State.benchWith (s : State) (n : Nat) : Option Nat :=
  s.liveBenches.find? fun b => s.uprogAt b (s.get (Stn.tmpActiveBank b 2)) n != 0

/-- The stream with which firmware has Temper run tile j of a segment. -/
def synthetic (s : State) (b uprog step j : Nat) (k : Bucket) (g : Segment) : Stream :=
  { form := 0, numMode := false, desc := false, recAddr := 0, p0 := uprog + 256 * g.group, p1 := 0, p2 := k.id, p3 := 0
    ins := [], outs := [], descs := [], loop := none, sigEn := false, sigAddr := 0, sigInc := 0, inPos := [j], outPos := [], fold := []
    foldNeg := [], units := 0, tokensIn := 0, tokensOut := 0, recomputes := 0, streamNo := 0, startStamp := s.now, startEvent := 0
    startStep := step, startCnt := [], waitSince := 0, failedDst := false, bank := s.get (Stn.tmpActiveBank b 2), stn := 2 }

/-- The state tiles of a segment as a tensor (R203). -/
def segmentDesc (k : Bucket) (g : Segment) (rowlen : Nat) : Desc :=
  { addr := 0, space := 0, fmt := 3, base := g.base, device := 0, rhandle := 0, bucket := k.id, elem0 := g.rowLo * rowlen
    counts := [1024, g.tiles, 1, 1, 1], strides := [0, g.tileBytes, 0, 0, 0] }

/-- The gradient tile of tile j of a segment. -/
def State.gradTile (s : State) (k : Bucket) (g : Segment) (j : Nat) : Tok :=
  let f := gradFmt k
  { fmt := f, count := 1024, bytes := s.rdBytes (k.grad + (g.firstTile + j) * tileBytes f) (tileBytes f) }

/-- One tile run by firmware's order. -/
def State.runTile (s : State) (replay : Bool) (step : Nat) (k : Bucket) (g : Segment) (j : Nat) : State :=
  let w := s.groupRec g.group
  match s.benchWith (grUprog w) with
  | none => s
  | some b =>
    match State.tileWork b replay step (synthetic s b (grUprog w) step j k g) k g (segmentDesc k g (grRowlen w)) (s.gradTile k g j) s with
    | .wait => s
    | .stop t => t
    | .ok t => t

/-- The tiles of a bucket that are not done, run. -/
def State.runTiles (s : State) (replay : Bool) (step : Nat) (k : Bucket) : State :=
  let done := if replay then (s.bk k.id).repTiles else (s.bk k.id).tiles
  k.segments.foldl (fun t g => ((List.range g.tiles).filter fun j => (g.group * 2 ^ 32 + j) ∉ done).foldl
    (fun u j => u.runTile replay step k g j) t) s

/-- A bucket finished forward and marked carried, its gradient's digest held (R368). -/
def State.finishForward (s : State) (k : Bucket) : State :=
  let s := s.runTiles false s.step k
  s.setBk k.id { s.bk k.id with carried := some s.step, held := s.gradDigest k }

/-! ### The abort's stages -/

/-- Tokens of an aborted epoch that wait on slice channels are discarded (R239; log entry 11). -/
def State.freeChans (s : State) : State :=
  let t := s.chans.foldl (fun t e => t.unstage (e.1 / 1024) ((e.2.map (·.bytes.length)).sum)) s
  { t with chans := [] }

/-- The epoch that an accepted abort begins: cursors at its first ordinal, stale packets that wait are dropped, the credits of its ordinals granted (R236, R239, R255, R266). -/
def State.epochAbort (s : State) : State :=
  let a := (s.ordinal 0 0, s.get Coll.ncoll)
  let s := { s with aborted := some a, commit := {}, benchCur := [] }
  let stale (x : Port) : Nat := (x.ahead.filter fun k => s.isStale (pktOrd k)).length
  let n := (s.ports.map fun e => stale e.2).sum
  let s := (s.ports.map fun e => (e.2.ahead.filter fun k => s.isStale (pktOrd k)).map fun k => (e.1, k)).flatten.foldl (fun t e => t.dropAhead e.1 e.2) s
  let ports := s.ports.map fun (e : Nat × Port) =>
    (e.1, { e.2 with cursor := 0, served := 0, ahead := e.2.ahead.filter fun k => !s.isStale (pktOrd k) })
  let s := { s with ports := ports }.freeChans.freeResults
  ((s.bump Coll.stale n).bump Coll.epoch 1).grantEpoch

/-- Whether a bucket's state on this device must be put back: the update of the step wrote a tile, or its lines are poisoned (R223,
R384). -/
def State.spoiled (s : State) (k : Bucket) : Bool :=
  k.owned && ((s.bk k.id).wroteTile == some s.step || k.segments.any fun g => (s.readErr g.base (g.tiles * g.tileBytes)).isSome)

/-- The buckets for which firmware waits for the replica, and those it finishes forward (R223, R368). -/
def State.abortPlan (s : State) : State :=
  let bad := s.sched.buckets.filter s.spoiled
  let s := { s with restoring := (bad.filter fun k => !s.replicaLost k.id).map (·.id) }
  (bad.filter fun k => s.replicaLost k.id && (s.bk k.id).wroteTile == some s.step).foldl State.finishForward s

/-- Order 1 of R223: every running bench halts at its tile boundary, its streams end without completing. -/
def State.abortHalt (s : State) : State :=
  let bs := s.liveBenches.filter fun b => s.get (Ben.state b) == 1
  let s := s.streams.foldl (fun t e => t.dropStream (e.1 / 16) (e.1 % 16) 2) s
  bs.foldl State.haltBench s

/-- A signal word set to the lesser of its value and its target for step u - 1, FAULT cleared (R249). -/
def State.resetWord (s : State) (u e : Nat) : State :=
  let a := s.rdNat e 6
  let f := s.rdNat (e + 6) 1
  let s := if bitAt f 2 then s.storeNat (e + 6) 1 (f - 4) else s
  if s.readErr a 8 = none then s.storeNat a 8 (min (s.rdNat a 8) (s.sigTarget e (u - 1))) else s

/-- Order 4 of R223 for a bucket: its slot empty, its update word at u + 1, gradient and touched map discarded. -/
def State.resetBucket (s : State) (u : Nat) (k : Bucket) : State :=
  let y := s.bk k.id
  let began := y.begun == some u
  let back (o : Option Nat) : Option Nat := if o = some u then (if u = 0 then none else some (u - 1)) else o
  let s := s.setBk k.id { y with
    gradBlocks := 0, gradStep := back y.gradStep, countBad := false, heldBad := false, updated := back y.updated, segsDone := []
    tiles := [], wroteTile := none, begun := none, copying := none, copied := if k.owned then some u else y.copied, rowsNow := if began then y.rowsPrev else y.rowsNow
    empty0 := if k.owned ∧ u % 2 = 1 then true else y.empty0, empty1 := if k.owned ∧ u % 2 = 0 then true else y.empty1 }
  if k.owned ∧ k.updWord ≠ 0 then s.storeNat k.updWord 8 (u + 1) else s

/-- Orders 4 and 5 of R223: what is left of the step is discarded, halted benches start anew. -/
def State.abortEnd (s : State) (u : Nat) : State :=
  let s := s.sched.buckets.foldl (fun t k => t.resetBucket u k) { s with aborting := none, normNow := none }
  let s := s.allEntries.foldl (fun t e => t.resetWord u e) s
  let s := (s.writeConstants).bump Upd.restores 1
  (s.liveBenches.filter fun b => s.get (Ben.state b) == 2).foldl State.reviveBench s

/-- The reply of the abort that was kept. -/
def State.abortReply (s : State) : State :=
  match s.abortCmd with
  | some h => { s with abortCmd := none }.complete 0x22 h.tag.toNat stOk 0 [0]
  | none => s

/-- The abort ends once no bucket waits for its replica. -/
def State.abortNext (s : State) : State :=
  match s.aborting with
  | some u => if s.restoring = [] then (s.abortEnd u).abortReply else s
  | none => s

/-- Whether a bench is retiring: an abort waits for it (R151). -/
def State.anyRetiring (s : State) : Bool := (List.range 40).any fun b => s.get (Ben.state b) == 3

/-- The pending replays of step u - 1 completed (R223 order 2, R367 order 1): the tiles that a REPLAY has not done. -/
def State.finishReplays (s : State) : State :=
  if s.step = 0 then s
  else
    (s.sched.buckets.filter fun k => s.replicaHeld k && (s.bk k.id).replayed != some (s.step - 1)).foldl (fun t k =>
      let t := t.runTiles true (t.step - 1) k
      t.setBk k.id { t.bk k.id with replayed := some (t.step - 1), repsDone := [], repTiles := [] }) s

/-- A FILLED piece held here whose lines are poisoned is UNFILLED again: its owner fills it anew (R384; log entry 25). -/
def State.dropPoisoned (s : State) : State :=
  let bad (k : Bucket) : Bool := k.segments.any fun g => (s.readErr g.base (g.tiles * g.tileBytes)).isSome || (s.readErr g.stats g.statsBytes).isSome
  (s.pieces.filter fun e => pmHolder e.2 == s.me && pmState e.2 == 2 && (s.bucket (pmBucket e.2)).any fun k => !k.owned && bad k).foldl
    (fun (t : State) (e : Nat × Nat) => t.setPiece e.1 0 (pmTries e.2)) s

/-- Orders 1 to 3 of R223 for the step in progress, with the pieces that are FILLING abandoned (R384). -/
def State.abortRun (s : State) : State :=
  let u := s.step
  let s := { s with aborting := some u }.refuseWaiting
  if s.anyRetiring then s else (((s.abortHalt.finishReplays).dropPoisoned.abandonPieces fun _ => true).abortPlan).abortNext

/-! ### Restoring from a replica (R223 order 3) -/

/-- The tiles of a segment that hold some element of a row that is touched in a step and not frozen. -/
def State.touchedTiles (s : State) (k : Bucket) (g : Segment) (step : Nat) : List Nat :=
  let w := s.groupRec g.group
  let rows := ((List.range g.rowCount).map (g.rowLo + ·)).filter fun r => s.rowTouched k g (grRowlen w) step r && !s.rowFrozen w r
  (List.range g.tiles).filter fun j => rows.any fun r =>
    decide ((r - g.rowLo) * grRowlen w < 1024 * (j + 1) ∧ 1024 * j < (r - g.rowLo + 1) * grRowlen w)

/-- The replica's touched tiles, or every tile of a bucket whose owner lost lines of it (R384), and its matrix record sent back to their owner
on VC5. -/
def State.sendReplica (s : State) (k : Bucket) (whole : Bool) : State :=
  k.segments.foldl (fun t g =>
    ((if whole then List.range g.tiles else t.touchedTiles k g t.step).foldl (fun u j => u.sendBulk (u.ownerOf k) (g.base + j * g.tileBytes) g.tileBytes) t).sendBulk
      (t.ownerOf k) g.stats g.statsBytes) s

/-- RESTORE_FROM_REPLICA (R223 orders 2 and 3, R384): on the owner the rows, or the whole bucket, have come and it is restored; on the device
that holds the replica, once its replay is complete, they are sent. -/
def execRestoreFromReplica (bucket : Nat) (s : State) (whole : Bool := false) : Host.Outcome State Fault Refusal :=
  .next (
    match s.bucket bucket with
    | none => s
    | some k =>
      if ¬ s.active then s
      else if k.owned then
        if bucket ∈ s.restoring then State.abortNext { s with restoring := s.restoring.filter (· != bucket) } else s
      else if s.replicaHeld k ∧ (s.step = 0 ∨ (s.bk bucket).replayed = some (s.step - 1)) then s.sendReplica k whole
      else s)

/-! ### At START (R367, R370) -/

/-- Adoption (R370): the replica's buckets of a failed device are owned from now on. -/
def State.adoptNow (s : State) : State :=
  if s.adopting = [] then s
  else { s with adopting := [] }.setAll [(Surv.adopted, 1), (Surv.adoptEvt, 1), (Surv.partner, 0xFFFFF), (Surv.pairState, 3)]

/-- The deferred abort of R367, under the schedule of the aborted attempt; then adoption. Benches begin when START
has ended, or when the last bucket is restored. -/
def State.abortAtStart (s : State) : State :=
  let s := if s.abortDue.isSome ∨ s.adopting ≠ [] then s.finishReplays else s
  let s := match s.abortDue with
    | some u =>
      let s := { s with abortDue := none, aborting := some u }.refuseWaiting
      (((s.abortHalt).abandonPieces fun _ => true).abortPlan).abortNext
    | none => s
  s.adoptNow

/-! ### Retirement's handover (R150, R151) -/

/-- The start snapshot of the logical bench follows it to the spare, its descriptors moved as the table's are (R130, R145, R150;
log entry 16). -/
def State.moveSnap (s : State) (b k : Nat) : State :=
  match Tab.find s.snaps b with
  | none => s
  | some x =>
    let a := snapBase k
    let t : State := { (s.copyRange x.base a 0x20200) with snaps := Tab.put (Tab.del s.snaps b) k ⟨a⟩ }
    let descs := (t.mem.filter fun c => decide (a + 0x10000 ≤ c.1 ∧ c.1 < a + 0x20000) && (c.1 - a) % 64 == 0 && c.2.getLsbD 7).map (·.1)
    descs.foldl (fun u d => u.storeNat d 64 (s.moveDesc b k (s.rdNat (d - a + x.base) 64))) t

/-- RETIREMENT_HANDOVER (R150, R151): order 3 succeeds or fails; an abort that waited for it proceeds. -/
def execRetirementHandover (b : Nat) (ok : Bool) (s : State) : Host.Outcome State Fault Refusal :=
  .next (
    if s.alive && s.get (Ben.state b) == 3 then
      match s.spareOf (b / 5) with
      | none => s
      | some k =>
        let t := (if ok then (s.moveSnap b k).handover b k else s.handoverFailed b k).waitingRetire (b / 5)
        (if t.aborting.isSome ∧ t.restoring = [] then t.abortRun else t).settleRetires
    else s)

end Sys2Proof.Machine
end

