-- ==== Sys2Proof/Machine/Deliver.lean ====
section
/-! DEFINITION. The use of a packet at its destination by its kind and handle, scheduled packets that waited for their turn, slice
channels, transit, and the arrival commands (R104-R105, R121, R166, R237, R257-R263, R284, R362, R479). -/

namespace Sys2Proof.Machine

open Sys2Proof

/-! ### Slice channels (R100, R121, R166, R167, R479) -/

/-- Whether a scheduled write belongs to a channel of the schedule: its collective, port and handle (log entry 5). -/
def State.chanHit (s : State) (p : Nat) (pkt : Pkt) (c : SliceChan) : Bool :=
  c.coll == s.collIndex (pktOrd pkt) && c.port == p && c.rhandle == pktRh pkt

/-- Among channels that a packet may belong to, the one whose offset lies nearest at or below the packet's; where none does, the
first (log entry 5). -/
def pickChan (offset : Nat) (l : List (Nat × SliceChan)) : Option (Nat × SliceChan) :=
  let below := l.filter fun e => decide (e.2.offset ≤ offset)
  match below with
  | [] => l.head?
  | e :: es => some (es.foldl (fun m c => if m.2.offset < c.2.offset then c else m) e)

/-- The input channel that takes a scheduled write, with its key. -/
def State.chanIn (s : State) (p : Nat) (pkt : Pkt) : Option (Nat × SliceChan) :=
  pickChan (pktOffset pkt) (s.sched.chans.filter fun e => e.2.input && s.chanHit p pkt e.2)

/-- The distributed global result that a scheduled write carries to this device: a PHASE 0 entry of the schedule that is no input
and whose destination is the device itself (R100; log entry 5). -/
def State.globIn (s : State) (p : Nat) (pkt : Pkt) : Option (Nat × SliceChan) :=
  pickChan (pktOffset pkt) (s.sched.chans.filter fun e => !e.2.input && e.2.phase == 0 && e.2.dst == s.me && s.chanHit p pkt e.2)

/-- A payload of elements as one token of a channel's format. -/
def State.plainTok (s : State) (key : Nat) (c : SliceChan) (pkt : Pkt) : State :=
  s.pushChan key { word := tokWord 0 0 0 (elemsOf c.fmt pkt.payload.length) c.fmt 0 0 0, bytes := pkt.payload, src := pktSrc pkt }

/-- The entry of a discarded reduction packet: bucket, block and source (R121). -/
def State.redBad (s : State) (p : Nat) (pkt : Pkt) : State :=
  let h := RedHdr.ofBytes pkt.payload
  s.logE clSequence (.port p) (pktSrc pkt) [(h.bucket, 24), (h.first, 24)]

/-- The block of record n of a packet: the first is FIRST_BLOCK; in the sum lanes the n-th is the n-th block of the lane from there,
else the next one (R106, R478, R479). -/
def State.recordBlock (s : State) (c : SliceChan) (h : RedHdr) (n : Nat) : Option Nat :=
  if n = 0 then some h.first
  else if h.phase = 1 ∨ h.phase = 2 then s.laneBlock c.gsBase c.gsBlocks h.phase h.first n else some (h.first + n)

/-- The records of a packet with their blocks (R479); none when the payload does not divide into them. -/
def State.packetRecords (s : State) (c : SliceChan) (h : RedHdr) (pkt : Pkt) : Option (List (Nat × List Byte)) :=
  match recordBytes h.phase h.fmt with
  | none => none
  | some n =>
    if h.blocks = 0 ∨ pkt.payload.length ≠ 16 + n * h.blocks then none
    else (List.range h.blocks).mapM fun k => (s.recordBlock c h k).map fun blk => (blk, (pkt.payload.drop (16 + n * k)).take n)

/-- The records of a packet, each as a token of one block (R479). Where one of them is bad in a way for which R121 discards the packet,
all are tokens that the Anvil discards. -/
def State.recordToks (s : State) (c : SliceChan) (h : RedHdr) (pkt : Pkt) : Option (List ChanTok) :=
  (s.packetRecords c h pkt).map fun rs =>
    let bad := !rs.all fun r => s.recordFits c.gsBase c.gsBlocks h r.1 r.2
    rs.map fun r => { word := tokWord 0 0 0 1 h.fmt 0 0 0, bytes := headerFor pkt.payload r.1 ++ r.2, src := pktSrc pkt, bad := bad }

/-- A reduction payload turned into tokens of its channel. One of another bucket or lane is discarded here; the other faults of R121
are the station's to find, so a payload that does not divide into records goes to it whole, to be discarded. -/
def State.reductionToks (s : State) (p key : Nat) (c : SliceChan) (pkt : Pkt) : State :=
  let h := RedHdr.ofBytes pkt.payload
  let whole : ChanTok := { word := tokWord 0 0 0 1 h.fmt 0 0 0, bytes := pkt.payload, src := pktSrc pkt, bad := true }
  if pkt.payload.length < 16 ∨ h.bucket ≠ c.bucket ∨ (h.phase ≤ 4 ∧ h.phase ≠ c.phase) then s.redBad p pkt
  else if c.phase = 0 then s.pushChan key (if scaleSound pkt.payload then { whole with word := tokWord 0 0 0 h.blocks h.fmt 0 0 0, bad := false } else whole)
  else
    match s.recordToks c h pkt with
    | some ts => ts.foldl (fun t x => t.pushChan key x) s
    | none => s.pushChan key whole

/-- The packets held of a distributed result, in block order. -/
def globOrder (l : List ChanTok) : List ChanTok :=
  l.mergeSort fun a b => decide ((RedHdr.ofBytes a.bytes).first ≤ (RedHdr.ofBytes b.bytes).first)

/-- A distributed scale-phase packet: the slice writes the result from the packets that have come, and sets COMPLETE after the last
(R99, R100). -/
def State.globTok (s : State) (p key : Nat) (c : SliceChan) (pkt : Pkt) : State :=
  let h := RedHdr.ofBytes pkt.payload
  if pkt.payload.length < 16 ∨ ¬ scaleSound pkt.payload ∨ h.bucket ≠ c.bucket ∨ c.gsBlocks < h.first + h.blocks then s.redBad p pkt
  else
    let s := s.pushChan key { word := tokWord 0 0 0 h.blocks h.fmt 0 0 0, bytes := pkt.payload, src := pktSrc pkt }
    let l := globOrder (Tab.get s.chans [] key)
    let s := l.foldl (fun t x => t.globPut c.gsBase c.gsBlocks x.bytes) (s.globClear c.gsBase c.gsBlocks)
    if ceilDiv c.gsBlocks 512 ≤ l.length then
      let s := l.foldl (fun t x => t.unstage (key / 1024) x.bytes.length) s
      State.globDone { s with chans := Tab.del s.chans key } c.gsBase c.gsBlocks
    else s

/-! ### Bodies by kind and handle -/

/-- A WRITE's body (R241, R258, R259): commit packets, the FETCH service, slice channels, and regions. -/
def State.kind0Body (s : State) (p : Nat) (pkt : Pkt) : Done :=
  let k := s.collKind (s.collIndex (pktOrd pkt))
  if pktVc pkt ≠ 0 then
    if 0xFF00 ≤ pktRh pkt then (s, .nack 2)
    else
      let d := s.writeBody p pkt (·.wUnsched)
      match s.region (pktRh pkt) with
      | some e => if pktVc pkt = 5 ∧ d.2 = .accept then (d.1.fillBytes (e.base + pktOffset pkt) pkt.payload.length, .accept) else d
      | none => d
  else if k = 7 ∨ k = 8 then s.commitBody p pkt
  else if pktRh pkt = 0xFF10 then s.fetchBody p pkt
  else if 0xFF00 ≤ pktRh pkt then (s, .nack 2)
  else
    match s.chanIn p pkt with
    | some (key, c) => (((if c.phase ≤ 4 then s.reductionToks p key c pkt else s.plainTok key c pkt).delivered p (key / 1024) pkt), .accept)
    | none =>
      match s.globIn p pkt with
      | some (key, c) => ((s.globTok p key c pkt).delivered p (key / 1024) pkt, .accept)
      | none => s.writeBody p pkt (·.wSched)

/-- A management packet's body by TYPE (R53, R358-R381); a reserved TYPE is discarded (R362). -/
def State.manageBody (s : State) (pkt : Pkt) : Done :=
  match mgmtType pkt with
  | 2 => s.mgmtBody pkt 16 id
  | 3 => s.mgmtBody pkt 4 fun u => u.raiseAlarm (bits (mgmtNat pkt) 8 20) false
  | 4 => s.pairBody pkt
  | 5 => s.fillBody pkt
  | 6 => s.replicaBody pkt
  | _ => s.slowBody pkt

/-- A packet's body (R258, R261). -/
def State.body (s : State) (p : Nat) (pkt : Pkt) : Done :=
  match pktKind pkt with
  | 0 => s.kind0Body p pkt
  | 1 => s.signalBody p pkt
  | 2 => if pktRh pkt = 0xFF00 then s.readBody p pkt else if pktRh pkt = 0xFF01 then s.missBody p pkt else (s, .nack 2)
  | 3 => s.writeBody p pkt fun _ => true
  | 4 => s.ackBody p pkt
  | 5 => s.nackBody p pkt
  | 6 => s.manageBody pkt
  | _ => s.custodyBody p pkt

/-- A body whose packet, once accepted, is presented to Proof (R139). -/
def State.use (s : State) (p : Nat) (pkt : Pkt) : Done :=
  let d := s.body p pkt
  if d.2 = .accept then (d.1.presentPkt 1 (pktSrc pkt) pkt, .accept) else d

/-! ### Turns (R237) -/

/-- A packet that waited and whose turn has come: used, its SEQ marked, then answered, its credit returned (R237, R245, R266). -/
def State.turnEnds (s : State) (p : Nat) (pkt : Pkt) : State :=
  let s := s.onPort p fun x => { x with ahead := x.ahead.filter fun k => !(pktSrc k == pktSrc pkt && pktSeq k == pktSeq pkt) }
  let d := ((s.served p).setSrc (pktSrc pkt) ((s.src (pktSrc pkt)).settle (pktSeq pkt))).use p pkt
  let t := match d.2 with
    | .accept => d.1.sendAck (pktSrc pkt)
    | .nack r => d.1.sendNack (pktSrc pkt) (pktSeq pkt) 1 r
    | _ => d.1
  t.returnCredit p pkt

/-- Packets of port p whose ordinal is at the cursor, in the order in which they came; n may be used. -/
def State.turnsAt (s : State) (p : Nat) : Nat → State
  | 0 => s
  | n + 1 =>
    match (s.port p).ahead.find? fun k => s.turnOf p k == .now with
    | some k => State.turnsAt (s.turnEnds p k) p n
    | none => s

/-- Every port's packets whose turn has come. -/
def State.turns (s : State) : State :=
  ((s.ports.filter fun e => !e.2.ahead.isEmpty).map fun e => (e.1, e.2.ahead.length)).foldl (fun t e => t.turnsAt e.1 e.2) s

/-- TRANSMIT (R297, R298): one packet granted and sent, when the link is up and one may go. Where it ends the port's part of a collective,
packets that wait for the next have their turn (R237); after the last that a cut lets go the stop mark follows (R278). -/
def execTransmit (p : Nat) (s : State) : Host.Outcome State Fault Refusal :=
  .next (if s.active && s.portUp p then ((s.grant p).sendMark p).turns else s)

/-! ### Arrival (R257-R263, R278-R280, R284) -/

/-- A packet for this device: a mirror copy, or one that the transport checks. -/
def State.local (s : State) (p : Nat) (pkt : Pkt) (paid : Bool) : State :=
  if pktMirror pkt then s.ingress p pkt paid fun t => t.mirrorIn p pkt
  else s.ingress p pkt paid fun t => t.checked p pkt paid fun u => u.inTurn p pkt fun v => v.use p pkt

/-- A packet let in by port p: discarded when its header is unsound, else delivered, forwarded, or both for a group. paid tells that it
comes from a capture, which has given its ingress buffer and its credit back. -/
def State.letIn (s : State) (p : Nat) (pkt : Pkt) (paid : Bool) : State :=
  let back (t : State) : State := if paid then t else t.returnCredit p pkt
  if !hdrOk pkt then back (s.logE clSequence (.port p) (pktSrc pkt) [])
  else if s.unassigned p pkt then back (s.bump Fab.unaddressed 1)
  else
    let r := (s.mirrorAt 0 p pkt).police p pkt
    match r.1 with
    | none => back r.2
    | some k =>
      let here := s.forMe k
      if !here && pktKind k == 7 && s.longHaul p then back (r.2.custodyTransit p k)
      else
        let s := if !here || pktMcast k then (r.2.ackPasses k).transit p k paid else r.2
        (if here then s.local p k paid else s).turns

/-- The slice that a packet for this device goes to (R283). -/
def State.sliceFor (s : State) (pkt : Pkt) : Nat :=
  match s.region (pktRh pkt) with
  | some e => sliceOf (e.base + pktOffset pkt)
  | none => if pktRh pkt = 0xFF20 then sliceOf (pktOffset pkt) else 0

/-- Whether flow control lets a packet come to port p: it finds an ingress buffer (R265, R293), room in the reception buffer of a
long-haul port (R277), and its way over the ring (R267). What does not fit stays with its sender. -/
def State.admits (s : State) (p : Nat) (pkt : Pkt) : Bool :=
  (pktVc pkt == 0 || s.carried p || s.mayAlloc (pdOf p) (some (p, pktVc pkt))) &&
  (pktVc pkt == 0 || !s.longHaul p || decide ((s.port p).receptionBytes + pktLen pkt ≤ s.get (Fab.winMib p) * 2 ^ 20)) &&
  (!s.forMe pkt || s.ringOpen pkt (stopOf false (pdOf p)) (stopOf true (s.sliceFor pkt)))

/-- The arrival of a packet on port p: captured after the port's stop mark, held while routing is stopped, else let in. -/
def State.arrive (s : State) (p : Nat) (pkt : Pkt) : State :=
  if !s.canArrive p || !s.admits p pkt then s
  else
    let s := s.countRx p pkt
    if s.capturing p && pktVc pkt != 2 then s.capture p pkt
    else if s.flag Cmd.routingStopped then s.park p pkt
    else s.letIn p pkt false

/-- The packets that port p has captured or held, let in in arrival order (R280, R403). -/
def State.letHeld (s : State) (p : Nat) : State :=
  let x := s.port p
  let s := s.onPort p fun y => { y with captured := [], parked := [] }
  x.parked.foldl (fun t k => t.letIn p k false) (x.captured.foldl (fun t k => t.letIn p k true) s)

/-- Every port's captured packets let in. -/
def State.letAllHeld (s : State) : State :=
  ((s.ports.filter fun e => !e.2.captured.isEmpty || !e.2.parked.isEmpty).map (·.1)).foldl State.letHeld s

/-- An arrival command: the packet is of the command's class and for this device, or nothing arrives (log entry 9). -/
def State.arriveIf (s : State) (p : Nat) (pkt : Pkt) (ok : Bool) : State := if s.forMe pkt && ok then s.arrive p pkt else s

/-- A receive FIFO of port p that overflows: the frame in progress is discarded and the port logs SUPPLY (R48). -/
def State.fifoSpills (s : State) (p : Nat) : State := if s.canArrive p then s.logE clSupply (.port p) 0 [] else s

/-! ### The arrival commands -/

/-- Whether a write is a commit packet: on VC0 with the ordinal of a commit or barrier collective (R241, R244). -/
def State.isCommit (s : State) (pkt : Pkt) : Bool :=
  let k := s.collKind (s.collIndex (pktOrd pkt))
  pktVc pkt == 0 && pktKind pkt == 0 && (k == 7 || k == 8)

/-- Whether a scheduled write carries reduction records (R104, R479). -/
def State.isReduction (s : State) (p : Nat) (pkt : Pkt) : Bool :=
  pktVc pkt == 0 && pktKind pkt == 0 && (((s.chanIn p pkt).any fun e => decide (e.2.phase ≤ 4)) || (s.globIn p pkt).isSome)

/-- Whether a packet is a write with no other command of its own, or of a reserved kind, which is discarded (R260, R261). -/
def State.isWrite (s : State) (p : Nat) (pkt : Pkt) : Bool :=
  (pktKind pkt == 0 && !pktMirror pkt && !s.isCommit pkt && !s.isReduction p pkt && !(pktVc pkt == 0 && pktRh pkt == 0xFF10)) ||
    decide (8 ≤ pktKind pkt)

/-- WRITE (R259); a frame that the port's receive FIFO has lost is discarded (R48). -/
def execWrite (p : Nat) (pkt : Pkt) (s : State) (spill : Bool := false) : Host.Outcome State Fault Refusal :=
  .next (if spill then s.fifoSpills p else s.arriveIf p pkt (s.isWrite p pkt))

/-- REDUCTION_PACKET (R479). -/
def execReductionPacket (p : Nat) (pkt : Pkt) (s : State) : Host.Outcome State Fault Refusal :=
  .next (s.arriveIf p pkt (!pktMirror pkt && !s.isCommit pkt && s.isReduction p pkt))

/-- SIGNAL (R250). -/
def execSignal (p : Nat) (pkt : Pkt) (s : State) : Host.Outcome State Fault Refusal :=
  .next (s.arriveIf p pkt (pktKind pkt == 1 && !pktMirror pkt))

/-- READ (R258); a REQUEST for another handle is refused as reserved. -/
def execRead (p : Nat) (pkt : Pkt) (s : State) : Host.Outcome State Fault Refusal :=
  .next (s.arriveIf p pkt (pktKind pkt == 2 && pktRh pkt != 0xFF01 && !pktMirror pkt))

/-- MISS_REPORT (R198, R258). -/
def execMissReport (p : Nat) (pkt : Pkt) (s : State) : Host.Outcome State Fault Refusal :=
  .next (s.arriveIf p pkt (pktKind pkt == 2 && pktRh pkt == 0xFF01 && !pktMirror pkt))

/-- FETCH (R187-R201). -/
def execFetch (p : Nat) (pkt : Pkt) (s : State) : Host.Outcome State Fault Refusal :=
  .next (s.arriveIf p pkt (pktKind pkt == 0 && pktVc pkt == 0 && pktRh pkt == 0xFF10 && !pktMirror pkt && !s.isCommit pkt))

/-- REPLY (R261): written into the requester's region, which needs no write permission (DEDUCED, log entry 12). -/
def execReply (p : Nat) (pkt : Pkt) (s : State) : Host.Outcome State Fault Refusal :=
  .next (s.arriveIf p pkt (pktKind pkt == 3 && !pktMirror pkt))

/-- ACK (R268). -/
def execAck (p : Nat) (pkt : Pkt) (s : State) : Host.Outcome State Fault Refusal :=
  .next (s.arriveIf p pkt (pktKind pkt == 4 && !pktMirror pkt))

/-- NACK (R269). -/
def execNack (p : Nat) (pkt : Pkt) (s : State) : Host.Outcome State Fault Refusal :=
  .next (s.arriveIf p pkt (pktKind pkt == 5 && !pktMirror pkt))

/-- CUSTODY (R275). -/
def execCustody (p : Nat) (pkt : Pkt) (s : State) : Host.Outcome State Fault Refusal :=
  .next (s.arriveIf p pkt (pktKind pkt == 7 && !pktMirror pkt))

/-- MIRROR (R305). -/
def execMirror (p : Nat) (pkt : Pkt) (s : State) : Host.Outcome State Fault Refusal := .next (s.arriveIf p pkt (pktMirror pkt))

/-- TRANSIT (R284); a frame that the port's receive FIFO has lost is discarded (R48). -/
def execTransit (p : Nat) (pkt : Pkt) (s : State) (spill : Bool := false) : Host.Outcome State Fault Refusal :=
  .next (if spill then s.fifoSpills p else if s.forMe pkt then s else s.arrive p pkt)

/-- SLOW_MARK (R53); management packets of a reserved TYPE are discarded here too (R362). -/
def execSlowMark (p : Nat) (pkt : Pkt) (s : State) : Host.Outcome State Fault Refusal :=
  .next (s.arriveIf p pkt (pktKind pkt == 6 && (mgmtType pkt == 0 || mgmtType pkt == 1 || decide (6 < mgmtType pkt)) && !pktMirror pkt))

/-- HEARTBEAT (R362): it shows that its sender lives, which HB_MISS follows. -/
def execHeartbeat (p : Nat) (pkt : Pkt) (s : State) : Host.Outcome State Fault Refusal :=
  .next (s.arriveIf p pkt (s.isMgmt pkt 2 && !pktMirror pkt))

/-- ROUTE_ALARM (R381). -/
def execRouteAlarm (p : Nat) (pkt : Pkt) (s : State) : Host.Outcome State Fault Refusal :=
  .next (s.arriveIf p pkt (s.isMgmt pkt 3 && !pktMirror pkt))

/-- PAIR (R359). -/
def execPair (p : Nat) (pkt : Pkt) (s : State) : Host.Outcome State Fault Refusal :=
  .next (s.arriveIf p pkt (s.isMgmt pkt 4 && !pktMirror pkt))

/-- FILL (R373). -/
def execFill (p : Nat) (pkt : Pkt) (s : State) : Host.Outcome State Fault Refusal :=
  .next (s.arriveIf p pkt (s.isMgmt pkt 5 && !pktMirror pkt))

/-- REPLICA_DIGEST (R253, R362). -/
def execReplicaDigest (p : Nat) (pkt : Pkt) (s : State) : Host.Outcome State Fault Refusal :=
  .next (s.arriveIf p pkt (s.isMgmt pkt 6 && !pktMirror pkt))

/-- Whether a commit packet says it is a result. -/
def isResult (pkt : Pkt) : Bool := bits (leNat pkt.payload) 4 4 == 2

/-- COMMIT_VOTE (R241, R242). -/
def execCommitVote (p : Nat) (pkt : Pkt) (s : State) : Host.Outcome State Fault Refusal :=
  .next (s.arriveIf p pkt (s.isCommit pkt && !isResult pkt && !pktMirror pkt))

/-- COMMIT_RESULT (R242, R243). -/
def execCommitResult (p : Nat) (pkt : Pkt) (s : State) : Host.Outcome State Fault Refusal :=
  .next (s.arriveIf p pkt (s.isCommit pkt && isResult pkt && !pktMirror pkt))

/-- VOTE (R240, R242, R244). -/
def execVote (s : State) : Host.Outcome State Fault Refusal := .next s.voteNext.turns

/-! ### Carried frames (R318, R320) -/

/-- n bytes of a frame from offset a, most significant first. -/
def beAt (f : List Byte) (a n : Nat) : Nat := ((f.drop a).take n).foldl (fun v b => 256 * v + b.toNat) 0

/-- Whether the tag rule of reason 3 is broken. -/
def State.tagBad (s : State) (p : Nat) (f : List Byte) : Bool :=
  let j := p / 8
  let k := p % 8
  if s.flag (Oct.ctxTagEn j k) then
    beAt f 12 2 != 0x8100 || beAt f 14 2 % 4096 != s.get (Oct.ctxVid j k) || beAt f 16 2 == 0x8100
  else beAt f 12 2 == 0x8100

/-- The reason for which a frame is discarded, tried in order (R320). -/
def State.dropReason (s : State) (p : Nat) (f : List Byte) : Option Nat :=
  let j := p / 8
  let k := p % 8
  let t := if s.flag (Oct.ctxTagEn j k) then 4 else 0
  let ip := t + 14
  let udp := ip + 40
  let n := f.length
  let addr (lo hi : Field) : Nat := s.get lo + s.get hi * 2 ^ 64
  let pseudo := (f.drop (ip + 8)).take 32 ++ beBytes 4 (n - udp - 4) ++ beBytes 4 17 ++ (f.drop udp).take (n - udp - 4)
  if n < 4 ∨ 9216 < n ∨ leNat (f.drop (n - 4)) ≠ crc32 (f.take (n - 4)) then some 1
  else if beAt f 0 6 ≠ s.get (Oct.ctxSmac j k) then some 2
  else if s.tagBad p f then some 3
  else if beAt f (t + 12) 2 ≠ 0x86DD then some 4
  else if beAt f ip 1 / 16 ≠ 6 ∨ beAt f (ip + 6) 1 ≠ 17 ∨ beAt f (ip + 8) 16 ≠ addr (Oct.ctxRemoteIp6Lo j k) (Oct.ctxRemoteIp6Hi j k) ∨
      beAt f (ip + 24) 16 ≠ addr (Oct.ctxLocalIp6Lo j k) (Oct.ctxLocalIp6Hi j k) ∨ udp + beAt f (ip + 4) 2 + 4 ≠ n then some 5
  else if beAt f (udp + 2) 2 ≠ s.get (Oct.ctxUdpDst j k) ∨ beAt f (udp + 6) 2 = 0 ∨ inetSum pseudo ≠ 0 then some 6
  else if 1 < beAt f (udp + 8) 1 ∨ (beAt f (udp + 8) 1 = 1 ∧ [2, 3, 4, 6, 7, 8].any fun k => blockOk k (BitVec.ofNat 256 (leNat ((f.drop (udp + 9)).take 32)))) then some 7
  else none

/-- A link control block in a carried frame (R316). -/
def State.carriedBlock (s : State) (p : Nat) (blk : BitVec 256) : State :=
  match bits blk.toNat 4 8 with
  | 1 => s.helloBlock p blk
  | 5 => s.markBlock p blk
  | _ => s.keepaliveBlock p blk

/-- A packet's bytes read back. -/
def pktOfBytes (bs : List Byte) : Pkt :=
  let n := bs.length
  ⟨BitVec.ofNat 256 (leNat (bs.take 32)), (bs.drop 32).take (n - 40), BitVec.ofNat 64 (leNat (bs.drop (max 32 (n - 8))))⟩

/-- CARRIED_FRAME (R320): a frame is discarded with its reason, or its packet or control block is used. -/
def execCarriedFrame (p : Nat) (frame : List Byte) (s : State) : Host.Outcome State Fault Refusal :=
  .next (
    let j := p / 8
    let k := p % 8
    let udp := (if s.flag (Oct.ctxTagEn j k) then 4 else 0) + 54
    let data := (frame.drop (udp + 9)).take (frame.length - (udp + 13))
    if !(s.active && s.ctxUsed p && s.carried p && decide (2 ≤ s.ctxState p)) then s
    else
      match s.dropReason p frame with
      | some r => (s.bump (Oct.ctxCarriedDrops j k) 1).set (Oct.ctxLastDrop j k) r
      | none => if beAt frame (udp + 8) 1 = 0 then s.arrive p (pktOfBytes data) else s.carriedBlock p (BitVec.ofNat 256 (leNat data)))

end Sys2Proof.Machine
end

