-- ==== Sys2Proof/Machine/Scrub.lean ====
section
/-! DEFINITION. Scrubbing, the copy of a retired channel, and the lifetime records' timers (R336-R345, R426-R429, R476). -/

namespace Sys2Proof.Machine

open Sys2Proof

/-! ### LPDDR5X (R336-R340) -/

/-- Bytes that an error beyond the code's promise left in a line (R337; log entry 10). -/
def State.spoilLine (s : State) (l : Nat) : State :=
  let (v, s) := s.fresh
  { s with mem := memWrite s.mem l (leBytes 64 v) }

/-- A data line read by its channel with a number of symbols in error (R337, R338). With 8 or more nothing is promised: it may be
reported, miscorrected, or missed. -/
def State.lineRead (s : State) (a symbols : Nat) : State :=
  let l := a / 64 * 64
  if symbols = 0 ∨ l ∈ s.poison then s
  else if symbols = 1 then s.lineCorrected l
  else if symbols ≤ 7 then s.lineUncorr l
  else
    let (v, s) := s.fresh
    match v % 3 with
    | 0 => s.lineUncorr l
    | 1 => (s.spoilLine l).lineCorrected l
    | _ => s.spoilLine l

/-- The data lines of the group of a line, in order (R336). -/
def groupLines (a : Nat) : List Nat :=
  let line := a % 0x2A00000000 / 64
  (List.range 7).map fun k => lineAddr (a / 0x2A00000000) (line % 48) (line / 48 / 7 * 7 + k)

/-- An uncorrectable check line poisons its seven data lines (R338). -/
def State.checkUncorr (s : State) (a : Nat) : State :=
  let ls := groupLines a
  let s := s.lineUncorr ((ls.find? fun l => l ∉ s.poison).getD (ls.headD a))
  { s with poison := (ls.filter fun l => l ∉ s.poison) ++ s.poison }

/-- A check line read with a number of symbols in error (R337, R338): its entries give its first data line's address (log entry 2).
With 7 or more nothing is promised. -/
def State.checkRead (s : State) (a symbols : Nat) : State :=
  if symbols = 0 then s
  else if symbols = 1 then s.lineCorrected ((groupLines a).headD a)
  else if symbols ≤ 6 then s.checkUncorr a
  else
    let (v, s) := s.fresh
    match v % 3 with
    | 0 => s.checkUncorr a
    | 1 => s.lineCorrected ((groupLines a).headD a)
    | _ => s

/-- PATROL_SCRUB (R340): a data line, or with check the check line of its group; a retired channel is not scrubbed. -/
def execPatrolScrub (addr : Nat) (check : Bool) (symbols : Nat) (s : State) : Host.Outcome State Fault Refusal :=
  .next (
    if s.active && isLpddr addr && !s.inSpare addr && s.get (Mc.retCh (addr / 0x2A00000000)) != s.chanAt addr % 48 then
      if check then s.checkRead addr symbols else s.lineRead addr symbols
    else s)

/-! ### Stone (R339, R340, R476) -/

/-- A stone word that the scrubber corrected. -/
def State.stoneCorrected (s : State) (a : Nat) : State :=
  (s.logE clEccCorr (.forgeDie (dieOf a)) a []).bump (Sc.corr (dieOf a)) 1

/-- A stone word that the scrubber found uncorrectable: it keeps its error (R339). -/
def State.stoneSpoiled (s : State) (a : Nat) : State :=
  (if a ∈ s.badWords then s else { s with badWords := a :: s.badWords }).stoneUncorr a

/-- A stone word read by the scrubber with a number of bits in error; with 3 or more nothing is promised (R339). -/
def State.stoneRead (s : State) (a bad : Nat) : State :=
  if a ∈ s.badWords then s.stoneUncorr a
  else
    match bad with
    | 0 => s
    | 1 => s.stoneCorrected a
    | 2 => s.stoneSpoiled a
    | _ =>
      let (v, s) := s.fresh
      let (d, s) := s.fresh
      match v % 3 with
      | 0 => s.stoneSpoiled a
      | 1 => { s with mem := memWrite s.mem a (leBytes 8 d) }.stoneCorrected a
      | _ => { s with mem := memWrite s.mem a (leBytes 8 d) }

/-- STONE_SCRUB (R340). -/
def execStoneScrub (addr : Nat) (badBits : Nat) (s : State) : Host.Outcome State Fault Refusal :=
  .next (if s.active && isStone addr then s.stoneRead (addr / 8 * 8) badBits else s)

/-! ### Migration (R344) -/

/-- The address of the channel line to copy next on die n. -/
def State.migAddr (s : State) (n : Nat) : Nat := lineAddr n (s.get (Mc.retCh n)) (s.get (Mc.migPtr n))

/-- MIGRATION_LINE_COPY (R344 orders 2 and 3): an uncorrectable line is written poisoned; after the last line migration ends. -/
def execMigrationLineCopy (n symbols : Nat) (s : State) : Host.Outcome State Fault Refusal :=
  .next (
    if s.active && decide (n < 8) && s.flag (Mc.migrating n) then
      let s := (s.lineRead (s.migAddr n) symbols).bump (Mc.migPtr n) 1
      if chanLines ≤ s.get (Mc.migPtr n) then (s.setAll [(Mc.migrating n, 0), (Mc.retireEvt n, 1)]).settleRetires else s
    else s)

/-! ### Lifetime records (R426-R429) -/

/-- The records kept in flash at 10-minute updates: power-on time under 0, AGE_r under 1 + r. -/
def State.storeLife (s : State) : State :=
  { s with stored := (List.range 85).foldl (fun t r => Tab.set t 0 (1 + r) (s.get (Sec.age r))) (Tab.set s.stored 0 0 (s.get Sec.powerOnS)) }

/-- LIFETIME_RECORD_WRITE (R426): ten minutes of power-on time. -/
def execLifetimeRecordWrite (s : State) : Host.Outcome State Fault Refusal :=
  .next (if s.alive then (s.bump Sec.powerOnS 600).storeLife else s)

/-- The largest k below 2^n with k^100 no more than x. -/
def root100 (x : Nat) : Nat → Nat → Nat
  | 0, k => k
  | n + 1, k => root100 x n (if (k + 2 ^ n) ^ 100 ≤ x then k + 2 ^ n else k)

/-- A of R428 in units of 2^-32, rounded down (DESIGN CHOICE, log entry 18), for a temperature in 0.1 C and a rail in mV. -/
def ageFactor (temp : Int) (mv : Nat) : Nat :=
  let e := temp - 850 + 2 * ((mv : Int) - 750) + 3200
  if e < 0 then 0 else root100 (2 ^ e.toNat) 64 0

/-- Hours of equivalent ageing of a region after a minute, the part below an hour kept (R428). -/
def State.ageMinute (s : State) (r : Nat) (temp : Int) (mv : Nat) : State :=
  let f := Tab.get s.ageFrac 0 r + ageFactor temp (if r < 72 then mv else 750)
  let u := 60 * 2 ^ 32
  let old := s.get (Sec.age r)
  let s := { s with ageFrac := Tab.set s.ageFrac 0 r (f % u) }.set (Sec.age r) (old + f / u)
  if old < 61362 ∧ 61362 ≤ old + f / u then (s.set Sec.ageEvt 1).alert else s

/-- AGE_UPDATE (R428). -/
def execAgeUpdate (r : Nat) (meanTemp : Int) (meanMv : Nat) (s : State) : Host.Outcome State Fault Refusal :=
  .next (if s.alive && decide (r < 85) then s.ageMinute r meanTemp meanMv else s)

/-- CALENDAR_ADVANCE (R429). -/
def execCalendarAdvance (s : State) : Host.Outcome State Fault Refusal :=
  .next (if s.alive && s.flag Sec.calValid then s.bump Sec.calendar 1 else s)

end Sys2Proof.Machine
end

