-- ==== Sys2Proof/Machine/Power.lean ====
section
/-! DEFINITION. Power states, resets, supply and thermal events, the TAP and the SMBus target (R420, R427, R453-R471). -/

namespace Sys2Proof.Machine

open Sys2Proof

/-! ### Rails and caps (R462, R463) -/

/-- POWER_STATE is 3 while some VCAP lies below its region's VSET (R463). -/
def State.showPower (s : State) : State :=
  if s.get Cmd.powerState < 2 then s
  else s.set Cmd.powerState (if (List.range 72).any fun r => decide (s.get (Pwr.vcap r) < s.get (Rgn.vset r)) then 3 else 2)

/-- Whether a region's rail is on: no retired or lost bench (R149). -/
def State.railOn (s : State) (r : Nat) : Bool := decide (40 ≤ r) || s.get (Ben.state r) != 5

/-- VCAP of a region from its causes, the lowest first, and CAUSE; among equals the lower code (R462, R463; log entry 19). A
rail that has to move is SLEWING. -/
def State.capRegion (s : State) (r : Nat) : State :=
  let host := if s.get Pwr.hostVmax < s.get (Rgn.vset r) then s.get Pwr.hostVmax else 850
  let power := if r < 40 then s.capPower else 850
  let heat := Tab.get s.capHeat 850 r
  let v := min host (min power heat)
  let cause := if 850 ≤ v then 0 else if v = power then 1 else if v = heat then 2 else 3
  let s := s.setAll [(Pwr.vcap r, v), (Pwr.cause r, cause)]
  if s.railOn r && s.get (Rgn.vread r) != min (s.get (Rgn.vset r)) v && s.get (Rgn.state r) != 2 then s.set (Rgn.slewing r) 1 else s

/-- Every region's cap. -/
def State.capAll (s : State) : State := ((List.range 72).foldl State.capRegion s).showPower

/-- POWER_THROTTLE_STEP (R462): below 97 % nothing is lowered until the mean has passed it; lowering ends below 93 %, raising
starts below 85 %. -/
def State.powerStep (s : State) : State :=
  let mean := 100 * s.get Pwr.pinAvg
  let lim := s.get Pwr.pLimit
  let low := if 97 * lim < mean then true else if mean < 93 * lim then false else s.lowPower
  let s := { s with lowPower := low, capPower := if low then max 600 (s.capPower - 5) else if mean < 85 * lim then min 850 (s.capPower + 5)
                                                 else s.capPower }
  (if 97 * lim < mean then s.set Pwr.plimitEvt 1 else s).capAll

/-- POWER_THROTTLE_STEP (R462). -/
def execPowerThrottleStep (s : State) : Host.Outcome State Fault Refusal := .next (if s.active then s.powerStep else s)

/-- The thermal step of a region (R462). -/
def State.heatStep (s : State) (r : Nat) : State :=
  let t := s.rgnTemp r
  let lim : Int := 10 * (s.get Pwr.tThrottle : Nat)
  let low := if lim ≤ t then true else if t ≤ lim - 20 then false else decide (r ∈ s.lowHeat)
  let c := Tab.get s.capHeat 850 r
  let s := { s with
    lowHeat := if low then (if r ∈ s.lowHeat then s.lowHeat else r :: s.lowHeat) else s.lowHeat.filter (· != r)
    capHeat := Tab.set s.capHeat 850 r (if low then max 600 (c - 5) else if t ≤ lim - 50 then min 850 (c + 5) else c) }
  (s.capRegion r).showPower

/-- THERMAL_THROTTLE_STEP (R462): the region reads a temperature. -/
def execThermalThrottleStep (r : Nat) (temp : Int) (s : State) : Host.Outcome State Fault Refusal :=
  .next (if s.active && decide (r < 72) then (s.senseTemp r temp).heatStep r else s)

/-! ### The dies lose their state (R456, R460) -/

/-- Whether a register key lies in the blocks of the forge and port dies (R406). -/
def inDies (k : Nat) : Bool := decide (64 * 0x3F0001000000 ≤ k ∧ k < 64 * 0x3F000D000000)

/-- How a reset keeps a register, by its key. -/
def keepOf (k : Nat) : Keep := ((fieldOfKey k).map (·.keep)).getD Keep.none

/-- FAULT_N follows FAULT_CAUSE (R466). -/
def State.showFault (s : State) : State := s.set Side.faultOut (b2n (s.get Side.faultCause != 0))

/-- The command of a mailbox that waits for something on the dies ends with NOT_READY (R403; log entry 19). -/
def State.endWaiting (s : State) : State :=
  let done (op : Nat) (h : Option HostHdr) (t : State) : State :=
    match h with
    | some k => t.complete op k.tag.toNat stNotReady 0 []
    | none => t
  let t := { s with launch := none, stopAt := none, abortCmd := none, pairCmd := none, pairWith := none }
  let t := done 0x30 s.pairCmd (done 0x22 s.abortCmd (done 0x23 (s.stopAt.map (·.2)) (done 0x21 (s.launch.map (·.2.1)) t)))
  (s.longs.filter fun l => l.opcode == 0x48).foldl (fun u l => u.longEnd l stNotReady 0 []) t

/-- A bench whose retirement had not ended is as it was; one that ran is stopped. -/
def State.restBench (s : State) (b : Nat) : State := if s.get (Ben.state b) ∈ [1, 2, 3] then s.set (Ben.state b) 0 else s

/-- The forge and port dies go off: their registers but those kept, their memories and everything in flight are lost, and the
device is stopped (R333, R456, R460). -/
def State.dropDies (s : State) : State :=
  let s := { s with
    csr := s.csr.filter fun e => !inDies e.1 || keepOf e.1 != Keep.none
    mem := s.mem.filter fun c => decide (0x3F000D000000 ≤ c.1)
    meas := s.meas.filter fun e => !isBankMeas e.1
    poison := [], badWords := [], comps := [], streams := [], queues := [], chans := [], snaps := [], benchCur := [], veils := [], slotCur := [], stnCnt := []
    buckets := [], fetches := [], dsts := [], srcs := [], dmas := [], marks := [], ports := [], rings := [], poolWords := [], inUse := []
    policers := [], aborted := none, commit := {}, impWrite := none, impNext := false, normNow := none, abortDue := none, aborting := none, retCause := []
    restoring := [], fills := [], jobBegun := false, cut := false, traceFifo := [] }
  let s := s.setAll [(Cmd.runState, 0), (Cmd.routingStopped, 0), (Imp.writingStep, 2 ^ 64 - 1), (Side.pwrgdOut, 0), (Ws.waiting, 0)]
  let s := (List.range 72).foldl (fun t r => t.set (Rgn.vread r) 0) s
  (List.range 40).foldl State.restBench s

/-- STANDBY: the dies are off (R456). -/
def State.standby (s : State) : State := (s.endWaiting.dropDies).set Cmd.powerState 1

/-- The module falls to STANDBY with a cause (R454, R458, R462). -/
def State.fallBack (s : State) (cause : Nat) : State := (s.standby.set Side.faultCause cause).showFault

/-! ### The entry to ACTIVE (R458) -/

/-- A region comes up: its rail at its setting or cap, a spare's at 0.60 V (R152), its margin band by its temperature and its
code (R39). -/
def State.raiseRegion (s : State) (r : Nat) : State :=
  if !s.railOn r then s
  else
    let spare := decide (r < 40) && s.get (Ben.state r) == 4
    let v := if spare then 600 else min (s.get (Rgn.vset r)) (s.get (Pwr.vcap r))
    (s.setAll [(Rgn.vread r, v), (Rgn.state r, if spare then 2 else if r < 40 then 1 else 0), (Rgn.band r, bandOf (s.rgnTemp r))]).applyCode r

/-- A bench's copies of FEAT0-FEAT7 written by firmware (R175). -/
def State.copyFeat (s : State) (b : Nat) : State :=
  (List.range 8).foldl (fun t n => t.set (Cmp.feat b n) (t.readWord (fieldsAt (0x3F0000000000 + 8 * n)))) s

/-- Orders 2 to 6 of R458. -/
def State.enterActive (s : State) : State :=
  let s := (List.range 72).foldl State.raiseRegion s
  let s := (List.range 40).foldl State.copyFeat s
  (s.setAll [(Cmd.powerState, 2), (Side.pwrgdOut, 1)]).showPower

/-- PWR_EN_HIGH (R458, R469): in STANDBY the module enters ACTIVE, or falls back with FAULT_CAUSE 4. -/
def execPwrEnHigh (ok : Bool) (s : State) : Host.Outcome State Fault Refusal :=
  .next (
    let t := s.set Side.pwrEnIn 1
    if s.alive && s.get Cmd.powerState == 1 && !s.flag Sec.bootRecovery then if ok then t.enterActive else t.fallBack 4 else t)

/-- The seconds since the last record of power-on time, which no counter shows: fewer than 600 (log entry 10). -/
def State.recordUptime (s : State) : State :=
  let (v, s) := s.fresh
  (s.bump Sec.powerOnS (v % 600)).storeLife

/-- PWR_EN_LOW (R459, R469). -/
def execPwrEnLow (s : State) : Host.Outcome State Fault Refusal :=
  .next (
    let t := s.set Side.pwrEnIn 0
    if s.active then t.recordUptime.standby else t)

/-! ### Resets and boot (R9, R271, R420, R457, R460) -/

/-- Whether a firmware slot passes the boot's check: it is valid, its key is not revoked and its SVN not below the floor (R419,
R420). -/
def State.slotBoots (s : State) (k : Nat) : Bool :=
  s.flag (if k = 0 then Sec.slotAValid else Sec.slotBValid) &&
    match Tab.find s.fwSlots k with
    | some x => !bitAt (s.get Sec.keyRevoked) x.key && decide (s.get Sec.svnFloor ≤ x.meas.svn)
    | none => true

/-- Why a slot's image fails at boot (R419); for a slot that holds no verified image, one of the ten reasons (log entry 10). -/
def State.bootReason (s : State) (k : Nat) : Nat × State :=
  match Tab.find s.fwSlots k, s.flag (if k = 0 then Sec.slotAValid else Sec.slotBValid) with
  | some x, true => (if bitAt (s.get Sec.keyRevoked) x.key then 4 else 5, s)
  | _, _ =>
    let (v, t) := s.fresh
    (v % 10 + 1, t)

/-- A failed image check logged: TYPE, reason (R419). -/
def State.authFail (s : State) (type reason : Nat) : State :=
  ((s.logE clAuth .hub 0 [(type, 8), (reason, 8)]).bump Sec.authFails 1).set Sec.authEvt 1

/-- The failure of a slot's image at boot logged (R420). -/
def State.bootFails (s : State) (k : Nat) : State := let r := s.bootReason k; r.2.authFail 1 r.1

/-- The Dreril Link is up: each channel has 64 credits, none is due back (R390). -/
def State.drerilUp (s : State) : State :=
  { s with dreril := { s.dreril with credits := [(0, 64), (1, 64), (2, 64)], toReturn := [] } }.setAll [(Dl.linkState, 2), (Dl.laneLock, 15)]

/-- Orders 2 to 5 of R420, to STANDBY. -/
def State.boot (s : State) : State :=
  let s := s.bump Sec.mono 1
  let a := s.get Sec.activeSlot
  let s := if s.slotBoots a then s
    else
      let t := s.bootFails a
      if t.slotBoots (1 - a) then t.set Sec.activeSlot (1 - a)
      else (t.bootFails (1 - a)).setAll [(Sec.bootRecovery, 1), (Side.faultCause, 5)]
  (((s.set Cmd.powerState 1).showFault.set Side.alertOut (s.get Side.alertPend)).showImpEff).drerilUp

/-- What every reset leaves of the machine: kept registers, what flash and the fuses hold, the sensors, and the model's own
fields. Hub memories and everything in flight are gone (R9, R271, R426, R460). -/
def State.resetAll (s : State) (keep : Keep → Bool) : State :=
  { State.reset with
    csr := s.csr.filter fun e => keep (keepOf e.1)
    pending := s.pending, imps := s.imps, validCount := s.validCount, keyHashes := s.keyHashes, fwSlots := s.fwSlots, prevSlot := s.prevSlot
    ageFrac := s.ageFrac, flash := s.flash, thermLow := s.thermLow, thermUp := s.thermUp, stored := s.stored
    fixedTemp := s.fixedTemp, fixedRail := s.fixedRail, tapIr := s.tapIr, tapDrive := s.tapDrive, excursion := s.excursion, wire := s.wire
    freeCtr := s.freeCtr, rgns := s.rgns, chanErrs := s.chanErrs, adopting := [], elapsed := s.elapsed
    resetAt := (s.elapsed, s.wire.length) }

/-- Retirements and rails after a reset: benches at rest, rails off. -/
def State.rest (s : State) : State :=
  (List.range 40).foldl State.restBench ((List.range 72).foldl (fun t r => t.set (Rgn.vread r) 0) s)

/-- Power-on reset: lifetime records alone are kept, power-on time and ageing as they were last written (R426, R427, R460). -/
def State.powerOnReset (s : State) : State :=
  let s := (s.resetAll (· == Keep.life)).rest
  let s := s.set Sec.powerOnS (Tab.get s.stored 0 0)
  (List.range 85).foldl (fun t r => t.set (Sec.age r) (Tab.get t.stored 0 (1 + r))) { s with ageFrac := [] }

/-- Warm reset: also the fields kept over it and the error log (R9, R436, R460); a confirmation that was due is due again (R430). -/
def State.warmReset (s : State) : State :=
  State.set { (s.resetAll (· != Keep.none)).rest with log := s.log } Sec.confirmPending (s.get Sec.confirmPending)

/-- Everything off (R454). -/
def State.powerOff (s : State) : State := s.powerOnReset.setAll [(Cmd.powerState, 0), (Side.ppsInLvl, 0)]

/-- POWER_ON_RESET (R457): from OFF, the input rises above 35.0 V. While RESET_N is low the boot waits for it (R461). -/
def execPowerOnReset (vin : Nat) (s : State) : Host.Outcome State Fault Refusal :=
  .next (
    if s.get Cmd.powerState = 0 ∧ 35000 < vin ∧ vin ≤ 50000 then
      let t := { s.powerOnReset with tapIr := 1, tapDrive := false }.set Pwr.vin vin
      if s.flag Side.resetNIn then t.boot else t.set Cmd.powerState 1
    else s)

/-- WARM_RESET (R460, R461): RESET_N goes low and holds the module; PWRGD and every other output are released. -/
def execWarmReset (s : State) : Host.Outcome State Fault Refusal :=
  .next (
    let t := if s.get Cmd.powerState = 0 ∨ ¬ s.flag Side.resetNIn then s else s.warmReset.set Cmd.powerState 1
    t.set Side.resetNIn 0)

/-- The boot after a warm reset, and with PWR_EN high the entry to ACTIVE (R460). -/
def State.reboot (s : State) : State :=
  let t := s.boot
  if t.flag Side.pwrEnIn && !t.flag Sec.bootRecovery then t.enterActive else t

/-- RESET_N_HIGH (R460, R461, R467): the boot runs; EXTEST then acts as BYPASS. -/
def execResetNHigh (s : State) : Host.Outcome State Fault Refusal :=
  .next (
    let t := s.set Side.resetNIn 1
    if s.flag Side.resetNIn then s
    else if s.get Cmd.powerState = 0 then t
    else { t with tapDrive := false }.reboot)

/-! ### The input (R453-R455) -/

/-- Whether an input voltage in mV lies in an excursion band (R454). -/
def inExcursion (vin : Nat) : Bool := decide ((34000 ≤ vin ∧ vin < 36000) ∨ (44000 < vin ∧ vin ≤ 46000))

/-- SUPPLY_EXCURSION (R454): one entry per excursion. -/
def execSupplyExcursion (vin : Nat) (s : State) : Host.Outcome State Fault Refusal :=
  .next (
    if s.alive && inExcursion vin then
      let t := s.set Pwr.vin vin
      if s.excursion then t else ((State.logE { t with excursion := true } clSupply .board 0 []).set Pwr.supplyEvt 1).alert
    else s)

/-- The input below 34.0 V or above 50.0 V: every rail is off and the module is OFF (R454, R469; log entry 32). -/
def State.inputLost (s : State) (vin : Nat) : State :=
  if s.get Cmd.powerState = 0 then s else { s.powerOff with excursion := false }.set Pwr.vin vin

/-- OVERVOLTAGE (R454): above 46.0 V the dies go off, above 50.0 V every rail does. -/
def execOvervoltage (vin : Nat) (s : State) : Host.Outcome State Fault Refusal :=
  .next (
    if 50000 < vin then s.inputLost vin
    else if s.alive && decide (46000 < vin) then (s.set Pwr.vin vin).fallBack 2
    else s)

/-- INPUT_OFF (R454): below 34.0 V or above 50.0 V. -/
def execInputOff (vin : Nat) (s : State) : Host.Outcome State Fault Refusal :=
  .next (if vin < 34000 ∨ 50000 < vin then s.inputLost vin else s)

/-- POWER_MEASUREMENT (R454, R455, R471). -/
def execPowerMeasurement (vin iin pin pinAvg : Nat) (s : State) : Host.Outcome State Fault Refusal :=
  .next (
    if s.get Cmd.powerState ≠ 0 then
      let t := s.setAll [(Pwr.vin, vin), (Pwr.iin, iin), (Pwr.pin, pin), (Pwr.pinAvg, pinAvg)]
      { t with excursion := s.excursion && inExcursion vin }
    else s)

/-! ### Thermal limits (R462, R466) -/

/-- The unit of a sensor, by AGE_r number (R431, R434). -/
def sensorUnit (u : Nat) : LogUnit :=
  if u < 72 then .ofRegion u else if u < 76 then .portDie (u - 72) else if u < 84 then .forgeDie (u - 76) else .hub

/-- The die of a sensor: 2 x number, plus one for a port die; the hub's is none. -/
def sensorDie (u : Nat) : Option (Bool × Nat) :=
  if u < 40 then some (true, u / 5)
  else if u < 48 then some (true, u - 40)
  else if u < 72 then some (ringStop ((u - 48) % 12))
  else if u < 76 then some (false, u - 72)
  else if u < 84 then some (true, u - 76)
  else none

/-- Every region rail of a sensor's die falls to 0.60 V (R462). -/
def State.coolDie (s : State) (u : Nat) : State :=
  match sensorDie u with
  | none => s
  | some d =>
    ((List.range 72).filter fun r => sensorDie r == some d).foldl (fun t r =>
      let t := State.capRegion { t with capHeat := Tab.set t.capHeat 850 r 600 } r
      if t.railOn r then t.setAll [(Rgn.vread r, 600), (Rgn.slewing r, 0)] else t) s

/-- THERM_N (R462): a sensor at or above 103 C. -/
def execThermN (unit : Nat) (temp : Int) (s : State) : Host.Outcome State Fault Refusal :=
  .next (
    if s.alive && decide (unit < 85 ∧ 1030 ≤ temp) then
      let t := ((s.senseTemp unit temp).logE clThermal (sensorUnit unit) 0 []).set Pwr.thermEvt 1
      if t.active then (t.coolDie unit).showPower else t
    else s)

/-- THERM_N_DEASSERT (R466): a sensor reads less than 103 C; THERM_N is released once every one does. -/
def execThermNDeassert (unit : Nat) (temp : Int) (s : State) : Host.Outcome State Fault Refusal :=
  .next (if s.alive && decide (unit < 85 ∧ temp < 1030) then s.senseTemp unit temp else s)

/-- THERMAL_TRIP (R462): a sensor at or above 107 C; the dies go off. -/
def execThermalTrip (unit : Nat) (temp : Int) (s : State) : Host.Outcome State Fault Refusal :=
  .next (
    if s.alive && decide (unit < 85 ∧ 1070 ≤ temp) then
      (((((s.senseTemp unit temp).logE clThermal (sensorUnit unit) 0 []).set Pwr.tripEvt 1).bump Pwr.trips 1).fallBack 1)
    else s)

/-- COOLANT_HOT (R462): the inlet is above 45 C. -/
def execCoolantHot (inlet : Nat) (s : State) : Host.Outcome State Fault Refusal :=
  .next (
    if s.alive && decide (450 < inlet) then
      (((s.set Pwr.coolIn inlet).logE clThermal .board 0 []).set Pwr.coolEvt 1).alert
    else s)

/-! ### The TAP (R467) -/

/-- The TAP's instruction register loaded; only EXTEST drives the boundary register. It works while the hub rails are up. -/
def State.tapLoad (s : State) (ir : Nat) (drive : Bool) : State :=
  if s.get Cmd.powerState = 0 then s else { s with tapIr := ir, tapDrive := drive }

/-- TRST_N (R467): the TAP's reset selects IDCODE, as IEEE 1149.1 has it (PRESUMED, log entry 8). -/
def execTrstN (s : State) : Host.Outcome State Fault Refusal := .next (s.tapLoad 1 false)

/-- EXTEST (R467): accepted only while RESET_N is low, otherwise as BYPASS. -/
def execExtest (s : State) : Host.Outcome State Fault Refusal :=
  .next (if s.flag Side.resetNIn then s.tapLoad 255 false else s.tapLoad 0 true)

/-- IDCODE (R467). -/
def execIdcode (s : State) : Host.Outcome State Fault Refusal := .next (s.tapLoad 1 false)

/-- SAMPLE/PRELOAD (R467). -/
def execSamplePreload (s : State) : Host.Outcome State Fault Refusal := .next (s.tapLoad 2 false)

/-- BYPASS (R467). -/
def execBypass (s : State) : Host.Outcome State Fault Refusal := .next (s.tapLoad 255 false)

/-! ### Registers read -/

/-- Whether a counter measures what no command of the model shows: it reads as a free value, but as 0 right after a reset where that is its
reset value (log entry 10). -/
def measured (f : Field) : Bool :=
  let o := f.addr - 0x3F000D000000
  (f.acc == .ro) &&
  (f == Imp.maxErase || f == Pwr.coolOut || f == Dl.cwCorr ||
    decide (0x3F000D030000 ≤ f.addr ∧ f.addr < 0x3F000D040000 ∧ o % 0x20 ≠ 0x18) ||
    decide (0x3F000D040000 ≤ f.addr ∧ f.addr < 0x3F000D050000 ∧ o % 0x20 = 0x10) ||
    decide (0x3F0001000000 ≤ f.addr ∧ f.addr < 0x3F0009000000 ∧ 0x800100 ≤ f.addr % 0x1000000 ∧ f.addr % 0x1000000 < 0x800700 ∧
      (f.addr % 0x20 = 8 ∨ (f.addr % 0x20 = 0x10 ∧ f.lo = 0))) ||
    decide (0x3F0009000000 ≤ f.addr ∧ f.addr < 0x3F000D000000 ∧ f.addr % 0x1000000 < 0x200000 ∧ 0x100 ≤ f.addr % 0x20000 ∧
      f.addr % 0x20000 < 0x500 ∧ f.addr % 0x80 = 0x20))

/-- Whether nothing has happened yet since the counters were reset: no time has passed and nothing was sent. -/
def State.justReset (s : State) : Bool := s.resetAt == (s.elapsed, s.wire.length) && s.ports.isEmpty

/-- A register field as a command reads it. -/
def State.readField (s : State) (f : Field) : Nat × State :=
  if f.acc = .wo then (0, s)
  else if measured f && !(s.justReset && f != Imp.maxErase && f != Pwr.coolOut) then
    let (v, t) := s.fresh
    (v % 2 ^ f.width * 2 ^ f.lo, t)
  else (s.get f * 2 ^ f.lo, s)

/-- A register word as a command reads it. -/
def State.readFields (s : State) : List Field → Nat × State
  | [] => (0, s)
  | f :: fs =>
    let (v, t) := s.readField f
    let (w, u) := t.readFields fs
    (v + w, u)

/-! ### The SMBus target (R468) -/

/-- BLOCK_WRITE (R468): six bytes set the read address. -/
def execBlockWrite (bytes : List Byte) (s : State) : Host.Outcome State Fault Refusal :=
  .next (if s.alive && bytes.length == 6 then { s with smbAddr := leNat bytes } else s)

/-- The word that the SMBus reads at an address: only the sideband and the power and thermal blocks are readable (R468). -/
def State.smbWord (s : State) (a : Nat) : Nat × State :=
  match decide (0x3F00000B0000 ≤ a ∧ a < 0x3F00000D0000), locate a with
  | true, .regs fs => s.readFields fs
  | _, _ => (2 ^ 64 - 1, s)

/-- BLOCK_READ (R468): 8 bytes, and the address advances by 8. -/
def execBlockRead (s : State) : Host.Outcome State Fault Refusal :=
  .next (
    if s.alive then
      let a := s.smbAddr
      let v := s.smbWord (a / 8 * 8)
      let w := v.2.smbWord (a / 8 * 8 + 8)
      { w.2 with smbOut := ((leBytes 8 v.1 ++ leBytes 8 w.1).drop (a % 8)).take 8, smbAddr := (a + 8) % 2 ^ 48 }
    else s)

end Sys2Proof.Machine
end

