-- ==== Sys2Proof/Machine/Narrow.lean ====
section
/-! DEFINITION. The port events that can end a host command: narrowing and a port that goes down end a RETIRE of a lane, stop
marks and their loss end a GLOBAL_STOP (R272, R278-R279, R317, R324-R327). -/

namespace Sys2Proof.Machine

open Sys2Proof

/-- NARROW (R327). -/
def execNarrow (p : Nat) (blk : BitVec 256) (mask : BitVec 8) (s : State) : Host.Outcome State Fault Refusal :=
  .next (s.blockIn p 7 blk false fun t => if t.portUp p then t.narrowIn p mask.toNat else t).settleRetires

/-- NARROW_ACK on a port that narrows: the mask is the group that the peer chose. -/
def State.narrowAck (s : State) (p mask : Nat) : State :=
  if s.ctxState p = 4 then
    match laneGroup mask with
    | some g => s.narrowTo p g
    | none => s.linkDown p 11
  else s

/-- NARROW_ACK (R327). -/
def execNarrowAck (p : Nat) (blk : BitVec 256) (mask : BitVec 8) (s : State) : Host.Outcome State Fault Refusal :=
  .next (s.blockIn p 8 blk false fun t => t.narrowAck p mask.toNat).settleRetires

/-- NARROW_FAILED (R327). -/
def execNarrowFailed (p : Nat) (s : State) : Host.Outcome State Fault Refusal :=
  .next (if s.active && s.ctxState p == 4 then (s.linkDown p 13).settleRetires else s)

/-- What silence does to a port: an up link goes down; in the HELLO exchange it is NO_HELLO (R322, R324, R332). -/
def State.silent (s : State) (p : Nat) : State :=
  if s.portUp p then s.linkDown p 9 else if s.ctxState p = 2 then s.linkEnds p 4 else s

/-- PEER_SILENT (R324). -/
def execPeerSilent (p : Nat) (s : State) : Host.Outcome State Fault Refusal :=
  .next (if s.active then (s.silent p).settleRetires else s)

/-- HELLO (R317, R322, R323, R330). -/
def execHello (p : Nat) (blk : BitVec 256) (s : State) : Host.Outcome State Fault Refusal := .next (s.helloBlock p blk).settleRetires

/-- RETRY_REQ (R272, R331): honoured only by an end whose own mode has retry on. frame is the number, among the frames the
port has sent, of the one that the block's body names. -/
def execRetryReq (p : Nat) (blk : BitVec 256) (frame : Nat) (s : State) : Host.Outcome State Fault Refusal :=
  .next (s.blockIn p 6 blk false fun t => if t.siteNative p && t.portUp p then t.retryFrame p frame else t).settleRetires

/-- STOP_MARK (R278). -/
def execStopMark (p : Nat) (blk : BitVec 256) (s : State) : Host.Outcome State Fault Refusal := .next ((s.markBlock p blk).cutEnd false)

/-- CUT_LOST (R279): order 5 of R278 has come and the link has given no mark. -/
def execCutLost (p : Nat) (s : State) : Host.Outcome State Fault Refusal :=
  .next (
    if s.active && s.cut && s.ctxOn p && !s.carried p && !s.endpointLink p && !(s.port p).markSeen then
      ((s.set Fab.cutLost 1).logE clLinkDown (.port p) 0 []).cutEnd true
    else s)

end Sys2Proof.Machine
end

