-- ==== Sys2Proof/Machine/Observe.lean ====
section
/-! DEFINITION. Trace records leaving their FIFOs, hang detection, and the wait-for graph (R441-R447). How the graph is built
where the manual leaves it open is log entry 20. -/

namespace Sys2Proof.Machine

open Sys2Proof

/-- TRACE_RING_WRITE (R441): the oldest record of a region's FIFO reaches the ring. -/
def execTraceRingWrite (r : Nat) (s : State) : Host.Outcome State Fault Refusal :=
  .next (if s.active && decide (r < 72) then s.traceDrain r else s)

/-! ### The waits of one sample (R445, R446) -/

/-- A station's ID in the graph; 15 as station is the Compositor, whose ID is the bench alone. -/
def stationId (b i : Nat) : Nat := b + 64 * i

/-- A queue's ID in the graph. -/
def queueId (b q : Nat) : Nat := b + 64 * q

/-- What station i of bench b waits for on input port p: reason 1 with the expected tag. -/
def State.inputWait (s : State) (b i : Nat) (x : Stream) (p : Nat) : List WaitSeen :=
  let v := nth ⟨0, 0, 0⟩ x.ins p
  let n := nth 0 x.inPos p
  if v.count ≤ n ∨ s.peek b i p n x ≠ .wait then []
  else
    match v.kind with
    | 1 => [⟨1, stationId b i, x.waitSince, 1, 3, queueId b v.id, n % 256⟩]
    | 3 =>
      match s.chanOfBench b v.id with
      | some c => [⟨1, stationId b i, x.waitSince, 1, 5, c.port, n % 256⟩]
      | none => []
    | _ => []

/-- What it waits for on output port p: reason 2. -/
def State.outputWait (s : State) (b i : Nat) (x : Stream) (p : Nat) : List WaitSeen :=
  let v := nth ⟨0, 0, 0⟩ x.outs p
  if s.space b x p then [] else [⟨1, stationId b i, x.waitSince, 2, 3, queueId b v.id, 0⟩]

/-- The duty that a station waits for besides its ports: an Anvil SUM or SUMSP stream the global result (R100), Temper its step constants
and what else holds it back (R208, R221). -/
def State.dutyWait (s : State) (b i : Nat) (x : Stream) (ports : Bool) : Option Nat :=
  match kindCode i with
  | 1 => if (x.form == 1 || x.form == 2) && (x.descOf b x.p3).any fun d => !s.globComplete (d.deviceAddr b d.base) d.size then some 5 else none
  | 2 =>
    let step := if x.form = 1 then x.startStep - 1 else x.startStep
    if !ports || bits (s.rdNat (s.scAddr x.group step) 32) 224 32 != step % 2 ^ 32 then some 1 else none
  | _ => none

/-- The waits of a station in STATE 2: for its ports, and for a duty of firmware. -/
def State.stationWaits (s : State) (b i : Nat) : List WaitSeen :=
  match s.stream b i with
  | none => []
  | some x =>
    if s.get (Stn.state b i) ≠ 2 then []
    else
      let l := ((List.range x.ins.length).map (s.inputWait b i x)).flatten ++ ((List.range x.outs.length).map (s.outputWait b i x)).flatten
      l ++ ((s.dutyWait b i x (!l.isEmpty)).map fun n => ⟨1, stationId b i, x.waitSince, 1, 8, n, nth 0 x.inPos 0 % 256⟩).toList

/-- The waits of a Compositor (R178). -/
def State.compositorWaits (s : State) (b : Nat) : List WaitSeen :=
  let since := s.get (Aoc.waitSince b 15)
  let stn (reason : Nat) : List WaitSeen := [⟨2, b, since, reason, 1, stationId b (s.get (Cmp.waitStn b)), 0⟩]
  match (s.comp b).waiting with
  | none => []
  | some (.strm _ _) => stn 3
  | some (.swait _) => stn 4
  | some .endW => stn 7
  | some (.storeW _ _ _) => [⟨2, b, since, 6, 3, queueId b (s.get (Cmp.waitIndex b)), 0⟩]
  | some (.storeD _ _ _) => [⟨2, b, since, 6, 3, queueId b (s.get (Cmp.waitIndex b)), 0⟩]
  | some (.sigwait rd _ _) =>
    match s.waitsOn b with
    | some a => [⟨2, b, since, 5, 4, a, s.gPair b rd % 2 ^ 48⟩]
    | none => []
  | some (.mwait mask) =>
    ((s.comp b).mons.filter fun e => e.2.armed && !e.2.fired && bitAt mask.toNat e.1).map fun e =>
      ⟨2, b, since, 5, 4, e.2.word, e.2.threshold % 2 ^ 48⟩

/-- The waits of a port context: a head packet without credit, and packets held for their ordinal's turn. -/
def State.portWaits (s : State) (p : Nat) : List WaitSeen :=
  let x := s.port p
  let heads := (List.range 6).filterMap (s.headOf p)
  let credit : List WaitSeen := (heads.filter fun q => !s.hasCredit p q.pkt).map fun q =>
    ⟨5, p, q.since, 8, 7, s.get (Oct.ctxPeerId (p / 8) (p % 8)), 0⟩
  let turn : List WaitSeen := x.ahead.map fun k => ⟨5, p, 0, 9, 6, pktOrd k, (s.cursorOrd (s.portList p) x.cursor).getD 0⟩
  credit ++ turn

/-- The weight requests that wait for an update (R23): a firmware duty waits on the bucket's update word. -/
def State.requestWaits (s : State) : List WaitSeen :=
  (s.fetches.filter s.fetchWaits).filterMap fun q =>
    match s.bucket (lyBucket (s.layer (fqLayer q.head))) with
    | some k => some ⟨8, 4, 0, 5, 4, k.updWord, fqStep q.head % 2 ^ 48⟩
    | none => none

/-- Every wait that one sample sees. -/
def State.waits (s : State) : List WaitSeen :=
  ((List.range 40).map fun b => s.compositorWaits b ++ ((List.range 10).map (s.stationWaits b)).flatten).flatten ++
    ((s.ports.map (·.1)).map s.portWaits).flatten ++ s.requestWaits

/-! ### The graph (R446) -/

/-- The stations of a bench whose running streams bind a queue as output (out) or as input. -/
def State.queueUsers (s : State) (b q : Nat) (out : Bool) : List Nat :=
  (s.streams.filter fun e => e.1 / 16 == b && (if out then e.2.outs else e.2.ins).any fun v => v.kind == 1 && v.id == q).map (·.1 % 16)

/-- The edges out of a queue: to its producer where a token is missing, to its consumer where room is. -/
def State.queueEdges (s : State) (id : Nat) (reason : Nat) : List WaitSeen :=
  let b := id % 64
  let q := id / 64
  (if reason = 2 then [] else (s.queueUsers b q true).map fun i => ⟨3, id, 0, 1, 1, stationId b i, 0⟩) ++
    (if reason = 1 then [] else (s.queueUsers b q false).map fun i => ⟨3, id, 0, 2, 1, stationId b i, 0⟩)

/-- The edges out of a signal word: to each running stream that signals it, or else to the device that last added to it. -/
def State.signalEdges (s : State) (a : Nat) : List WaitSeen :=
  let l : List WaitSeen := (s.streams.filter fun e => e.2.sigEn && e.2.sigAddr == a).map fun e =>
    ⟨4, a, 0, 10, 1, stationId (e.1 / 16) (e.1 % 16), 0⟩
  if !l.isEmpty then l
  else
    match s.dirFind a with
    | some e => [⟨4, a, 0, 11, 7, s.rdNat (e + 32) 4 % 2 ^ 20, 0⟩]
    | none => []

/-- The edges that a wait brings into the graph. -/
def State.edgesOf (s : State) (w : WaitSeen) : List WaitSeen :=
  w :: (if w.tkind = 3 then s.queueEdges w.tid w.reason else if w.tkind = 4 then s.signalEdges w.tid else [])

/-- A list without its repeats, first places kept. -/
def firsts {α : Type} [BEq α] (l : List α) : List α := (l.foldl (fun acc x => if acc.contains x then acc else x :: acc) []).reverse

/-- The halted benches' Compositors, which the graph always shows. -/
def State.haltedNodes (s : State) : List (Nat × Nat) := ((List.range 40).filter fun b => s.get (Ben.state b) == 2).map fun b => (2, b)

/-- The nodes in the order in which the edges name them. -/
def State.graphNodes (s : State) (es : List WaitSeen) : List (Nat × Nat) :=
  firsts ((es.map fun e => [(e.kind, e.id), (e.tkind, e.tid)]).flatten ++ s.haltedNodes)

/-- The nodes that n steps along the edges reach. -/
def reach (es : List WaitSeen) : Nat → List (Nat × Nat) → List (Nat × Nat)
  | 0, l => l
  | n + 1, l => reach es n (firsts (l ++ (es.filter fun e => l.contains (e.kind, e.id)).map fun e => (e.tkind, e.tid)))

/-- The nodes that a node reaches by one edge or more. -/
def reachFrom (es : List WaitSeen) (n : Nat × Nat) : List (Nat × Nat) :=
  reach es es.length ((es.filter fun e => (e.kind, e.id) == n).map fun e => (e.tkind, e.tid))

/-- Whether a node is idle: waited on, waiting on nothing, not working. Ports, remote devices, ordinals and duties are taken as
working. -/
def State.nodeIdle (s : State) (es : List WaitSeen) (n : Nat × Nat) : Bool :=
  (es.any fun e => (e.tkind, e.tid) == n) && !(es.any fun e => (e.kind, e.id) == n) &&
    (match n.1 with
    | 1 => s.get (Stn.state (n.2 % 64) (n.2 / 64)) != 1
    | 2 => s.get (Stn.state n.2 15) != 1
    | 3 => true
    | 4 => true
    | _ => false)

/-- Whether a node's bench is halted. -/
def State.nodeHalted (s : State) (n : Nat × Nat) : Bool := decide (n.1 ≤ 3) && s.get (Ben.state (n.2 % 64)) == 2

/-- A node record. -/
def State.nodeRec (s : State) (es : List WaitSeen) (n : Nat × Nat) : List Byte :=
  let since := ((es.find? fun e => (e.kind, e.id) == n).map (·.since)).getD 0
  leBytes 16 (packDetail [(n.1, 4), (b2n ((reachFrom es n).contains n), 1), (b2n (s.nodeHalted n), 1), (b2n (s.nodeIdle es n), 1), (0, 9),
    (n.2, 48), (since, 64)])

/-- An edge record. -/
def edgeRec (ns : List (Nat × Nat)) (e : WaitSeen) : List Byte :=
  leBytes 16 (packDetail [(ns.idxOf (e.kind, e.id), 32), (ns.idxOf (e.tkind, e.tid), 32), (e.reason, 8), (e.arg, 56)])

/-- The number of separate cycles: nodes on a cycle, those that reach each other counted once. -/
def cycleCount (es : List WaitSeen) (ns : List (Nat × Nat)) : Nat :=
  let cyc := ns.filter fun n => (reachFrom es n).contains n
  (cyc.filter fun n => !((cyc.take (cyc.idxOf n)).any fun m => (reachFrom es m).contains n && (reachFrom es n).contains m)).length

/-- The bytes of a graph from its edges. -/
def State.graphBytes (s : State) (seq stamp : Nat) (es : List WaitSeen) : List Byte :=
  let all := s.graphNodes es
  let ns := all.take 32768
  let shown := (es.filter fun e => ns.contains (e.kind, e.id) && ns.contains (e.tkind, e.tid)).take 32764
  let cut := decide (32768 < all.length ∨ 32764 < es.length)
  leBytes 64 (packDetail [(1, 4), (b2n cut, 1), (0, 59), (seq, 64), (stamp, 64), (ns.length, 16), (shown.length, 16), (cycleCount shown ns, 16)]) ++
    (ns.map (s.nodeRec es)).flatten ++ (shown.map (edgeRec ns)).flatten

/-- Base of a graph area (R446). -/
def graphArea (g : Nat) : Nat := 0x3F000D100000 + 0x100000 * g

/-- The first sample of a build (R445). -/
def State.graphBegin (s : State) : State := State.set { s with graph := some (s.now, s.waits) } Obs.building 1

/-- The second sample: the waits that both show, with the same start, make the graph (R445, R447). -/
def State.graphEnd (s : State) (stamp : Nat) (first : List WaitSeen) : State :=
  let kept := s.waits.filter fun w => first.any fun v => v.kind == w.kind && v.id == w.id && v.since == w.since
  let es := firsts ((kept.map s.edgesOf).flatten)
  let g := 1 - s.get Obs.graphCur
  let seq := s.get Obs.graphSeq + 1
  let s := { s with graph := none }.store (graphArea g) (s.graphBytes seq stamp es)
  s.setAll [(Obs.graphCur, g), (Obs.graphSeq, seq), (Obs.building, 0)]

/-- GRAPH_SAMPLE (R445). -/
def execGraphSample (s : State) : Host.Outcome State Fault Refusal :=
  .next (
    if !s.alive then s
    else
      match s.graph with
      | some (t, first) => s.graphEnd t first
      | none => s)

/-- A build that firmware starts by itself: no more than one per HANG_US. -/
def State.hangGraph (s : State) : State :=
  if s.graph.isSome ∨ (s.lastGraph ≠ 0 ∧ s.elapsed < s.lastGraph + 1000 * s.get Obs.hangUs) then s
  else State.graphBegin { s with lastGraph := s.elapsed }

/-- HANG_DETECT (R445): station i, or the Compositor as i = 15, of bench b has waited HANG_US. -/
def execHangDetect (b i : Nat) (s : State) : Host.Outcome State Fault Refusal :=
  .next (
    if s.active && decide (b < 40 ∧ (i < 10 ∨ i = 15)) && s.get Obs.hangUs != 0 && s.get (Stn.state b i) == 2 then
      ((s.set Obs.hangEvt 1).alert).hangGraph
    else s)

end Sys2Proof.Machine
end

