-- ==== Sys2Proof/Machine/Csr.lean ====
section
/-! DEFINITION. READ_CSR and WRITE_CSR: the checks of every register's own rule, the effects of a write, and the writes that
have a row of their own (R7-R8, R159, R400, R404-R405, R473, R477; log entry 21). -/

namespace Sys2Proof.Machine

open Sys2Proof

/-! ### Where an access goes -/

/-- Whether an access of n words from a needs a forge or port die (R403, R406). -/
def needsDie (a n : Nat) : Bool :=
  decide (a < 0x15000000000) || decide (a < 0x200030000000 ∧ 0x200000000000 < a + 8 * n) ||
    decide (a < 0x3F000D000000 ∧ 0x3F0001000000 < a + 8 * n)

/-- The bench whose register block holds an address, with the offset in it (R143). -/
def benchAt (a : Nat) : Option (Nat × Nat) :=
  if 0x3F0001000000 ≤ a ∧ a < 0x3F0009000000 then
    let o := (a - 0x3F0001000000) % 0x1000000
    if o < 0x500000 then some (5 * ((a - 0x3F0001000000) / 0x1000000) + o / 0x100000, o % 0x100000) else none
  else none

/-! ### Reading -/

/-- Word k of a mailbox's stored reply: its header, then its result words (R410). -/
def State.storedWord (s : State) (m k : Nat) : Nat :=
  match Tab.find s.mailboxes m with
  | none => 0
  | some r => leNat ((r.bytes.drop (8 * k)).take 8)

/-- What reading one word finds. -/
inductive ReadRes where
  | word (v : Nat) (s : State)
  | refused (status : Nat)
  | violation
  | hw (s : State) (at' : Nat)
  deriving DecidableEq, Repr

/-- A word of memory: a poisoned line or an uncorrectable word is HW_FAULT (R400); stone control logs its own (R476). -/
def State.readMem (s : State) (a : Nat) : ReadRes :=
  match s.readErr a 8 with
  | some e => .hw (if isStone a then s.stoneUncorr e else s) a
  | none => .word (s.rdNat a 8) s

/-- Whether an address is a register mirror Gr of a bench that runs (R159, R178). -/
def State.mirrorBusy (s : State) (a : Nat) : Bool :=
  match benchAt a with
  | some (b, o) => decide (0x10200 ≤ o ∧ o < 0x10300) && s.get (Ben.state b) == 1
  | none => false

/-- Word k of a slot of the error log; an empty slot reads as zero (R436). -/
def State.logWordAt (s : State) (slot k : Nat) : Nat :=
  match Tab.find s.log slot with
  | some e => bits e.toNat (64 * k) 64
  | none => 0

/-- One word read (R400). -/
def State.readAt (s : State) (a : Nat) : ReadRes :=
  match locate a with
  | .regs fs =>
    if s.mirrorBusy a then .refused stBusy
    else
      let (v, t) := s.readFields fs
      .word v t
  | .reply m k => .word (s.storedWord m k) s
  | .lpddr => if s.inSpare a then .violation else s.readMem a
  | .stone _ _ => s.readMem a
  | .bench _ _ => s.readMem a
  | .area => .word (s.rdNat a 8) s
  | .logWord slot k => .word (s.logWordAt slot k) s
  | .zero => .word 0 s
  | .none => .violation

/-- Words from a on, up to the first that cannot be read. -/
def State.readWords (op : Nat) : Nat → Nat → List Nat → State → Answer
  | 0, _, acc, s => .ok s acc.reverse
  | n + 1, a, acc, s =>
    match s.readAt a with
    | .word v t => State.readWords op n (a + 8) (v :: acc) t
    | .refused st => .err s st
    | .violation => .violation s op a []
    | .hw t e => .done t stHwFault e []

/-! ### Tables of a running function -/

/-- Whether the word at a meets n bytes at base. -/
def meets (a base n : Nat) : Bool := decide (base < a + 8 ∧ a < base + n)

/-- Whether a word lies in a table that is written only while the device is stopped: regions, topology, groups, collectives, layers,
parameter groups with their curves and masks, the piece map, and the signal directory (R180, R186, R207, R230, R246, R259, R404). -/
def State.inTable (s : State) (a : Nat) : Bool :=
  meets a (s.get Fab.rtBase) (16 * s.get Fab.rtCount) || meets a (s.get Coll.topoBase) (4 * s.positions) ||
    meets a (s.get Coll.grpBase) (32 * s.get Coll.grpCount) || meets a (s.get Coll.collBase) (32 * s.get Coll.ncoll) ||
    meets a (s.get Ws.ltBase) (128 * s.get Ws.ltCount) || meets a (s.get Upd.gtBase) (64 * s.get Upd.gtCount) ||
    meets a (s.get Surv.pmBase) (16 * s.get Surv.pmCount) || (isStone a && meets a (dirBase (dieOf a)) 0x80000) ||
    (List.range (s.get Upd.gtCount)).any fun g =>
      let w := s.groupRec g
      meets a (grCurve w) (32 * grNpoints w) || (grMaskEn w && meets a (grMask w) (ceilDiv (grRows w) 8))

/-! ### Writing -/

/-- What writing one word comes to. -/
inductive WriteRes where
  | ok (s : State)
  | refused (s : State) (status : Nat)
  | violation
  deriving DecidableEq, Repr

/-- The device is not stopped (R403). -/
def State.moving (s : State) : Bool := s.get Cmd.runState != 0

/-- A word of LPDDR5X: refused in the spare region, in a running function's table, and in a poisoned line, of which it is
a part only (R338, R342, R404). -/
def State.writeLpddr (s : State) (a v : Nat) : WriteRes :=
  if s.inSpare a then .violation
  else if s.moving && s.inTable a then .refused s stStopReq
  else if (s.storeErr a 8).isSome then .violation
  else .ok (s.put a (leBytes 8 v))

/-- A word of stone: written whole, it loses its error (R339). -/
def State.writeStone (s : State) (a v : Nat) : WriteRes :=
  if s.moving && s.inTable a then .refused s stStopReq else .ok (s.put a (leBytes 8 v))

/-- A word of a bench's own memory: data memory and the descriptor table while the bench does not run (R159); instruction memory
and the Temper store hold verified images and take no write but LOAD_IMAGE's (R134, R173, R421). -/
def State.writeBench (s : State) (b off a v : Nat) : WriteRes :=
  if s.get (Ben.state b) = 4 then .violation
  else if s.get (Ben.state b) = 3 then .refused s stBusy
  else if off < 0x30000 ∨ 0x80000 ≤ off then .violation
  else if s.get (Ben.state b) = 1 then .refused s stStopReq
  else .ok (s.put a (leBytes 8 v))

/-- Whether a context names an enabled native port (R58). -/
def State.nativeOn (s : State) (p : Nat) : Bool := s.ctxOn p && !s.carried p

/-- A field's value in a word to be written. -/
def Field.of (f : Field) (v : Nat) : Nat := bits v f.lo f.width

/-- Whether a write of v violates the stop-only fields of a word while the device is not stopped: a word that holds only such
fields is refused, one that holds others too keeps them (R477). -/
def State.stopBad (s : State) (fs : List Field) (v : Nat) : Bool :=
  let w := fs.filter fun f => f.acc != .ro
  s.moving && w.any (·.stop) && (w.all (·.stop) || w.any fun f => f.stop && f.of v != s.get f)

/-- Whether some RW field would take a value it does not accept (R477). -/
def rangeBad (fs : List Field) (v : Nat) : Bool := fs.any fun f => f.acc == .rw && !f.accepts (f.of v)

/-- The RW fields of a word as a write sets them, its W1C fields as it clears them (R7). -/
def State.setFields (s : State) (fs : List Field) (v : Nat) : State :=
  fs.foldl (fun t f =>
    match f.acc with
    | .rw => t.set f (f.of v)
    | .w1c => t.set f (s.get f &&& (2 ^ f.width - 1 - f.of v))
    | _ => t) s

/-- The policer settings of R301 that are refused. -/
def policerBad (type cir pir cbs ebs : Nat) : Bool :=
  decide ((cbs ≠ 0 ∧ cbs < 8232) ∨ (type = 1 ∧ (ebs < 8232 ∨ pir < cir)) ∨ (type = 0 ∧ cbs = 0 ∧ ebs = 0) ∨
    ¬ (1 ≤ cir ∧ cir ≤ 200000 ∧ 1 ≤ pir ∧ pir ≤ 200000))

/-- The rules of the traffic manager's policer and mirror words (R301, R302, R309): w is the offset in the block. -/
def State.tmRefuse (s : State) (m w v : Nat) (fs : List Field) : Option Nat :=
  if 0x10000 ≤ w ∧ w < 0x18000 then
    let i := (w - 0x10000) / 0x20
    let t : State := s.setFields fs v
    if s.flag (Tm.polEn m i) && (w % 0x20 != 0 || fs.any fun f => f.lo != 0 && f.of v != s.get f) then some stStopReq
    else if policerBad (t.get (Tm.polTypeF m i)) (t.get (Tm.polCir m i)) (t.get (Tm.polPir m i)) (t.get (Tm.polCbs m i)) (t.get (Tm.polEbsPbs m i)) then
      some stBadParam
    else none
  else if 0x19000 ≤ w ∧ w < 0x19200 then
    let k := (w - 0x19000) / 0x40
    if s.flag (Tm.mirEn m k) && (w % 0x40 != 0 || fs.any fun f => f.lo != 0 && f.of v != s.get f) then some stStopReq
    else if w % 0x40 = 0 ∧ v % 2 = 1 ∧ bits v 1 2 = 0 then some stBadParam
    else if w % 0x40 = 0 ∧ ¬ bitAt v 3 ∧ pdOf (bits v 4 9) ≠ m ∧ (v % 2 = 1 ∨ bits v 4 9 ≠ s.get (Tm.mirSrcPort m k)) then some stBadParam
    else none
  else none

/-- The rules of one register word beyond the ranges of its fields: the status that refuses the write. stAccess stands for an access
violation. -/
def State.wordRefuse (s : State) (a v : Nat) (fs : List Field) : Option Nat :=
  if a = 0x3F0000030008 then (if s.flag Tb.master ∧ v % 2 = 0 ∧ ¬ s.nativeOn (s.get Tb.tbSrc) then some stBadParam else none)
  else if a = 0x3F0000030018 then (if ¬ s.flag Tb.master ∧ ¬ s.nativeOn (v % 512) then some stBadParam else none)
  else if a = 0x3F0000040020 then (if v < s.get Sec.calendar then some stBadParam else none)
  else if 0x3F0000040048 ≤ a ∧ a < 0x3F0000040080 then (if s.flag Sec.ownerLock then some stAccess else none)
  else if 0x3F0000081000 ≤ a ∧ a < 0x3F0000083000 ∧ a % 16 = 0 then
    (if v % 2 = 1 ∧ (bits v 5 8 = 0 ∨ bits v 13 10 = 0) then some stBadParam else none)
  else if a = 0x3F00000A0058 then (if s.moving ∧ bitAt v 27 then some stStopReq else none)
  else if a = 0x3F000D000048 then (if s.flag Obs.building ∧ v % 2 = 1 then some stDone else none)
  else if 0x3F0001000000 ≤ a ∧ a < 0x3F0009000000 ∧ a % 0x1000000 = 0x800008 then
    let n := (a - 0x3F0001000000) / 0x1000000
    if s.get (Mc.retCh n) ≠ 63 ∧ v % 2 ≠ s.get (Mc.spareEn n) then some stBadParam else none
  else if 0x3F0009000000 ≤ a ∧ a < 0x3F000D000000 ∧ a % 0x1000000 < 0x200000 ∧ 0x150 ≤ a % 0x20000 ∧ a % 0x20000 < 0x550 ∧ a % 0x80 = 0x50 then
    (if 200 * s.cfgWidth (8 * (16 * ((a - 0x3F0009000000) / 0x1000000) + a % 0x1000000 / 0x20000)) < bits v 37 11 then some stBadParam else none)
  else if 0x3F0009000000 ≤ a ∧ a < 0x3F000D000000 ∧ 0x500000 ≤ a % 0x1000000 ∧ a % 0x1000000 < 0x600000 then
    s.tmRefuse ((a - 0x3F0009000000) / 0x1000000) (a % 0x1000000 - 0x500000) v fs
  else none

/-- The region of a control block's address (R34, R46). -/
def regionAt (a : Nat) : Option Nat := (List.range 72).find? fun r => decide (rgnBase r ≤ a ∧ a < rgnBase r + 0x1000)

/-- The rule of a region's MARGIN word: no override below the floor is enabled (R45). -/
def State.marginRefuse (s : State) (a v : Nat) : Option Nat :=
  match regionAt a with
  | some r => if a = rgnBase r + 0x10 ∧ bitAt v 12 ∧ bits v 8 4 < s.get (Rgn.floor r) then some stBadParam else none
  | none => none

/-- The rule of a bench's registers: a spare takes writes to its region block alone, a retiring bench none, a running bench
none to its queue table, and FRESET neither while it runs nor while it retires (R145, R151, R152, R159). -/
def State.benchRefuse (s : State) (a v : Nat) : Option Nat :=
  match benchAt a with
  | none => none
  | some (b, o) =>
    let st := s.get (Ben.state b)
    if st = 4 then (if 0xF000 ≤ o ∧ o < 0x10000 then none else some stAccess)
    else if o = 0x10 ∧ v % 2 = 1 ∧ (st = 1 ∨ st = 3) then some stStopReq
    else if st = 3 then some stBusy
    else if st = 1 ∧ 0x10400 ≤ o ∧ o < 0x10600 then some stStopReq
    else none

/-- Whether a word belongs to a context that its octet's mode does not use: writing it has no effect (R314). -/
def State.unusedContext (s : State) (a : Nat) : Bool :=
  if 0x3F0009000000 ≤ a ∧ a < 0x3F000D000000 ∧ a % 0x1000000 < 0x200000 then
    let j := 16 * ((a - 0x3F0009000000) / 0x1000000) + a % 0x1000000 / 0x20000
    let o := a % 0x20000
    decide (0x100 ≤ o ∧ o < 0x500) && !s.ctxUsed (8 * j + (o - 0x100) / 0x80)
  else false

/-- Why a write of a register word is refused, if it is: bench rules, stop-only fields, owner locks and combinations, ranges. -/
def State.regRefuse (s : State) (a v : Nat) (fs : List Field) : Option Nat :=
  match s.benchRefuse a v with
  | some st => some st
  | none =>
    if s.stopBad fs v then some stStopReq
    else
      match s.wordRefuse a v fs with
      | some st => some st
      | none => if rangeBad fs v then some stBadParam else s.marginRefuse a v

/-! ### The effects of a write -/

/-- Whether a fault's cause has ended (R466): the trip once no sensor reads 107 C, the overvoltage once the input is no more than
46.0 V; boot recovery holds while BOOT_RECOVERY is set. -/
def State.causeEnded (s : State) : Bool :=
  match s.get Side.faultCause with
  | 1 => (List.range 85).all fun u => decide (s.sensorTemp u < 1070)
  | 2 => decide (s.get Pwr.vin ≤ 46000)
  | 5 => !s.flag Sec.bootRecovery
  | _ => true

/-- FAULT_ACK (R466). -/
def State.faultAck (s : State) : State := if s.causeEnded then (s.set Side.faultCause 0).showFault else s

/-- ALARM_CLR (R381): the alarm list is empty, and the lowest valid set serves. -/
def State.alarmClr (s : State) : State :=
  let t := State.chooseRoute ({ s with alarms := [] }.set Surv.alarms 0)
  if s.alarms ≠ [] ∧ s.get Fab.linkMode = 2 ∧ s.fills = [] then t.setLinkMode 0 else t

/-- EXPORT_READY cleared (R378): the exported impression is unpinned. -/
def State.unpin (s : State) : State :=
  let l := s.imps.map fun (i : Impression) => if i.step = s.get Surv.exportStep then { i with pinned := false } else i
  { s with imps := keepImps (s.get Imp.impKeep) l }

/-- BUILD (R445). -/
def State.build (s : State) : State := s.graphBegin

/-- A region's rail and margin after a write of its words (R35, R39, R40). -/
def State.regionWritten (s : State) (old : State) (r : Nat) : State :=
  let s := s.applyCode r
  if s.get (Rgn.vset r) = old.get (Rgn.vset r) then s else ((s.capRegion r).showPower).traceMargin r

/-- A policer whose EN has been set: its buckets are full (R300). -/
def State.policerWritten (s old : State) (m i : Nat) : State :=
  if s.flag (Tm.polEn m i) ∧ ¬ old.flag (Tm.polEn m i) then
    s.setBuckets m i ⟨1000 * s.get (Tm.polCbs m i), 1000 * s.get (Tm.polEbsPbs m i), s.now⟩
  else s

/-- What a write of a word does besides setting and clearing its fields; old is the state before. -/
def State.wordEffect (s old : State) (a v : Nat) : State :=
  if a = 0x3F0000030008 then (if s.flag Tb.master ∧ ¬ s.time.noRef then s.set Tb.tbLock 1 else s)
  else if a = 0x3F0000040008 then (if old.flag Sec.ownerLock then s.set Sec.ownerLock 1 else s)
  else if a = 0x3F0000040020 then s.set Sec.calValid 1
  else if a = 0x3F0000080010 then s.setLinkMode (s.get Fab.linkMode)
  else if a = 0x3F0000090008 then s.showImpEff
  else if a = 0x3F00000A0058 then (if bitAt v 27 then s.alarmClr else s)
  else if a = 0x3F00000A0068 then (if old.flag Surv.exportReady ∧ ¬ s.flag Surv.exportReady then s.unpin else s)
  else if a = 0x3F00000B0010 then s.set Side.alertOut (s.get Side.alertPend)
  else if a = 0x3F00000B0020 then (if bitAt v 4 then s.faultAck else s)
  else if a = 0x3F000D000048 then (if v % 2 = 1 then s.build else s)
  else if 0x3F0009000000 ≤ a ∧ a < 0x3F000D000000 ∧ 0x510000 ≤ a % 0x1000000 ∧ a % 0x1000000 < 0x518000 then
    s.policerWritten old ((a - 0x3F0009000000) / 0x1000000) ((a % 0x1000000 - 0x510000) / 0x20)
  else
    match benchAt a with
    | some (b, 0x10) => if v % 2 = 1 then s.benchReset b else s
    | _ =>
      match regionAt a with
      | some r => s.regionWritten old r
      | none => s

/-- A register word written (R7, R477). -/
def State.writeRegs (s : State) (a v : Nat) (fs : List Field) : WriteRes :=
  if s.unusedContext a then .ok s
  else
    match s.regRefuse a v fs with
    | some 5 => .violation
    | some st => .refused s st
    | none => .ok ((s.setFields fs v).wordEffect s a v)

/-- One word written (R400). -/
def State.writeAt (s : State) (a v : Nat) : WriteRes :=
  match locate a with
  | .regs fs => s.writeRegs a v fs
  | .reply _ _ => .ok s
  | .lpddr => s.writeLpddr a v
  | .stone _ _ => s.writeStone a v
  | .bench b off => s.writeBench b off a v
  | .area => .ok s
  | .logWord _ _ => .ok s
  | .zero => .ok s
  | .none => .violation

/-- Words written in ascending order up to the first that is refused; n are written already (R400). -/
def State.writeWords (op : Nat) : Nat → Nat → List Nat → State → Answer
  | n, _, [], s => .ok s [n]
  | n, a, v :: vs, s =>
    match s.writeAt a v with
    | .ok t => State.writeWords op (n + 1) (a + 8) vs t
    | .refused t st => .done t st 0 [n]
    | .violation => .violation s op a [n]

/-! ### The commands -/

/-- Whether W0 of READ_CSR and WRITE_CSR has no reserved bit and a COUNT in range. -/
def csrWord (w0 : Nat) : Bool := bits w0 56 8 == 0 && decide (1 ≤ bits w0 48 8 ∧ bits w0 48 8 ≤ 128)

/-- READ_CSR (R398, R400). -/
def State.readCsr (s : State) (h : HostHdr) (w : List W64) : State :=
  let a := bits (param w 0) 0 48
  let n := bits (param w 0) 48 8
  s.mailbox h w 0x08 .any (needsDie a n) false (h.form == 0 && w.length == 1 && csrWord (param w 0)) (State.readWords 0x08 n a [])

/-- WRITE_CSR (R398, R400). -/
def State.writeCsr (s : State) (h : HostHdr) (w : List W64) : State :=
  let a := bits (param w 0) 0 48
  let n := bits (param w 0) 48 8
  s.mailbox h w 0x09 .any (needsDie a n) false (h.form == 0 && w.length == 1 + n && csrWord (param w 0))
    (State.writeWords 0x09 0 a ((w.drop 1).map BitVec.toNat))

/-- READ_CSR (R398, R400). -/
def execReadCsr (h : HostHdr) (w : List W64) (s : State) : Host.Outcome State Fault Refusal :=
  .next (if s.alive then s.readCsr h w else s)

/-- WRITE_CSR (R398, R400). -/
def execWriteCsr (h : HostHdr) (w : List W64) (s : State) : Host.Outcome State Fault Refusal :=
  .next (if s.alive then s.writeCsr h w else s)

/-! ### Writes that have a row of their own -/

/-- A WRITE_CSR of one word. -/
def State.writeOne (s : State) (h : HostHdr) (a v : Nat) : State :=
  if s.alive then s.writeCsr { h with length := 16 } [BitVec.ofNat 64 (a + 2 ^ 48), BitVec.ofNat 64 v] else s

/-- FRESET (R145): a 1 written to a bench's FRESET. -/
def execFreset (h : HostHdr) (b : Nat) (s : State) : Host.Outcome State Fault Refusal := .next (s.writeOne h (benchBase b + 0x10) 1)

/-- FAULT_ACK (R466). -/
def execFaultAck (h : HostHdr) (s : State) : Host.Outcome State Fault Refusal := .next (s.writeOne h 0x3F00000B0020 0x10)

/-- BUILD (R445): HANG_US, in the same word, is written with its value. -/
def execBuild (h : HostHdr) (s : State) : Host.Outcome State Fault Refusal :=
  .next (s.writeOne h 0x3F000D000048 (1 + s.get Obs.hangUs * 2 ^ 32))

/-- ALARM_CLR (R381). -/
def execAlarmClr (h : HostHdr) (s : State) : Host.Outcome State Fault Refusal := .next (s.writeOne h 0x3F00000A0058 0x8000000)

/-- EXPORT_READY (R378): a 1 written to the flag clears it. -/
def execExportReady (h : HostHdr) (s : State) : Host.Outcome State Fault Refusal := .next (s.writeOne h 0x3F00000A0068 0x20)

/-- CALENDAR (R429). -/
def execCalendar (h : HostHdr) (value : W64) (s : State) : Host.Outcome State Fault Refusal := .next (s.writeOne h 0x3F0000040020 value.toNat)

/-- OWNER_LOCK (R414). -/
def execOwnerLock (h : HostHdr) (s : State) : Host.Outcome State Fault Refusal := .next (s.writeOne h 0x3F0000040008 0x200)

/-- OVR_EN (R45): a MARGIN word written. -/
def execOvrEn (h : HostHdr) (r : Nat) (value : W64) (s : State) : Host.Outcome State Fault Refusal :=
  .next (s.writeOne h (rgnBase r + 0x10) value.toNat)

/-- VSET (R35): a RAIL word written. -/
def execVset (h : HostHdr) (r : Nat) (value : W64) (s : State) : Host.Outcome State Fault Refusal :=
  .next (s.writeOne h (rgnBase r + 8) value.toNat)

end Sys2Proof.Machine
end

