-- ==== Sys2Proof/Machine/Control.lean ====
section
/-! DEFINITION. Host commands that answer about the device or change one setting: identity, status, counters, the log, time,
margins, pairing, banks, retirement, impressions (R45, R54, R149, R174, R325, R341, R348, R358-R360, R370, R378, R398-R402, R440). -/

namespace Sys2Proof.Machine

open Sys2Proof

/-! ### Direct commands (R398, R402) -/

/-- The firmware version of the active slot. -/
def State.fwVersion (s : State) : Nat := s.get (if s.get Sec.activeSlot = 0 then Sec.fwVersionA else Sec.fwVersionB)

/-- The result words of IDENTIFY. -/
def State.identity (s : State) : List Nat :=
  [0x5120 + 0xA1 * 2 ^ 16 + 2 ^ 24, Config.serial.toNat, s.get Fab.deviceId + s.get Sec.activeSlot * 2 ^ 20, s.fwVersion]

/-- IDENTIFY (R398). -/
def State.identify (s : State) (h : HostHdr) (w : List W64) : State :=
  s.direct h w 0x01 (h.form == 0 && w.isEmpty) fun t => (t, stOk, t.identity)

/-- IDENTIFY (R398). -/
def execIdentify (h : HostHdr) (w : List W64) (s : State) : Host.Outcome State Fault Refusal :=
  .next (if s.alive then s.identify h w else s)

/-- FEATn (R2, R408). -/
def State.featWord (s : State) (n : Nat) : Nat := s.readWord (fieldsAt (0x3F0000000000 + 8 * n))

/-- GET_FEATURES (R398). -/
def State.getFeatures (s : State) (h : HostHdr) (w : List W64) : State :=
  s.direct h w 0x02 (h.form == 0 && w.isEmpty) fun t => (t, stOk, (List.range 8).map t.featWord)

/-- GET_FEATURES (R398). -/
def execGetFeatures (h : HostHdr) (w : List W64) (s : State) : Host.Outcome State Fault Refusal :=
  .next (if s.alive then s.getFeatures h w else s)

/-- The result words of GET_STATUS FORM 0. -/
def State.deviceStatus (s : State) : List Nat :=
  [s.get Cmd.runState + 4 * s.get Cmd.routingStopped + 8 * s.get Cmd.powerState, s.get Upd.committed, s.now, s.get Coll.epoch]

/-- What a mailbox holds after its completion word: the stored header and the results, as many as a reply carries (R393, R402). -/
def State.storedReply (s : State) (m : Nat) : List Nat :=
  match Tab.find s.mailboxes m with
  | none => []
  | some r => (List.range (min 127 (2 + r.words.length))).map (s.storedWord m)

/-- GET_STATUS FORM 1 of mailbox m (R402). An empty mailbox has completed no command: NOT_READY (DEDUCED, log entry 21). -/
def State.mailboxStatus (s : State) (m : Nat) : State × Nat × List Nat :=
  let c := s.get (Mb.completion m)
  match s.get (Mb.mbState m) with
  | 2 => (s.set (Mb.mbState m) 3, stOk, c :: s.storedReply m)
  | 3 => (s, stDone, c :: s.storedReply m)
  | _ => (s, stNotReady, [c])

/-- GET_STATUS (R398): FORM 0 the device, FORM 1 a mailbox. -/
def State.getStatus (s : State) (h : HostHdr) (w : List W64) : State :=
  s.direct h w 0x03 ((h.form == 0 && w.isEmpty) || (h.form == 1 && w.length == 1 && decide (param w 0 < 32)))
    fun t => if h.form = 0 then (t, stOk, t.deviceStatus) else t.mailboxStatus (param w 0)

/-- GET_STATUS FORM 0 (R398). -/
def execGetStatus (h : HostHdr) (w : List W64) (s : State) : Host.Outcome State Fault Refusal :=
  .next (if s.alive then s.getStatus h w else s)

/-- GET_STATUS FORM 1 (R402). -/
def execGetStatusMailbox (h : HostHdr) (w : List W64) (s : State) : Host.Outcome State Fault Refusal :=
  .next (if s.alive then s.getStatus h w else s)

/-! ### Counters and the log (R398, R440) -/

/-- The record of a flash block: its erase count, which no command shows, is a free value (R347; log entry 10). -/
def State.blockRecord (s : State) (n : Nat) : Nat × State :=
  let r := Tab.get s.flash (0, 0, false) n
  let (v, t) := s.fresh
  (packDetail [(v, 32), (r.2.1, 16), (b2n r.2.2, 1)], t)

/-- Words n blocks from FIRST of set 2. -/
def State.blockRecords (s : State) (first : Nat) : Nat → List Nat × State
  | 0 => ([], s)
  | n + 1 =>
    let r := s.blockRecord first
    let q := r.2.blockRecords (first + 1) n
    (r.1 :: q.1, q.2)

/-- The address of word k of set 3, or none where no record has it (R440). -/
def State.latchWordAt (s : State) (k : Nat) : Option Nat :=
  if k < 2 ^ 31 then some (s.get Obs.latchBase + 128 * (k / 16 % max 1 (s.get Obs.latchCount)) + 8 * (k % 16))
  else if (k - 2 ^ 31) / 0x200 < 32 ∧ (k - 2 ^ 31) % 0x200 ≤ 273 then some (latchAddr ((k - 2 ^ 31) / 0x200) ((k - 2 ^ 31) % 0x200))
  else none

/-- Memory words at some addresses: a missing one is BAD_PARAM, an unreadable one HW_FAULT with its address. -/
def State.cellsAt (s : State) (l : List (Option Nat)) : Answer :=
  if l.any (·.isNone) then .err s stBadParam
  else
    match (l.filterMap id).findSome? fun a => s.readErr a 8 with
    | some e => .done s stHwFault e []
    | none => .ok s ((l.filterMap id).map fun a => s.rdNat a 8)

/-- The work of GET_COUNTERS. -/
def State.counters (set first count : Nat) (s : State) : Answer :=
  let ks := (List.range count).map (first + ·)
  match set with
  | 0 => if 5440 < first + count then .err s stBadParam else .ok s (ks.map fun k => s.get (Conv.count (k / 136) (k % 136 / 8) (k % 8)))
  | 1 => if 8 * s.get Ws.ltCount < first + count then .err s stBadParam else s.cellsAt (ks.map fun k => some (s.get Ws.ctBase + 8 * k))
  | 2 =>
    let r := s.blockRecords first count
    .ok r.2 r.1
  | 3 => s.cellsAt (ks.map s.latchWordAt)
  | _ => .err s stBadParam

/-- GET_COUNTERS (R398). -/
def State.getCounters (s : State) (h : HostHdr) (w : List W64) : State :=
  let v := param w 0
  let set := bits v 0 4
  let first := bits v 4 32
  let n := bits v 36 8
  s.mailbox h w 0x50 .any (set ≤ 1 || (set == 3 && decide (first < 2 ^ 31))) false
    (h.form == 0 && w.length == 1 && decide (v < 2 ^ 44) && decide (1 ≤ n ∧ n ≤ 128)) (State.counters set first n)

/-- GET_COUNTERS (R398). -/
def execGetCounters (h : HostHdr) (w : List W64) (s : State) : Host.Outcome State Fault Refusal :=
  .next (if s.alive then s.getCounters h w else s)

/-- The log entry numbered n, if the log holds it (R436). -/
def State.logEntry (s : State) (n : Nat) : Option LogEntry :=
  if (n + 2 ^ 32 - s.get Elog.oldest) % 2 ^ 32 < s.logHeld then Tab.find s.log (n % 65536) else none

/-- The work of GET_LOG (R398, R447). -/
def State.logRead (first count : Nat) (s : State) : Answer :=
  let es := (List.range count).filterMap fun k => s.logEntry ((first + k) % 2 ^ 32)
  .ok s ([es.length, s.get Elog.oldest + s.get Elog.next * 2 ^ 32] ++
    (es.map fun e => (List.range 4).map fun k => bits e.toNat (64 * k) 64).flatten)

/-- GET_LOG (R398); COUNT 0 is out of its range. -/
def State.getLog (s : State) (h : HostHdr) (w : List W64) : State :=
  let v := param w 0
  s.mailbox h w 0x51 .any false false (h.form == 0 && w.length == 1 && decide (v < 2 ^ 37) && bits v 32 5 != 0)
    (State.logRead (bits v 0 32) (bits v 32 5))

/-- GET_LOG (R398). -/
def execGetLog (h : HostHdr) (w : List W64) (s : State) : Host.Outcome State Fault Refusal :=
  .next (if s.alive then s.getLog h w else s)

/-- The entries that CLEAR_LOG removes for LAST (R398). -/
def State.clearCount (s : State) (last : Nat) : Nat :=
  let d := (last + 2 ^ 32 - s.get Elog.oldest) % 2 ^ 32
  if 2 ^ 31 ≤ d then 0 else min (d + 1) s.logHeld

/-- The oldest n entries removed from the log; OLDEST advances past them. -/
def State.logDrop (s : State) (n : Nat) : State :=
  let o := s.get Elog.oldest
  { s with log := s.log.filter (fun e => decide (n ≤ (e.2.number + 2 ^ 32 - o) % 2 ^ 32)) }.set Elog.oldest (o + n)

/-- CLEAR_LOG (R398). -/
def State.clearLog (s : State) (h : HostHdr) (w : List W64) : State :=
  s.mailbox h w 0x52 .any false false (h.form == 0 && w.length == 1 && decide (param w 0 < 2 ^ 32))
    fun t => .ok (t.logDrop (t.clearCount (param w 0))) [t.clearCount (param w 0)]

/-- CLEAR_LOG (R398). -/
def execClearLog (h : HostHdr) (w : List W64) (s : State) : Host.Outcome State Fault Refusal :=
  .next (if s.alive then s.clearLog h w else s)

/-! ### Time, margins, tags -/

/-- SET_TIME (R54, R398). -/
def State.setTime (s : State) (h : HostHdr) (w : List W64) : State :=
  s.mailbox h w 0x58 .stopped false false (h.form == 0 && w.length == 1) fun t => .ok (t.set Tb.count (param w 0)) []

/-- SET_TIME (R54). -/
def execSetTime (h : HostHdr) (w : List W64) (s : State) : Host.Outcome State Fault Refusal :=
  .next (if s.alive then s.setTime h w else s)

/-- The work of MARGIN (R45). -/
def State.marginSet (v : Nat) (s : State) : Answer :=
  match (List.range 72).find? fun r => rgnType r == bits v 0 4 && rgnNumber r == bits v 4 8 with
  | none => .err s stBadParam
  | some r =>
    if bitAt v 16 then
      if bits v 12 4 < s.get (Rgn.floor r) then .err s stBadParam
      else .ok ((s.setAll [(Rgn.override r, bits v 12 4), (Rgn.ovrEn r, 1)]).applyCode r) []
    else .ok ((s.set (Rgn.ovrEn r) 0).applyCode r) []

/-- MARGIN (R45, R398). -/
def State.margin (s : State) (h : HostHdr) (w : List W64) : State :=
  s.mailbox h w 0x49 .any true false (h.form == 0 && w.length == 1 && decide (param w 0 < 2 ^ 17)) (State.marginSet (param w 0))

/-- MARGIN (R45). -/
def execMargin (h : HostHdr) (w : List W64) (s : State) : Host.Outcome State Fault Refusal :=
  .next (if s.alive then s.margin h w else s)

/-- SET_FAILURE_DOMAIN (R358, R398). -/
def State.setFailureDomain (s : State) (h : HostHdr) (w : List W64) : State :=
  s.mailbox h w 0x31 .stopped false false (h.form == 0 && w.length == 1) fun t => .ok (t.set Surv.fdTag (param w 0)) []

/-- SET_FAILURE_DOMAIN (R358). -/
def execSetFailureDomain (h : HostHdr) (w : List W64) (s : State) : Host.Outcome State Fault Refusal :=
  .next (if s.alive then s.setFailureDomain h w else s)

/-! ### Pairing and adoption (R359, R360, R370) -/

/-- The work of SET_PAIR FORM 0 and 1 (R359, R360): naming itself is out of range, a second one waits for the first. -/
def State.pairStart (h : HostHdr) (d : Nat) (override : Bool) (s : State) : Answer :=
  let n := s.get Imp.impN
  if d = s.me ∨ (override ∧ n % 2 = 1 ∧ 1 < n) then .err s stBadParam
  else if s.pairCmd.isSome then .err s stBusy
  else .later (s.pairBegin h d override)

/-- The buckets of device d whose complete replica this device holds: the whole replica of its partner, or each FILLED piece
(R370). -/
def State.adoptable (s : State) (d : Nat) : List Nat :=
  if s.get Surv.partner = d ∧ s.get Surv.pairState = 2 then
    (s.sched.buckets.filter fun k => !k.owned && s.ownerOf k == d).map (·.id)
  else (s.pieces.filter fun e => pmOwner e.2 == d && pmHolder e.2 == s.me && pmState e.2 == 2).map fun e => pmBucket e.2

/-- The work of SET_PAIR ADOPT (R370): adoption takes effect at START. -/
def State.adopt (d : Nat) (s : State) : Answer :=
  if s.adoptable d = [] then .err s stBadParam else .ok { s with adopting := (s.adopting ++ s.adoptable d).dedup } []

/-- SET_PAIR (R398). -/
def State.setPairing (s : State) (h : HostHdr) (w : List W64) : State :=
  let d := param w 0
  s.mailbox h w 0x30 .stopped true false (decide (h.form.toNat ≤ 2) && w.length == 1 && decide (d < 2 ^ 20))
    fun t => if h.form = 2 then t.adopt d else t.pairStart h d (h.form == 1)

/-- SET_PAIR FORM 0 and 1 (R359). -/
def execSetPair (h : HostHdr) (w : List W64) (s : State) : Host.Outcome State Fault Refusal :=
  .next (if s.alive then s.setPairing h w else s)

/-- SET_PAIR FORM 2, ADOPT (R370). -/
def execSetPairAdopt (h : HostHdr) (w : List W64) (s : State) : Host.Outcome State Fault Refusal :=
  .next (if s.alive then s.setPairing h w else s)

/-! ### Banks (R134, R174) -/

/-- The benches that a mask of logical numbers names; none where a bit names no logical bench. -/
def State.benchesOf (s : State) (mask : Nat) : Option (List (Nat × Nat)) :=
  ((List.range 32).filter (bitAt mask)).mapM fun g => (s.physOf g).map fun b => (g, b)

/-- Why a bench's banks cannot be swapped, if so (R174). -/
def State.swapBad (s : State) (temper : Bool) (b : Nat) : Option Nat :=
  if temper then (if s.flag (Stn.tmpSwapPending b 2) then some stDone else none)
  else if s.flag (Cmp.swapPending b) then some stDone
  else if s.flag (Cmp.shadowValid b) then none
  else some stNotReady

/-- One bench's swap asked for: a stopped bench swaps at once, its program begins at ENTRY (R174). -/
def State.askSwap (s : State) (temper : Bool) (b : Nat) : State :=
  if temper then
    let t := s.set (Stn.tmpSwapPending b 2) 1
    if s.get (Ben.state b) = 0 then t.tmpBoundary b else t
  else
    let t := s.set (Cmp.swapPending b) 1
    if s.get (Ben.state b) = 0 then ((t.swapCmp b).waitDone b).set (Stn.state b 15) 0 else t

/-- The work of SWAP_BANK: every bench is checked before any swaps (DEDUCED, log entry 21). -/
def State.swap (temper : Bool) (mask : Nat) (s : State) : Answer :=
  match s.benchesOf mask with
  | none => .err s stBadParam
  | some l =>
    match l.findSome? fun e => s.swapBad temper e.2 with
    | some st => .err s st
    | none =>
      let t := l.foldl (fun u e => u.askSwap temper e.2) s
      let late (e : Nat × Nat) : Bool := t.flag (if temper then Stn.tmpSwapPending e.2 2 else Cmp.swapPending e.2)
      .ok t [((l.filter fun e => !late e).map fun e => 2 ^ e.1).sum, ((l.filter late).map fun e => 2 ^ e.1).sum]

/-- SWAP_BANK (R174, R398). -/
def State.swapBank (s : State) (h : HostHdr) (w : List W64) : State :=
  s.mailbox h w 0x11 .any true false (decide (h.form.toNat ≤ 1) && w.length == 1 && decide (param w 0 < 2 ^ 32))
    (State.swap (h.form == 1) (param w 0))

/-- SWAP_BANK (R174). -/
def execSwapBank (h : HostHdr) (w : List W64) (s : State) : Host.Outcome State Fault Refusal :=
  .next (if s.alive then s.swapBank h w else s)

/-! ### Retirement (R149, R325, R341) -/

/-- A RETIRE that works: a long command, answered when its work has ended. -/
def State.retireLong (s : State) (h : HostHdr) (w : List W64) (kind n : Nat) (f : State → State) : Answer :=
  match s.longStart h w 0x48 none (512 * kind + n) with
  | .later t => .later (f t).settleRetires
  | a => a

/-- RETIRE of a bench (R149). -/
def State.retireBench (h : HostHdr) (w : List W64) (b : Nat) (s : State) : Answer :=
  if 40 ≤ b then .err s stBadParam
  else if s.get (Ben.state b) = 3 ∨ s.get (Ben.state b) = 5 then .err s stDone
  else if s.get (Ben.state b) = 4 then
    s.retireLong h w 0 b fun t => t.setAll [(Ben.state b, 5), (Ben.cause b, 3), (Rgn.state b, 3), (Rgn.vread b, 0)]
  else s.retireLong h w 0 b fun t => t.retireStart b 3

/-- RETIRE of a channel (R341, R342). -/
def State.retireChan (h : HostHdr) (w : List W64) (c : Nat) (s : State) : Answer :=
  let n := c / 48
  if 384 ≤ c then .err s stBadParam
  else if s.get (Mc.retCh n) = c % 48 then .err s stDone
  else if s.get (Mc.retCh n) ≠ 63 ∨ ¬ s.flag (Mc.spareEn n) then .err s stBadParam
  else s.retireLong h w 1 c fun t => t.retireChannel c 3

/-- RETIRE of a lane (R325). -/
def State.retireLane (h : HostHdr) (w : List W64) (l : Nat) (s : State) : Answer :=
  if s.flag (Oct.laneRetired (l / 8) (l % 8)) then .err s stDone
  else s.retireLong h w 2 l fun t => (t.set (Oct.laneRetired (l / 8) (l % 8)) 1).laneFails l

/-- RETIRE (R398). -/
def State.retire (s : State) (h : HostHdr) (w : List W64) : State :=
  let v := param w 0
  s.mailbox h w 0x48 .any true true
    (h.form == 0 && w.length == 1 && bits v 2 14 == 0 && decide (v < 2 ^ 25) && decide (bits v 0 2 < 3)) fun t =>
      match bits v 0 2 with
      | 0 => t.retireBench h w (bits v 16 9)
      | 1 => t.retireChan h w (bits v 16 9)
      | _ => t.retireLane h w (bits v 16 9)

/-- RETIRE naming a bench (R149, R150). -/
def execRetireBench (h : HostHdr) (w : List W64) (s : State) : Host.Outcome State Fault Refusal :=
  .next (if s.alive then s.retire h w else s)

/-- RETIRE naming a channel (R341-R344). -/
def execRetireChannel (h : HostHdr) (w : List W64) (s : State) : Host.Outcome State Fault Refusal :=
  .next (if s.alive then s.retire h w else s)

/-- RETIRE naming a lane (R325-R327). -/
def execRetireLane (h : HostHdr) (w : List W64) (s : State) : Host.Outcome State Fault Refusal :=
  .next (if s.alive then s.retire h w else s)

/-! ### Impressions (R348-R351, R378) -/

/-- The head of a segment record (R350). -/
def SegRec.head (r : SegRec) : List Byte :=
  leBytes 64 (packDetail [(1, 4), (2, 4), (r.role, 1), (0, 7), (r.bucket, 24), (r.group, 12), (0, 12),
    (r.data.length / max 1 r.tileBytes, 32), (r.tileBytes / 1024, 4), (0, 28), (r.firstTile, 32), (r.stats.length, 32),
    (0, 64), (r.digest, 128)])

/-- Bytes padded to a page of 16 KiB (R349). -/
def pageFill (bs : List Byte) : List Byte := padTo (roundUp bs.length 16384) bs

/-- The header of an impression (R349). -/
def Impression.head (i : Impression) (device : Nat) : List Byte :=
  leBytes 64 (packDetail [(1, 4), (1, 4), (b2n i.correlated, 1), (0, 7), (device, 20), (i.partner, 20), (0, 8), (i.step, 64), (i.epoch, 64),
    (i.norm, 32), (i.segs.length, 32), (i.config, 128)])

/-- The commit record of an impression (R351). -/
def Impression.tail (i : Impression) : List Byte :=
  let body := leBytes 56 (packDetail [(1, 4), (3, 4), (b2n i.suspect, 1), (0, 55), (i.step, 64), (i.segs.length, 32), (0, 32),
    (((i.segs.map (·.digest)).sum) % 2 ^ 128, 128)])
  body ++ leBytes 8 (crc64 body)

/-- An impression as it lies on flash (R349). -/
def Impression.bytes (i : Impression) (device : Nat) : List Byte :=
  pageFill (i.head device) ++ (i.segs.map fun g => pageFill (g.head ++ g.data ++ g.stats)).flatten ++ pageFill i.tail

/-- The export of the pinned impression of a step (R378). -/
def State.exportImp (tag step : Nat) (s : State) : Answer :=
  match s.imps.find? fun i => i.pinned && i.step == step with
  | none => .err s stBadParam
  | some i =>
    let bs := i.bytes s.me
    .ok (s.bulkOut tag bs) [bs.length]

/-- The work of IMPRESS by its FORM. -/
def State.impressWork (form tag step : Nat) (s : State) : Answer :=
  match form with
  | 0 => .ok { s with impNext := true } []
  | 1 => s.exportImp tag step
  | _ => .ok s (s.imps.length :: s.imps.map (·.step))

/-- IMPRESS (R348, R378, R398). -/
def State.impressCmd (s : State) (h : HostHdr) (w : List W64) : State :=
  s.mailbox h w 0x40 .any false true ((h.form == 1 && w.length == 1) || ((h.form == 0 || h.form == 2) && w.isEmpty))
    (State.impressWork h.form.toNat h.tag.toNat (param w 0))

/-- IMPRESS FORM 0 (R348). -/
def execImpress (h : HostHdr) (w : List W64) (s : State) : Host.Outcome State Fault Refusal :=
  .next (if s.alive then s.impressCmd h w else s)

/-- IMPRESS FORM 1, export (R378). -/
def execImpressExport (h : HostHdr) (w : List W64) (s : State) : Host.Outcome State Fault Refusal :=
  .next (if s.alive then s.impressCmd h w else s)

/-- IMPRESS FORM 2, list (R398). -/
def execImpressList (h : HostHdr) (w : List W64) (s : State) : Host.Outcome State Fault Refusal :=
  .next (if s.alive then s.impressCmd h w else s)

end Sys2Proof.Machine
end

