-- ==== Sys2Proof/Machine/Start.lean ====
section
/-! DEFINITION. START: the checks that each chapter lays down for it, and what it brings up (R58, R145, R180, R186, R207, R220,
R227-R232, R236, R246, R270-R271, R280, R293-R296, R322, R328, R359, R367, R372, R403, R412). -/

namespace Sys2Proof.Machine

open Sys2Proof

/-! ### The checks of the topology and its groups (R227, R230) -/

/-- The position of this device, if the topology passes R227. -/
def State.topologyPos (s : State) : Option Nat :=
  let n := s.positions
  let sizes := (List.range 6).all fun a => decide (1 ≤ s.axisSize a ∧ s.axisSize a ≤ 65535)
  if !sizes || !decide (1 ≤ s.get Coll.naxes ∧ s.get Coll.naxes ≤ 6 ∧ n ≤ 2 ^ 20) then none
  else
    let l := List.range n
    if (s.readErr (s.get Coll.topoBase) (4 * n)).isNone && (l.map s.posDevice).dedup.length == n &&
        l.all (fun i => decide (s.topoEntry i < 2 ^ 21)) then
      l.find? fun i => s.posDevice i == s.me && s.posRole i
    else none

/-- The checks of R230 on a group record. -/
def State.grpOk (s : State) (g : Nat) : Bool :=
  let w := s.grp g
  (s.readErr (s.get Coll.grpBase + 32 * g) 32).isNone && bits w 0 4 == 1 && bits w 10 6 == 0 && bits w 40 24 == 0 &&
    (List.range 6).all (fun a => decide (grpLo w a ≤ grpHi w a ∧ grpHi w a < s.axisSize a)) &&
    (s.family w).all fun p =>
      let l := s.groupAt w p
      (l.filter fun q => !s.posRole q).length == bits w 16 24 && l.any s.posRole

/-- Firmware's check of the group records: an unusable one is marked and logged (R230). -/
def State.checkGroups (s : State) : State :=
  (List.range (s.get Coll.grpCount)).foldl (fun t g =>
    if s.grpOk g then t else { t with badColl := t.badColl ++ [g] }.logE clAccess .hub (s.get Coll.grpBase + 32 * g) []) { s with badColl := [] }

/-- Firmware's check of the parameter groups and their curves (R207). -/
def State.checkParams (s : State) : State :=
  (List.range (s.get Upd.gtCount)).foldl (fun t g =>
    if s.groupOk g then t
    else ({ t with badGroups := t.badGroups ++ [g] }.logE clAccess .hub (s.get Upd.gtBase + 64 * g) []).set Upd.groupErr 1) { s with badGroups := [] }

/-! ### The collective table (R231, R232) -/

/-- Whether an entry of the collective table passes R232. -/
def State.collOk (s : State) (i : Nat) : Bool :=
  let w := s.collEntry i
  let kind := bits w 4 4
  let op := bits w 20 4
  let g := bits w 8 12
  (s.readErr (s.get Coll.collBase + 32 * i) 32).isNone && bits w 0 4 == 1 && decide (kind ≤ 9) && bits w 26 6 == 0 && bits w 52 12 == 0 &&
    bits w 88 168 == 0 && (if kind = 0 ∨ kind = 2 then decide (op ≤ 4) else op == 0) && decide (g < s.get Coll.grpCount) && g ∉ s.badColl &&
    (!([3, 4, 5, 8].contains kind) || decide (bits w 32 20 < grpSize (s.grp g)))

/-- Whether an entry with DIGEST set is the ALL_REDUCE with OP DSUM over a group that holds every Protumos device (R232). -/
def State.digestEntryOk (s : State) (i : Nat) : Bool :=
  let w := s.collEntry i
  bits w 4 4 == 2 && bits w 20 4 == 4 &&
    ((List.range s.positions).filter s.posRole).all fun p => p ∈ s.groupAt (s.grp (bits w 8 12)) (s.get Coll.myPos)

/-- The entries with DIGEST set. -/
def State.digestEntries (s : State) : List Nat := (List.range (s.get Coll.ncoll)).filter fun i => bitAt (s.collEntry i) 25

/-- The address of the entry for which the collective table fails, if it fails (R232). -/
def State.collBad (s : State) : Option Nat :=
  let n := s.get Coll.ncoll
  let at' (i : Nat) : Nat := s.get Coll.collBase + 32 * i
  if n < 1 ∨ 1048576 < n then some (at' 0)
  else
    match (List.range n).find? fun i => !s.collOk i with
    | some i => some (at' i)
    | none =>
      if bits (s.collEntry (n - 1)) 4 4 ≠ 8 then some (at' (n - 1))
      else
        let l := s.digestEntries
        if s.get Coll.trafficMode = 0 then l.head?.map at'
        else if l.length = 1 ∧ l.all s.digestEntryOk then none
        else some (at' ((l.find? fun i => !s.digestEntryOk i).getD (l.getD 1 0)))

/-! ### The signal directory (R246) -/

/-- The entries that a die's directory lists: those with some byte that is not zero. -/
def State.dirListed (s : State) (n : Nat) : List Nat :=
  ((s.mem.filter fun c => decide (dirBase n ≤ c.1 ∧ c.1 < dirBase n + 0x80000)).map fun c => c.1 / 64 * 64).dedup

/-- VALID of an entry. -/
def State.dirValid (s : State) (e : Nat) : Bool := bitAt (s.rdNat e 64) 48

/-- Whether a reserved field of an entry is not zero. -/
def State.dirReserved (s : State) (e : Nat) : Bool :=
  let w := s.rdNat e 64
  bitAt w 51 || bits w 56 8 != 0 || bits w 224 32 != 0 || bits w 282 38 != 0 || bits w 448 64 != 0

/-- The entry for which the directories fail, if they fail (R246). -/
def State.dirBad (s : State) : Option Nat :=
  let es := ((List.range 8).map s.dirListed).flatten
  es.find? fun e =>
    let a := s.rdNat e 6
    s.dirReserved e || (s.dirValid e && (a % 8 != 0 || !(isLpddr a || isStone a) || dieOf a != dieOf e ||
      es.any fun f => f != e && s.dirValid f && s.rdNat f 6 == a))

/-- A directory entry as firmware writes it: as built, with no fault, no last signaller and no adds; benches that wait keep their bit
(log entry 26). -/
def freshEntry (w old : Nat) : Nat := bits w 0 50 + bits w 51 205 * 2 ^ 51 + bits old 384 32 * 2 ^ 384 + bits w 448 64 * 2 ^ 448

/-- Firmware writes every entry of the directories whole, those that the schedule brings as they are built: stone errors in them end
(R246, R339). -/
def State.dirWritten (s : State) : State :=
  let s := s.sched.directory.foldl (fun (t : State) (e : Nat × Nat) => t.storeNat e.1 64 (freshEntry e.2 (s.rdNat e.1 64))) s
  let es := (((List.range 8).map s.dirListed).flatten).filter fun e => (Tab.find s.sched.directory e).isNone
  let s := es.foldl (fun (t : State) (e : Nat) => t.storeNat e 64 (freshEntry (s.rdNat e 64) (s.rdNat e 64))) s
  { s with badWords := s.badWords.filter fun a => !(List.range 8).any fun n => decide (dirBase n ≤ a ∧ a < dirBase n + 0x80000) }

/-! ### The buffer pools (R293, R295, R296) -/

/-- The bytes of a pool. -/
def State.poolSpan (s : State) (m i : Nat) : Nat × Nat := (s.get (Pool.base m i), s.get (Pool.base m i) + poolSize i * s.get (Pool.count m i))

/-- Whether the pools of a port die break R296, their reservations apart. -/
def State.poolsBad (s : State) (m : Nat) : Bool :=
  (List.range 8).any fun i =>
    let a := s.poolSpan m i
    a.1 % poolSize i != 0 || decide (0x3000000 < a.2) ||
      (List.range i).any fun j => let b := s.poolSpan m j; decide (a.1 < b.2 ∧ b.1 < a.2)

/-- The buffers that queues and link replay hold (R292, R295). -/
def State.buffersHeld (s : State) : List (Nat × Nat) :=
  (s.ports.map fun e => (((e.2.queues.map (·.2)).flatten ++ e.2.held).filterMap fun q => q.buf.map fun b => (b.1 / 8, b.2)) ++
    (e.2.replayBuf.map fun off => (pdOf e.1, off)).toList).flatten

/-- Every pool's free list rebuilt, the buffers that nothing holds free again, LOW_WATER at FREE (R295). -/
def State.rebuildPools (s : State) : State :=
  let held := s.buffersHeld
  let t := { s with inUse := s.inUse.filter fun e => decide (e ∈ held) }
  (List.range 32).foldl (fun u k =>
    let v := u.poolRebuild (k / 8) (k % 8)
    v.set (Pool.lowWater (k / 8) (k % 8)) (v.get (Pool.free (k / 8) (k % 8)))) t

/-- n buffers of the largest packet's size taken from a port die's pools, or none (R293). -/
def State.takeBuffers (s : State) (m : Nat) : Nat → Option State
  | 0 => some s
  | n + 1 =>
    match s.bufAlloc m 8192 with
    | (some _, t) => t.takeBuffers m n
    | (none, _) => none

/-- The reservations of every ordinal at the ports that receive it, taken from the pools (R293; log entry 5). -/
def State.reserve (s : State) : Option State :=
  s.sched.portLists.foldlM (fun t e =>
    e.2.foldlM (fun (u : State) (c : Nat × Nat) => u.takeBuffers (pdOf e.1) (ceilDiv (Tab.get s.sched.reserved 0 c.1) 8192)) t) s

/-! ### The piece map (R372) -/

/-- FILLING entries are UNFILLED again (R372). -/
def State.unfill (s : State) (all : Bool) : State :=
  let l := s.pieces.filter fun e => all || pmState e.2 == 1
  (l.foldl (fun (t : State) (e : Nat × Nat) => t.setPiece e.1 0 (pmTries e.2)) ({ s with fills := [] } : State)).showPieces

/-- Whether an entry of the piece map breaks R372. -/
def State.pieceBad (s : State) (w : Nat) : Bool :=
  let mine := (s.bucket (pmBucket w)).any (·.owned)
  pmState w == 3 || decide (4 < pmTries w) || bits w 70 58 != 0 || pmOwner w == pmHolder w || (pmOwner w == s.me) != mine ||
    !(List.range s.positions).any fun i => s.posRole i && s.posDevice i == pmHolder w

/-- Whether the piece map fails (R372). -/
def State.piecesBad (s : State) : Bool :=
  let due := (s.pieces.filter fun e => pmHolder e.2 == s.me && pmState e.2 != 2).map fun e => (s.bucket (pmBucket e.2)).elim 0 stateBytes
  s.pieces.any (fun e => s.pieceBad e.2) || decide (s.get Surv.refillGib * 2 ^ 30 < due.sum)

/-! ### The checks in order (R403) -/

/-- A start refused: the status, and the address of the ACCESS_VIOLATION entry where the rule asks for one. -/
def State.startFails (s : State) (a : Option Nat) : State × Nat := (a.elim s fun x => s.logE clAccess .hub x [], stBadParam)

/-- Whether a FORM 2 LOAD_IMAGE or a SET_ROUTES is in progress (R412). -/
def State.loading (s : State) : Bool := s.longs.any fun l => l.opcode == 0x20 || (l.opcode == 0x10 && l.hdr.form == 2)

/-- Whether a port with CARRIED set has UDP_DST 0 (R332). -/
def State.carriedBad (s : State) : Bool := (List.range 512).any fun p => s.ctxUsed p && s.carried p && s.get (Oct.ctxUdpDst (p / 8) (p % 8)) == 0

/-- The checks of START: what they leave, and the status of the first that fails. The schedule to start with is in place. -/
def State.startChecks (s : State) : State × Nat :=
  if s.loading then (s, stBusy)
  else if s.get Surv.pairState = 1 then (s, stNotReady)
  else if ¬ s.flag Tb.master ∧ ¬ s.nativeOn (s.get Tb.tbSrc) then s.startFails none
  else
    let s := s.checkLayers.checkParams
    match s.topologyPos with
    | none => s.startFails (some (s.get Coll.topoBase))
    | some i =>
      let s := (s.set Coll.myPos i).checkGroups
      match s.collBad with
      | some a => s.startFails (some a)
      | none =>
        match s.dirWritten.dirBad with
        | some a => s.startFails (some a)
        | none =>
          if (List.range 4).any s.poolsBad then s.startFails none
          else
            match s.rebuildPools.reserve with
            | none => s.startFails none
            | some t => if s.carriedBad then s.startFails none else if s.piecesBad then s.startFails (some (s.get Surv.pmBase)) else (t, stOk)

/-! ### What START brings up -/

/-- A port at START (R322, R328): one that is down trains, a narrowed one trains at its configured width, one not enabled is
down. -/
def State.startPort (s : State) (p : Nat) : State :=
  let up := s.portUp p && s.get (Oct.ctxWidth (p / 8) (p % 8)) == s.cfgWidth p
  let s := s.onPort p fun x => { x with markSent := false, markSeen := false }
  if !s.ctxUsed p || (s.ctxOn p && (up || s.ctxState p == 1 || s.ctxState p == 2)) then s
  else if s.ctxState p = 0 then s.trainStart p
  else
    let t := ((s.abortCuts p).setLanes p 0 0).onPort p fun x =>
      { x with credits := [], ordCredits := [], issued := [], hello := none, seenSent := false, retries := [], advert := 0 }
    ((t.setCtx p 0).fitReplay p).trainStart p

/-- Failed lanes that are not retired are good again (R325). -/
def State.healLanes (s : State) : State :=
  (List.range 512).foldl (fun t l => if t.flag (Oct.laneRetired (l / 8) (l % 8)) then t else t.set (Oct.laneFailed (l / 8) (l % 8)) 0) s

/-- The first START of a job: EPOCH and the step counter at 0, transport state cleared, no norm stored (R217, R236, R271; log entry 4). -/
def State.beginJob (s : State) : State :=
  if s.jobBegun then s
  else { s with
    jobBegun := true, step := 0, dsts := [], srcs := [], dmas := [], normNow := none
    ports := s.ports.map fun (e : Nat × Port) => (e.1, { e.2 with window := [], reception := [] }) }.setAll
    [(Coll.epoch, 0), (Upd.normCur, 0), (Upd.normPrev, 0)]

/-- Destinations marked failed take packets again (R270). -/
def State.forgive (s : State) : State := { s with dsts := s.dsts.map fun e => (e.1, { e.2 with failed := false }) }

/-- Bytes whose values the spec does not give written from a on (log entry 10). -/
def State.freeBytes (s : State) (a : Nat) : Nat → State
  | 0 => s
  | n + 1 =>
    let (v, t) := s.fresh
    (t.store a [BitVec.ofNat 8 v]).freeBytes (a + 1) n

/-- The usable layers whose row sets a bucket holds. -/
def State.layersOf (s : State) (id : Nat) : List Nat := (List.range (s.get Ws.ltCount)).filter fun i => i ∉ s.badLayers && lyBucket (s.layer i) == id

/-- The serving benches of a layer (log entry 17). -/
def State.servers (s : State) (w : Nat) : List Nat := (List.range (lyBenches w)).filterMap s.physOf

/-- The digest of what a change makes Quench rewrite a bucket's slots: its layers' descriptors, the masks of their row sets, PERM and INV
(R186). -/
def State.layoutNow (s : State) (id : Nat) : Nat :=
  itemDigest ((s.layersOf id).map fun i =>
    let w := s.layer i
    s.rdBytes (s.layerAddr i) 128 ++ ((s.servers w).map fun b =>
      ((List.range (lyRows w)).map fun r => leBytes 4 (s.localRow b w r)).flatten ++
        ((List.range (lyCapb w)).map fun l => leBytes 4 (s.logicalRow b w l) ++
          ((List.range (lySets w)).map fun m => ((s.rowMasks b (lySet w m) l).map fun k => leBytes 128 (k.getD 0)).flatten).flatten).flatten).flatten).flatten

/-! ### The masters of a compact copy (R78, R202) -/

/-- Element e of a segment's master weights. -/
def State.masterAt (s : State) (g : Segment) (e : Nat) : Val :=
  let a := g.base + g.tileBytes * (e / 1024)
  lm48.decode (s.rdNat (a + 4 * (e % 1024)) 4 * 65536 + s.rdNat (a + 4096 + 2 * (e % 1024)) 2)

/-- The master at row r and column c of a group in a bucket; +0 where the bucket holds none. -/
def State.masterIn (s : State) (k : Bucket) (g r c : Nat) : Val :=
  let rowlen := grRowlen (s.groupRec g)
  match k.segments.find? fun y => y.group == g && decide (y.rowLo ≤ r ∧ r < y.rowLo + y.rowCount) with
  | some y => if c < rowlen then s.masterAt y ((r - y.rowLo) * rowlen + c) else .fin false 0 0
  | none => .fin false 0 0

/-- The rounding of the elements of a copy for step n: as the update of the step before gives it (R78, R86). -/
def State.copyRounds (s : State) (ps bucket e n count : Nat) : List Round := State.rounds { s with step := n - 1 } ps bucket e count

/-- A row record of the copy for step n converted from the masters (R181-R183). Where the schedule names no masters, or no parameter set,
the bytes are free values (log entry 17). -/
def State.rewriteRow (s : State) (k : Bucket) (i n b m l : Nat) : State :=
  let w := s.layer i
  let e := lySet w m
  let addr := s.rowAddr b w m n l
  match s.desc b (if n % 2 = 0 then bits e 0 10 else bits e 10 10), Tab.find s.sched.rowSets (8 * i + m), Tab.find s.sched.psets k.id with
  | some d, some (g, r0, c0), some ps =>
    (List.range (rsTiles e)).foldl (fun (t : State) (j : Nat) =>
      let vs := (List.range 1024).map fun c => t.masterIn k g (r0 + t.logicalRow b w l) (c0 + 1024 * j + c)
      let r := t.tileWrites b w m l j addr n ps (vs.zip (t.copyRounds ps d.bucket (d.elem0 + d.row * l + 1024 * j) n 1024)) (List.range 32)
      r.1.foldl (fun (u : State) (y : Nat × List Byte) => u.put y.1 y.2) (t.countConv b 3 (rsFmt e) r.2.1)) s
  | _, _, _ => s.freeBytes addr (rowSlot (rsFmt e) (rsTiles e))

/-- The copy of a bucket that no layer names: the tiles of its segments in order, dense (log entry 17). -/
def State.rewritePlain (s : State) (k : Bucket) (n : Nat) : State :=
  let base := if n % 2 = 0 then k.slot0 else k.slot1
  match Tab.find s.sched.psets k.id with
  | none => s.freeBytes base k.slotBytes
  | some ps =>
    let tiles := (k.segments.map fun g => (List.range g.tiles).map fun t => (g, t)).flatten
    tiles.zipIdx.foldl (fun (u : State) (y : (Segment × Nat) × Nat) =>
      let vs := (List.range 1024).map fun c => u.masterAt y.1.1 (1024 * y.1.2 + c)
      u.put (base + tileBytes (psetFmt ps) * y.2) (convertVals ps (vs.zip (u.copyRounds ps k.id (1024 * y.2) n 1024))).1) s

/-- The newest held step of a bucket: that of the newest complete copy, at first the step that the counter names (R210, R220). -/
def State.heldStep (s : State) (k : Bucket) : Nat := (s.bk k.id).copied.getD s.step

/-- The slot of the newest held step rewritten from the masters under the present masks and layout, the other one empty (R186, R224). -/
def State.rewriteSlot (s : State) (k : Bucket) : State :=
  let n := s.heldStep k
  let odd := n % 2 == 1
  let rows := ((s.layersOf k.id).map fun i =>
    let w := s.layer i
    ((s.servers w).map fun b => ((List.range (lySets w)).map fun m => ((List.range (lyCapb w)).filter fun l => s.logicalRow b w l != skipIdx).map fun l =>
      (i, b, m, l)).flatten).flatten).flatten
  let t := if s.layersOf k.id = [] then s.rewritePlain k n
    else rows.foldl (fun (u : State) (r : Nat × Nat × Nat × Nat) => u.rewriteRow k r.1 n r.2.1 r.2.2.1 r.2.2.2) s
  t.setBk k.id { t.bk k.id with empty0 := odd, empty1 := !odd, copied := some n }

/-- A bucket at START: its slot rewritten when tables have changed or both slots are empty, its update word written (R186, R220,
R224). -/
def State.startBucket (s : State) (changed : Bool) (k : Bucket) : State :=
  if !k.owned then s
  else
    let y := s.bk k.id
    let t := if changed || (y.empty0 && y.empty1) then s.rewriteSlot k else s
    let n := t.heldStep k
    let z := t.bk k.id
    if k.updWord = 0 then t else t.put k.updWord (leBytes 8 (if (if n % 2 = 0 then z.empty0 else z.empty1) then 0 else n + 1))

/-- Every bucket at START. -/
def State.startBuckets (s : State) : State :=
  let ds := s.sched.buckets.map fun k => (k.id, s.layoutNow k.id)
  let t := s.sched.buckets.foldl (fun t k => t.startBucket (Tab.find s.layouts k.id != some (s.layoutNow k.id)) k) s
  { t with layouts := ds.foldl (fun l e => Tab.put l e.1 e.2) [] }

/-- Votes on the commit that no result has answered are cast anew (R255). -/
def State.revote (s : State) : State :=
  if s.commit.failed then s
  else
    let kept (o : Nat) : Bool := s.collKind (s.collIndex o) != 8
    { s with commit := { s.commit with votes := s.commit.votes.filter (fun e => kept (e.1 / 2 ^ 20)), own := s.commit.own.filter fun e => kept e.1 } }

/-- Whether bench b was stopped in the middle of its program (R280; log entry 25). -/
def State.suspended (s : State) (b : Nat) : Bool := s.get (Stn.state b 15) == 1 || s.get (Stn.state b 15) == 2

/-- A bench runs again: from where it halted, or from ENTRY (R178, R280, R403). -/
def State.startBench (s : State) (b : Nat) : State :=
  if s.get (Ben.state b) ≠ 0 then s
  else if s.suspended b then s.setAll [(Ben.state b, 1), (Rgn.state b, 0)]
  else ((s.waitDone b).set (Cmp.pc b) (s.get (Cmp.entry b))).runBench b

/-- Benches at START (R130, R145): halted ones are made ready, every one is recorded in its start snapshot and runs. Benches that
wait for an abort's restores stay halted. -/
def State.startBenches (s : State) : State :=
  let l := s.liveBenches
  let t := if s.aborting.isSome then s else (l.filter fun b => s.get (Ben.state b) == 2).foldl State.reviveBench s
  let ready := l.filter fun b => t.get (Ben.state b) == 0
  let t := ready.foldl State.takeSnapshot t
  ready.foldl State.startBench (t.set Cmd.runState 2)

/-- An abort that is due repeats every bench's program (R367). -/
def State.haltForAbort (s : State) : State :=
  if s.abortDue.isSome then s.liveBenches.foldl (fun t b => t.set (Ben.state b) 2) s else s

/-- START once its checks have passed: old is the schedule until now. -/
def State.startGo (s : State) (old : Schedule) : State :=
  let new := s.sched
  let s := ((((s.healLanes.beginJob).forgive).unfill false).dropPoisoned).dirWritten
  let s := State.abortAtStart { s.haltForAbort with sched := old }
  let s := { s with sched := new, cut := false }
  let s := (List.range 512).foldl State.startPort s
  let s := ((s.startBuckets).writeConstants).revote
  let s := (List.range 8).foldl (fun t n => t.set (Sl.stagingMax n) (t.get (Sl.stagingUsed n))) s
  let s := s.grantEpoch.startBenches
  let s := s.serveHeld
  (if s.flag Cmd.routingStopped then s else s.letAllHeld).settleRetires.turns

/-- The work of START FORM 0 (R403): a refusal leaves the device stopped, its schedule as it was. -/
def State.startDevice (sched : Schedule) (s : State) : State × Nat :=
  let c := State.startChecks { s with sched := sched }
  if c.2 = stOk then (c.1.startGo s.sched, stOk) else ({ c.1 with sched := s.sched }, c.2)

/-- The answer of a start: EPOCH. -/
def startAnswer (r : State × Nat) : Answer := if r.2 = stOk then .ok r.1 [r.1.get Coll.epoch] else .err r.1 r.2

/-! ### The routing function (R403) -/

/-- START FORM 1: routing runs again, held packets go on. -/
def State.startRoutes (s : State) : Answer :=
  if s.loading then .err s stBusy
  else if s.flag Cmd.routingStopped then .ok (s.set Cmd.routingStopped 0).letAllHeld [s.get Coll.epoch] else .err s stDone

/-- START (R398, R403). -/
def State.startCmd (s : State) (h : HostHdr) (w : List W64) (sched : Schedule) : State :=
  s.mailbox h w 0x19 (if h.form = 1 then .stoppedOrRouting else .stopped) true false (decide (h.form.toNat ≤ 1) && w.isEmpty)
    fun t => if h.form = 1 then t.startRoutes else startAnswer (t.startDevice sched)

/-- START FORM 0 (R403). -/
def execStart (h : HostHdr) (w : List W64) (sched : Schedule) (s : State) : Host.Outcome State Fault Refusal :=
  .next (if s.alive then s.startCmd h w sched else s)

/-- START FORM 1 (R403). -/
def execStartRouting (h : HostHdr) (w : List W64) (s : State) : Host.Outcome State Fault Refusal :=
  .next (if s.alive then s.startCmd h w s.sched else s)

end Sys2Proof.Machine
end

