-- ==== Sys2Proof/Machine/Run.lean ====
section
/-! DEFINITION. Stopping, launching, cutting, aborting and restoring by host command (R61, R174, R223, R278-R280, R365-R367, R377,
R398-R399, R403, R412). -/

namespace Sys2Proof.Machine

open Sys2Proof

/-! ### STOP (R403) -/

/-- A running bench stopped where it stands: its region stops at the next tile boundary, a pending swap takes place (R174, R403). A
swapped program begins at ENTRY. -/
def State.suspendBench (s : State) (b : Nat) : State :=
  let s := s.setAll [(Ben.state b, 0), (Rgn.state b, 1)]
  let s := if s.flag (Cmp.swapPending b) then ((s.swapCmp b).waitDone b).set (Stn.state b 15) 0 else s
  s.tmpBoundary b

/-- Every running bench stopped. -/
def State.suspendAll (s : State) : State := (s.liveBenches.filter fun b => s.get (Ben.state b) == 1).foldl State.suspendBench s

/-- STOP FORM 0. -/
def State.stopDevice (s : State) : Answer :=
  match s.get Cmd.runState with
  | 0 => .err s stDone
  | 2 => .ok (s.suspendAll.set Cmd.runState 0) []
  | _ => .err s stBusy

/-- STOP FORM 1. -/
def State.stopRoutes (s : State) : Answer :=
  if s.flag Cmd.routingStopped then .err s stDone else .ok (s.set Cmd.routingStopped 1) []

/-- STOP (R398, R403). -/
def State.stopCmd (s : State) (h : HostHdr) (w : List W64) : State :=
  s.mailbox h w 0x18 .any (h.form == 1) false (decide (h.form.toNat ≤ 1) && w.isEmpty)
    fun t => if h.form = 1 then t.stopRoutes else t.stopDevice

/-- STOP FORM 0 (R403). -/
def execStop (h : HostHdr) (w : List W64) (s : State) : Host.Outcome State Fault Refusal :=
  .next (if s.alive then s.stopCmd h w else s)

/-- STOP FORM 1 (R403). -/
def execStopRouting (h : HostHdr) (w : List W64) (s : State) : Host.Outcome State Fault Refusal :=
  .next (if s.alive then s.stopCmd h w else s)

/-! ### LAUNCH_AT (R61) -/

/-- Whether a count lies 50 us to 60 s after now (R61, R399). -/
def State.countOk (s : State) (c : Nat) : Bool := decide (s.now + 50000 ≤ c ∧ c ≤ s.now + 60000000000)

/-- The work of LAUNCH_AT. -/
def State.launchWork (h : HostHdr) (c : Nat) (sched : Schedule) (s : State) : Answer :=
  if ¬ s.flag Tb.tbLock then .err s stNotReady
  else if !s.countOk c then .err s stBadParam
  else if s.launch.isSome then .err s stBusy
  else .later { s with launch := some (c, h, sched) }

/-- LAUNCH_AT (R61, R398). -/
def State.launchCmd (s : State) (h : HostHdr) (w : List W64) (sched : Schedule) : State :=
  s.mailbox h w 0x21 .stopped true false (h.form == 0 && w.length == 1) (State.launchWork h (param w 0) sched)

/-- LAUNCH_AT (R61). -/
def execLaunchAt (h : HostHdr) (w : List W64) (sched : Schedule) (s : State) : Host.Outcome State Fault Refusal :=
  .next (if s.alive then s.launchCmd h w sched else s)

/-- The start at the count that LAUNCH_AT named. -/
def State.launchNow (s : State) : State :=
  match s.launch with
  | some (c, h, sched) =>
    if s.now < c then s
    else
      let t := { s with launch := none }
      State.settle 0x21 h.tag.toNat (if t.get Cmd.runState ≠ 0 then .err t stStopReq else startAnswer (t.startDevice sched))
  | none => s

/-- LAUNCH_AT_COUNT (R61): the global count has come to the value that LAUNCH_AT named. -/
def execLaunchAtCount (s : State) : Host.Outcome State Fault Refusal := .next (if s.active then s.launchNow else s)

/-! ### GLOBAL_STOP (R278-R280, R399) -/

/-- The work of GLOBAL_STOP. -/
def State.globalWork (h : HostHdr) (c : Nat) (s : State) : Answer :=
  if ¬ s.flag Tb.tbLock then .err s stNotReady
  else if !s.countOk c then .err s stBadParam
  else if s.stopAt.isSome then .err s stBusy
  else .later { s with stopAt := some (c, h) }

/-- GLOBAL_STOP (R398, R399). -/
def State.globalCmd (s : State) (h : HostHdr) (w : List W64) : State :=
  s.mailbox h w 0x23 .running true false (h.form == 0 && w.length == 1) (State.globalWork h (param w 0))

/-- GLOBAL_STOP (R399). -/
def execGlobalStop (h : HostHdr) (w : List W64) (s : State) : Host.Outcome State Fault Refusal :=
  .next (if s.alive then s.globalCmd h w else s)

/-- A packet that port e can send before its mark: this device's own, or one on VC2, with the credit that it needs (R278 order 2). -/
def State.dueAt (s : State) (e : Nat) : Option (Nat × Queued) :=
  (List.range 6).findSome? fun v => if s.maySend e v then (s.headOf e v).map fun q => (v, q) else none

/-- Port e sends its due packets, n at most. -/
def State.flushPort (s : State) (e : Nat) : Nat → State
  | 0 => s
  | n + 1 =>
    match s.dueAt e with
    | none => s
    | some (v, q) =>
      State.flushPort ((s.onPort e fun x => x.take v q).transmitQ e q) e n

/-- Packets queued at a port. -/
def Port.count (x : Port) : Nat := ((List.range 6).map fun v => (x.queue v).length).sum

/-- Orders 2 and 3 of R278 on a port: its due packets, then its mark. Where one lacks its credit the mark waits for it, within the bound of
order 2. -/
def State.markPort (s : State) (e : Nat) : State := (if s.portUp e then s.flushPort e (s.port e).count else s).sendMark e

/-- The cut at count C (R278): benches stop, ports send what is due and their marks, timers are frozen, capture begins. -/
def State.cutNow (s : State) : State :=
  let s := ({ s with cut := true }.suspendAll).set Cmd.runState 3
  let s := (List.range 512).foldl (fun t p => t.set (Fab.captured p) 0) s
  (((List.range 512).foldl State.markPort s).cutCheck).cutEnd false

/-- GLOBAL_STOP_COUNT (R278): the global count has come to C. -/
def execGlobalStopCount (s : State) : Host.Outcome State Fault Refusal :=
  .next (
    match s.stopAt with
    | some (c, _) => if s.active && !s.cut && decide (c ≤ s.now) then s.cutNow else s
    | none => s)

/-! ### ABORT_STEP (R223, R365-R367) -/

/-- ABORT_STEP FORM 0 naming step u: on a stopped device it waits for START. -/
def State.abortWork (h : HostHdr) (u : Nat) (s : State) : Answer :=
  if s.get Cmd.runState = 1 ∨ s.get Cmd.runState = 3 then .err s stBusy
  else if u < s.step then .err s stDone
  else if s.step < u then .err s stBadParam
  else if s.aborting.isSome then .err s stBusy
  else if s.abortDue.isSome then .err s stDone
  else if s.running then .later (State.abortRun { s.epochAbort.turns with abortCmd := some h })
  else .ok { s.epochAbort.turns with abortDue := some u } [1]

/-- The COMMIT form naming step u (R366, R367): it takes effect at once. -/
def State.commitWork (u : Nat) (s : State) : Answer :=
  if s.get Cmd.runState = 1 ∨ s.get Cmd.runState = 3 then .err s stBusy
  else if u < s.step then .err s stDone
  else if u = s.step ∧ s.get Surv.lastVoteStep = u ∧ s.flag Surv.lastVoteOk then .ok s.commitStep.turns [0]
  else .err s stBadParam

/-- ABORT_STEP (R398). -/
def State.abortStepCmd (s : State) (h : HostHdr) (w : List W64) : State :=
  s.mailbox h w 0x22 .any true false (decide (h.form.toNat ≤ 1) && w.length == 1)
    (if h.form = 1 then State.commitWork (param w 0) else State.abortWork h (param w 0))

/-- ABORT_STEP FORM 0 (R223, R367). -/
def execAbortStep (h : HostHdr) (w : List W64) (s : State) : Host.Outcome State Fault Refusal :=
  .next (if s.alive then s.abortStepCmd h w else s)

/-- ABORT_STEP, COMMIT form (R366). -/
def execAbortStepCommit (h : HostHdr) (w : List W64) (s : State) : Host.Outcome State Fault Refusal :=
  .next (if s.alive then s.abortStepCmd h w else s)

/-! ### RESTORE (R349-R351, R377) -/

/-- A segment record read from the bytes of an impression (R350), and the bytes it fills up to the page boundary. -/
def readSeg (bs : List Byte) : SegRec × Nat :=
  let h := leNat (bs.take 64)
  let tb := 1024 * bits h 96 4
  let n := bits h 64 32 * tb
  let m := bits h 160 32
  ({ bucket := bits h 16 24, group := bits h 40 12, role := bits h 8 1, firstTile := bits h 128 32, tileBytes := tb
     data := (bs.drop 64).take n, stats := (bs.drop (64 + n)).take m, digest := bits h 256 128 }, roundUp (64 + n + m) 16384)

/-- Whether the head of a segment record is sound (R350, R474). -/
def segSound (bs : List Byte) : Bool :=
  let h := leNat (bs.take 64)
  bits h 0 8 == 0x21 && bits h 9 7 == 0 && bits h 52 12 == 0 && bits h 100 28 == 0 && bits h 192 64 == 0 && bits h 384 128 == 0 &&
    (bits h 96 4 == 6 || bits h 96 4 == 10 || bits h 96 4 == 14)

/-- n segment records, and the bytes after them. -/
def readSegs (bs : List Byte) : Nat → Option (List SegRec × List Byte)
  | 0 => some ([], bs)
  | n + 1 =>
    if segSound bs && decide ((readSeg bs).2 ≤ bs.length) then
      (readSegs (bs.drop (readSeg bs).2) n).map fun r => ((readSeg bs).1 :: r.1, r.2)
    else none

/-- Whether the commit record makes an impression valid (R351). -/
def commitSound (step n digest : Nat) (bs : List Byte) : Bool :=
  let h := leNat (bs.take 64)
  bits h 0 8 == 0x31 && bits h 9 55 == 0 && bits h 64 64 == step && bits h 128 32 == n && bits h 160 32 == 0 &&
    bits h 192 128 == digest && bits h 320 128 == 0 && bits h 448 64 == crc64 (bs.take 56)

/-- The impression that the host sends, if it is valid (R349-R351). -/
def readImpression (bs : List Byte) : Option Impression :=
  let h := leNat (bs.take 64)
  let step := bits h 64 64
  let n := bits h 224 32
  if bits h 0 8 == 0x11 && bits h 9 7 == 0 && bits h 56 8 == 0 && bits h 384 128 == 0 && decide (16384 ≤ bs.length) then
    match readSegs (bs.drop 16384) n with
    | some (l, rest) =>
      if rest.length == 16384 && commitSound step n ((l.map (·.digest)).sum % 2 ^ 128) rest then
        some { step := step, epoch := bits h 128 64, norm := bits h 192 32, correlated := bitAt h 8, partner := bits h 36 20
               config := bits h 256 128, segs := l, suspect := bitAt (leNat (rest.take 64)) 8, pinned := false }
      else none
    | none => none
  else none

/-- The segment of an impression that fits a segment of the schedule. -/
def Impression.segOf (i : Impression) (k : Bucket) (g : Segment) : Option SegRec :=
  i.segs.find? fun r => r.bucket == k.id && r.group == g.group && r.firstTile == g.firstTile

/-- A segment's tiles and matrix record put back. -/
def State.restoreSeg (s : State) (i : Impression) (k : Bucket) (g : Segment) : State :=
  match i.segOf k g with
  | some r => (s.store g.base (r.data.take (g.tiles * g.tileBytes))).store g.stats (r.stats.take g.statsBytes)
  | none => s

/-- A bucket put back: owned ones, and replicas held whole (R377; log entry 16). Its slots are empty; its update, or its replay, of
the restored step is done. -/
def State.restoreBucket (s : State) (i : Impression) (k : Bucket) : State :=
  if k.owned || s.replicaHeld k then
    let y : BkState := if k.owned then { updated := some i.step } else { replayed := some i.step }
    (k.segments.foldl (fun t g => t.restoreSeg i k g) s).setBk k.id y
  else s

/-- The actions of R377; the job goes on, so its next START keeps the EPOCH of the header. -/
def State.restoreNow (s : State) (i : Impression) (sched : Schedule) : State :=
  let s := sched.buckets.foldl (fun t k => t.restoreBucket i k) { s with sched := sched }
  let s := (s.ports.map fun e => e.2.ahead.map fun k => (e.1, k)).flatten.foldl (fun t e => t.dropAhead e.1 e.2) s
  let ports := s.ports.map fun (e : Nat × Port) => (e.1, { e.2 with cursor := 0, served := 0, ahead := [] })
  let s := State.freeChans { s with
    step := i.step + 1, jobBegun := true, commit := {}, normNow := none, abortDue := none, benchCur := [], ports := ports }
  (s.setAll [(Upd.committed, i.step), (Coll.epoch, i.epoch), (Upd.normCur, i.norm)]).unfill true

/-- The checks of R377 on an impression, and its restoring. -/
def State.restoreChecked (s : State) (force : Bool) (step : Nat) (i : Option Impression) (sched : Schedule) : Answer :=
  match i with
  | none => .err s stBadParam
  | some i =>
    if i.step ≠ step ∨ i.config ≠ s.configDigest ∨ (i.suspect ∧ ¬ force) then .err s stBadParam
    else if s.impWrite.isSome then .err s stBusy
    else .ok (s.restoreNow i sched) []

/-- The work of RESTORE: from local flash at once, from the host once its bytes have come. -/
def State.restoreWork (h : HostHdr) (w : List W64) (sched : Schedule) (s : State) : Answer :=
  if s.impWrite.isSome then .err s stBusy
  else if bitAt h.form.toNat 0 then
    State.longStart { s with restores := Tab.put s.restores h.tag.toNat sched } h w 0x41 (some (param w 1)) 0
  else s.restoreChecked (bitAt h.form.toNat 1) (param w 0) (s.imps.find? fun i => i.step == param w 0) sched

/-- The bytes of a RESTORE have come; the device must still be stopped. -/
def State.restoreBulk (l : LongCmd) (s : State) : Answer :=
  if s.get Cmd.runState ≠ 0 then .err s stStopReq
  else if ¬ s.active then .err s stNotReady
  else s.restoreChecked (bitAt l.hdr.form.toNat 1) (param l.words 0) (readImpression l.data) ((Tab.find s.restores l.hdr.tag.toNat).getD s.sched)

/-- RESTORE (R377, R398). -/
def State.restoreCmd (s : State) (h : HostHdr) (w : List W64) (sched : Schedule) : State :=
  s.mailbox h w 0x41 .stopped true true (decide (h.form.toNat ≤ 3) && w.length == 1 + h.form.toNat % 2) (State.restoreWork h w sched)

/-- RESTORE (R377). -/
def execRestore (h : HostHdr) (w : List W64) (sched : Schedule) (s : State) : Host.Outcome State Fault Refusal :=
  .next (if s.alive then s.restoreCmd h w sched else s)

end Sys2Proof.Machine
end

