-- ==== Sys2Proof/Machine/Images.lean ====
section
/-! DEFINITION. Images and their checks, the bulk channel, route sets, firmware update and activation, attestation (R134, R173,
R212, R264, R380, R394, R400, R413-R425, R430, R460). -/

namespace Sys2Proof.Machine

open Sys2Proof

/-! ### The image format (R416, R417) -/

/-- The header of an image as a number. -/
def imgHdr (i : List Byte) : Nat := leNat (i.take 128)
/-- TYPE. -/
def imgType (i : List Byte) : Nat := bits (imgHdr i) 8 8
/-- KEY. -/
def imgKey (i : List Byte) : Nat := bits (imgHdr i) 20 4
/-- REVOKE. -/
def imgRevoke (i : List Byte) : Nat := bits (imgHdr i) 24 4
/-- SVN. -/
def imgSvn (i : List Byte) : Nat := bits (imgHdr i) 32 16
/-- BODY_BYTES. -/
def imgBodyBytes (i : List Byte) : Nat := bits (imgHdr i) 64 32
/-- ENTRY. -/
def imgEntry (i : List Byte) : Nat := bits (imgHdr i) 96 15
/-- FW_VERSION. -/
def imgVersion (i : List Byte) : Nat := bits (imgHdr i) 128 32
/-- The body. -/
def imgBody (i : List Byte) : List Byte := i.drop 17408
/-- The signed part. -/
def imgSigned (i : List Byte) : List Byte := i.take 576
/-- The measurement: SHA-384 of the signed part. -/
def imgMeas (i : List Byte) : Nat := leNat (sha384 (imgSigned i))

/-- A measurement as six result words. -/
def measWords (m : Nat) : List Nat := (List.range 6).map fun k => bits m (64 * k) 64

/-- The largest body of a TYPE in bytes (R418). -/
def bodyLimit (type : Nat) : Nat :=
  match type with
  | 1 => 2 ^ 24
  | 2 => 2 ^ 15
  | 3 => 2 ^ 14
  | 4 => 2 ^ 20
  | _ => 2 ^ 30

/-- Reason 1: VERSION 1, reserved fields zero, and those that only another TYPE uses (R417, R474). -/
def imgReserved (i : List Byte) : Bool :=
  let h := imgHdr i
  bits h 0 4 == 1 && bits h 4 4 == 0 && bits h 28 4 == 0 && bits h 48 16 == 0 && bits h 111 17 == 0 && bits h 160 32 == 0 &&
    bits h 576 448 == 0 && leNat ((i.drop 560).take 16) == 0 && leNat ((i.drop 17184).take 224) == 0 &&
    (imgType i == 1 || (imgRevoke i == 0 && imgSvn i == 0)) && (imgType i == 2 || imgEntry i == 0)

/-- The hash that a key slot stores: fused, or the owner's (R413). -/
def State.keyHash (s : State) (k : Nat) : Nat :=
  if k = 4 then ((List.range 6).map fun w => s.get (Sec.ownerKey w) * 2 ^ (64 * w)).sum else Tab.get s.keyHashes 0 k

/-- Reason 4: the key slot is admitted, not revoked, and holds the hash of the image's keys (R413). -/
def State.keyOk (s : State) (type : Nat) (i : List Byte) : Bool :=
  let k := imgKey i
  (decide (k < 4) || (k == 4 && type != 1)) && !(decide (k < 4) && bitAt (s.get Sec.keyRevoked) k) &&
    s.keyHash k == leNat (sha384 ((i.drop 128).take 432))

/-- Reason 10: the owner's key has not expired (R414, R419). -/
def State.ownerDue (s : State) (i : List Byte) : Bool :=
  imgKey i == 4 && s.get Sec.ownerNotAfter != 0 && !(s.flag Sec.calValid && decide (s.get Sec.calendar ≤ s.get Sec.ownerNotAfter))

/-- The reason of R419 for which an image of a command's TYPE fails, if any. -/
def State.imageFault (s : State) (type : Nat) (i : List Byte) : Option Nat :=
  if !imgReserved i then some 1
  else if imgType i ≠ type then some 2
  else if bits (imgHdr i) 16 4 ≠ 1 then some 3
  else if !s.keyOk type i then some 4
  else if type = 1 ∧ imgSvn i < s.get Sec.svnFloor then some 5
  else if bodyLimit type < imgBodyBytes i ∨ 17408 + imgBodyBytes i ≠ i.length then some 6
  else if bits (imgHdr i) 192 384 ≠ leNat (sha384 (imgBody i)) then some 7
  else if !Config.rsaVerify ((i.drop 128).take 384) (imgSigned i) ((i.drop 576).take 384) then some 8
  else if !Config.slhVerify ((i.drop 512).take 48) (imgSigned i) ((i.drop 960).take 16224) then some 9
  else if s.ownerDue i then some 10
  else none

/-- The measurement record of an image verified now. -/
def State.measNow (s : State) (i : List Byte) : Meas := ⟨imgSvn i, imgMeas i, s.now⟩

/-- The work on an image that the security engine has checked; a failure is logged and changes nothing else (R419). -/
def State.verified (s : State) (type : Nat) (i : List Byte) (body : State → Answer) : Answer :=
  match s.imageFault type i with
  | some r => .err (s.authFail (imgType i) r) stAuth
  | none => body s

/-! ### LOAD_IMAGE (R134, R173, R174, R418) -/

/-- Where bank k of a bench's Compositor or Temper memory begins. -/
def imageBase (temper : Bool) (b k : Nat) : Nat :=
  if temper then benchBase b + 0x80000 + 0x4000 * k else benchBase b + 0x20000 + 0x8000 * k

/-- The shadow bank of a bench. -/
def State.shadowBank (s : State) (temper : Bool) (b : Nat) : Nat :=
  1 - s.get (if temper then Stn.tmpActiveBank b 2 else Cmp.activeBank b)

/-- Whether a bench of a list waits for a swap (R174). -/
def State.swapDue (s : State) (temper : Bool) (l : List (Nat × Nat)) : Bool :=
  l.any fun e => s.flag (if temper then Stn.tmpSwapPending e.2 2 else Cmp.swapPending e.2)

/-- The image written to one bench's shadow bank. -/
def State.loadBank (s : State) (temper : Bool) (i : List Byte) (b : Nat) : State :=
  let k := s.shadowBank temper b
  let s := s.store (imageBase temper b k) (imgBody i)
  let s := { s with meas := Tab.put s.meas (measKey (if temper then 4 else 3) b k) (s.measNow i) }
  if temper then s else s.setAll [(Cmp.entry b, imgEntry i), (Cmp.shadowValid b, 1)]

/-- Whether a Temper image's directory has an entry at a number that is reserved (R212). -/
def directoryBad (body : List Byte) : Bool :=
  (List.range 128).any fun n => (n == 0 || decide (6 ≤ n)) && leNat ((body.drop (4 * n)).take 4) != 0

/-- Whether an operation word is one that section k of a microprogram admits: 0 MAT, 1 ROW, 2 COL, 3 ELEM (R213, R214). -/
def opOk (k w : Nat) : Bool :=
  let op := bits w 0 6
  bits w 26 6 == 0 && (decide (1 ≤ op ∧ op ≤ 10) || (k == 0 && op == 0x25) || (k == 1 && op == 0x23) || (k == 2 && op == 0x24) ||
    (k == 3 && decide (0x20 ≤ op ∧ op ≤ 0x22)))

/-- Whether LOAD_IMAGE refuses the microprogram at slot n of a bank's bytes (R212, R214, R474). -/
def uprogBad (body : List Byte) (n : Nat) : Bool :=
  let off := leNat ((body.drop (4 * n)).take 4)
  let h := leNat ((body.drop off).take 8)
  let lens := [bits h 30 6, bits h 18 6, bits h 24 6, bits h 12 6]
  let ops (k : Nat) : List Nat := (List.range (nth 0 lens k)).map fun j => leNat ((body.drop (off + 8 + 4 * ((lens.take k).sum + j))).take 4)
  off != 0 && (decide (body.length < off + 8 + 4 * lens.sum) || bits h 0 4 != 1 || bits h 4 8 != n || bits h 12 6 == 0 || bits h 39 25 != 0 ||
    (List.range 4).any (fun k => (ops k).any fun w => !opOk k w) ||
    (decide (0x80 ≤ n) && (ops 3).any fun w => (bits w 0 6 == 0x21 && !bitAt h 36) || (bits w 0 6 == 0x22 && !bitAt h 37)))

/-- LOAD_IMAGE FORM 0 and 1 with its image. -/
def State.loadBanks (temper : Bool) (mask : Nat) (i : List Byte) (s : State) : Answer :=
  if ¬ s.active then .err s stNotReady
  else
    s.verified (if temper then 3 else 2) i fun s =>
      match s.benchesOf mask with
      | none => .err s stBadParam
      | some l =>
        if s.swapDue temper l then .err s stBusy
        else if (temper ∧ (directoryBad (imgBody i) ∨ (List.range 256).any (uprogBad (imgBody i)))) ∨ imgEntry i % 4 ≠ 0 then .err s stBadParam
        else .ok (l.foldl (fun t e => t.loadBank temper i e.2) s) (measWords (imgMeas i))

/-- Where the run of memory that holds an LPDDR5X or stone address ends: its die, or the die's spare region (R342, R406). -/
def State.runEnd (s : State) (a : Nat) : Nat :=
  if isLpddr a then a / 0x2A00000000 * 0x2A00000000 + (if s.flag (Mc.spareEn (a / 0x2A00000000)) then 0x2900000000 else 0x2A00000000)
  else stoneBase (dieOf a + 1)

/-- The first address of n bytes from a that no memory has; at most k runs are looked at. -/
def State.firstOut (s : State) (a n : Nat) : Nat → Option Nat
  | 0 => none
  | k + 1 =>
    if n = 0 then none
    else if !s.ramOk a 1 then some a
    else if a + n ≤ s.runEnd a then none
    else s.firstOut (s.runEnd a) (a + n - s.runEnd a) k

/-- The job data records of a body written in order; n bounds their number. A record with a reserved bit is not used (R474); a body
that ends within a record is inconsistent. -/
def State.jobRecords (m : Nat) (s : State) (at0 : Nat) (bs : List Byte) : Nat → Answer
  | 0 => .ok s (measWords m)
  | n + 1 =>
    let h := leNat (bs.take 16)
    let a := bits h 0 48
    let len := bits h 64 32
    let next := 16 + roundUp len 8
    if bs.isEmpty then .ok s (measWords m)
    else if bs.length < next then .err s stBadParam
    else if bits h 48 16 ≠ 0 ∨ bits h 96 32 ≠ 0 then (s.logE clSequence .hub at0 []).jobRecords m (at0 + next) (bs.drop next) n
    else
      match s.firstOut a len 9 with
      | some x => .violation s 0x10 x []
      | none =>
        match s.storeErr a len with
        | some e => .done s stHwFault e []
        | none => (s.store a ((bs.drop 16).take len)).jobRecords m (at0 + next) (bs.drop next) n

/-- LOAD_IMAGE FORM 2 with its image. -/
def State.loadJob (i : List Byte) (s : State) : Answer :=
  if ¬ s.active then .err s stNotReady
  else
    s.verified 5 i fun s =>
      State.jobRecords (imgMeas i) { s with jobMeas := some (s.measNow i) } 0 (imgBody i) (imgBody i).length

/-- The bytes of a LOAD_IMAGE have come. -/
def State.loadBulk (l : LongCmd) (s : State) : Answer :=
  match l.hdr.form.toNat with
  | 0 => State.loadBanks false (param l.words 0) l.data s
  | 1 => State.loadBanks true (param l.words 0) l.data s
  | _ => State.loadJob l.data s

/-- The work of LOAD_IMAGE: what can be checked before its bytes come. -/
def State.loadWork (h : HostHdr) (w : List W64) (s : State) : Answer :=
  if h.form = 2 then s.longStart h w 0x10 (some (param w 1)) 0
  else
    match s.benchesOf (param w 0) with
    | none => .err s stBadParam
    | some l => if s.swapDue (h.form == 1) l then .err s stBusy else s.longStart h w 0x10 (some (param w 1)) 0

/-- LOAD_IMAGE (R398, R418). -/
def State.loadImage (s : State) (h : HostHdr) (w : List W64) : State :=
  s.mailbox h w 0x10 (if h.form = 2 then .stopped else .any) true true
    (decide (h.form.toNat ≤ 2) && w.length == 2 && decide (param w 0 < 2 ^ 32 ∧ param w 1 < 2 ^ 32) && (h.form != 2 || param w 0 == 0))
    (State.loadWork h w)

/-- LOAD_IMAGE (R418). -/
def execLoadImage (h : HostHdr) (w : List W64) (s : State) : Host.Outcome State Fault Refusal :=
  .next (if s.alive then s.loadImage h w else s)

/-! ### SET_ROUTES (R264, R380, R400) -/

/-- Word k of a route set image's body. -/
def bodyWord (bs : List Byte) (k : Nat) : Nat := leNat ((bs.drop (8 * k)).take 8)

/-- A route table entry read from its 16 bytes (R400). -/
def readRoute (w : Nat) : RouteEntry :=
  { dst := bits w 0 20, isLocal := bitAt w 20, mcast := bitAt w 21, paths := (List.range (min 8 (bits w 22 4))).map fun k => bits w (32 + 9 * k) 9 }

/-- Whether the fields of an entry are in range: NPATHS 1 to 8, 0 for local delivery alone (R400). -/
def routeSound (w : Nat) : Bool :=
  bits w 26 6 == 0 && bits w 104 24 == 0 &&
    (if bitAt w 20 && !bitAt w 21 then bits w 22 4 == 0 else decide (1 ≤ bits w 22 4 ∧ bits w 22 4 ≤ 8))

/-- Whether the entries for a destination fit together: a device has one entry and is not reached both up and down, a group has at
most 8 entries (R264, R400). -/
def State.routeFits (s : State) (l : List RouteEntry) (e : RouteEntry) : Bool :=
  let n := (l.filter fun x => x.dst == e.dst && x.mcast == e.mcast).length
  if e.mcast then decide (n ≤ 8)
  else n == 1 && !((e.paths.any fun p => s.flag (Fab.updown p)) && e.paths.any fun p => !s.flag (Fab.updown p))

/-- The route set of a body, if it is one that R264, R380 and R400 allow. -/
def State.readRoutes (s : State) (bs : List Byte) : Option RouteSet :=
  let na := bits (bodyWord bs 0) 0 4
  let av := (List.range na).map fun k => bodyWord bs (1 + k)
  let ne := bodyWord bs (1 + na)
  let ws := (chunks 16 (bs.drop (8 * (2 + na)))).map leNat
  let es := ws.map readRoute
  if bodyWord bs 0 == na && decide (na ≤ 8) && av.all (fun a => decide (a < 2 ^ 20)) && bs.length == 8 * (2 + na) + 16 * ne &&
      ws.all routeSound && es.all (fun e => e.paths.all s.ctxOn && s.routeFits es e) then
    some ⟨av, es⟩
  else none

/-- The words of route set k in the survival block (R385). -/
def State.showRouteSet (s : State) (k : Nat) (valid : Bool) (av : List Nat) : State :=
  let f (n : Nat) : Nat := nth 0 av n
  s.setAll [(Surv.valid k, b2n valid), (Surv.navoid k, av.length), (Surv.avoid0 k, f 0), (Surv.avoid1 k, f 1), (Surv.avoid2 k, f 2),
    (Surv.avoid3 k, f 3), (Surv.avoid4 k, f 4), (Surv.avoid5 k, f 5), (Surv.avoid6 k, f 6), (Surv.avoid7 k, f 7), (Surv.avoid8 k, 0)]

/-- A route set unloaded (R398). -/
def State.clearRoutes (s : State) (k : Nat) : State :=
  (State.showRouteSet { s with routes := Tab.del s.routes k, meas := Tab.del s.meas (measKey 5 k 0) } k false []).chooseRoute

/-- SET_ROUTES with its image; its function must still be stopped. -/
def State.routesBulk (l : LongCmd) (s : State) : Answer :=
  let k := bits (param l.words 0) 0 2
  if s.get Cmd.runState ≠ 0 ∧ ¬ s.flag Cmd.routingStopped then .err s stStopReq
  else
    s.verified 4 l.data fun s =>
      match s.readRoutes (imgBody l.data) with
      | none => .err s stBadParam
      | some r =>
        let t := { s with routes := Tab.put s.routes k r, meas := Tab.put s.meas (measKey 5 k 0) (s.measNow l.data) }
        .ok (t.showRouteSet k true r.avoid).chooseRoute []

/-- The work of SET_ROUTES. -/
def State.routesWork (h : HostHdr) (w : List W64) (s : State) : Answer :=
  if bitAt (param w 0) 2 then .ok (s.clearRoutes (bits (param w 0) 0 2)) [] else s.longStart h w 0x20 (some (param w 1)) 0

/-- SET_ROUTES (R398, R400). -/
def State.setRoutes (s : State) (h : HostHdr) (w : List W64) : State :=
  s.mailbox h w 0x20 .stoppedOrRouting false true (h.form == 0 && w.length == 2 && decide (param w 0 < 8 ∧ param w 1 < 2 ^ 32))
    (State.routesWork h w)

/-- SET_ROUTES (R400). -/
def execSetRoutes (h : HostHdr) (w : List W64) (s : State) : Host.Outcome State Fault Refusal :=
  .next (if s.alive then s.setRoutes h w else s)

/-! ### Firmware (R420-R424) -/

/-- VALID of a firmware slot. -/
def slotValid (k : Nat) : Field := if k = 0 then Sec.slotAValid else Sec.slotBValid

/-- FW_VERSION of a firmware slot. -/
def slotVersion (k : Nat) : Field := if k = 0 then Sec.fwVersionA else Sec.fwVersionB

/-- The slot that UPDATE_FW writes: the inactive one; in BOOT_RECOVERY slot A (R420, R422). -/
def State.updateSlot (s : State) : Nat := if s.flag Sec.bootRecovery then 0 else 1 - s.get Sec.activeSlot

/-- UPDATE_FW with its image (R419, R422): it reads back as it was written. -/
def State.updateBulk (l : LongCmd) (s : State) : Answer :=
  s.verified 1 l.data fun s =>
    let k := s.updateSlot
    let i := l.data
    let x : FwSlot := ⟨i, s.measNow i, imgVersion i, imgRevoke i, imgKey i⟩
    .ok ({ s with fwSlots := Tab.put s.fwSlots k x }.setAll [(slotVersion k, imgVersion i), (slotValid k, 1)]) (measWords (imgMeas i))

/-- UPDATE_FW (R398, R422). -/
def State.updateFw (s : State) (h : HostHdr) (w : List W64) : State :=
  s.mailbox h w 0x61 .any false true (h.form == 0 && w.length == 1 && decide (param w 0 < 2 ^ 32))
    fun t => t.longStart h w 0x61 (some (param w 0)) 0

/-- UPDATE_FW (R422). -/
def execUpdateFw (h : HostHdr) (w : List W64) (s : State) : Host.Outcome State Fault Refusal :=
  .next (if s.alive then s.updateFw h w else s)

/-- Why the image of a slot cannot be activated, if so (R419, R424). The image that the module came with passes (log entry 7). -/
def State.activateFault (s : State) (k : Nat) : Option Nat :=
  match Tab.find s.fwSlots k with
  | some x =>
    match s.imageFault 1 x.image with
    | some r => some r
    | none => if bitAt x.revoke x.key then some 4 else none
  | none => none

/-- Orders 3 to 5 of R423. -/
def State.activate (s : State) (k : Nat) : State :=
  let s := (if s.active then (List.range 40).foldl State.copyFeat s else s).bump Sec.mono 1
  { s with prevSlot := s.get Sec.activeSlot }.setAll [(Sec.activeSlot, k), (Sec.confirmPending, 1)]

/-- The work of ACTIVATE_FW; in BOOT_RECOVERY it begins the boot again (R420, R424). -/
def State.activateWork (k : Nat) (s : State) : Answer :=
  if s.flag Sec.bootRecovery then .ok (s.set Sec.bootRecovery 0).reboot []
  else if s.get Sec.activeSlot = k then .err s stDone
  else if ¬ s.flag (slotValid k) then .err s stNotReady
  else if s.longs ≠ [] ∨ s.flag Sec.confirmPending then .err s stBusy
  else
    match s.activateFault k with
    | some r => .err (s.authFail 1 r) stAuth
    | none => .ok (s.activate k) []

/-- ACTIVATE_FW (R398, R423). -/
def State.activateFw (s : State) (h : HostHdr) (w : List W64) : State :=
  s.mailbox h w 0x62 .any false false (h.form == 0 && w.length == 1 && decide (param w 0 < 2)) (State.activateWork (param w 0))

/-- ACTIVATE_FW (R423). -/
def execActivateFw (h : HostHdr) (w : List W64) (s : State) : Host.Outcome State Fault Refusal :=
  .next (if s.alive then s.activateFw h w else s)

/-- Order 6 of R423: the floor rises to the image's SVN, the slots in REVOKE are revoked. -/
def State.confirm (s : State) : State :=
  let t := s.set Sec.confirmPending 0
  match Tab.find s.fwSlots (s.get Sec.activeSlot) with
  | some x => t.setAll [(Sec.svnFloor, max (s.get Sec.svnFloor) x.meas.svn), (Sec.keyRevoked, s.get Sec.keyRevoked ||| x.revoke)]
  | none => t

/-- CONFIRMATION (R423). -/
def execConfirmation (s : State) : Host.Outcome State Fault Refusal :=
  .next (if s.alive && s.flag Sec.confirmPending then s.confirm else s)

/-- The previous firmware takes over (R423). -/
def State.revertFw (s : State) : State := (s.setAll [(Sec.activeSlot, s.prevSlot), (Sec.confirmPending, 0), (Sec.fwRevertEvt, 1)]).alert

/-- WATCHDOG_EXPIRY (R423, R460): before confirmation the previous firmware takes over, otherwise a warm reset with FAULT_CAUSE 6. -/
def execWatchdogExpiry (s : State) : Host.Outcome State Fault Refusal :=
  .next (
    if !s.alive then s
    else if s.flag Sec.confirmPending then s.revertFw
    else (s.warmReset.setAll [(Cmd.powerState, 1), (Side.faultCause, 6)]).reboot)

/-! ### ATTEST (R425) -/

/-- A measurement entry. -/
def measEntry (kind index : Nat) (active : Bool) (m : Meas) : List Byte :=
  leBytes 64 (packDetail [(kind, 8), (index, 8), (b2n active, 1), (0, 15), (m.svn, 16), (0, 16), (m.meas, 384), (m.loaded, 64)])

/-- The measurement of a valid firmware slot; that of the image the module came with is a free value (log entries 7 and 10). -/
def State.slotMeas (s : State) (k : Nat) : Meas × State :=
  match Tab.find s.fwSlots k with
  | some x => (x.meas, s)
  | none =>
    let (a, s) := s.fresh
    let (b, s) := s.fresh
    let (c, s) := s.fresh
    (⟨a, b, c⟩, s)

/-- The entry of a firmware slot, if it is valid. -/
def State.slotEntry (s : State) (k : Nat) : List (List Byte) × State :=
  if s.flag (slotValid k) then
    let r := s.slotMeas k
    ([measEntry 2 k (s.get Sec.activeSlot == k) r.1], r.2)
  else ([], s)

/-- The entries of the banks of all benches. -/
def State.bankEntries (s : State) (kind : Nat) : List (List Byte) :=
  ((List.range 40).map fun b => (List.range 2).filterMap fun k => (Tab.find s.meas (measKey kind b k)).map fun m =>
    measEntry kind b (s.get (if kind = 4 then Stn.tmpActiveBank b 2 else Cmp.activeBank b) == k) m).flatten

/-- The measurement entries of a report. -/
def State.measEntries (s : State) : List (List Byte) × State :=
  let a := s.slotEntry 0
  let b := a.2.slotEntry 1
  let rom := measEntry 1 0 false ⟨0, Config.romDigest.toNat, 0⟩
  let sets := (List.range 4).filterMap fun k => (Tab.find s.meas (measKey 5 k 0)).map fun m => measEntry 5 k false m
  (rom :: (a.1 ++ b.1 ++ s.bankEntries 3 ++ s.bankEntries 4 ++ sets ++ s.jobMeas.toList.map (measEntry 6 0 false)), b.2)

/-- The header of a report. -/
def State.reportHead (s : State) (n : Nat) (nonce : Nat) : List Byte :=
  leBytes 128 (packDetail [(1, 4), (0, 4), (1, 4), (0, 4), (0x5120, 16), (0, 32), (Config.serial.toNat, 64), (s.me, 20),
    (s.get Sec.activeSlot, 1), (s.get Sec.bootRecovery, 1), (0, 10), (s.get Sec.svnFloor, 16), (s.get Sec.keyRevoked, 4),
    (s.get Sec.ownerLock, 1), (0, 11), (s.now, 64), (s.get Sec.mono, 64), (s.get Sec.calendar, 64), (s.get Sec.calValid, 1), (0, 63),
    (n, 16), (0, 16), (Config.certificates.length, 32), (nonce, 256)])

/-- The signed report (R415, R425). -/
def State.report (s : State) (nonce : Nat) : List Byte × State :=
  let r := s.measEntries
  let body := s.reportHead r.1.length nonce ++ r.1.flatten ++ Config.certificates
  (body ++ padTo 384 (Config.rsaSign body) ++ padTo 35664 (Config.slhSign body), r.2)

/-- The work of ATTEST. -/
def State.attestWork (tag : Nat) (w : List W64) (s : State) : Answer :=
  let nonce := ((List.range 4).map fun k => param w k * 2 ^ (64 * k)).sum
  let r := s.report nonce
  .ok (r.2.bulkOut tag r.1) [r.1.length]

/-- ATTEST (R398, R425). -/
def State.attest (s : State) (h : HostHdr) (w : List W64) : State :=
  s.mailbox h w 0x60 .any false true (h.form == 0 && w.length == 4) (State.attestWork h.tag.toNat w)

/-- ATTEST (R425). -/
def execAttest (h : HostHdr) (w : List W64) (s : State) : Host.Outcome State Fault Refusal :=
  .next (if s.alive then s.attest h w else s)

/-! ### The bulk channel (R394) -/

/-- The work of a long command whose bytes have all come. -/
def State.bulkDone (s : State) (l : LongCmd) : Answer :=
  match l.opcode with
  | 0x10 => State.loadBulk l s
  | 0x20 => State.routesBulk l s
  | 0x41 => State.restoreBulk l s
  | _ => State.updateBulk l s

/-- A long command ends with what its work answers. -/
def State.longSettle (s : State) (l : LongCmd) : State :=
  match s.bulkDone l with
  | .done t st fa ws => t.longEnd l st fa ws
  | .later t => t

/-- Bulk bytes of an outstanding command that takes need of them. -/
def State.bulkIn (s : State) (l : LongCmd) (need off : Nat) (last : Bool) (data : List Byte) : State :=
  if off ≠ l.data.length then s.longEnd l stOrder 0 []
  else
    let m := { l with data := l.data ++ data }
    let s := { s with longs := s.longs.map fun x => if x.hdr.tag = l.hdr.tag then m else x }
    if !last then s
    else if m.data.length ≠ need then s.longEnd m stBadParam 0 []
    else s.longSettle m

/-- Whether a bulk packet's header is sound and gives the length of its data (R394). -/
def bulkSound (h : Nat) (data : List Byte) : Bool :=
  bits h 0 4 == 1 && bits h 4 12 == 0 && bits h 94 34 == 0 && bits h 80 13 == data.length && decide (1 ≤ data.length ∧ data.length ≤ 4096)

/-- A bulk packet received. One with reserved bits is not used (R474). -/
def State.bulkPacket (s : State) (h : Nat) (data : List Byte) : State :=
  let s := s.takeFlits 2 (16 + data.length)
  if !bulkSound h data then s.logE clSequence .hub 0 []
  else
    match s.longs.find? fun l => l.hdr.tag.toNat == bits h 16 16 && l.need.isSome with
    | some l => s.bulkIn l (l.need.getD 0) (bits h 32 48) (bitAt h 93) data
    | none => s.bump Cmd.bulkOrphan 1

/-- BULK_PACKET (R394). -/
def execBulkPacket (hdr : BitVec 128) (data : List Byte) (s : State) : Host.Outcome State Fault Refusal :=
  .next (if s.alive then s.bulkPacket hdr.toNat data else s)

end Sys2Proof.Machine
end

