-- ==== Sys2Proof/Machine/Link.lean ====
section
/-! DEFINITION. The Dreril Link: control flits, lost codewords, the link going down and coming up (R387-R391, R411). -/

namespace Sys2Proof.Machine

open Sys2Proof

/-- SEQ of a flit. -/
def flitSeq (f : Nat) : Nat := bits f 4 12

/-- How many flits of the replay buffer an ACK releases; one that names no flit within it releases none. -/
def Dreril.acked (d : Dreril) (ack : Nat) : Nat :=
  let n := (ack + 4096 - (d.txSeq + 4096 - d.replay.length % 4096) % 4096) % 4096
  if n ≤ d.replay.length then n else 0

/-- Every flit of the replay buffer sent again (R389). -/
def State.resendFlits (s : State) : State :=
  { s with wire := s.wire ++ s.dreril.replay.map fun f => (drerilWire, f) }.bump Dl.replays s.dreril.replay.length

/-- Credits of one more channel given back by the peer. -/
def Dreril.grant (d : Dreril) (ch n : Nat) : Dreril := { d with credits := Tab.set d.credits 0 ch (Tab.get d.credits 0 ch + n) }

/-- Whether a link control flit has its reserved bits and SEQ at zero (R388, R389, R474). -/
def flitSound (f : Nat) : Bool := bits f 0 2 == 3 && flitSeq f == 0 && bits f 29 3 == 0 && bits f 80 176 == 0

/-- A link control flit received: ACK, NAK, credits; then what may be sent is sent. -/
def State.controlFlit (s : State) (f : Nat) : State :=
  if !flitSound f then s.logE clSequence .hub 0 []
  else
    let d := { s.dreril with replay := s.dreril.replay.drop (s.dreril.acked (bits f 16 12)) }
    let s := { s with dreril := d }
    let s := if bitAt f 28 then s.resendFlits else s
    State.drainDreril { s with dreril := ((s.dreril.grant 0 (bits f 32 16)).grant 1 (bits f 48 16)).grant 2 (bits f 64 16) }

/-- LINK_CONTROL_FLIT (R389). -/
def execLinkControlFlit (flit : BitVec 256) (s : State) : Host.Outcome State Fault Refusal :=
  .next (if s.alive && s.get Dl.linkState == 2 then s.controlFlit flit.toNat else s)

/-- Credits of a channel that one link control flit gives back. -/
def Dreril.back (d : Dreril) (ch : Nat) : Nat := min 65535 (Tab.get d.toReturn 0 ch)

/-- The link control flit that is due: ACK, NAK, credits to return. FIRST and LAST belong to packets (log entry 22). -/
def State.controlOut (s : State) : Nat :=
  let d := s.dreril
  packDetail [(3, 16), (d.rxSeq, 12), (b2n d.nakDue, 1), (0, 3), (d.back 0, 16), (d.back 1, 16), (d.back 2, 16)]

/-- What is left to return once the flit is out. -/
def Dreril.returned (d : Dreril) : Dreril :=
  { d with nakDue := false
           toReturn := [0, 1, 2].foldl (fun (t : Tab Nat) (ch : Nat) => Tab.set t 0 ch (Tab.get t 0 ch - d.back ch)) d.toReturn }

/-- LINK_CONTROL_FLIT_SEND (R389). -/
def execLinkControlFlitSend (s : State) : Host.Outcome State Fault Refusal :=
  .next (
    if s.alive && s.get Dl.linkState == 2 then
      { s with wire := s.wire ++ [(drerilWire, s.controlOut)], dreril := s.dreril.returned }
    else s)

/-- DRERIL_CODEWORD_UNCORR (R387): the codeword's flits are gone, NAK is due. -/
def execDrerilCodewordUncorr (s : State) : Host.Outcome State Fault Refusal :=
  .next (
    if s.alive && s.get Dl.linkState == 2 then { s with dreril := { s.dreril with nakDue := true } }.bump Dl.cwUncorr 1 else s)

/-- The link goes down (R391): replies and bulk packets that are not sent are held. -/
def State.drerilDown (s : State) : State := (s.logE clLinkDown .hub 0 []).setAll [(Dl.linkState, 0), (Dl.laneLock, 0), (Dl.linkEvt, 1)]

/-- DRERIL_LINK_DOWN (R391). -/
def execDrerilLinkDown (s : State) : Host.Outcome State Fault Refusal :=
  .next (if s.alive && s.get Dl.linkState == 2 then s.drerilDown else s)

/-- The link is up again (R390, R391): the replay buffer resumes, held replies and bulk packets are sent. -/
def State.retrained (s : State) : State := ((s.drerilUp.bump Dl.retrains 1).resendFlits).drainDreril

/-- RETRAIN (R391). -/
def execRetrain (s : State) : Host.Outcome State Fault Refusal :=
  .next (if s.alive && s.get Dl.linkState != 2 then s.retrained else s)

end Sys2Proof.Machine
end

