-- ==== Sys2Proof/Machine/Dispatch.lean ====
section
/-! DEFINITION. The dispatch of a command to its meaning: one arm per command. -/

namespace Sys2Proof.Machine

open Sys2Proof

/-- The effect of a command on everything but the queue. -/
def exec (i : Instr) (s : State) : Host.Outcome State Fault Refusal :=
  match i with
  | .identify h w => Sys2Proof.Machine.execIdentify h w s
  | .getFeatures h w => Sys2Proof.Machine.execGetFeatures h w s
  | .getStatus h w => Sys2Proof.Machine.execGetStatus h w s
  | .getStatusMailbox h w => Sys2Proof.Machine.execGetStatusMailbox h w s
  | .readCsr h w => Sys2Proof.Machine.execReadCsr h w s
  | .writeCsr h w => Sys2Proof.Machine.execWriteCsr h w s
  | .loadImage h w => Sys2Proof.Machine.execLoadImage h w s
  | .bulkPacket hdr data => Sys2Proof.Machine.execBulkPacket hdr data s
  | .swapBank h w => Sys2Proof.Machine.execSwapBank h w s
  | .stop h w => Sys2Proof.Machine.execStop h w s
  | .stopRouting h w => Sys2Proof.Machine.execStopRouting h w s
  | .start h w sched => Sys2Proof.Machine.execStart h w sched s
  | .startRouting h w => Sys2Proof.Machine.execStartRouting h w s
  | .setRoutes h w => Sys2Proof.Machine.execSetRoutes h w s
  | .launchAt h w sched => Sys2Proof.Machine.execLaunchAt h w sched s
  | .launchAtCount => Sys2Proof.Machine.execLaunchAtCount s
  | .abortStep h w => Sys2Proof.Machine.execAbortStep h w s
  | .abortStepCommit h w => Sys2Proof.Machine.execAbortStepCommit h w s
  | .globalStop h w => Sys2Proof.Machine.execGlobalStop h w s
  | .globalStopCount => Sys2Proof.Machine.execGlobalStopCount s
  | .setPair h w => Sys2Proof.Machine.execSetPair h w s
  | .setPairAdopt h w => Sys2Proof.Machine.execSetPairAdopt h w s
  | .setFailureDomain h w => Sys2Proof.Machine.execSetFailureDomain h w s
  | .impress h w => Sys2Proof.Machine.execImpress h w s
  | .impressExport h w => Sys2Proof.Machine.execImpressExport h w s
  | .impressList h w => Sys2Proof.Machine.execImpressList h w s
  | .restore h w sched => Sys2Proof.Machine.execRestore h w sched s
  | .retireBench h w => Sys2Proof.Machine.execRetireBench h w s
  | .retireChannel h w => Sys2Proof.Machine.execRetireChannel h w s
  | .retireLane h w => Sys2Proof.Machine.execRetireLane h w s
  | .margin h w => Sys2Proof.Machine.execMargin h w s
  | .getCounters h w => Sys2Proof.Machine.execGetCounters h w s
  | .getLog h w => Sys2Proof.Machine.execGetLog h w s
  | .clearLog h w => Sys2Proof.Machine.execClearLog h w s
  | .setTime h w => Sys2Proof.Machine.execSetTime h w s
  | .attest h w => Sys2Proof.Machine.execAttest h w s
  | .updateFw h w => Sys2Proof.Machine.execUpdateFw h w s
  | .activateFw h w => Sys2Proof.Machine.execActivateFw h w s
  | .confirmation => Sys2Proof.Machine.execConfirmation s
  | .watchdogExpiry => Sys2Proof.Machine.execWatchdogExpiry s
  | .linkControlFlit flit => Sys2Proof.Machine.execLinkControlFlit flit s
  | .drerilLinkDown => Sys2Proof.Machine.execDrerilLinkDown s
  | .retrain => Sys2Proof.Machine.execRetrain s
  | .freset h b => Sys2Proof.Machine.execFreset h b s
  | .faultAck h => Sys2Proof.Machine.execFaultAck h s
  | .build h => Sys2Proof.Machine.execBuild h s
  | .alarmClr h => Sys2Proof.Machine.execAlarmClr h s
  | .exportReady h => Sys2Proof.Machine.execExportReady h s
  | .calendar h value => Sys2Proof.Machine.execCalendar h value s
  | .ownerLock h => Sys2Proof.Machine.execOwnerLock h s
  | .ovrEn h r value => Sys2Proof.Machine.execOvrEn h r value s
  | .vset h r value => Sys2Proof.Machine.execVset h r value s
  | .addi b rd ra imm => Sys2Proof.Machine.execAddi b rd ra imm s
  | .andi b rd ra imm => Sys2Proof.Machine.execAndi b rd ra imm s
  | .ori b rd ra imm => Sys2Proof.Machine.execOri b rd ra imm s
  | .xori b rd ra imm => Sys2Proof.Machine.execXori b rd ra imm s
  | .slti b rd ra imm => Sys2Proof.Machine.execSlti b rd ra imm s
  | .sltiu b rd ra imm => Sys2Proof.Machine.execSltiu b rd ra imm s
  | .lui b rd imm => Sys2Proof.Machine.execLui b rd imm s
  | .slli b rd ra sh => Sys2Proof.Machine.execSlli b rd ra sh s
  | .srli b rd ra sh => Sys2Proof.Machine.execSrli b rd ra sh s
  | .srai b rd ra sh => Sys2Proof.Machine.execSrai b rd ra sh s
  | .lw b rd ra imm c => Sys2Proof.Machine.execLw b rd ra imm s c
  | .sw b rd ra imm => Sys2Proof.Machine.execSw b rd ra imm s
  | .ld b rd ra imm c => Sys2Proof.Machine.execLd b rd ra imm s c
  | .sd b rd ra imm => Sys2Proof.Machine.execSd b rd ra imm s
  | .beq b ra rb off => Sys2Proof.Machine.execBeq b ra rb off s
  | .bne b ra rb off => Sys2Proof.Machine.execBne b ra rb off s
  | .blt b ra rb off => Sys2Proof.Machine.execBlt b ra rb off s
  | .bge b ra rb off => Sys2Proof.Machine.execBge b ra rb off s
  | .bltu b ra rb off => Sys2Proof.Machine.execBltu b ra rb off s
  | .bgeu b ra rb off => Sys2Proof.Machine.execBgeu b ra rb off s
  | .jal b off => Sys2Proof.Machine.execJal b off s
  | .jalr b rd ra imm => Sys2Proof.Machine.execJalr b rd ra imm s
  | .add b rd ra rb => Sys2Proof.Machine.execAdd b rd ra rb s
  | .sub b rd ra rb => Sys2Proof.Machine.execSub b rd ra rb s
  | .and b rd ra rb => Sys2Proof.Machine.execAnd b rd ra rb s
  | .or b rd ra rb => Sys2Proof.Machine.execOr b rd ra rb s
  | .xor b rd ra rb => Sys2Proof.Machine.execXor b rd ra rb s
  | .sll b rd ra rb => Sys2Proof.Machine.execSll b rd ra rb s
  | .srl b rd ra rb => Sys2Proof.Machine.execSrl b rd ra rb s
  | .sra b rd ra rb => Sys2Proof.Machine.execSra b rd ra rb s
  | .slt b rd ra rb => Sys2Proof.Machine.execSlt b rd ra rb s
  | .sltu b rd ra rb => Sys2Proof.Machine.execSltu b rd ra rb s
  | .mul b rd ra rb => Sys2Proof.Machine.execMul b rd ra rb s
  | .mulhu b rd ra rb => Sys2Proof.Machine.execMulhu b rd ra rb s
  | .mulh b rd ra rb => Sys2Proof.Machine.execMulh b rd ra rb s
  | .strm b ra imm => Sys2Proof.Machine.execStrm b ra imm s
  | .swait b sel => Sys2Proof.Machine.execSwait b sel s
  | .sigrd b rd ra hd => Sys2Proof.Machine.execSigrd b rd ra hd s
  | .sigadd b rd ra hd => Sys2Proof.Machine.execSigadd b rd ra hd s
  | .sigwait b rd ra hd => Sys2Proof.Machine.execSigwait b rd ra hd s
  | .sigmon b rd ra slot hd => Sys2Proof.Machine.execSigmon b rd ra slot hd s
  | .mwait b mask => Sys2Proof.Machine.execMwait b mask s
  | .fence b => Sys2Proof.Machine.execFence b s
  | .bndry b target => Sys2Proof.Machine.execBndry b target s
  | .endB b => Sys2Proof.Machine.execEndB b s
  | .bcnt b rd ra hd => Sys2Proof.Machine.execBcnt b rd ra hd s
  | .featq b rd sel => Sys2Proof.Machine.execFeatq b rd sel s
  | .csrr b rd sel => Sys2Proof.Machine.execCsrr b rd sel s
  | .illegalInstruction b word c => Sys2Proof.Machine.execIllegalInstruction b word s c
  | .waitEnds who => Sys2Proof.Machine.execWaitEnds who s
  | .scale b n c => Sys2Proof.Machine.execScale b n c s
  | .sum b n c => Sys2Proof.Machine.execSum b n c s
  | .sumsp b n c => Sys2Proof.Machine.execSumsp b n c s
  | .norm b n c => Sys2Proof.Machine.execNorm b n c s
  | .rowsum b n c => Sys2Proof.Machine.execRowsum b n c s
  | .colsum b n c => Sys2Proof.Machine.execColsum b n c s
  | .max b n c => Sys2Proof.Machine.execMax b n c s
  | .min b n c => Sys2Proof.Machine.execMin b n c s
  | .update b c => Sys2Proof.Machine.execUpdate b c s
  | .replay b c => Sys2Proof.Machine.execReplay b c s
  | .convert b n c => Sys2Proof.Machine.execConvert b n c s
  | .finish b n c => Sys2Proof.Machine.execFinish b n c s
  | .zfill b n c => Sys2Proof.Machine.execZfill b n c s
  | .gather b c => Sys2Proof.Machine.execGather b c s
  | .scatter b c => Sys2Proof.Machine.execScatter b c s
  | .permute b c => Sys2Proof.Machine.execPermute b c s
  | .strided b c => Sys2Proof.Machine.execStrided b c s
  | .select b c => Sys2Proof.Machine.execSelect b c s
  | .topk b c => Sys2Proof.Machine.execTopk b c s
  | .sort b c => Sys2Proof.Machine.execSort b c s
  | .merge b c => Sys2Proof.Machine.execMerge b c s
  | .matvec b c => Sys2Proof.Machine.execMatvec b c s
  | .outer b c => Sys2Proof.Machine.execOuter b c s
  | .digestPkt b c => Sys2Proof.Machine.execDigestPkt b c s
  | .digestTile b c => Sys2Proof.Machine.execDigestTile b c s
  | .streamEnd b n => Sys2Proof.Machine.execStreamEnd b n s
  | .tileRecomputation b n ok => Sys2Proof.Machine.execTileRecomputation b n ok s
  | .retirementHandover b ok => Sys2Proof.Machine.execRetirementHandover b ok s
  | .canaryCapture r matched => Sys2Proof.Machine.execCanaryCapture r matched s
  | .marginLower r band => Sys2Proof.Machine.execMarginLower r band s
  | .bandChange r temp => Sys2Proof.Machine.execBandChange r temp s
  | .slowMarkSend r => Sys2Proof.Machine.execSlowMarkSend r s
  | .slowMark p pkt => Sys2Proof.Machine.execSlowMark p pkt s
  | .slowMarkExpiry src r => Sys2Proof.Machine.execSlowMarkExpiry src r s
  | .timeMarkSend => Sys2Proof.Machine.execTimeMarkSend s
  | .timeReq p blk t1 => Sys2Proof.Machine.execTimeReq p blk t1 s
  | .timeResp p blk t2 t3 => Sys2Proof.Machine.execTimeResp p blk t2 t3 s
  | .slew => Sys2Proof.Machine.execSlew s
  | .tbLockTimeout => Sys2Proof.Machine.execTbLockTimeout s
  | .refLost => Sys2Proof.Machine.execRefLost s
  | .ppsIn => Sys2Proof.Machine.execPpsIn s
  | .ppsOut => Sys2Proof.Machine.execPpsOut s
  | .write p pkt spill => Sys2Proof.Machine.execWrite p pkt s spill
  | .reductionPacket p pkt => Sys2Proof.Machine.execReductionPacket p pkt s
  | .signal p pkt => Sys2Proof.Machine.execSignal p pkt s
  | .read p pkt => Sys2Proof.Machine.execRead p pkt s
  | .missReport p pkt => Sys2Proof.Machine.execMissReport p pkt s
  | .fetch p pkt => Sys2Proof.Machine.execFetch p pkt s
  | .fetchWaitEnds idx => Sys2Proof.Machine.execFetchWaitEnds idx s
  | .reply p pkt => Sys2Proof.Machine.execReply p pkt s
  | .ack p pkt => Sys2Proof.Machine.execAck p pkt s
  | .nack p pkt => Sys2Proof.Machine.execNack p pkt s
  | .custody p pkt => Sys2Proof.Machine.execCustody p pkt s
  | .mirror p pkt => Sys2Proof.Machine.execMirror p pkt s
  | .transit p pkt spill => Sys2Proof.Machine.execTransit p pkt s spill
  | .poolRebuild m pool => Sys2Proof.Machine.execPoolRebuild m pool s
  | .transmit p => Sys2Proof.Machine.execTransmit p s
  | .shareInterval p => Sys2Proof.Machine.execShareInterval p s
  | .resend dst seq src => Sys2Proof.Machine.execResend dst seq s src
  | .gapNack src => Sys2Proof.Machine.execGapNack src s
  | .delivTo dst seq => Sys2Proof.Machine.execDelivTo dst seq s
  | .credit p blk vcs ords => Sys2Proof.Machine.execCredit p blk vcs ords s
  | .retryReq p blk frame => Sys2Proof.Machine.execRetryReq p blk frame s
  | .stopMark p blk => Sys2Proof.Machine.execStopMark p blk s
  | .cutLost p => Sys2Proof.Machine.execCutLost p s
  | .hello p blk => Sys2Proof.Machine.execHello p blk s
  | .helloSend p => Sys2Proof.Machine.execHelloSend p s
  | .keepalive p blk => Sys2Proof.Machine.execKeepalive p blk s
  | .keepaliveSend p => Sys2Proof.Machine.execKeepaliveSend p s
  | .peerSilent p => Sys2Proof.Machine.execPeerSilent p s
  | .routeAlarm p pkt => Sys2Proof.Machine.execRouteAlarm p pkt s
  | .linkTraining p res => Sys2Proof.Machine.execLinkTraining p res s
  | .bringUpRetry p => Sys2Proof.Machine.execBringUpRetry p s
  | .laneFail lane => Sys2Proof.Machine.execLaneFail lane s
  | .failThresh lane symbols => Sys2Proof.Machine.execFailThresh lane symbols s
  | .narrow p blk mask => Sys2Proof.Machine.execNarrow p blk mask s
  | .narrowAck p blk mask => Sys2Proof.Machine.execNarrowAck p blk mask s
  | .narrowFailed p => Sys2Proof.Machine.execNarrowFailed p s
  | .carriedFrame p frame => Sys2Proof.Machine.execCarriedFrame p frame s
  | .sample m => Sys2Proof.Machine.execSample m s
  | .vote => Sys2Proof.Machine.execVote s
  | .commitVote p pkt => Sys2Proof.Machine.execCommitVote p pkt s
  | .commitResult p pkt => Sys2Proof.Machine.execCommitResult p pkt s
  | .commitTimeout => Sys2Proof.Machine.execCommitTimeout s
  | .clipFactorWrite norm => Sys2Proof.Machine.execClipFactorWrite norm s
  | .restoreFromReplica bucket whole => Sys2Proof.Machine.execRestoreFromReplica bucket s whole
  | .heartbeat p pkt => Sys2Proof.Machine.execHeartbeat p pkt s
  | .heartbeatSend => Sys2Proof.Machine.execHeartbeatSend s
  | .hbMiss peer => Sys2Proof.Machine.execHbMiss peer s
  | .pair p pkt => Sys2Proof.Machine.execPair p pkt s
  | .pairTimeout => Sys2Proof.Machine.execPairTimeout s
  | .fill p pkt => Sys2Proof.Machine.execFill p pkt s
  | .refillSweeper => Sys2Proof.Machine.execRefillSweeper s
  | .replicaDigest p pkt => Sys2Proof.Machine.execReplicaDigest p pkt s
  | .straggleUs bucket missing => Sys2Proof.Machine.execStraggleUs bucket missing s
  | .patrolScrub addr check symbols => Sys2Proof.Machine.execPatrolScrub addr check symbols s
  | .stoneScrub addr badBits => Sys2Proof.Machine.execStoneScrub addr badBits s
  | .migrationLineCopy n symbols => Sys2Proof.Machine.execMigrationLineCopy n symbols s
  | .sweeper => Sys2Proof.Machine.execSweeper s
  | .commitRecord => Sys2Proof.Machine.execCommitRecord s
  | .flashProgramFailure block => Sys2Proof.Machine.execFlashProgramFailure block s
  | .lifetimeRecordWrite => Sys2Proof.Machine.execLifetimeRecordWrite s
  | .ageUpdate r meanTemp meanMv => Sys2Proof.Machine.execAgeUpdate r meanTemp meanMv s
  | .calendarAdvance => Sys2Proof.Machine.execCalendarAdvance s
  | .powerOnReset vin => Sys2Proof.Machine.execPowerOnReset vin s
  | .pwrEnHigh ok => Sys2Proof.Machine.execPwrEnHigh ok s
  | .pwrEnLow => Sys2Proof.Machine.execPwrEnLow s
  | .warmReset => Sys2Proof.Machine.execWarmReset s
  | .supplyExcursion vin => Sys2Proof.Machine.execSupplyExcursion vin s
  | .overvoltage vin => Sys2Proof.Machine.execOvervoltage vin s
  | .inputOff vin => Sys2Proof.Machine.execInputOff vin s
  | .powerMeasurement vin iin pin pinAvg => Sys2Proof.Machine.execPowerMeasurement vin iin pin pinAvg s
  | .powerThrottleStep => Sys2Proof.Machine.execPowerThrottleStep s
  | .thermalThrottleStep r temp => Sys2Proof.Machine.execThermalThrottleStep r temp s
  | .thermN unit temp => Sys2Proof.Machine.execThermN unit temp s
  | .thermalTrip unit temp => Sys2Proof.Machine.execThermalTrip unit temp s
  | .coolantHot inlet => Sys2Proof.Machine.execCoolantHot inlet s
  | .trstN => Sys2Proof.Machine.execTrstN s
  | .extest => Sys2Proof.Machine.execExtest s
  | .idcode => Sys2Proof.Machine.execIdcode s
  | .samplePreload => Sys2Proof.Machine.execSamplePreload s
  | .bypass => Sys2Proof.Machine.execBypass s
  | .blockWrite bytes => Sys2Proof.Machine.execBlockWrite bytes s
  | .blockRead => Sys2Proof.Machine.execBlockRead s
  | .traceRingWrite r => Sys2Proof.Machine.execTraceRingWrite r s
  | .hangDetect b n => Sys2Proof.Machine.execHangDetect b n s
  | .graphSample => Sys2Proof.Machine.execGraphSample s
  | .resetNHigh => Sys2Proof.Machine.execResetNHigh s
  | .slewingEnd r => Sys2Proof.Machine.execSlewingEnd r s
  | .referencePresent => Sys2Proof.Machine.execReferencePresent s
  | .uncorrectableCodeword p cut => Sys2Proof.Machine.execUncorrectableCodeword p cut s
  | .drerilCodewordUncorr => Sys2Proof.Machine.execDrerilCodewordUncorr s
  | .linkControlFlitSend => Sys2Proof.Machine.execLinkControlFlitSend s
  | .thermNDeassert unit temp => Sys2Proof.Machine.execThermNDeassert unit temp s

end Sys2Proof.Machine
end

