-- ==== Sys2Proof/Safety.lean ====
section
/-! DEFINITION. What a safe run is, and the well-formed states, in the terms the statements use. -/

namespace Sys2Proof.Safety

open Sys2Proof.Machine

/-- A step that neither stops with a fault nor refuses its command. -/
def runs (o : Host.Outcome State Fault Refusal) : Bool :=
  match o with
  | .next _ => true
  | _ => false

/-- A list of commands that run one after another from a state. -/
def safeRun (s : State) : List Sys2Proof.Instr → Prop
  | [] => True
  | c :: cs => ∃ t, exec c s = .next t ∧ safeRun t cs

/-- The start snapshot of bench b lies at its place in the die's image staging area (R145; log entry 35). -/
def snapOk (b : Nat) (x : Snapshot) : Prop := x.base = snapBase b

/-- Memory is in canonical form: addresses strictly rise and no listed byte is the zero that an unlisted address reads as (log entry 2). Every
start snapshot lies at its bench's place. -/
def canonical (s : State) : Prop := Memory.wf s.mem = true ∧ ∀ e ∈ s.snaps, snapOk e.1 e.2

/-- From s, the state t differs in the register fields of a list at most: memory, queues and every other part are as they were, and
so is every field at another place. -/
def onlyFields (s t : State) (l : List Field) : Prop :=
  t = { s with csr := t.csr } ∧ ∀ f : Field, (∀ g ∈ l, f.key ≠ g.key) → t.get f = s.get f

/-- The fields that every retired instruction of bench b writes (R153, R178). -/
def retireFields (b : Nat) : List Field := [Cmp.pc b, Cmp.instret b]

/-- The field of a general register that takes writes; g0 has none (R153). -/
def grFields (b : Nat) (r : BitVec 5) : List Field := if r = 0 then [] else [Cmp.gr b r.toNat]

/-- An instruction of bench b has retired: from s the program goes on at pc, and INSTRET has counted it. -/
def retired (s t : State) (b pc : Nat) : Prop :=
  t.pc b = pc % 2 ^ 15 ∧ t.get (Cmp.instret b) = (s.get (Cmp.instret b) + 1) % 2 ^ 64

/-- An outcome that writes v to g[rd] and nothing else, and retires: g0 keeps reading zero (R153, R161). -/
def writesReg (s : State) (b : Nat) (rd : BitVec 5) (v : W32) (o : Host.Outcome State Fault Refusal) : Prop :=
  ∃ t, o = .next t ∧ (∀ r, t.g b r = if r = rd ∧ rd ≠ 0 then v else s.g b r) ∧ retired s t b (s.pc b + 4) ∧
    onlyFields s t (grFields b rd ++ retireFields b)

/-- An outcome that writes a 64-bit value to the pair g[rd + 1] : g[rd], and retires (R158, R161). -/
def writesPair (s : State) (b : Nat) (rd : BitVec 5) (v : Nat) (o : Host.Outcome State Fault Refusal) : Prop :=
  ∃ t, o = .next t ∧ t.g b rd = (if rd = 0 then 0 else BitVec.ofNat 32 v) ∧ t.g b (rd + 1) = BitVec.ofNat 32 (v / 2 ^ 32) ∧
    (∀ r, r ≠ rd → r ≠ rd + 1 → t.g b r = s.g b r) ∧ retired s t b (s.pc b + 4) ∧
    onlyFields s t (grFields b rd ++ grFields b (rd + 1) ++ retireFields b)

/-- An outcome that changes no register but the program counter, and retires. -/
def goesTo (s : State) (b pc : Nat) (o : Host.Outcome State Fault Refusal) : Prop :=
  ∃ t, o = .next t ∧ (∀ r, t.g b r = s.g b r) ∧ retired s t b pc ∧ onlyFields s t (retireFields b)

/-- The Compositor of bench b takes an instruction: its bench runs, no instruction of it waits (R155), and the instruction word at the
program counter is readable (R162). -/
def ready (s : State) (b : Nat) : Prop := s.executes b = true ∧ s.readErr (s.fetchAddr b) 4 = none

/-- An outcome that stores bytes at x, changes no other byte and no register but those of a retired instruction. Lines and words that it
covers whole lose their errors (R338, R339), a bench's Compositor sees what is stored (R154), and monitor slots on the word may fire
(R172). -/
def storesAt (s : State) (b x : Nat) (bs : List Byte) (o : Host.Outcome State Fault Refusal) : Prop :=
  ∃ t, o = .next t ∧ (∀ a, t.rd a = if x ≤ a ∧ a < x + bs.length then bs.getD (a - x) 0 else s.rd a) ∧ (∀ r, t.g b r = s.g b r) ∧
    retired s t b (s.pc b + 4) ∧
    (∀ f : Field, (∀ g ∈ retireFields b, f.key ≠ g.key) → (∀ c, f.key ≠ (Cmp.monArmed c).key ∧ f.key ≠ (Cmp.monFired c).key) → t.get f = s.get f) ∧
    (∀ c, (t.comp c).waiting = (s.comp c).waiting ∧ (t.comp c).csrrHi = (s.comp c).csrrHi) ∧
    t = { s with csr := t.csr, mem := t.mem, poison := t.poison, badWords := t.badWords, veils := t.veils, comps := t.comps }

/-! ### Stations -/

/-- The running stream x of a form on station i of bench b may take its next position: the bench runs, the station works, nothing is
recomputed, tokens are left, and no memory slot before its own is open (R49, R127, R131, R141). -/
def works (s : State) (b i kind form : Nat) (x : Stream) : Prop :=
  s.stream b i = some x ∧ b < 40 ∧ i < 10 ∧ kindCode i = kind ∧ x.form = form ∧ s.benchRuns b = true ∧
    s.flag (Stn.recomputing b i) = false ∧ x.crossed = false ∧ s.get (Stn.state b i) = 1 ∧ s.slotWaits b i = false

/-- What the steps of a form do on station i of bench b whose running stream is of that form: work is the form's position (R131, R141).
A position that completes does so where its checks pass, and its memory slots are served; a failed check undoes it; an uncorrectable input
halts the stream. -/
def formDoes (s : State) (b i kind form : Nat) (cmd : Check → Sys2Proof.Instr) (work : State → Stream → Res) : Prop :=
  ∀ x, works s b i kind form x →
    (∀ u, work s x = .ok u → exec (cmd .pass) s = .next (u.slotServed b i) ∧ exec (cmd .mismatch) s = .next (s.checkFail b i) ∧
      ∀ a, exec (cmd (.uncorrectable a)) s = .next (s.stnBroken b i a)) ∧
    (∀ u, work s x = .stop u → exec (cmd .pass) s = .next u) ∧
    (∀ a u, work (s.stnCorrected b i a) x = .ok u → exec (cmd (.corrected a)) s = .next (u.slotServed b i)) ∧
    (work s x = .wait → exec (cmd .pass) s = .next (s.stnWait b i))

/-- Output port p of a stream. -/
def outPort (x : Stream) (p : Nat) : Binding := nth ⟨0, 0, 0⟩ x.outs p

/-- Bytes that station i of bench b may store at a: permitted (R148), and without an error that they would cover in part (R339). -/
def permitted (s : State) (b i a n : Nat) (scale : Bool) : Prop := s.mayWrite b i a n scale = true ∧ s.storeErr a n = none

/-- Bytes that it may store whatever it stores before them: permitted, and outside every signal directory (R246). -/
def storable (s : State) (b i a n : Nat) : Prop :=
  permitted s b i a n false ∧ ∀ k, k < 8 → a + n ≤ dirBase k ∨ dirBase k + 0x80000 ≤ a

/-- Where the bytes of the next token of output port p lie: in the queue's next slot, or at a place of the tensor, the form's own or that of
its next run of elements (R123, R166, R167). -/
def outAddr (s : State) (b : Nat) (x : Stream) (p count : Nat) (addr : Option Int) : Option Nat :=
  let v := outPort x p
  if v.kind = 1 then
    some (s.window b + s.get (Cmp.queueBase b v.id) + (Tab.get s.queues {} (64 * b + v.id)).made % max 1 (s.get (Cmp.queueSlots b v.id)) *
      (32 * s.get (Cmp.queueSlotb b v.id)))
  else (x.descOf b v.id).bind fun d =>
    (match addr with
      | some a => some a
      | none => (x.pieceOf d (8 + p) (nth 0 x.outPos p)).bind fun g => if count ≤ g.elems then some g.addr else none).map (d.deviceAddr b)

/-- Output port p, a queue or a tensor in memory that the station reaches, takes a token: a free slot of its size, or a place that the
station may write (R126, R148, R166). An exact sum goes to a queue. -/
def takesOut (s : State) (b i : Nat) (x : Stream) (p : Nat) (t : Tok) (addr : Option Int) : Prop :=
  s.space b x p = true ∧
    (((outPort x p).kind = 1 ∧ t.fmt = exactFmt) ∨
     ((outPort x p).kind = 1 ∧ t.fmt ≠ exactFmt ∧ t.bytes.length ≤ 32 * s.get (Cmp.queueSlotb b (outPort x p).id) ∧
        ∃ a, outAddr s b x p t.count addr = some a ∧ permitted s b i a t.bytes.length false) ∨
     ((outPort x p).kind = 2 ∧ t.fmt ≠ exactFmt ∧ ∃ d a, x.descOf b (outPort x p).id = some d ∧ d.space ≠ 3 ∧
        outAddr s b x p t.count addr = some a ∧ permitted s b i a t.bytes.length (x.form == 0)))

/-- A position of station i of bench b has passed token t through output port p (R123, R127): TOKENS_OUT has counted it; its bytes stand
where the port takes them, unless records of a stalled trace were written since (R443); the word in a queue has its count and format, an
exact sum also its value. -/
def gives (s : State) (b i : Nat) (x : Stream) (p : Nat) (t : Tok) (addr : Option Int) (o : Host.Outcome State Fault Refusal) : Prop :=
  ∃ u, o = .next u ∧ u.get (Stn.tokensOut b i) = (s.get (Stn.tokensOut b i) + 1) % 2 ^ 64 ∧
    (s.flag Obs.traceStall = false → t.fmt ≠ exactFmt → ∀ a, outAddr s b x p t.count addr = some a → u.rdBytes a t.bytes.length = t.bytes) ∧
    ((outPort x p).kind = 1 → (∀ v ∈ x.ins, v.kind = 1 → v.id ≠ (outPort x p).id) →
      ∃ w, w ∈ (Tab.get u.queues {} (64 * b + (outPort x p).id)).toks ∧ bits w 10 11 = t.count % 2 ^ 11 ∧ bits w 21 5 = t.fmt % 2 ^ 5 ∧
        (t.fmt = exactFmt → w / 2 ^ 96 = leNat t.bytes))

/-- A position of station i of bench b has folded n tokens of its inputs into its stream, whose fold is l then, and TOKENS_IN has counted
them (R127). -/
def folds (s : State) (b i n : Nat) (l : List Nat) (o : Host.Outcome State Fault Refusal) : Prop :=
  ∃ u y, o = .next u ∧ u.stream b i = some y ∧ y.fold = l ∧
    u.get (Stn.tokensIn b i) = (s.get (Stn.tokensIn b i) + n) % 2 ^ 64

/-- n blocks of a bucket do not complete its gradient (R114). -/
def notLast (s : State) (bucket n : Nat) : Prop := ∀ k, s.bucket bucket = some k → (s.bk bucket).gradBlocks + n < k.blocks

/-! ### Host commands -/

/-- A mailbox command as the table of R398 gives it: header, words and opcode; the run states of its Accepted column; whether it needs a
forge or port die (R403) and is long (R397); whether LENGTH, FORM and its reserved bits are right. -/
structure Call where
  hdr      : HostHdr
  words    : List W64
  op       : Nat
  accepted : Accepted
  die      : Bool
  long     : Bool
  shape    : Bool

/-- The mailbox commands of R398; none for every other command. -/
def callOf : Sys2Proof.Instr → Option Call
  | .readCsr h w => some ⟨h, w, 0x08, .any, needsDie (param w 0 % 2 ^ 48) (param w 0 / 2 ^ 48 % 2 ^ 8), false,
      h.form == 0 && w.length == 1 && csrWord (param w 0)⟩
  | .writeCsr h w => some ⟨h, w, 0x09, .any, needsDie (param w 0 % 2 ^ 48) (param w 0 / 2 ^ 48 % 2 ^ 8), false,
      h.form == 0 && w.length == 1 + param w 0 / 2 ^ 48 % 2 ^ 8 && csrWord (param w 0)⟩
  | .loadImage h w => some ⟨h, w, 0x10, if h.form = 2 then .stopped else .any, true, true,
      decide (h.form.toNat ≤ 2) && w.length == 2 && decide (param w 0 < 2 ^ 32 ∧ param w 1 < 2 ^ 32) && (h.form != 2 || param w 0 == 0)⟩
  | .swapBank h w => some ⟨h, w, 0x11, .any, true, false, decide (h.form.toNat ≤ 1) && w.length == 1 && decide (param w 0 < 2 ^ 32)⟩
  | .stop h w => some ⟨h, w, 0x18, .any, h.form == 1, false, decide (h.form.toNat ≤ 1) && w.isEmpty⟩
  | .stopRouting h w => some ⟨h, w, 0x18, .any, h.form == 1, false, decide (h.form.toNat ≤ 1) && w.isEmpty⟩
  | .start h w _ => some ⟨h, w, 0x19, if h.form = 1 then .stoppedOrRouting else .stopped, true, false,
      decide (h.form.toNat ≤ 1) && w.isEmpty⟩
  | .startRouting h w => some ⟨h, w, 0x19, if h.form = 1 then .stoppedOrRouting else .stopped, true, false,
      decide (h.form.toNat ≤ 1) && w.isEmpty⟩
  | .setRoutes h w => some ⟨h, w, 0x20, .stoppedOrRouting, false, true,
      h.form == 0 && w.length == 2 && decide (param w 0 < 8 ∧ param w 1 < 2 ^ 32)⟩
  | .launchAt h w _ => some ⟨h, w, 0x21, .stopped, true, false, h.form == 0 && w.length == 1⟩
  | .abortStep h w => some ⟨h, w, 0x22, .any, true, false, decide (h.form.toNat ≤ 1) && w.length == 1⟩
  | .abortStepCommit h w => some ⟨h, w, 0x22, .any, true, false, decide (h.form.toNat ≤ 1) && w.length == 1⟩
  | .globalStop h w => some ⟨h, w, 0x23, .running, true, false, h.form == 0 && w.length == 1⟩
  | .setPair h w => some ⟨h, w, 0x30, .stopped, true, false, decide (h.form.toNat ≤ 2) && w.length == 1 && decide (param w 0 < 2 ^ 20)⟩
  | .setPairAdopt h w => some ⟨h, w, 0x30, .stopped, true, false, decide (h.form.toNat ≤ 2) && w.length == 1 && decide (param w 0 < 2 ^ 20)⟩
  | .setFailureDomain h w => some ⟨h, w, 0x31, .stopped, false, false, h.form == 0 && w.length == 1⟩
  | .impress h w => some ⟨h, w, 0x40, .any, false, true, (h.form == 1 && w.length == 1) || ((h.form == 0 || h.form == 2) && w.isEmpty)⟩
  | .impressExport h w => some ⟨h, w, 0x40, .any, false, true, (h.form == 1 && w.length == 1) || ((h.form == 0 || h.form == 2) && w.isEmpty)⟩
  | .impressList h w => some ⟨h, w, 0x40, .any, false, true, (h.form == 1 && w.length == 1) || ((h.form == 0 || h.form == 2) && w.isEmpty)⟩
  | .restore h w _ => some ⟨h, w, 0x41, .stopped, true, true, decide (h.form.toNat ≤ 3) && w.length == 1 + h.form.toNat % 2⟩
  | .retireBench h w => some ⟨h, w, 0x48, .any, true, true, h.form == 0 && w.length == 1 && retireWord (param w 0)⟩
  | .retireChannel h w => some ⟨h, w, 0x48, .any, true, true, h.form == 0 && w.length == 1 && retireWord (param w 0)⟩
  | .retireLane h w => some ⟨h, w, 0x48, .any, true, true, h.form == 0 && w.length == 1 && retireWord (param w 0)⟩
  | .margin h w => some ⟨h, w, 0x49, .any, true, false, h.form == 0 && w.length == 1 && decide (param w 0 < 2 ^ 17)⟩
  | .getCounters h w => some ⟨h, w, 0x50, .any, countersDie (param w 0), false, h.form == 0 && w.length == 1 && countersWord (param w 0)⟩
  | .getLog h w => some ⟨h, w, 0x51, .any, false, false,
      h.form == 0 && w.length == 1 && decide (param w 0 < 2 ^ 37) && decide (1 ≤ param w 0 / 2 ^ 32)⟩
  | .clearLog h w => some ⟨h, w, 0x52, .any, false, false, h.form == 0 && w.length == 1 && decide (param w 0 < 2 ^ 32)⟩
  | .setTime h w => some ⟨h, w, 0x58, .stopped, false, false, h.form == 0 && w.length == 1⟩
  | .attest h w => some ⟨h, w, 0x60, .any, false, true, h.form == 0 && w.length == 4⟩
  | .updateFw h w => some ⟨h, w, 0x61, .any, false, true, h.form == 0 && w.length == 1 && decide (param w 0 < 2 ^ 32)⟩
  | .activateFw h w => some ⟨h, w, 0x62, .any, false, false, h.form == 0 && w.length == 1 && decide (param w 0 < 2)⟩
  | _ => none
where
  /-- W0 of RETIRE: KIND 0 to 2, [15:2] reserved, NUMBER in [24:16]. -/
  retireWord (v : Nat) : Bool := decide (v < 2 ^ 25) && decide (v / 4 % 2 ^ 14 = 0) && decide (v % 4 < 3)
  /-- W0 of GET_COUNTERS: COUNT 1 to 128 in [43:36], nothing above. -/
  countersWord (v : Nat) : Bool := decide (v < 2 ^ 44) && decide (1 ≤ v / 2 ^ 36 ∧ v / 2 ^ 36 ≤ 128)
  /-- Sets 0 and 1, and the records of set 3 in LPDDR5X, lie on the dies. -/
  countersDie (v : Nat) : Bool := decide (v % 16 ≤ 1) || (v % 16 == 3 && decide (v / 16 % 2 ^ 32 < 2 ^ 31))

/-- The state in which a mailbox command that has passed checks 1 to 3 works: its flits counted, its mailbox pending (R396, R401). -/
def taken (s : State) (h : HostHdr) (w : List W64) : State := (s.received w).mailboxTake (h.tag.toNat % 32)

/-- Why checks 4 and 5 of R396 refuse a mailbox command, if they do. -/
def refusal (s : State) (m : Call) : Option Nat :=
  if s.recovering m.op then some stNotReady
  else
    match s.allow m.accepted m.die m.long with
    | some st => some st
    | none => if m.shape then none else some stBadParam

/-- A mailbox command whose checks 1 to 5 of R396 pass: its own work decides. -/
def admitted (c : Sys2Proof.Instr) (s : State) : Prop :=
  ∃ m, callOf c = some m ∧ s.alive = true ∧ headerOk m.hdr m.words = true ∧ s.get (Mb.mbState (m.hdr.tag.toNat % 32)) ≠ 1 ∧ refusal s m = none

/-- The outcome of a mailbox command that completes in state t with a status and result words (R393, R401). -/
def completes (t : State) (op : Nat) (h : HostHdr) (status : Nat) (words : List Nat) : Host.Outcome State Fault Refusal :=
  .next (t.complete op h.tag.toNat status 0 words)

/-- A direct command that passes the checks of R396. -/
def directOk (s : State) (h : HostHdr) (w : List W64) (op : Nat) : Prop :=
  s.alive = true ∧ headerOk h w = true ∧ s.recovering op = false

/-- The outcome of a direct command: its reply alone, on the status channel (R393). -/
def replies (t : State) (op : Nat) (h : HostHdr) (status : Nat) (words : List Nat) : Host.Outcome State Fault Refusal :=
  .next (t.reply ⟨op, h.tag.toNat, status, 0, words.map (BitVec.ofNat 64)⟩)

end Sys2Proof.Safety
end

