-- ==== Sys2Proof/Certificates/Slice0/Obligations.lean ====
section
/-! DEFINITION. The statements about the model, for the provers. -/

open Sys2Proof Sys2Proof.Machine Sys2Proof.Safety

/-! ### Compositor -/

/-- The instructions with an immediate (R160, R161) write g[rd] and nothing else. -/
def Obligations.AluImmediateWritesRd : Prop :=
  ∀ (s : State) (b : Nat) (rd ra : BitVec 5) (imm : BitVec 16) (sh : BitVec 5), ready s b →
    writesReg s b rd (s.g b ra + imm.signExtend 32) (exec (.addi b rd ra imm) s) ∧
    writesReg s b rd (s.g b ra &&& imm.zeroExtend 32) (exec (.andi b rd ra imm) s) ∧
    writesReg s b rd (s.g b ra ||| imm.zeroExtend 32) (exec (.ori b rd ra imm) s) ∧
    writesReg s b rd (s.g b ra ^^^ imm.zeroExtend 32) (exec (.xori b rd ra imm) s) ∧
    writesReg s b rd (if (s.g b ra).slt (imm.signExtend 32) then 1 else 0) (exec (.slti b rd ra imm) s) ∧
    writesReg s b rd (if (s.g b ra).ult (imm.signExtend 32) then 1 else 0) (exec (.sltiu b rd ra imm) s) ∧
    writesReg s b rd (imm.zeroExtend 32 <<< 16) (exec (.lui b rd imm) s) ∧
    writesReg s b rd (s.g b ra <<< sh.toNat) (exec (.slli b rd ra sh) s) ∧
    writesReg s b rd (s.g b ra >>> sh.toNat) (exec (.srli b rd ra sh) s) ∧
    writesReg s b rd ((s.g b ra).sshiftRight sh.toNat) (exec (.srai b rd ra sh) s)

/-- The R-format instructions (R153, R161) write g[rd] and nothing else. -/
def Obligations.AluRegisterWritesRd : Prop :=
  ∀ (s : State) (b : Nat) (rd ra rb : BitVec 5), ready s b →
    writesReg s b rd (s.g b ra + s.g b rb) (exec (.add b rd ra rb) s) ∧
    writesReg s b rd (s.g b ra - s.g b rb) (exec (.sub b rd ra rb) s) ∧
    writesReg s b rd (s.g b ra &&& s.g b rb) (exec (.and b rd ra rb) s) ∧
    writesReg s b rd (s.g b ra ||| s.g b rb) (exec (.or b rd ra rb) s) ∧
    writesReg s b rd (s.g b ra ^^^ s.g b rb) (exec (.xor b rd ra rb) s) ∧
    writesReg s b rd (s.g b ra <<< ((s.g b rb).toNat % 32)) (exec (.sll b rd ra rb) s) ∧
    writesReg s b rd (s.g b ra >>> ((s.g b rb).toNat % 32)) (exec (.srl b rd ra rb) s) ∧
    writesReg s b rd ((s.g b ra).sshiftRight ((s.g b rb).toNat % 32)) (exec (.sra b rd ra rb) s) ∧
    writesReg s b rd (if (s.g b ra).slt (s.g b rb) then 1 else 0) (exec (.slt b rd ra rb) s) ∧
    writesReg s b rd (if (s.g b ra).ult (s.g b rb) then 1 else 0) (exec (.sltu b rd ra rb) s) ∧
    writesReg s b rd (s.g b ra * s.g b rb) (exec (.mul b rd ra rb) s) ∧
    writesReg s b rd (BitVec.ofNat 32 ((s.g b ra).toNat * (s.g b rb).toNat / 2 ^ 32)) (exec (.mulhu b rd ra rb) s) ∧
    writesReg s b rd (BitVec.ofInt 32 ((s.g b ra).toInt * (s.g b rb).toInt / 2 ^ 32)) (exec (.mulh b rd ra rb) s)

/-- A branch goes to PC + 4 x sext(OFF) where its registers compare as it names, and on to the next instruction elsewhere; JAL and
JALR save PC + 4 and jump, and a JALR target that is no multiple of 4 is an illegal instruction (R160-R162). -/
def Obligations.BranchesAndJumpsSetThePc : Prop :=
  ∀ (s : State) (b : Nat) (rd ra rb : BitVec 5) (off : BitVec 16) (far : BitVec 26), ready s b →
    let dest (taken : Bool) : Nat := if taken then (((s.pc b : Int) + 4 * off.toInt) % 2 ^ 15).toNat else s.pc b + 4
    goesTo s b (dest (s.g b ra == s.g b rb)) (exec (.beq b ra rb off) s) ∧
    goesTo s b (dest (s.g b ra != s.g b rb)) (exec (.bne b ra rb off) s) ∧
    goesTo s b (dest (decide ((s.g b ra).toInt < (s.g b rb).toInt))) (exec (.blt b ra rb off) s) ∧
    goesTo s b (dest (decide ((s.g b rb).toInt ≤ (s.g b ra).toInt))) (exec (.bge b ra rb off) s) ∧
    goesTo s b (dest (decide ((s.g b ra).toNat < (s.g b rb).toNat))) (exec (.bltu b ra rb off) s) ∧
    goesTo s b (dest (decide ((s.g b rb).toNat ≤ (s.g b ra).toNat))) (exec (.bgeu b ra rb off) s) ∧
    (∃ t, exec (.jal b far) s = .next t ∧ t.g b 31 = BitVec.ofNat 32 (s.pc b + 4) ∧ (∀ r, r ≠ 31 → t.g b r = s.g b r) ∧
      retired s t b (((s.pc b : Int) + 4 * far.toInt) % 2 ^ 15).toNat ∧ onlyFields s t (grFields b 31 ++ retireFields b)) ∧
    ((s.g b ra + off.signExtend 32).toNat % 4 = 0 →
      ∃ t, exec (.jalr b rd ra off) s = .next t ∧
        (∀ r, t.g b r = if r = rd ∧ rd ≠ 0 then BitVec.ofNat 32 (s.pc b + 4) else s.g b r) ∧
        retired s t b (s.g b ra + off.signExtend 32).toNat ∧ onlyFields s t (grFields b rd ++ retireFields b)) ∧
    ((s.g b ra + off.signExtend 32).toNat % 4 ≠ 0 →
      exec (.jalr b rd ra off) s = .next (s.illegal b (encI 0x1F rd ra off.toNat)))

/-- The local address space of R158: data memory, descriptor table, queue table, the bench's window and the shared area of stone; a
misaligned access and any other address fault. -/
def Obligations.LocalAddressesFollowTheTable : Prop :=
  ∀ (s : State) (b a n : Nat), n = 4 ∨ n = 8 →
    (a % n ≠ 0 → s.localAt b a n = .fault) ∧
    (a % n = 0 → a < 0x10000 → s.localAt b a n = .memory (benchBase b + 0x30000 + a)) ∧
    (a % n = 0 → 0x10000 ≤ a → a < 0x20000 → s.localAt b a n = .memory (benchBase b + 0x40000 + (a - 0x10000))) ∧
    (a % n = 0 → 0x20000 ≤ a → a < 0x20200 → s.localAt b a n = .queue ((a - 0x20000) / 8) (a % 8)) ∧
    (0x20200 ≤ a → a < 0x1000000 → s.localAt b a n = .fault) ∧
    (a % n = 0 → 0x1000000 ≤ a → a < 0x1E00000 →
      s.localAt b a n = .memory (stoneBase (b / 5) + s.get (Ben.stoneWin b) + (a - 0x1000000))) ∧
    (0x1E00000 ≤ a → a < 0x2000000 → s.localAt b a n = .fault) ∧
    (a % n = 0 → 0x2000000 ≤ a → a < 0x2A00000 → s.localAt b a n = .shared (stoneBase (b / 5) + 0x5600000 + (a - 0x2000000))) ∧
    (0x2A00000 ≤ a → s.localAt b a n = .fault)

/-- LW and LD put the bytes at g[ra] + s(IMM) into g[rd], or into the pair g[rd + 1] : g[rd] (R158, R161), as the Compositor sees them: what a
running stream stores is hidden until it has waited for it (R154, DEDUCED, log entry 34), and with nothing hidden they are the bytes of
memory. A corrected word is logged and counted; a local access fault, an uncorrectable error and an odd rd of LD, which both keeps its word
as an illegal instruction and is a local access fault (DEDUCED, log entry 23), halt the bench instead (R158, R162). -/
def Obligations.LoadsReadLocalMemory : Prop :=
  ∀ (s : State) (b : Nat) (rd ra : BitVec 5) (imm : BitVec 16) (c : Check), ready s b →
    let a := (s.g b ra + imm.signExtend 32).toNat
    let sound : Prop := c = .pass ∨ c = .mismatch
    (∀ x n, s.veilsOf b = [] → s.seen b x n = s.rdBytes x n) ∧
    (∀ x, s.localAt b a 4 = .memory x ∨ s.localAt b a 4 = .shared x →
      (s.readErr x 4 = none → sound → writesReg s b rd (BitVec.ofNat 32 (leNat (s.seen b x 4))) (exec (.lw b rd ra imm c) s)) ∧
      (s.readErr x 4 = none → ∀ e, exec (.lw b rd ra imm (.corrected e)) s =
        .next ((s.cmpCorrected b x (Cmp.dmemCorr b)).result b rd (BitVec.ofNat 32 (leNat (s.seen b x 4))))) ∧
      (s.readErr x 4 = none → ∀ e, exec (.lw b rd ra imm (.uncorrectable e)) s = .next (s.cmpBroken b x)) ∧
      (∀ e, s.readErr x 4 = some e → exec (.lw b rd ra imm c) s = .next (s.cmpUncorr b e))) ∧
    (∀ q off, s.localAt b a 4 = .queue q off →
      writesReg s b rd (BitVec.ofNat 32 (bits (s.queueWord b q) (8 * off) 32)) (exec (.lw b rd ra imm c) s)) ∧
    (s.localAt b a 4 = .fault → exec (.lw b rd ra imm c) s = .next (s.localFault b a)) ∧
    (rd.toNat % 2 = 1 → exec (.ld b rd ra imm c) s =
      .next ((s.setAll [(Cmp.badWord b, (encI 0x12 rd ra imm.toNat).toNat), (Cmp.badPc b, s.pc b)]).localFault b a)) ∧
    (rd.toNat % 2 = 0 →
      (∀ x, s.localAt b a 8 = .memory x ∨ s.localAt b a 8 = .shared x →
        (s.readErr x 8 = none → sound → writesPair s b rd (leNat (s.seen b x 8)) (exec (.ld b rd ra imm c) s)) ∧
        (s.readErr x 8 = none → ∀ e, exec (.ld b rd ra imm (.corrected e)) s =
          .next (((s.cmpCorrected b x (Cmp.dmemCorr b)).setPair b rd (leNat (s.seen b x 8))).nextPc b)) ∧
        (s.readErr x 8 = none → ∀ e, exec (.ld b rd ra imm (.uncorrectable e)) s = .next (s.cmpBroken b x)) ∧
        (∀ e, s.readErr x 8 = some e → exec (.ld b rd ra imm c) s = .next (s.cmpUncorr b e))) ∧
      (∀ q off, s.localAt b a 8 = .queue q off →
        writesPair s b rd (bits (s.queueWord b q) (8 * off) 64) (exec (.ld b rd ra imm c) s)) ∧
      (s.localAt b a 8 = .fault → exec (.ld b rd ra imm c) s = .next (s.localFault b a)))

/-- SW and SD store g[rd], or the pair g[rd + 1] : g[rd], at g[ra] + s(IMM): those bytes and no other byte of memory (R158, R161). A
store into the shared area reaches a registered signal word only; a store into the queue table waits while a running stream
binds the queue (R158, R166). -/
def Obligations.StoresWriteTheirBytesOnly : Prop :=
  ∀ (s : State) (b : Nat) (rd ra : BitVec 5) (imm : BitVec 16), ready s b →
    let a := (s.g b ra + imm.signExtend 32).toNat
    let low := (s.g b rd).toNat
    (∀ x, s.localAt b a 4 = .memory x → s.storeErr x 4 = none → storesAt s b x (leBytes 4 low) (exec (.sw b rd ra imm) s)) ∧
    (∀ x e, s.localAt b a 4 = .memory x → s.storeErr x 4 = some e → exec (.sw b rd ra imm) s = .next (s.cmpUncorr b e)) ∧
    (∀ x, s.localAt b a 4 = .shared x → s.namesWord b (x / 8 * 8) = false → exec (.sw b rd ra imm) s = .next (s.localFault b a)) ∧
    (∀ x, s.localAt b a 4 = .shared x → s.namesWord b (x / 8 * 8) = true → s.storeErr x 4 = none →
      storesAt s b x (leBytes 4 low) (exec (.sw b rd ra imm) s)) ∧
    (∀ q off, s.localAt b a 4 = .queue q off → s.queueBound b q = true →
      exec (.sw b rd ra imm) s = .next (s.wait b (.storeW rd ra imm) 5 0 0 q 0)) ∧
    (s.localAt b a 4 = .fault → exec (.sw b rd ra imm) s = .next (s.localFault b a)) ∧
    (rd.toNat % 2 = 1 → exec (.sd b rd ra imm) s =
      .next ((s.setAll [(Cmp.badWord b, (encI 0x13 rd ra imm.toNat).toNat), (Cmp.badPc b, s.pc b)]).localFault b a)) ∧
    (rd.toNat % 2 = 0 →
      (∀ x, s.localAt b a 8 = .shared x → s.namesWord b x = true → s.storeErr x 8 = none →
        storesAt s b x (leBytes 8 (s.gPair b rd)) (exec (.sd b rd ra imm) s)) ∧
      (∀ x, s.localAt b a 8 = .memory x → s.storeErr x 8 = none → storesAt s b x (leBytes 8 (s.gPair b rd)) (exec (.sd b rd ra imm) s)) ∧
      (∀ q off, s.localAt b a 8 = .queue q off → s.queueBound b q = false →
        ∃ t, exec (.sd b rd ra imm) s = .next t ∧ t.get (Cmp.queueBase b q) = s.gPair b rd % 2 ^ 24 ∧
          t.get (Cmp.queueSlots b q) = s.gPair b rd / 2 ^ 24 % 2 ^ 9 ∧ t.get (Cmp.queueSlotb b q) = s.gPair b rd / 2 ^ 33 % 2 ^ 8 ∧
          retired s t b (s.pc b + 4) ∧
          onlyFields s t ([Cmp.queueBase b q, Cmp.queueSlots b q, Cmp.queueSlotb b q] ++ retireFields b)) ∧
      (s.localAt b a 8 = .fault → exec (.sd b rd ra imm) s = .next (s.localFault b a)))

/-- FENCE goes on; BNDRY goes on, or swaps the banks that are pending and continues at its target; FEATQ and CSRR read one half of a
copied feature register and a status word; END stops its bench once its stations are idle (R161, R174, R175, R177). -/
def Obligations.BoundaryAndStatusInstructions : Prop :=
  ∀ (s : State) (b : Nat) (rd : BitVec 5) (target : BitVec 13) (half : BitVec 4) (sel : BitVec 5), ready s b → b < 40 →
    goesTo s b (s.pc b + 4) (exec (.fence b) s) ∧
    (s.flag (Cmp.swapPending b) = false → goesTo s b (s.pc b + 4) (exec (.bndry b target) s)) ∧
    (s.flag (Cmp.swapPending b) = true →
      ∃ t, exec (.bndry b target) s = .next t ∧ t.get (Cmp.activeBank b) = (1 - s.get (Cmp.activeBank b)) % 2 ∧
        t.get (Cmp.swapPending b) = 0 ∧ t.get (Cmp.shadowValid b) = 0 ∧ retired s t b (4 * target.toNat) ∧
        onlyFields s t ([Cmp.activeBank b, Cmp.swapPending b, Cmp.shadowValid b] ++ retireFields b)) ∧
    writesReg s b rd (BitVec.ofNat 32 (s.get (Cmp.feat b (half.toNat / 2)) / 2 ^ (32 * (half.toNat % 2)))) (exec (.featq b rd half) s) ∧
    (∀ v, sel ≠ 0 → s.statusWord b sel.toNat = some v → writesReg s b rd (BitVec.ofNat 32 v) (exec (.csrr b rd sel) s)) ∧
    (∃ t, exec (.csrr b rd 0) s = .next t ∧ (rd ≠ 0 → t.g b rd = BitVec.ofNat 32 s.now) ∧ (t.comp b).csrrHi = bits s.now 32 32) ∧
    (12 < sel.toNat → exec (.csrr b rd sel) s = .next (s.illegal b (encI 0x31 rd 0 sel.toNat))) ∧
    (s.allIdle b = true →
      ∃ t, exec (.endB b) s = .next t ∧ t.get (Ben.state b) = 0 ∧ t.get (Rgn.state b) = 1 ∧ t.get (Stn.state b 15) = 0 ∧
        t.get (Cmp.swapPending b) = 0) ∧
    (s.allIdle b = false → exec (.endB b) s = .next (s.wait b .endW 6 (s.busyStation b) 0 0 0))

/-- SIGRD, SIGADD, SIGWAIT and SIGMON on a registered, readable word: a read of its 64 bits, the add of R246, a wait until it has come
to its threshold, an armed monitor slot. MWAIT waits until the named slots have fired and disarms them (R161, R172). -/
def Obligations.SignalInstructions : Prop :=
  ∀ (s : State) (b : Nat) (rd ra : BitVec 5) (slot : BitVec 3) (hd : BitVec 10) (mask : BitVec 8), ready s b →
    (∀ a e, s.sigRef b ra hd = .word a e →
      (rd.toNat % 2 = 0 → writesPair s b rd (s.rdNat a 8) (exec (.sigrd b rd ra hd) s)) ∧
      (∀ t, s.sigAdd a (s.g b rd).toNat ⟨s.get Fab.deviceId, s.logical b⟩ = .added t →
        exec (.sigadd b rd ra hd) s = .next (t.nextPc b)) ∧
      (∀ t, s.sigAdd a (s.g b rd).toNat ⟨s.get Fab.deviceId, s.logical b⟩ = .overflow t →
        exec (.sigadd b rd ra hd) s = .next (t.nextPc b)) ∧
      (rd.toNat % 2 = 0 → s.gPair b rd ≤ s.rdNat a 8 →
        exec (.sigwait b rd ra hd) s = .next (((s.unveilSig b a).syncWaiter b a).nextPc b)) ∧
      (rd.toNat % 2 = 0 → s.rdNat a 8 < s.gPair b rd →
        exec (.sigwait b rd ra hd) s =
          .next ((s.wait b (.sigwait rd ra hd) 3 0 hd.toNat (s.g b ra).toNat 0).syncWaiter b a)) ∧
      (rd.toNat % 2 = 0 →
        ∃ t, exec (.sigmon b rd ra slot hd) s = .next t ∧
          Tab.find (t.comp b).mons slot.toNat =
            some ⟨a, hd.toNat, (s.g b ra).toNat, s.gPair b rd, true, decide (s.gPair b rd ≤ s.rdNat a 8)⟩ ∧
          retired s t b (s.pc b + 4))) ∧
    (∀ t, s.sigRef b ra hd = .fault t →
      exec (.sigadd b rd ra hd) s = .next t ∧ (rd.toNat % 2 = 0 →
        exec (.sigrd b rd ra hd) s = .next t ∧ exec (.sigwait b rd ra hd) s = .next t ∧ exec (.sigmon b rd ra slot hd) s = .next t)) ∧
    (rd.toNat % 2 = 1 →
      exec (.sigrd b rd ra hd) s = .next (s.illegal b (encI 0x24 rd ra hd.toNat)) ∧
      exec (.sigwait b rd ra hd) s = .next (s.illegal b (encI 0x26 rd ra hd.toNat)) ∧
      exec (.sigmon b rd ra slot hd) s = .next (s.illegal b (encI 0x27 rd ra (slot.toNat * 1024 + hd.toNat)))) ∧
    ((∀ e ∈ ((s.refreshMons b).comp b).mons, e.2.armed = true → bitAt mask.toNat e.1 = true → e.2.fired = true) →
      ∃ t, exec (.mwait b mask) s = .next t ∧ (∀ e ∈ (t.comp b).mons, e.2.armed = true → bitAt mask.toNat e.1 = false)) ∧
    ((∃ e ∈ ((s.refreshMons b).comp b).mons, e.2.armed = true ∧ bitAt mask.toNat e.1 = true ∧ e.2.fired = false) →
      exec (.mwait b mask) s = .next ((s.refreshMons b).wait b (.mwait mask) 4 0 0 0 mask.toNat))

/-- A signal add within the target adds to the word, records the signaller and the count, and stores nowhere else; one beyond it
leaves the word, sets FAULT and logs COUNT_OVERFLOW (R246, R247). -/
def Obligations.SignalAddsStayWithinTheTarget : Prop :=
  ∀ (s : State) (a inc e : Nat) (who : Signaller), s.dirFind a = some e → s.readErr a 8 = none → (a + 8 ≤ e ∨ e + 64 ≤ a) →
    (s.rdNat a 8 + inc ≤ s.sigTarget e (s.step + s.sigLead e) →
      ∃ t, s.sigAdd a inc who = .added t ∧ t.rdNat a 8 = s.rdNat a 8 + inc ∧
        t.rdNat (e + 32) 4 = who.dev % 2 ^ 20 + who.bench % 64 * 2 ^ 20 ∧
        (∀ x, ¬ (a ≤ x ∧ x < a + 8) → ¬ (e + 32 ≤ x ∧ x < e + 36) → ¬ (e + 40 ≤ x ∧ x < e + 48) → ¬ (e + 52 ≤ x ∧ x < e + 56) →
          t.rd x = s.rd x)) ∧
    (s.sigTarget e (s.step + s.sigLead e) < s.rdNat a 8 + inc →
      ∃ t, s.sigAdd a inc who = .overflow t ∧ t.rdNat a 8 = s.rdNat a 8 ∧ bitAt (t.rdNat (e + 6) 1) 2 = true ∧
        t.get Coll.countEvt = 1 ∧ t.get Coll.cntAddr = a % 2 ^ 48 ∧
        (∃ n x, Tab.find t.log n = some x ∧ x.cls = clCountOver ∧ x.address = a % 2 ^ 48))

/-- BCNT counts the bytes 0x01 to 0xFE and 0xFF of a tensor in memory or stone into g[rd] and g[rd + 1] (R161, R164); an illegal
instruction keeps its word and address, logs ACCESS_VIOLATION and halts its bench (R130, R162). -/
def Obligations.ByteCountsAndIllegalInstructions : Prop :=
  ∀ (s : State) (b : Nat) (rd ra : BitVec 5) (hd : BitVec 10) (word : W32) (d : Desc), ready s b → b < 40 →
    (rd.toNat % 2 = 0 → s.readErr (descAddr b hd.toNat) 64 = none → s.desc b hd.toNat = some d → d.space ≤ 1 → d.base % 32 = 0 → 0 < (s.g b ra).toNat →
      (s.g b ra).toNat ≤ d.size → s.ramOk d.base (s.g b ra).toNat = true → s.readErr d.base (s.g b ra).toNat = none →
      ∃ t, exec (.bcnt b rd ra hd) s = .next t ∧
        (rd ≠ 0 → t.g b rd = BitVec.ofNat 32 ((s.rdBytes d.base (s.g b ra).toNat).countP fun x => x != 0 && x != 0xFF)) ∧
        t.g b (rd + 1) = BitVec.ofNat 32 ((s.rdBytes d.base (s.g b ra).toNat).countP (· == 0xFF)) ∧
        retired s t b (s.pc b + 4) ∧ onlyFields s t (grFields b rd ++ grFields b (rd + 1) ++ retireFields b)) ∧
    (∀ e, exec (.illegalInstruction b word (.uncorrectable e)) s = .next (s.cmpBroken b (s.fetchAddr b))) ∧
    (legalWord word.toNat = true → exec (.illegalInstruction b word .pass) s = .next s) ∧
    (∀ e, legalWord word.toNat = false → exec (.illegalInstruction b word (.corrected e)) s =
      .next ((s.cmpCorrected b (s.fetchAddr b) (Cmp.imemCorr b)).illegal b word)) ∧
    (∀ c, legalWord word.toNat = false → c = .pass ∨ c = .mismatch →
      ∃ t, exec (.illegalInstruction b word c) s = .next t ∧ t.get (Cmp.badWord b) = word.toNat ∧ t.get (Cmp.badPc b) = s.pc b % 2 ^ 15 ∧
        t.get (Ben.state b) = 2 ∧ t.get (Stn.state b 15) = 3 ∧
        ∃ n x, Tab.find t.log n = some x ∧ x.cls = clAccess ∧ x.unit = b)

/-- STRM launches the stream of a sound record on an idle station; SWAIT goes on when the named stations are idle, whose stores are seen then
(R154), and waits otherwise; a wait whose condition has come about ends (R155, R161, R169). -/
def Obligations.StreamLaunchAndWaits : Prop :=
  ∀ (s : State) (b : Nat) (ra : BitVec 5) (imm : BitVec 16) (sel : BitVec 5), b < 40 →
    let a := (s.g b ra + imm.signExtend 32).toNat
    let w := s.rdNat (dmemAddr b a) 128
    let x := s.launchOf b a w
    let r := if x.stn = 2 then s.tmpBoundary b else s
    (ready s b → a % 128 = 0 → a + 128 ≤ 0x10000 → s.readErr (dmemAddr b a) 128 = none → s.strmErr b w = none →
      firstBad (s.recChecks b a w) = none → x.stn < 10 → s.get (Stn.state b x.stn) = 0 → s.stream b x.stn = none →
      s.sideHeld b x = false → r.overlaps b (r.launchOf b a w) (r.matrixRange b) = none → firstBad (r.stationChecks b (r.launchOf b a w)) = none →
      (r.recColls b w).all (fun c => (r.benchTurn b c).1) = true →
      ∃ t, exec (.strm b ra imm) s = .next t ∧ t.get (Stn.state b x.stn) = 1 ∧ (t.stream b x.stn).isSome = true ∧
        t.pc b = (s.pc b + 4) % 2 ^ 15) ∧
    (ready s b → a % 128 ≠ 0 ∨ 0x10000 < a + 128 → exec (.strm b ra imm) s = .next (s.localFault b a)) ∧
    (ready s b → (sel.toNat ≤ 9 ∧ s.get (Stn.state b sel.toNat) = 0) ∨ (sel.toNat = 16 ∧ s.allIdle b = true) →
      ∃ t, exec (.swait b sel) s = .next t ∧ (∀ r, t.g b r = s.g b r) ∧ retired s t b (s.pc b + 4) ∧
        t = { s with csr := t.csr, veils := t.veils } ∧ (∀ f : Field, (∀ g ∈ retireFields b, f.key ≠ g.key) → t.get f = s.get f) ∧
        ∀ i, i < 10 → sel.toNat = i ∨ sel.toNat = 16 → Tab.get t.veils [] (16 * b + i) = []) ∧
    (ready s b → sel.toNat ≤ 9 → s.get (Stn.state b sel.toNat) ≠ 0 →
      exec (.swait b sel) s = .next (s.wait b (.swait sel) 2 sel.toNat 0 0 0)) ∧
    (ready s b → 9 < sel.toNat → sel.toNat ≠ 16 →
      exec (.swait b sel) s = .next (s.illegal b (encI 0x21 0 0 sel.toNat))) ∧
    (s.benchRuns b = true → (s.comp b).waiting = some (.swait sel) → sel.toNat ≤ 9 → s.get (Stn.state b sel.toNat) = 0 →
      ∃ t, exec (.waitEnds (.compositor b)) s = .next t ∧ (t.comp b).waiting = none ∧ t.get (Cmp.waitKind b) = 0 ∧
        retired s t b (s.pc b + 4)) ∧
    (∀ i y, s.benchRuns b = true → s.stream b i = some y → s.get (Stn.state b i) = 2 → s.stationWork b i y.form y ≠ .wait →
      exec (.waitEnds (.station b i)) s = .next (s.stnGo b i))

/-! ### Stations -/

/-- Every stream form of every station (R78-R86, R98-R117, R132-R139, R206-R222): a step that finds its tokens and its space completes a
position of the stream, one whose check fails is undone, one with an uncorrectable input halts the stream, and one without its tokens waits.
The positions of Forme, Hardy, Galley, Platen and Proof complete as follows, in a queue or in a tensor that the station reaches (R135-R139): a
row or an index is moved, a token is folded, or the next token of the result is written. Which elements a mask stream writes, and what
Platen's exact sums hold, are the model's reading (log entry 14). -/
def Obligations.StationFormsWork : Prop :=
  ∀ (s : State) (b i : Nat) (x : Stream),
    let out := nth 0 x.outPos 0
    let outs := (outPort x 0).count
    (formDoes s b i 1 0 (.scale b i) (fun t x => t.scaleWork b i x) ∧ formDoes s b i 1 1 (.sum b i) (fun t x => t.sumWork b i 1 x) ∧
      formDoes s b i 1 2 (.sumsp b i) (fun t x => t.sumWork b i 2 x) ∧ formDoes s b i 1 3 (.norm b i) (fun t x => t.normWork b i x) ∧
      formDoes s b i 1 4 (.rowsum b i) (fun t x => t.lineSumWork b i false x) ∧
      formDoes s b i 1 5 (.colsum b i) (fun t x => t.lineSumWork b i true x) ∧
      formDoes s b i 1 6 (.max b i) (fun t x => t.maxWork b i true x) ∧ formDoes s b i 1 7 (.min b i) (fun t x => t.maxWork b i false x) ∧
      formDoes s b 2 2 0 (.update b) (fun t x => t.temperWork b false x) ∧
      formDoes s b 2 2 1 (.replay b) (fun t x => t.temperWork b true x) ∧
      formDoes s b i 3 0 (.convert b i) (fun t x => t.convertWork b i x) ∧
      formDoes s b i 3 1 (.finish b i) (fun t x => t.finishWork b i x) ∧
      formDoes s b i 3 2 (.zfill b i) (fun t x => t.zfillWork b i x) ∧
      formDoes s b 5 4 0 (.gather b) (fun t x => t.gatherWork b 5 x) ∧ formDoes s b 5 4 1 (.scatter b) (fun t x => t.scatterWork b 5 x) ∧
      formDoes s b 5 4 2 (.permute b) (fun t x => t.permuteWork b 5 x) ∧
      formDoes s b 5 4 3 (.strided b) (fun t x => t.stridedWork b 5 x) ∧
      formDoes s b 6 5 0 (.select b) (fun t x => t.selectWork b 6 x) ∧ formDoes s b 6 5 1 (.topk b) (fun t x => t.topkWork b 6 x) ∧
      formDoes s b 7 6 0 (.sort b) (fun t x => t.galleyWork b 7 0 x) ∧ formDoes s b 7 6 1 (.merge b) (fun t x => t.galleyWork b 7 1 x) ∧
      formDoes s b 8 7 0 (.matvec b) (fun t x => t.matvecWork b 8 x) ∧ formDoes s b 8 7 1 (.outer b) (fun t x => t.outerWork b 8 x) ∧
      formDoes s b 9 8 0 (.digestPkt b) (fun t x => t.proofWork b 9 0 x) ∧
      formDoes s b 9 8 1 (.digestTile b) (fun t x => t.proofWork b 9 1 x)) ∧
    -- GATHER and PERMUTE: the rows that the next indices name, packed (R135).
    (∀ d ts row, works s b 5 4 0 x → x.descOf b x.p0 = some d → 0 < d.rowLen → d.rowLen ≤ s.formeSlot b x → out < outs →
      let per := s.formeSlot b x / d.rowLen
      let off := nth 0 x.fold 0
      let all := (ts.map tokIdx).flatten
      s.collectUntil b 5 x (fun t => t.fmt == 12) (·.count) 0 ((out + 1) * per - off) ((nth ⟨0, 0, 0⟩ x.ins 0).count - nth 0 x.inPos 0)
        (nth 0 x.inPos 0) [] = .toks ts →
      out * per < off + (ts.map (·.count)).sum → off + (ts.map (·.count)).sum ≤ maxIndices →
      s.readRows b 5 d ((all.drop (out * per - off)).take per) [] 0 = .toks [row] →
      let place := (x.portDesc b (outPort x 0)).map fun e => e.base + (nth 0 x.outBytes 0 : Nat)
      takesOut s b 5 x 0 row place → gives s b 5 x 0 row place (exec (.gather b .pass) s)) ∧
    (∀ d t row, works s b 5 4 2 x → x.descOf b x.p0 = some d → x.descOf b x.p1 = some t → 0 < d.rowLen → d.rowLen ≤ s.formeSlot b x →
      out < outs →
      let per := s.formeSlot b x / d.rowLen
      let places := (List.range (min per (t.size - out * per))).map fun q =>
        let e := t.elemPlace (out * per + q); t.deviceAddr b (e.1 + (4 * e.2 : Nat))
      (∀ a ∈ places, s.mayRead b t a 4 = true ∧ s.readErr a 4 = none) →
      s.readRows b 5 d (places.map fun a => s.rdNat a 4) [] 0 = .toks [row] →
      let place := (x.portDesc b (outPort x 0)).map fun e => e.base + (nth 0 x.outBytes 0 : Nat)
      takesOut s b 5 x 0 row place → gives s b 5 x 0 row place (exec (.permute b .pass) s)) ∧
    -- STRIDED: the next tile of the source. SCATTER: the row of the next index is written in its place (R135).
    (∀ d t, works s b 5 4 3 x → x.descOf b x.p0 = some d → out < outs → s.peekTensor b 5 15 out { x with loop := none } d = .tok t →
      takesOut s b 5 x 0 t none → gives s b 5 x 0 t none (exec (.strided b .pass) s)) ∧
    (∀ d t rs, works s b 5 4 1 x → x.descOf b x.p0 = some d → nth 0 x.inPos 0 < (nth ⟨0, 0, 0⟩ x.ins 0).count →
      s.peek b 5 0 (nth 0 x.inPos 0) x = .tok t → t.fmt = 12 → t.count ≠ 0 →
      let k := nth skipIdx (tokIdx t) (nth 0 x.fold 0)
      let used := nth 0 x.fold 1
      (k = skipIdx → ∃ u, exec (.scatter b .pass) s = .next u ∧ u.get (Stn.fmSkips b 5) = (s.get (Stn.fmSkips b 5) + 1) % 2 ^ 64 ∧ u.mem = s.mem) ∧
      (k < d.rows → k ≠ skipIdx →
        s.collectUntil b 5 x (fun _ => true) (·.bytes.length) 1 (used + d.rowLen) ((nth ⟨0, 0, 0⟩ x.ins 1).count - nth 0 x.inPos 1)
          (nth 0 x.inPos 1) [] = .toks rs →
        let row := ((rs.map (·.bytes)).flatten.drop used).take d.rowLen
        let a := d.deviceAddr b (d.base + d.rowOff k)
        row.length = d.rowLen → permitted s b 5 a d.rowLen false →
        ∃ u, exec (.scatter b .pass) s = .next u ∧ u.rdBytes a d.rowLen = row ∧ ∀ y, ¬ (a ≤ y ∧ y < a + d.rowLen) → u.rd y = s.rd y)) ∧
    -- SELECT: a mask token of its inputs' next tokens, or their hits kept for the list; TOPK: the best of what it has seen. The list follows (R136).
    (∀ ts, works s b 6 5 0 x → x.hasInput = true → s.nextKeys b 6 x = .toks ts →
      let t := nth noTok ts 0
      let sel := selectBits x (tokCodes [t]) (tokCodes (ts.drop 1))
      constFits x t.fmt = true → (x.ins.length = 2 → (nth noTok ts 1).count = t.count) →
      (s.masks b x = true →
        let m := (sel.zip (List.range sel.length)).map fun e => if e.1 then 2 ^ e.2 else 0
        let tok : Tok := { fmt := 9, count := ceilDiv t.count 8, bytes := leBytes (ceilDiv t.count 8) m.sum }
        takesOut s b 6 x 0 tok none → gives s b 6 x 0 tok none (exec (.select b .pass) s)) ∧
      (s.masks b x = false →
        let e := nth 0 x.fold 0
        folds s b 6 x.ins.length ([e + t.count, nth 0 x.fold 1 + (trueAt sel).length] ++
          ((x.fold.drop 2) ++ (trueAt sel).map fun j => keptOf (e + j) (0, 0)).take x.p0) (exec (.select b .pass) s))) ∧
    (works s b 6 5 0 x → x.hasInput = false → s.masks b x = false → out < outs →
      let tok := listTok (keptIndices (x.fold.drop 2)) x.p0 out
      takesOut s b 6 x 0 tok none → gives s b 6 x 0 tok none (exec (.select b .pass) s)) ∧
    (∀ ts, works s b 6 5 1 x → x.hasInput = true → s.nextKeys b 6 x = .toks ts →
      let t := nth noTok ts 0
      let e := nth 0 x.fold 0
      let kept := topKept x.desc x.p0 (x.fold.drop 2 ++ keptToks e t)
      e + t.count ≤ maxIndices → folds s b 6 x.ins.length ([e + t.count, kept.length] ++ kept) (exec (.topk b .pass) s)) ∧
    (works s b 6 5 1 x → x.hasInput = false → out < outs →
      let tok := listTok (keptIndices (x.fold.drop 2)) x.p0 out
      takesOut s b 6 x 0 tok none → gives s b 6 x 0 tok none (exec (.topk b .pass) s)) ∧
    -- SORT and MERGE: the next tile of the sorted keys, or of their payloads (R137).
    (∀ p form runs f, form < 2 → works s b 7 6 form x → x.nextOut = some p → s.galleyRuns b 7 x (payBytes x != 0) x.keyPorts [] 0 = (none, runs, f) →
      (form = 1 → ∀ r ∈ runs, unsortedAt x.desc r = none) → (form = 0 → (runs.map List.length).sum ≤ 1048576) →
      (∀ q, q < x.outs.length → (outPort x q).count = galleyCount x f (runs.map List.length).sum q) →
      let l := runs.flatten.mergeSort (keyedLe x.desc)
      let tok := if p = 0 then keyTok l (nth 0 x.outPos p) else payTok f l (nth 0 x.outPos p)
      takesOut s b 7 x p tok none →
      gives s b 7 x p tok none (exec (if form = 0 then .sort b .pass else .merge b .pass) s)) ∧
    -- MATVEC: the dot product of the next row with the whole vector; OUTER: products of an element with a tile (R138).
    (∀ d ts, works s b 8 7 0 x → x.descOf b x.p0 = some d → out < outs → s.collectAll b 8 x (fun t => isPlatenFmt t.fmt) 0 = .toks ts →
      let v := (ts.map fun t => tileVals t.fmt t.count t.bytes).flatten
      let a := d.deviceAddr b (d.base + d.rowOff out)
      let r := (dotVals (s.matrixRow b d out) v).1
      let sum := if isIntFmt (nth noTok ts 0).fmt && isIntFmt d.fmt then (satInt32 r).1 else r
      let tok : Tok := { fmt := exactFmt, count := 1, bytes := exactBytes (exactOf sum) }
      v.length = d.row → s.mayRead b d a d.rowLen = true → s.readErr a d.rowLen = none →
      takesOut s b 8 x 0 tok none → gives s b 8 x 0 tok none (exec (.matvec b .pass) s)) ∧
    (∀ ts us, works s b 8 7 1 x → out < outs → s.collectAll b 8 x (fun t => isPlatenFmt t.fmt) 0 = .toks ts →
      s.collectAll b 8 x (fun t => isPlatenFmt t.fmt) 1 = .toks us →
      let r := (ts.map fun t => tileVals t.fmt t.count t.bytes).flatten
      let c := (us.map fun t => tileVals t.fmt t.count t.bytes).flatten
      let tiles := ceilDiv c.length 1024
      let ps := ((c.drop (1024 * (out % tiles))).take 1024).map fun v => (Val.mul (nth (.fin false 0 0) r (out / tiles)) v).1
      let tok : Tok := { fmt := exactFmt, count := ps.length, bytes := (ps.map fun v => exactBytes (exactOf v)).flatten }
      outs = r.length * tiles → r.length ≤ 65536 → c.length ≤ 4096 →
      takesOut s b 8 x 0 tok none → gives s b 8 x 0 tok none (exec (.outer b .pass) s)) ∧
    -- DIGEST: an item is added to the digest; the last one is followed by the digest itself (R139).
    (∀ form t, form < 2 → works s b 9 8 form x → s.peek b 9 0 (nth 0 x.inPos 0) x = .tok t → t.piece = 0 →
      let cmd : Instr := if form = 0 then .digestPkt b .pass else .digestTile b .pass
      let item := if form = 0 then t.bytes else tileLabel x t.fmt (nth 0 x.inPos 0) ++ t.bytes
      let n := (s.get (Stn.prfDigestLo b 9) + s.get (Stn.prfDigestHi b 9) * 2 ^ 64 + itemDigest item) % 2 ^ 128
      let place := (x.portDesc b (outPort x 0)).map (·.base)
      let tok : Tok := { fmt := 9, count := 16, bytes := leBytes 16 n }
      (nth 0 x.inPos 0 + 1 < (nth ⟨0, 0, 0⟩ x.ins 0).count →
        ∃ u, exec cmd s = .next u ∧ u.get (Stn.prfDigestLo b 9) = n % 2 ^ 64 ∧ u.get (Stn.prfDigestHi b 9) = n / 2 ^ 64 ∧
          u.get (Stn.prfItems b 9) = (s.get (Stn.prfItems b 9) + 1) % 2 ^ 64 ∧ u.mem = s.mem) ∧
      ((nth ⟨0, 0, 0⟩ x.ins 0).count ≤ nth 0 x.inPos 0 + 1 → takesOut s b 9 x 0 tok place → gives s b 9 x 0 tok place (exec cmd s)))

/-- The positions of Anvil, Temper and Quench complete, in a queue or in a tensor that the station reaches: scale parts are joined, the
records of a block are added on its grid, squares are folded and their sum written, elements are compared (R98-R117, R478); a state tile is
updated in its rows (R206-R222); a tile or a block is converted, and the zero blocks of a range are written (R80, R111-R113). The layout of
exact sums is the model's reading (log entry 14). -/
def Obligations.ReductionFormsComplete : Prop :=
  ∀ (s : State) (b i : Nat) (x : Stream),
    let out := nth 0 x.outPos 0
    let hdr (t : Tok) : RedHdr := RedHdr.ofBytes t.bytes
    -- SCALE: the parts of the same blocks from every input joined (R98-R100).
    (∀ t ts, works s b i 1 0 x → (outPort x 0).kind ≠ 2 → s.collectScale b i x (List.range x.ins.length) [] = .toks (t :: ts) →
      (∀ u ∈ t :: ts, u.bad = false ∧ scaleSound u.bytes = true ∧ (hdr u).bucket = x.p1 ∧ (hdr u).first = (hdr t).first ∧
        (hdr u).blocks = (hdr t).blocks) →
      let ps := joinScale (t :: ts)
      let tok : Tok := { fmt := 0x10, count := ps.length, bytes := scalePayload x.p1 (hdr t).first (((t :: ts).map fun u => (hdr u).contrib).sum) ps }
      takesOut s b i x 0 tok none → gives s b i x 0 tok none (exec (.scale b i .pass) s)) ∧
    -- SUM (lane 1) and SUMSP (lane 2): the records of the next block of the lane added (R101, R106-R110, R132).
    (∀ lane d blk ts, lane = 1 ∨ lane = 2 → works s b i 1 lane x → x.descOf b x.p3 = some d →
      let base := d.deviceAddr b d.base
      s.globComplete base d.size = true → s.globErr base d.size = none → s.laneBlock base d.size lane x.p2 out = some blk →
      s.collectRec b i x lane blk (fun f => if lane = 2 then f == 0 || f == 15 else isMaxFmt f || isGrid f) (List.range x.ins.length) [] = .toks ts →
      (∀ t ∈ ts, s.misplaced base d.size lane x.p1 blk t = false) →
      let p := (s.sumTokens b i lane blk (s.globByte base blk) (if lane = 2 then s.globF base d.size blk else 0) ts).2
      let fmt := if x.p0 % 32 = 0 then 15 else x.p0 % 32
      let place := (x.portDesc b (outPort x 0)).map fun d => recordAddr d blk lane fmt
      let tok := recordTok { phase := lane, fmt := fmt, bucket := x.p1, first := blk, contrib := p.contrib } (p.record lane fmt) 0
      0 < p.contrib → p.contrib ≤ contribLimit lane fmt → takesOut s b i x 0 tok place →
      gives s b i x 0 tok place (exec (if lane = 1 then .sum b i .pass else .sumsp b i .pass) s)) ∧
    -- NORM: a token's squares folded, then the one sum written (R116).
    (∀ p t n, works s b i 1 3 x → x.openPort = some p → s.peekNext b i p x = .tok t → takesRecord isGrid t = true → normToken t = some n →
      folds s b i 1 [normAdd (nth 0 x.fold 0) n] (exec (.norm b i .pass) s)) ∧
    (works s b i 1 3 x → x.openPort = none →
      let n := nth 0 x.fold 0
      let record := recordTok { phase := 3, fmt := 15, bucket := x.p1, first := x.p2, contrib := 1 } (leBytes 104 n) 0
      let exact : Tok := { fmt := exactFmt, count := 1, bytes := exactBytes n }
      let place := (x.portDesc b (outPort x 0)).map fun d => recordAddr d x.p2 3 15
      (x.p0 % 32 = 0 → takesOut s b i x 0 exact none → gives s b i x 0 exact none (exec (.norm b i .pass) s)) ∧
      (x.p0 % 32 ≠ 0 → takesOut s b i x 0 record place → gives s b i x 0 record place (exec (.norm b i .pass) s))) ∧
    -- ROWSUM and COLSUM: a tile's squares folded into the sums of its rows or columns, then the sums written (R116).
    (∀ (col : Bool) (p : Nat) (t : Tok) (vs : List Val), works s b i 1 (if col then 5 else 4) x →
      let cmd : Instr := if col then .colsum b i .pass else .rowsum b i .pass
      let tok : Tok := { fmt := exactFmt, count := 1, bytes := exactBytes (nth 0 (x.fold.drop 1) out) }
      (x.openPort = some p → s.peek b i p (nth 0 x.inPos p) x = .tok t → t.piece = 0 → isMaxFmt t.fmt = true ∨ isGrid t.fmt = true →
        (if isGrid t.fmt then recordElems t else some (tokVals t)) = some vs → folds s b i 1 (foldSums col x.p0 x.fold vs) (exec cmd s)) ∧
      (x.openPort = none → takesOut s b i x 0 tok none → gives s b i x 0 tok none (exec cmd s))) ∧
    -- MAX and MIN of tiles of equal counts, element by element (R89, R478).
    (∀ (most : Bool) (t : Tok) (ts : List Tok), works s b i 1 (if most then 6 else 7) x → (∀ v ∈ x.ins, v.kind ≠ 3) →
      s.collect b i x (fun u => u.bad || (isMaxFmt u.fmt && (x.p0 % 32 == 0 || u.fmt == x.p0 % 32)))
        ((List.range x.ins.length).map fun p => (p, nth 0 x.inPos p)) [] = .toks (t :: ts) →
      (∀ u ∈ ts, u.count = t.count) → ((outPort x 0).kind = 2 → notLast s x.p1 (ceilDiv t.count 32)) →
      let vs := ts.foldl (fun acc u => pickVals most x.numMode acc (tokVals u)) (tokVals t)
      let tok : Tok := { fmt := x.p0 % 32, count := t.count, bytes := exactTile (x.p0 % 32) vs, contrib := ((t :: ts).map fun u => max 1 u.contrib).sum }
      takesOut s b i x 0 tok none → gives s b i x 0 tok none (exec (if most then .max b i .pass else .min b i .pass) s)) ∧
    -- UPDATE and REPLAY: a state tile whose updated rows may be written (R206-R222).
    (∀ (replay : Bool) (k : Bucket) (g : Segment) (d : Desc) (t : Tok), works s b 2 2 (if replay then 1 else 0) x → s.target' x = some (k, g) →
      x.descOf b x.p1 = some d →
      let j := nth 0 x.inPos 0
      let step := if replay then x.startStep - 1 else x.startStep
      (replay = true → 0 < x.startStep) → bits (s.rdNat (s.scAddr x.group step) 32) 224 32 = step % 2 ^ 32 →
      (replay = false → s.get Upd.clipMode = 1 → step = s.step → s.normNow ≠ none) → (s.bk k.id).countBad = false → (s.bk k.id).heldBad = false →
      (∃ n, (s.bk k.id).gradStep = some n ∧ step ≤ n) →
      s.peek b 2 0 j x = .tok t → t.fmt = 0 ∨ t.fmt = 1 ∨ t.fmt = 3 → t.piece = 0 →
      (j = 0 → bitAt (s.uprogHdr b x.bank (bits x.p0 0 8)) 38 = false) →
      let r := if j = 0 then s.beginUpdate k step replay else s
      let a := (d.base + d.rowOff j).toNat
      let pl := r.tilePlan replay step x.group k g (d.elem0 + 1024 * j) j
      let o := r.tileElems b x g step a pl (tokVals t)
      let tok : Tok := { fmt := 3, count := 32 * ((List.range 32).filter (bitAt pl.emit)).length, bytes := o.wBytes }
      (∀ e ∈ r.tileReads b x a pl, r.readErr e.1 e.2 = none) → (∀ e ∈ o.writes, storable r b 2 e.1 e.2.length) →
      x.outs = [] ∨ takesOut r b 2 x 0 tok none →
      ∃ u, exec (if replay then .replay b .pass else .update b .pass) s = .next u ∧
        u.get (Stn.tokensIn b 2) = (s.get (Stn.tokensIn b 2) + 1) % 2 ^ 64 ∧
        (x.outs ≠ [] → u.get (Stn.tokensOut b 2) = (s.get (Stn.tokensOut b 2) + 1) % 2 ^ 64)) ∧
    -- CONVERT: a tile converted under the parameter set (R80).
    (∀ t, works s b i 3 0 x → s.peek b i 0 (nth 0 x.inPos 0) x = .tok t → t.fmt ≤ 12 → t.piece = 0 → t.count ≠ 0 → t.mask = 0 →
      let vs := tileVals t.fmt t.count t.bytes
      let first (d : Desc) : Nat := ((x.pieceOf d 8 out).map (·.first)).getD 0
      (x.portDesc b (outPort x 0) = none →
        let tok : Tok := { fmt := x.dstFmt, count := t.count, bytes := (convertVals x.pset (vs.zip
          (s.rounds x.pset (s.outIndex b x (nth 0 x.fold 0)).1 (s.outIndex b x (nth 0 x.fold 0)).2 vs.length))).1 }
        takesOut s b i x 0 tok none → gives s b i x 0 tok none (exec (.convert b i .pass) s)) ∧
      (∀ d, x.portDesc b (outPort x 0) = some d → s.rowSetOf b (outPort x 0).id d.fmt = none →
        let tok : Tok := { fmt := x.dstFmt, count := vs.length, bytes := (convertVals x.pset (vs.zip
          (s.rounds x.pset d.bucket (d.elem0 + first d) vs.length))).1 }
        takesOut s b i x 0 tok none → gives s b i x 0 tok none (exec (.convert b i .pass) s))) ∧
    -- FINISH: a block's sums rounded once, to a queue or in its place (R111-R113).
    (∀ t h p, works s b i 3 1 x → s.space b x 0 = true → s.nextRec b i 0 x (fun _ => true) = .toks [t] → t.count ≠ 0 → isGrid t.fmt = true →
      finishRecord t = some (h, p) → notLast s h.bucket 1 →
      let bs := (convertVals x.pset ((p.vals (h.phase == 2)).map fun v => (v, Round.rne))).1
      let tok : Tok := { fmt := x.dstFmt, count := 32, bytes := bs }
      (x.portDesc b (outPort x 0) = none → takesOut s b i x 0 tok none → gives s b i x 0 tok none (exec (.finish b i .pass) s)) ∧
      (∀ d, x.portDesc b (outPort x 0) = some d → d.elem0 / 32 ≤ h.first → 32 * (h.first - d.elem0 / 32) + 32 ≤ d.size →
        (∀ e ∈ d.blockWrites (32 * (h.first - d.elem0 / 32)) 32 bs, storable s b i e.1.toNat e.2.length) →
        ∃ u, exec (.finish b i .pass) s = .next u ∧ u.get (Stn.tokensIn b i) = (s.get (Stn.tokensIn b i) + 1) % 2 ^ 64 ∧
          u.get (Stn.tokensOut b i) = (s.get (Stn.tokensOut b i) + 1) % 2 ^ 64)) ∧
    -- ZFILL: the zero blocks of the next 32 of its range (R112, R133).
    (∀ g d, works s b i 3 2 x → x.descOf b x.p1 = some g → x.portDesc b (outPort x 0) = some d →
      let base := g.deviceAddr b g.base
      let first := x.p2 + 32 * out
      let blks := (List.range (min 32 (x.p2 + x.p3 - first))).map (first + ·)
      s.globComplete base g.size = true → s.globErr base g.size = none → notLast s d.bucket 32 →
      (∀ k ∈ blks, d.elem0 / 32 ≤ k ∧ 32 * (k - d.elem0 / 32) + 32 ≤ d.size ∧ ∀ m : Nat,
        ∀ e ∈ d.blockWrites (32 * (k - d.elem0 / 32)) 32
          (convertVals x.pset ((List.range 32).map fun j => (Val.fin (bitAt m j) 0 0, Round.rne))).1, storable s b i e.1.toNat e.2.length) →
      ∃ u, exec (.zfill b i .pass) s = .next u ∧ u.get (Stn.tokensOut b i) = (s.get (Stn.tokensOut b i) + 1) % 2 ^ 64)

/-! ### The queue and the machine as a whole -/

/-- A step runs the command at the front of the queue, on the state that holds the rest of the queue. -/
def Obligations.StepRunsTheFrontCommand : Prop :=
  ∀ (s : State) (c : Instr) (rest : List Instr), s.pending = c :: rest → step s = exec c { s with pending := rest }

/-- On an empty queue a step is one tick: the global count is 1 ns higher unless a slew holds it, or the module is off; beside it only the
counters of elapsed time move (R54, R59, R437; that an empty queue ticks, and the powered time that it counts, are the model's choices, log
entry 9). -/
def Obligations.AnEmptyQueueTicks : Prop :=
  ∀ (s : State), s.pending = [] →
    ∃ t, step s = .next t ∧ t = { s with csr := t.csr, time := t.time, elapsed := t.elapsed } ∧
      (∀ f : Field, f.key ≠ Tb.count.key → f.key ≠ Pwr.throttleNs.key →
        (∀ b, b < 40 → f.key ≠ (Aoc.activeNs b).key ∧ f.key ≠ (Aoc.stallNs b).key) → t.get f = s.get f) ∧
      (s.get Cmd.powerState ≠ 0 → s.time.hold = 0 → t.now = (s.now + 1) % 2 ^ 64) ∧
      (s.get Cmd.powerState ≠ 0 → 0 < s.time.hold → t.now = s.now ∧ t.time.hold = s.time.hold - 1) ∧
      (s.get Cmd.powerState ≠ 0 → t.elapsed = s.elapsed + 1) ∧ (s.get Cmd.powerState = 0 → t = s) ∧ (s.get Cmd.powerState ≠ 3 → t.get Pwr.throttleNs = s.get Pwr.throttleNs)

/-- Every command, of every row and in every state, answers a next state, and none changes the queue: what waits behind it stays, in its
order. -/
def Obligations.ExecLeavesTheQueue : Prop := ∀ (c : Instr) (s : State), ∃ t, exec c s = .next t ∧ t.pending = s.pending

/-- Every step keeps memory and every start snapshot in canonical form: addresses strictly rise and no listed byte is the zero that an
unlisted address reads as (log entry 2), and a start snapshot lies at its bench's place in the image-staging area (R145; the place is the model's choice, log entry 35). -/
def Obligations.StepsKeepCanonicalMemory : Prop := ∀ s t : State, canonical s → step s = .next t → canonical t

/-- The state after reset is canonical. -/
def Obligations.ResetIsCanonical : Prop := canonical State.reset

/-- What reset leaves: every register at its reset value, with the hub in STANDBY, the device stopped and unassigned; no command, no memory,
no stream and no packet (R9, R257, R403, R456; a field for which the spec gives no reset value has zero, log entry 1). -/
def Obligations.ResetLeavesTheDeviceStopped : Prop :=
  (∀ f : Field, State.reset.get f = f.reset) ∧ State.reset.get Cmd.powerState = 1 ∧ State.reset.get Cmd.runState = 0 ∧
    State.reset.get Fab.deviceId = 0xFFFFF ∧ State.reset.now = 0 ∧ State.reset.alive = true ∧ State.reset.active = false ∧
    State.reset.pending = [] ∧ State.reset.mem = [] ∧ State.reset.streams = [] ∧ State.reset.log = [] ∧ State.reset.ports = [] ∧
    State.reset.mailboxes = [] ∧ (∀ b, b < 40 → State.reset.get (Ben.state b) = if b % 5 = 4 then 4 else 0)

/-! ### Host commands -/

/-- The checks of R396 in their order, for every mailbox command and the Accepted column of R398: a refusal at checks 1 to 3 is
replied alone and leaves every mailbox; a later one completes in the mailbox. -/
def Obligations.MailboxCommandsAreCheckedInOrder : Prop :=
  ∀ (c : Instr) (m : Call) (s : State), callOf c = some m →
    let tag := m.hdr.tag.toNat
    let r := s.received m.words
    (s.alive = false → exec c s = .next s) ∧
    (s.alive = true → headerOk m.hdr m.words = false → exec c s = .next (r.reply ⟨m.op, tag, stBadParam, 0, []⟩)) ∧
    (s.alive = true → headerOk m.hdr m.words = true → s.get (Mb.mbState (tag % 32)) = 1 →
      exec c s = .next (r.reply ⟨m.op, tag, stBusy, 0, []⟩)) ∧
    (∀ st, s.alive = true → headerOk m.hdr m.words = true → s.get (Mb.mbState (tag % 32)) ≠ 1 → refusal s m = some st →
      exec c s = completes (taken s m.hdr m.words) m.op m.hdr st [])

/-- A command that its mailbox takes leaves the device as it was, but for that mailbox, CMDS, the link's counts and the latch area; one
that completes writes the completion word with SEQ one higher, the stored reply and state 2, and displaces an unread result with
MB_OVERWRITE_EVT (R393, R401, R440). -/
def Obligations.MailboxesKeepTheReply : Prop :=
  ∀ (s : State) (h : HostHdr) (w : List W64) (op status fault : Nat) (ws : List Nat),
    let m := h.tag.toNat % 32
    let t := taken s h w
    let u := s.complete op h.tag.toNat status fault ws
    t.get (Mb.mbState m) = 1 ∧ (s.get (Mb.mbState m) = 2 → t.get Cmd.mbOverwriteEvt = 1) ∧
    t.get (Mb.completion m) = s.get (Mb.completion m) ∧ t.mailboxes = s.mailboxes ∧
    (∀ f : Field, f.key ≠ (Mb.mbState m).key → f.key ≠ Cmd.mbOverwriteEvt.key → f.key ≠ Cmd.cmds.key → t.get f = s.get f) ∧
    (∀ a, ¬ (latchAddr m 0 ≤ a ∧ a < latchAddr m 274) → t.rd a = s.rd a) ∧
    u.get (Mb.mbState m) = 2 ∧ Tab.find u.mailboxes m = some ⟨op, h.tag.toNat, status, fault, ws.map (BitVec.ofNat 64)⟩ ∧
    (op < 2 ^ 8 → status < 2 ^ 8 → u.get (Mb.completion m) =
      (s.get (Mb.completion m) % 2 ^ 32 + 1) % 2 ^ 32 + h.tag.toNat * 2 ^ 32 + op * 2 ^ 48 + status * 2 ^ 56)

/-- The direct commands reply with what R398 and R402 give, and change no mailbox but for GET_STATUS FORM 1, which makes an unread result
read. An empty mailbox answers NOT_READY (DEDUCED, log entry 21). -/
def Obligations.DirectCommandsReply : Prop :=
  ∀ (s : State) (h : HostHdr) (w : List W64),
    let t := s.received w
    (directOk s h w 0x01 → h.form = 0 → w = [] →
      exec (.identify h w) s = replies t 0x01 h stOk
        [0x5120 + 0xA1 * 2 ^ 16 + 2 ^ 24, Config.serial.toNat, s.get Fab.deviceId + s.get Sec.activeSlot * 2 ^ 20, s.fwVersion]) ∧
    (directOk s h w 0x02 → h.form = 0 → w = [] →
      exec (.getFeatures h w) s = replies t 0x02 h stOk
        ((List.range 8).map fun n => s.readWord (fieldsAt (0x3F0000000000 + 8 * n)))) ∧
    (directOk s h w 0x03 → h.form = 0 → w = [] →
      exec (.getStatus h w) s = replies t 0x03 h stOk
        [s.get Cmd.runState + 4 * s.get Cmd.routingStopped + 8 * s.get Cmd.powerState, s.get Upd.committed, s.now, s.get Coll.epoch]) ∧
    (directOk s h w 0x03 → h.form = 1 → w.length = 1 → param w 0 < 32 →
      let m := param w 0
      (s.get (Mb.mbState m) = 2 →
        exec (.getStatusMailbox h w) s = replies (t.set (Mb.mbState m) 3) 0x03 h stOk (s.get (Mb.completion m) :: s.storedReply m)) ∧
      (s.get (Mb.mbState m) = 3 →
        exec (.getStatusMailbox h w) s = replies t 0x03 h stDone (s.get (Mb.completion m) :: s.storedReply m)) ∧
      (s.get (Mb.mbState m) ≤ 1 → exec (.getStatusMailbox h w) s = replies t 0x03 h stNotReady [s.get (Mb.completion m)]))

/-- READ_CSR and WRITE_CSR take their words in ascending address order and stop at the first one refused; the words before it stay
written and W0 counts them (R400, R405). -/
def Obligations.CsrAccessesGoWordByWord : Prop :=
  ∀ (s : State) (h : HostHdr) (w : List W64),
    let t := taken s h w
    let a := param w 0 % 2 ^ 48
    let n := param w 0 / 2 ^ 48 % 2 ^ 8
    (admitted (.readCsr h w) s → ∀ (v : Nat → Nat) (u : Nat → State), u 0 = t →
      (∀ k, k < n → (u k).readAt (a + 8 * k) = .word (v k) (u (k + 1))) →
      exec (.readCsr h w) s = completes (u n) 0x08 h stOk ((List.range n).map v)) ∧
    (admitted (.readCsr h w) s → ∀ (v : Nat → Nat) (u : Nat → State) (k : Nat), u 0 = t → k < n →
      (∀ j, j < k → (u j).readAt (a + 8 * j) = .word (v j) (u (j + 1))) → (u k).readAt (a + 8 * k) = .violation →
      exec (.readCsr h w) s =
        .next (((u k).violation 0x08 (a + 8 * k)).complete 0x08 h.tag.toNat stAccess (a + 8 * k) [])) ∧
    (admitted (.writeCsr h w) s → ∀ u : Nat → State, u 0 = t →
      (∀ k, k < n → (u k).writeAt (a + 8 * k) (param w (k + 1)) = .ok (u (k + 1))) →
      exec (.writeCsr h w) s = completes (u n) 0x09 h stOk [n]) ∧
    (admitted (.writeCsr h w) s → ∀ (u : Nat → State) (k : Nat) (st : Nat) (x : State), u 0 = t → k < n →
      (∀ j, j < k → (u j).writeAt (a + 8 * j) (param w (j + 1)) = .ok (u (j + 1))) →
      (u k).writeAt (a + 8 * k) (param w (k + 1)) = .refused x st → exec (.writeCsr h w) s = completes x 0x09 h st [k])

/-- Writes that have a row of their own: each is a WRITE_CSR of one word with its header's LENGTH 16, and has the effect of its rule:
the function reset (R145), FAULT_ACK (R466), BUILD (R445), ALARM_CLR (R381), EXPORT_READY (R378), CALENDAR (R429), OWNER_LOCK (R414), a
MARGIN word (R45) and a RAIL word (R35). -/
def Obligations.SingleWritesTakeEffect : Prop :=
  ∀ (s : State) (h : HostHdr) (b r : Nat) (v : W64),
    let h16 : HostHdr := { h with length := 16 }
    let words (a x : Nat) : List W64 := [BitVec.ofNat 64 (a + 2 ^ 48), BitVec.ofNat 64 x]
    let go (a x : Nat) : Prop := admitted (.writeCsr h16 (words a x)) s
    let t (a x : Nat) : State := taken s h16 (words a x)
    (b < 40 → go (benchBase b + 0x10) 1 → s.get (Ben.state b) = 0 ∨ s.get (Ben.state b) = 2 ∨ s.get (Ben.state b) = 5 →
      exec (.freset h b) s = completes ((t (benchBase b + 0x10) 1).benchReset b) 0x09 h stOk [1]) ∧
    (go 0x3F00000B0020 0x10 → s.causeEnded = true →
      exec (.faultAck h) s =
        completes ((t 0x3F00000B0020 0x10).setAll [(Side.faultCause, 0), (Side.faultOut, 0)]) 0x09 h stOk [1]) ∧
    (go 0x3F000D000048 (1 + s.get Obs.hangUs * 2 ^ 32) → s.get Obs.building = 0 → s.get Obs.hangUs < 2 ^ 32 →
      ∃ u, exec (.build h) s = completes u 0x09 h stOk [1] ∧ u.get Obs.building = 1 ∧ u.get Obs.hangUs = s.get Obs.hangUs ∧
        u.graph.map (·.1) = some s.now) ∧
    (go 0x3F00000A0058 0x8000000 → s.get Cmd.runState = 0 →
      ∃ u, exec (.alarmClr h) s = completes u 0x09 h stOk [1] ∧ u.alarms = [] ∧ u.get Surv.alarms = 0) ∧
    (go 0x3F00000A0068 0x20 → s.flag Surv.exportReady = true →
      ∃ u, exec (.exportReady h) s = completes u 0x09 h stOk [1] ∧ u.get Surv.exportReady = 0 ∧
        ∀ i ∈ u.imps, i.pinned = true → i.step ≠ s.get Surv.exportStep) ∧
    (go 0x3F0000040020 v.toNat → s.get Sec.calendar ≤ v.toNat →
      ∃ u, exec (.calendar h v) s = completes u 0x09 h stOk [1] ∧ u.get Sec.calendar = v.toNat ∧ u.get Sec.calValid = 1) ∧
    (go 0x3F0000040008 0x200 → ∃ u, exec (.ownerLock h) s = completes u 0x09 h stOk [1] ∧ u.get Sec.ownerLock = 1) ∧
    (r < 72 → go (rgnBase r + 0x10) v.toNat → v.toNat < 2 ^ 13 → s.get (Rgn.floor r) ≤ v.toNat / 2 ^ 8 % 2 ^ 4 →
      (r < 40 → s.get (Ben.state r) ≠ 3) →
      ∃ u, exec (.ovrEn h r v) s = completes u 0x09 h stOk [1] ∧ u.get (Rgn.override r) = v.toNat / 2 ^ 8 % 2 ^ 4 ∧
        u.get (Rgn.ovrEn r) = v.toNat / 2 ^ 12 % 2) ∧
    (r < 72 → go (rgnBase r + 8) v.toNat → v.toNat % 5 = 0 → 600 ≤ v.toNat → v.toNat ≤ 850 →
      (r < 40 → s.get (Ben.state r) ≠ 3) →
      ∃ u, exec (.vset h r v) s = completes u 0x09 h stOk [1] ∧ u.get (Rgn.vset r) = v.toNat)

/-- Commands that change one setting: the count (R54), the failure domain (R358), a margin override (R45), the next impression step
(R348), and the log's oldest entry, by its distance from LAST (R398). -/
def Obligations.SettingCommandsChangeOneSetting : Prop :=
  ∀ (s : State) (h : HostHdr) (w : List W64),
    let t := taken s h w
    let v := param w 0
    (admitted (.setTime h w) s → exec (.setTime h w) s = completes (t.set Tb.count v) 0x58 h stOk []) ∧
    (admitted (.setFailureDomain h w) s → exec (.setFailureDomain h w) s = completes (t.set Surv.fdTag v) 0x31 h stOk []) ∧
    (admitted (.margin h w) s → ∀ r, r < 72 → rgnType r = v % 2 ^ 4 → rgnNumber r = v / 2 ^ 4 % 2 ^ 8 →
      let code := v / 2 ^ 12 % 2 ^ 4
      (v / 2 ^ 16 = 0 → exec (.margin h w) s = completes ((t.set (Rgn.ovrEn r) 0).applyCode r) 0x49 h stOk []) ∧
      (v / 2 ^ 16 = 1 → s.get (Rgn.floor r) ≤ code →
        exec (.margin h w) s = completes ((t.setAll [(Rgn.override r, code), (Rgn.ovrEn r, 1)]).applyCode r) 0x49 h stOk []) ∧
      (v / 2 ^ 16 = 1 → code < s.get (Rgn.floor r) → exec (.margin h w) s = completes t 0x49 h stBadParam [])) ∧
    (admitted (.margin h w) s → (∀ r, r < 72 → ¬ (rgnType r = v % 2 ^ 4 ∧ rgnNumber r = v / 2 ^ 4 % 2 ^ 8)) →
      exec (.margin h w) s = completes t 0x49 h stBadParam []) ∧
    (admitted (.impress h w) s → h.form = 0 → exec (.impress h w) s = completes { t with impNext := true } 0x40 h stOk []) ∧
    (admitted (.clearLog h w) s →
      let d := (v + 2 ^ 32 - s.get Elog.oldest) % 2 ^ 32
      let held := (s.get Elog.next + 2 ^ 32 - s.get Elog.oldest) % 2 ^ 32
      let n := if 2 ^ 31 ≤ d then 0 else min (d + 1) held
      ∃ u, exec (.clearLog h w) s = completes u 0x52 h stOk [n] ∧ u.get Elog.oldest = (s.get Elog.oldest + n) % 2 ^ 32 ∧
        (∀ f : Field, f.key ≠ Elog.oldest.key → u.get f = t.get f) ∧
        ∀ e ∈ u.log, e ∈ s.log ∧ n ≤ (e.2.number + 2 ^ 32 - s.get Elog.oldest) % 2 ^ 32)

/-- Commands that read: GET_COUNTERS of set 0 gives the conversion counters, GET_LOG the entries held from FIRST on, IMPRESS FORM 2 the
steps of the valid impressions (R398); ATTEST sends its report on the bulk channel and answers with its size, which is that of the
report's parts (R425). -/
def Obligations.ReadingCommandsAnswer : Prop :=
  ∀ (s : State) (h : HostHdr) (w : List W64),
    let t := taken s h w
    let v := param w 0
    (admitted (.getCounters h w) s → v % 16 = 0 →
      let first := v / 2 ^ 4 % 2 ^ 32
      let n := v / 2 ^ 36
      (first + n ≤ 5440 → exec (.getCounters h w) s = completes t 0x50 h stOk
        ((List.range n).map fun j => s.get (Conv.count ((first + j) / 136) ((first + j) % 136 / 8) ((first + j) % 8)))) ∧
      (5440 < first + n → exec (.getCounters h w) s = completes t 0x50 h stBadParam [])) ∧
    (admitted (.getLog h w) s →
      let es := (List.range (v / 2 ^ 32)).filterMap fun k => s.logEntry ((v % 2 ^ 32 + k) % 2 ^ 32)
      exec (.getLog h w) s = completes t 0x51 h stOk
        (es.length :: (s.get Elog.oldest + s.get Elog.next * 2 ^ 32) ::
          (es.map fun e => (List.range 4).map fun k => e.toNat / 2 ^ (64 * k) % 2 ^ 64).flatten)) ∧
    (admitted (.impressList h w) s → h.form = 2 →
      exec (.impressList h w) s = completes t 0x40 h stOk (s.imps.length :: s.imps.map (·.step))) ∧
    (admitted (.attest h w) s →
      let r := t.report (param w 0 + param w 1 * 2 ^ 64 + param w 2 * 2 ^ 128 + param w 3 * 2 ^ 192)
      exec (.attest h w) s = completes (r.2.bulkOut h.tag.toNat r.1) 0x60 h stOk [r.1.length] ∧
        r.1.length = 128 + 64 * t.measEntries.1.length + Config.certificates.length + 384 + 35664)

/-- SET_PAIR begins the exchange and is answered later; naming itself, or OVERRIDE with an odd IMP_N above 1, is BAD_PARAM, and a second
one BUSY. ADOPT notes the buckets of a device whose replica is complete, to be adopted at START (R359, R360, R370; the BUSY and the
device's own ID are the model's choice, log entry 21). -/
def Obligations.PairingCommandsBegin : Prop :=
  ∀ (s : State) (h : HostHdr) (w : List W64),
    let t := taken s h w
    let d := param w 0
    (admitted (.setPair h w) s → h.form = 0 ∨ h.form = 1 →
      let odd : Prop := h.form = 1 ∧ s.get Imp.impN % 2 = 1 ∧ 1 < s.get Imp.impN
      (d = s.me ∨ odd → exec (.setPair h w) s = completes t 0x30 h stBadParam []) ∧
      (d ≠ s.me → ¬ odd → s.pairCmd ≠ none → exec (.setPair h w) s = completes t 0x30 h stBusy []) ∧
      (d ≠ s.me → ¬ odd → s.pairCmd = none → s.pairPeer = none →
        ∃ u, exec (.setPair h w) s = .next u ∧ u.get Surv.pairState = 1 ∧ u.pairWith = some (d, h.form == 1) ∧ u.pairCmd = some h)) ∧
    (admitted (.setPairAdopt h w) s → h.form = 2 →
      (t.adoptable d = [] → exec (.setPairAdopt h w) s = completes t 0x30 h stBadParam []) ∧
      (t.adoptable d ≠ [] →
        ∃ u, exec (.setPairAdopt h w) s = completes u 0x30 h stOk [] ∧ u = { t with adopting := u.adopting } ∧
          ∀ k, k ∈ u.adopting ↔ k ∈ s.adopting ∨ k ∈ t.adoptable d))

/-- SWAP_BANK on stopped benches swaps at once, on running ones it leaves a swap pending for the boundary; a bench with an empty shadow
bank refuses it for all, and a mask that names no bench is BAD_PARAM (R134, R174; log entry 21). LOAD_IMAGE takes its image over the bulk
channel as a long command, and a bulk packet of its TAG adds its data in order (R394, R418). -/
def Obligations.ImagesComeOverTheBulkChannel : Prop :=
  ∀ (s : State) (h : HostHdr) (w : List W64) (hdr : BitVec 128) (data : List Byte),
    let t := taken s h w
    (admitted (.swapBank h w) s → h.form = 0 → t.benchesOf (param w 0) = none →
      exec (.swapBank h w) s = completes t 0x11 h stBadParam []) ∧
    (∀ b, admitted (.swapBank h w) s → h.form = 0 → param w 0 = 1 → t.physOf 0 = some b → s.get (Ben.state b) = 1 →
      s.flag (Cmp.swapPending b) = false → s.flag (Cmp.shadowValid b) = true → b < 40 →
      exec (.swapBank h w) s = completes (t.set (Cmp.swapPending b) 1) 0x11 h stOk [0, 1]) ∧
    (∀ b, admitted (.swapBank h w) s → h.form = 0 → param w 0 = 1 → t.physOf 0 = some b → b < 40 →
      s.flag (Cmp.swapPending b) = false → s.flag (Cmp.shadowValid b) = false →
      exec (.swapBank h w) s = completes t 0x11 h stNotReady []) ∧
    (admitted (.loadImage h w) s → h.form = 2 →
      ∃ u, exec (.loadImage h w) s = .next u ∧ u.longs = s.longs ++ [⟨0x10, h, w, some (param w 1), [], 0⟩] ∧
        (∀ f : Field, f.key ≠ Cmd.longActive.key → u.get f = t.get f)) ∧
    (s.alive = true → bulkSound hdr.toNat data = true → (∀ l ∈ s.longs, l.need ≠ none → l.hdr.tag.toNat ≠ hdr.toNat / 2 ^ 16 % 2 ^ 16) →
      exec (.bulkPacket hdr data) s = .next ((s.takeFlits 2 (16 + data.length)).bump Cmd.bulkOrphan 1)) ∧
    (∀ l need, s.alive = true → bulkSound hdr.toNat data = true → s.longs = [l] → l.need = some need →
      l.hdr.tag.toNat = hdr.toNat / 2 ^ 16 % 2 ^ 16 → hdr.toNat / 2 ^ 93 % 2 = 0 →
      (hdr.toNat / 2 ^ 32 % 2 ^ 48 = l.data.length →
        ∃ u, exec (.bulkPacket hdr data) s = .next u ∧ u.longs = [{ l with data := l.data ++ data }]) ∧
      (hdr.toNat / 2 ^ 32 % 2 ^ 48 ≠ l.data.length →
        exec (.bulkPacket hdr data) s = .next ((s.takeFlits 2 (16 + data.length)).longEnd l stOrder 0 [])))

/-- STOP and START of the routing function and of the device (R403): routing stops and goes on, a running device stops its benches and
keeps its links, a refused START leaves the device stopped with its settings, and one whose checks pass starts it (BUSY and
ALREADY_DONE in the other states are the model's choice, log entry 21). -/
def Obligations.StopAndStartChangeTheRunState : Prop :=
  ∀ (s : State) (h : HostHdr) (w : List W64) (sched : Schedule),
    let t := taken s h w
    (admitted (.stop h w) s → h.form = 0 →
      (s.get Cmd.runState = 0 → exec (.stop h w) s = completes t 0x18 h stDone []) ∧
      (s.get Cmd.runState = 2 → ∃ u, exec (.stop h w) s = completes u 0x18 h stOk [] ∧ u.get Cmd.runState = 0 ∧ u.ports = s.ports ∧
        u.dsts = s.dsts ∧ u.srcs = s.srcs ∧ u.sched = s.sched ∧ ∀ b ∈ s.liveBenches, s.get (Ben.state b) = 1 → u.get (Ben.state b) = 0) ∧
      (s.get Cmd.runState = 1 ∨ s.get Cmd.runState = 3 → exec (.stop h w) s = completes t 0x18 h stBusy [])) ∧
    (admitted (.stopRouting h w) s → h.form = 1 →
      (s.flag Cmd.routingStopped = false → exec (.stopRouting h w) s = completes (t.set Cmd.routingStopped 1) 0x18 h stOk []) ∧
      (s.flag Cmd.routingStopped = true → exec (.stopRouting h w) s = completes t 0x18 h stDone [])) ∧
    (admitted (.startRouting h w) s → h.form = 1 → s.loading = false →
      (s.flag Cmd.routingStopped = true →
        exec (.startRouting h w) s = completes (t.set Cmd.routingStopped 0).letAllHeld 0x19 h stOk [s.get Coll.epoch]) ∧
      (s.flag Cmd.routingStopped = false → exec (.startRouting h w) s = completes t 0x19 h stDone [])) ∧
    (admitted (.start h w sched) s → h.form = 0 →
      let c := State.startChecks { t with sched := sched }
      (c.2 ≠ stOk → exec (.start h w sched) s = completes { c.1 with sched := s.sched } 0x19 h c.2 []) ∧
      (c.2 = stOk →
        exec (.start h w sched) s = completes (c.1.startGo s.sched) 0x19 h stOk [(c.1.startGo s.sched).get Coll.epoch]))

/-- LAUNCH_AT waits for its count, TB_LOCK set and 50 us to 60 s ahead; at the count a stopped device starts, one that is not stopped
answers STOP_REQUIRED (R61; the latter, and a second one's BUSY, are the model's choice, log entries 21 and 26). -/
def Obligations.LaunchesWaitForTheirCount : Prop :=
  ∀ (s : State) (h : HostHdr) (w : List W64) (sched : Schedule) (c : Nat),
    let t := taken s h w
    (admitted (.launchAt h w sched) s →
      (s.flag Tb.tbLock = false → exec (.launchAt h w sched) s = completes t 0x21 h stNotReady []) ∧
      (s.flag Tb.tbLock = true → ¬ (s.now + 50000 ≤ param w 0 ∧ param w 0 ≤ s.now + 60000000000) →
        exec (.launchAt h w sched) s = completes t 0x21 h stBadParam []) ∧
      (s.flag Tb.tbLock = true → s.now + 50000 ≤ param w 0 → param w 0 ≤ s.now + 60000000000 → s.launch = none →
        exec (.launchAt h w sched) s = .next { t with launch := some (param w 0, h, sched) })) ∧
    (s.active = true → s.launch = some (c, h, sched) →
      (s.now < c → exec .launchAtCount s = .next s) ∧
      (c ≤ s.now → s.get Cmd.runState ≠ 0 → exec .launchAtCount s = completes { s with launch := none } 0x21 h stStopReq []) ∧
      (c ≤ s.now → s.get Cmd.runState = 0 →
        let r := State.startDevice sched { s with launch := none }
        exec .launchAtCount s = if r.2 = stOk then completes r.1 0x21 h stOk [r.1.get Coll.epoch] else completes r.1 0x21 h r.2 []))

/-- GLOBAL_STOP as R399 accepts and refuses it. -/
def Obligations.GlobalStopNeedsTheTimebase : Prop :=
  ∀ (s : State) (h : HostHdr) (w : List W64), admitted (.globalStop h w) s →
    let t := taken s h w
    let c := param w 0
    (s.flag Tb.tbLock = false → exec (.globalStop h w) s = completes t 0x23 h stNotReady []) ∧
    (s.flag Tb.tbLock = true → ¬ (s.now + 50000 ≤ c ∧ c ≤ s.now + 60000000000) →
      exec (.globalStop h w) s = completes t 0x23 h stBadParam []) ∧
    (s.flag Tb.tbLock = true → s.now + 50000 ≤ c → c ≤ s.now + 60000000000 → s.stopAt ≠ none →
      exec (.globalStop h w) s = completes t 0x23 h stBusy []) ∧
    (s.flag Tb.tbLock = true → s.now + 50000 ≤ c → c ≤ s.now + 60000000000 → s.stopAt = none →
      exec (.globalStop h w) s = .next { t with stopAt := some (c, h) })

/-- At the count C of a GLOBAL_STOP the benches stop, the ports send what is due and their marks, and capture begins; the cut ends with
its reply, and the device stopped, once every mark is held or a link has given none in time (R278, R279, R399; RUN_STATE 3 until then is the
model's choice, log entry 26). -/
def Obligations.TheCutStopsTheDevice : Prop :=
  ∀ (s : State) (c p : Nat) (h : HostHdr), s.active = true → s.stopAt = some (c, h) →
    (s.now < c → exec .globalStopCount s = .next s) ∧
    (c ≤ s.now → s.cut = true → exec .globalStopCount s = .next s) ∧
    (c ≤ s.now → s.cut = false →
      ∃ t, exec .globalStopCount s = .next t ∧ t.cut = true ∧ (t.get Cmd.runState = 3 ∨ t.get Cmd.runState = 0) ∧
        ∀ b ∈ s.liveBenches, s.get (Ben.state b) = 1 → t.get (Ben.state b) = 0) ∧
    (s.cut = true → s.get Cmd.runState = 3 → s.ctxOn p = true → s.carried p = false → s.endpointLink p = false →
      (s.port p).markSeen = false →
      ∃ t, exec (.cutLost p) s = .next t ∧ t.get Cmd.runState = 0 ∧ t.stopAt = none ∧ t.get Fab.cutLost = 1 ∧
        Tab.find t.mailboxes (h.tag.toNat % 32) =
          some ⟨0x23, h.tag.toNat, stOk, 0, [1, BitVec.ofNat 64 (((List.range 512).map fun p => s.get (Fab.captured p)).sum)]⟩)

/-- ABORT_STEP FORM 0 by the step it names and the run state: a stopped device defers it to START and answers W0 = 1, its collective
epoch advanced at acceptance (R236, R365, R367); the COMMIT form commits the step of the last vote when that vote was OK (R366). That EPOCH advances
at acceptance is DEDUCED (log entry 27). -/
def Obligations.AbortStepNamesTheStep : Prop :=
  ∀ (s : State) (h : HostHdr) (w : List W64),
    let t := taken s h w
    let u := param w 0
    (admitted (.abortStep h w) s → h.form = 0 → s.get Cmd.runState = 0 ∨ s.get Cmd.runState = 2 →
      (u < s.step → exec (.abortStep h w) s = completes t 0x22 h stDone []) ∧
      (s.step < u → exec (.abortStep h w) s = completes t 0x22 h stBadParam []) ∧
      (u = s.step → s.aborting ≠ none → exec (.abortStep h w) s = completes t 0x22 h stBusy []) ∧
      (u = s.step → s.aborting = none → s.abortDue ≠ none → exec (.abortStep h w) s = completes t 0x22 h stDone []) ∧
      (u = s.step → s.aborting = none → s.abortDue = none → s.get Cmd.runState = 0 →
        exec (.abortStep h w) s = completes { t.epochAbort.turns with abortDue := some u } 0x22 h stOk [1]) ∧
      (u = s.step → s.aborting = none → s.abortDue = none → s.get Cmd.runState = 2 →
        exec (.abortStep h w) s = .next (State.abortRun { t.epochAbort.turns with abortCmd := some h }))) ∧
    (admitted (.abortStepCommit h w) s → h.form = 1 → s.get Cmd.runState = 0 ∨ s.get Cmd.runState = 2 →
      (u < s.step → exec (.abortStepCommit h w) s = completes t 0x22 h stDone []) ∧
      (u = s.step → s.get Surv.lastVoteStep = u → s.flag Surv.lastVoteOk = true →
        exec (.abortStepCommit h w) s = completes t.commitStep.turns 0x22 h stOk [0]) ∧
      (s.step ≤ u → ¬ (u = s.step ∧ s.get Surv.lastVoteStep = u ∧ s.flag Surv.lastVoteOk = true) →
        exec (.abortStepCommit h w) s = completes t 0x22 h stBadParam []))

/-- RESTORE from local flash puts back the impression of the step it names, if its CONFIG_DIGEST is the device's and it is not suspect or
FORCE is set; the step counter is one beyond it, COMMITTED, EPOCH and the norm are its header's. From the host it waits for its bytes as a
long command (R349, R377; that EPOCH stays at the next START is DEDUCED, log entry 4). -/
def Obligations.RestorePutsBackAnImpression : Prop :=
  ∀ (s : State) (h : HostHdr) (w : List W64) (sched : Schedule) (i : Impression), admitted (.restore h w sched) s →
    let t := taken s h w
    (s.impWrite ≠ none → exec (.restore h w sched) s = completes t 0x41 h stBusy []) ∧
    (s.impWrite = none → h.form.toNat % 2 = 0 →
      ((∀ j ∈ s.imps, j.step ≠ param w 0) → exec (.restore h w sched) s = completes t 0x41 h stBadParam []) ∧
      (s.imps = [i] → i.step = param w 0 → i.config ≠ t.configDigest ∨ (i.suspect = true ∧ h.form.toNat / 2 % 2 = 0) →
        exec (.restore h w sched) s = completes t 0x41 h stBadParam []) ∧
      (s.imps = [i] → i.step = param w 0 → i.config = t.configDigest → i.suspect = false ∨ h.form.toNat / 2 % 2 = 1 →
        ∃ u, exec (.restore h w sched) s = completes u 0x41 h stOk [] ∧ u.step = i.step + 1 ∧
          u.get Upd.committed = i.step % 2 ^ 64 ∧ u.get Coll.epoch = i.epoch % 2 ^ 64 ∧ u.sched = sched ∧ u.imps = s.imps)) ∧
    (s.impWrite = none → h.form.toNat % 2 = 1 →
      ∃ u, exec (.restore h w sched) s = .next u ∧ u.longs = s.longs ++ [⟨0x41, h, w, some (param w 1), [], 0⟩] ∧
        Tab.find u.restores h.tag.toNat = some sched)

/-- RETIRE naming a bench, a channel or a lane: a running retirement is answered when it has ended, and one done already is ALREADY_DONE; a
number out of range is BAD_PARAM (R149, R325, R341, R398). -/
def Obligations.RetireNamesAUnit : Prop :=
  ∀ (s : State) (h : HostHdr) (w : List W64),
    let t := taken s h w
    let n := param w 0 / 2 ^ 16
    (admitted (.retireBench h w) s → param w 0 % 4 = 0 →
      (40 ≤ n → exec (.retireBench h w) s = completes t 0x48 h stBadParam []) ∧
      (n < 40 → s.get (Ben.state n) = 3 ∨ s.get (Ben.state n) = 5 → exec (.retireBench h w) s = completes t 0x48 h stDone []) ∧
      (n < 40 → s.get (Ben.state n) ≤ 2 →
        ∃ u : State, u = State.set { t with longs := t.longs ++ [⟨0x48, h, w, none, [], n⟩] } Cmd.longActive (t.longs.length + 1) ∧
          exec (.retireBench h w) s = .next ((u.retireStart n 3).settleRetires))) ∧
    (admitted (.retireChannel h w) s → param w 0 % 4 = 1 →
      (384 ≤ n → exec (.retireChannel h w) s = completes t 0x48 h stBadParam []) ∧
      (n < 384 → s.get (Mc.retCh (n / 48)) = n % 48 → exec (.retireChannel h w) s = completes t 0x48 h stDone []) ∧
      (n < 384 → s.get (Mc.retCh (n / 48)) = 63 → s.flag (Mc.spareEn (n / 48)) = true →
        ∃ u : State, u = State.set { t with longs := t.longs ++ [⟨0x48, h, w, none, [], 512 + n⟩] } Cmd.longActive (t.longs.length + 1) ∧
          exec (.retireChannel h w) s = .next ((u.retireChannel n 3).settleRetires) ∧
          (u.retireChannel n 3).get (Mc.retCh (n / 48)) = n % 48 ∧ (u.retireChannel n 3).flag (Mc.migrating (n / 48)) = true)) ∧
    (admitted (.retireLane h w) s → param w 0 % 4 = 2 →
      (s.flag (Oct.laneRetired (n / 8) (n % 8)) = true → exec (.retireLane h w) s = completes t 0x48 h stDone []) ∧
      (s.flag (Oct.laneRetired (n / 8) (n % 8)) = false →
        ∃ u : State, u = State.set { t with longs := t.longs ++ [⟨0x48, h, w, none, [], 1024 + n⟩] } Cmd.longActive (t.longs.length + 1) ∧
          exec (.retireLane h w) s = .next (((u.set (Oct.laneRetired (n / 8) (n % 8)) 1).laneFails n).settleRetires)))

/-- Images and firmware: SET_ROUTES with CLEAR unloads its set and otherwise waits for the image, as UPDATE_FW does (R400, R422); ACTIVATE_FW
of a valid slot makes it active and its confirmation due, CONFIRMATION raises the security version floor to the image's SVN and revokes
the keys it names, and a watchdog expiry before it returns to the previous firmware (R423, R424); the export of a pinned impression goes
out on the bulk channel (R378). -/
def Obligations.FirmwareAndRoutesChange : Prop :=
  ∀ (s : State) (h : HostHdr) (w : List W64),
    let t := taken s h w
    (admitted (.setRoutes h w) s →
      let k := param w 0 % 4
      (param w 0 / 4 % 2 = 1 →
        ∃ u, exec (.setRoutes h w) s = completes u 0x20 h stOk [] ∧ Tab.find u.routes k = none ∧ u.get (Surv.valid k) = 0) ∧
      (param w 0 / 4 % 2 = 0 →
        ∃ u, exec (.setRoutes h w) s = .next u ∧ u.longs = s.longs ++ [⟨0x20, h, w, some (param w 1), [], 0⟩])) ∧
    (admitted (.updateFw h w) s →
      ∃ u, exec (.updateFw h w) s = .next u ∧ u.longs = s.longs ++ [⟨0x61, h, w, some (param w 0), [], 0⟩]) ∧
    (admitted (.activateFw h w) s → s.flag Sec.bootRecovery = false →
      let k := param w 0
      (s.get Sec.activeSlot = k → exec (.activateFw h w) s = completes t 0x62 h stDone []) ∧
      (s.get Sec.activeSlot ≠ k → s.flag (slotValid k) = false → exec (.activateFw h w) s = completes t 0x62 h stNotReady []) ∧
      (s.get Sec.activeSlot ≠ k → s.flag (slotValid k) = true → s.longs ≠ [] ∨ s.flag Sec.confirmPending = true →
        exec (.activateFw h w) s = completes t 0x62 h stBusy []) ∧
      (s.get Sec.activeSlot ≠ k → s.flag (slotValid k) = true → s.longs = [] → s.flag Sec.confirmPending = false →
        t.activateFault k = none →
        ∃ u, exec (.activateFw h w) s = completes u 0x62 h stOk [] ∧ u.get Sec.activeSlot = k ∧ u.get Sec.confirmPending = 1 ∧
          u.prevSlot = s.get Sec.activeSlot ∧ u.get Sec.mono = (s.get Sec.mono + 1) % 2 ^ 64)) ∧
    (∀ x, s.alive = true → s.flag Sec.confirmPending = true → Tab.find s.fwSlots (s.get Sec.activeSlot) = some x →
      exec .confirmation s = .next (s.setAll [(Sec.confirmPending, 0), (Sec.svnFloor, max (s.get Sec.svnFloor) x.meas.svn),
        (Sec.keyRevoked, s.get Sec.keyRevoked ||| x.revoke)])) ∧
    (s.alive = true → s.flag Sec.confirmPending = true →
      ∃ u, exec .watchdogExpiry s = .next u ∧ u.get Sec.activeSlot = s.prevSlot % 2 ∧ u.get Sec.confirmPending = 0 ∧
        u.get Sec.fwRevertEvt = 1 ∧ u.get Side.alertPend = 1) ∧
    (s.alive = true → s.flag Sec.confirmPending = false →
      exec .watchdogExpiry s = .next (s.warmReset.setAll [(Cmd.powerState, 1), (Side.faultCause, 6)]).reboot) ∧
    (∀ i, admitted (.impressExport h w) s → h.form = 1 → s.imps = [i] → i.pinned = true → i.step = param w 0 →
      exec (.impressExport h w) s =
        completes (t.bulkOut h.tag.toNat (i.bytes s.me)) 0x40 h stOk [(i.bytes s.me).length])

/-! ### Benches, regions and the timebase -/

/-- A stream whose tokens have all crossed and whose writes are acknowledged completes: its station is idle, STREAMS counts it, and its
signal, if any, is added (R170, R245). A failed check is recomputed once; the second failure retires the bench (R46, R127, R141). A
retirement that ends passes the logical bench to the spare, or loses it (R150). STREAMS of station 15 and the
state a spare takes over are DEDUCED (log entries 20 and 16). -/
def Obligations.StreamsEndAndBenchesHandOver : Prop :=
  ∀ (s : State) (b i k : Nat) (x : Stream),
    (b < 40 → i < 10 → s.benchRuns b = true → s.stream b i = some x → s.flag (Stn.recomputing b i) = false → s.streamDone b i x = true →
      exec (.streamEnd b i) s = .next (s.endStream b i x) ∧
      (i ≠ 2 → x.sigEn = false →
        ∃ t, exec (.streamEnd b i) s = .next t ∧ t.stream b i = none ∧ t.get (Stn.state b i) = 0 ∧
          t.get (Stn.streams b i) = (s.get (Stn.streams b i) + 1) % 2 ^ 48 ∧ t.get (Stn.streams b 15) = (s.get (Stn.streams b 15) + 1) % 2 ^ 48)) ∧
    (s.stream b i = some x → s.streamDone b i x = false → exec (.streamEnd b i) s = .next s) ∧
    (b < 40 → i < 10 → s.benchRuns b = true → s.stream b i = some x → s.flag (Stn.recomputing b i) = true →
      exec (.tileRecomputation b i true) s = .next (s.recompute b i x) ∧
      exec (.tileRecomputation b i false) s = .next ((s.checkFail b i).retireStart b 1)) ∧
    (s.alive = true → s.get (Ben.state b) = 3 → s.spareOf (b / 5) = some k → b < 40 → k ≠ b → s.aborting = none → s.longs = [] →
      (∀ j, j < 5 → 5 * (b / 5) + j ≠ b → s.get (Ben.state (5 * (b / 5) + j)) ≠ 3) →
      (∃ t, exec (.retirementHandover b true) s = .next t ∧ t.get (Ben.state b) = 5 ∧ t.flag (Ben.lvalid b) = false ∧
        t.get (Ben.logical k) = s.get (Ben.logical b) % 2 ^ 5 ∧ t.flag (Ben.lvalid k) = true ∧ t.get (Ben.state k) = s.takenState b) ∧
      (∃ t, exec (.retirementHandover b false) s = .next t ∧ t.get (Ben.state b) = 5 ∧ t.flag (Ben.lvalid b) = false ∧
        t.get (Ben.state k) = 5 ∧ t.get (Ben.cause k) = 4))

/-- Firmware lowers a margin map entry after 30 days without a trigger, above 4 and above FLOOR, and at no other time (R44). That the days are
days of powered time is the model's choice (log entry 9). -/
def Obligations.MarginsFallAfterThirtyQuietDays : Prop :=
  ∀ (s : State) (r band : Nat), r < 72 → band < 8 → s.alive = true →
    let quiet : Prop := Tab.get (s.rgn r).trigger 0 band + 30 * 24 * 3600 * 10 ^ 9 ≤ s.elapsed
    let code := s.get (Rgn.code r band)
    (quiet → 4 < code → s.get (Rgn.floor r) < code →
      ∃ t, exec (.marginLower r band) s = .next t ∧ t.get (Rgn.code r band) = (code - 1) % 2 ^ 4) ∧
    (¬ quiet ∨ code ≤ 4 ∨ code ≤ s.get (Rgn.floor r) → exec (.marginLower r band) s = .next s)

/-- What a region's events change: a canary capture counts, a failed one in FAILS (R41); a temperature gives the band of R39; a rail that has
slewed reads its setting or cap (R35, R462); slow marks go to every device of its peer list with the multiplier in force, 15 while its
bench retires, and one that expires is forgotten, and no other (R52, R53, R150). -/
def Obligations.RegionEventsShowInTheRegisters : Prop :=
  ∀ (s : State) (r src : Nat) (temp : Int), r < 72 → s.active = true →
    (40 ≤ r ∨ (s.flag (Ben.lvalid r) = true ∧ s.get (Ben.state r) ≠ 3) → s.slowNow r ≠ 1 →
      exec (.slowMarkSend r) s = .next (s.slowSend r (s.slowNow r))) ∧
    (r < 40 → s.get (Ben.state r) = 3 → s.running = true → exec (.slowMarkSend r) s = .next (s.slowSend r 15)) ∧
    (∃ t, exec (.slowMarkExpiry src r) s = .next t ∧ Tab.find t.marks (src * 128 + r) = none ∧
      (∀ k, k ≠ src * 128 + r → Tab.find t.marks k = Tab.find s.marks k) ∧ t.csr = s.csr) ∧
    (s.get (Rgn.state r) = 0 → ∀ ok,
      ∃ t, exec (.canaryCapture r ok) s = .next t ∧
        t.get (Rgn.fails r) = (if ok then s.get (Rgn.fails r) else (s.get (Rgn.fails r) + 1) % 2 ^ 32) ∧
        t.get (Rgn.captures r) =
          (if (s.rgn r).capSub = 65535 then (s.get (Rgn.captures r) + 1) % 2 ^ 32 else s.get (Rgn.captures r))) ∧
    (∃ t, exec (.bandChange r temp) s = .next t ∧ t.get (Rgn.temp r) = twos 16 temp % 2 ^ 16 ∧
      t.get (Rgn.band r) = bandStep (s.get (Rgn.band r)) temp % 2 ^ 3) ∧
    (s.flag (Rgn.slewing r) = true →
      ∃ t, exec (.slewingEnd r) s = .next t ∧ t.get (Rgn.slewing r) = 0 ∧
        t.get (Rgn.vread r) = min (s.get (Rgn.vset r)) (s.get (Pwr.vcap r)) % 2 ^ 12 ∧
        onlyFields s t [Rgn.slewing r, Rgn.vread r])

/-- The timebase: a mark's departure is stamped and sent on TB_SRC (R57); a slew inserts or holds one tick of those still due, no more often
than once in 10,000 ticks (R59); a silent source clears TB_LOCK (R60); a lost reference sets REF_LOST and raises ALERT_N, and a time master holds TB_LOCK only
while it has one (R55, R60); PPS_OUT rises at a multiple of 10^9 (R56). -/
def Obligations.TheTimebaseFollowsItsSource : Prop :=
  ∀ (s : State),
    (s.active = true → s.flag Tb.master = false → s.portUp (s.get Tb.tbSrc) = true → s.carried (s.get Tb.tbSrc) = false →
      ∃ t blk, exec .timeMarkSend s = .next t ∧ t.time.t1 = some s.now ∧ t.wire = s.wire ++ [(s.get Tb.tbSrc, blk)]) ∧
    (s.alive = true → s.time.due < 0 → s.time.lastSlew + 10000 ≤ s.elapsed →
      ∃ t, exec .slew s = .next t ∧ t.now = (s.now + 1) % 2 ^ 64 ∧ t.time.hold = s.time.hold ∧ t.time.lastSlew = s.elapsed ∧
        t.time.due = s.time.due + 1) ∧
    (s.alive = true → 0 < s.time.due → s.time.lastSlew + 10000 ≤ s.elapsed →
      ∃ t, exec .slew s = .next t ∧ t.csr = s.csr ∧ t.time.hold = s.time.hold + 1 ∧ t.time.lastSlew = s.elapsed ∧
        t.time.due = s.time.due - 1) ∧
    (s.elapsed < s.time.lastSlew + 10000 ∨ s.time.due = 0 → exec .slew s = .next s) ∧
    (s.alive = true → s.flag Tb.master = false →
      ∃ t, exec .tbLockTimeout s = .next t ∧ t.get Tb.tbLock = 0 ∧ t.time.good = 0 ∧ (∀ f : Field, f.key ≠ Tb.tbLock.key → t.get f = s.get f)) ∧
    (s.alive = true → ∃ t, exec .refLost s = .next t ∧ t.get Tb.refLost = 1 ∧ t.time.noRef = true ∧ t.get Side.alertPend = 1 ∧
      (s.flag Tb.master = true → t.get Tb.tbLock = 0) ∧ (s.flag Tb.master = false → t.get Tb.tbLock = s.get Tb.tbLock)) ∧
    (s.alive = true → ∃ t, exec .referencePresent s = .next t ∧ t.time.noRef = false ∧
      (s.flag Tb.master = true → t.get Tb.tbLock = 1) ∧ (s.flag Tb.master = false → t.csr = s.csr)) ∧
    (s.alive = true → ∃ t, exec .ppsIn s = .next t ∧ t.get Side.ppsInLvl = 1 ∧
      (s.flag Tb.master = false ∨ s.flag Tb.ppsEn = false → t.now = s.now ∧ t.time = s.time)) ∧
    (s.alive = true → s.now % 1000000000 = 0 → exec .ppsOut s = .next { s with time := { s.time with ppsOut := true } }) ∧
    (s.now % 1000000000 ≠ 0 → exec .ppsOut s = .next s)

/-! ### Ports and link control blocks -/

/-- A link control block is used on an enabled link alone; one with a bad CRC, VERSION, type or reserved field counts in CTRL_BAD (R316, R474),
and on a carried port only the types of R318 are used; a carried frame is discarded with the reason counted, or its packet or block is used
(R320). -/
def Obligations.ControlBlocksAreChecked : Prop :=
  ∀ (s : State) (p : Nat) (blk : BitVec 256) (t1 t2 t3 : W64) (vcs : List Nat) (ords : Tab Nat) (frame : List Byte),
    let bad := s.bump (Oct.ctxCtrlBad (p / 8) (p % 8)) 1
    let off := (s.bump (Oct.ctxCarriedDrops (p / 8) (p % 8)) 1).set (Oct.ctxLastDrop (p / 8) (p % 8)) 7
    (s.active = false ∨ s.ctxState p < 2 →
      exec (.timeReq p blk t1) s = .next s ∧ exec (.timeResp p blk t2 t3) s = .next s ∧ exec (.credit p blk vcs ords) s = .next s ∧
      exec (.keepalive p blk) s = .next s) ∧
    (s.active = true → 2 ≤ s.ctxState p → s.carried p = false →
      (blockOk 3 blk = false → exec (.timeReq p blk t1) s = .next bad) ∧ (blockOk 4 blk = false → exec (.timeResp p blk t2 t3) s = .next bad) ∧
      (blockOk 2 blk = false → exec (.credit p blk vcs ords) s = .next bad)) ∧
    (s.active = true → 2 ≤ s.ctxState p → blockOk 9 blk = false → exec (.keepalive p blk) s = .next bad) ∧
    (s.active = true → 2 ≤ s.ctxState p → s.carried p = true →
      exec (.timeReq p blk t1) s = .next off ∧ exec (.timeResp p blk t2 t3) s = .next off ∧ exec (.credit p blk vcs ords) s = .next off) ∧
    (s.carried p = false → exec (.carriedFrame p frame) s = .next s) ∧
    (s.active = true → 2 ≤ s.ctxState p → s.carried p = true → s.ctxUsed p = true →
      (∀ why, s.dropReason p frame = some why →
        exec (.carriedFrame p frame) s =
          .next ((s.bump (Oct.ctxCarriedDrops (p / 8) (p % 8)) 1).set (Oct.ctxLastDrop (p / 8) (p % 8)) why)) ∧
      (s.dropReason p frame = none →
        let head := (if s.flag (Oct.ctxTagEn (p / 8) (p % 8)) = true then 4 else 0) + 63
        let data := (frame.drop head).take (frame.length - (head + 4))
        (beAt frame (head - 1) 1 = 0 → exec (.carriedFrame p frame) s = .next (s.arrive p (pktOfBytes data))) ∧
        (beAt frame (head - 1) 1 ≠ 0 → exec (.carriedFrame p frame) s = .next (s.carriedBlock p (BitVec.ofNat 256 (leNat data))))))

/-- What a sound block does: CREDIT gives credits back by channel and ordinal (R266), a time mark is stamped at its arrival and its reply's departure and answered, and a
reply measured (R57; that both stamps fall in one tick is the model's choice, log entry 33),
KEEPALIVE leaves everything (R324), a HELLO in the exchange is held or ends it with its reason (R317, R323), a stop mark is noted
(R278), a frame of LINK_MODE 1 or 2 asked for again is sent again (R272), NARROW is answered with the group both ends hold (R327). -/
def Obligations.SoundBlocksAreUsed : Prop :=
  ∀ (s : State) (p : Nat) (blk : BitVec 256) (t1 t2 t3 : W64) (vcs : List Nat) (frame : Nat) (mask : BitVec 8),
    s.active = true → 2 ≤ s.ctxState p →
    (s.carried p = false → blockOk 2 blk = true →
      ∃ t, exec (.credit p blk vcs []) s = .next t ∧ t.csr = s.csr ∧ t.mem = s.mem ∧
        ∀ v, v < 5 → Tab.get (t.port p).credits 0 (v + 1) = Tab.get (s.port p).credits 0 (v + 1) + nth 0 vcs v) ∧
    (s.carried p = false → blockOk 3 blk = true → s.ctxState p = 3 → 
      exec (.timeReq p blk t1) s =
        .next ((s.setTimeMarks { s.time with replies := Tab.put s.time.replies p (s.now, s.now) }).sendOpenBlock p 4)) ∧
    (∀ sent, s.carried p = false → blockOk 4 blk = true → s.ctxState p = 3 → s.time.t1 = some sent → p = s.get Tb.tbSrc →
      s.flag Tb.master = false → exec (.timeResp p blk t2 t3) s = .next (s.timeReply p sent t2.toNat t3.toNat)) ∧
    (blockOk 9 blk = true → exec (.keepalive p blk) s = .next s) ∧
    (blockOk 1 blk = true → helloSound blk.toNat = true → s.ctxState p = 2 → s.helloFault p blk.toNat = none → s.longs = [] →
      blk.toNat / 2 ^ 160 % 2 ^ 64 = 0 →
      ∃ t, exec (.hello p blk) s = .next t ∧ (t.port p).hello = some blk.toNat ∧
        t.get (Oct.ctxPeerId (p / 8) (p % 8)) = blk.toNat / 2 ^ 24 % 2 ^ 20 ∧ t.ctxState p = 2) ∧
    (∀ why, blockOk 1 blk = true → helloSound blk.toNat = true → s.ctxState p = 2 → s.helloFault p blk.toNat = some why → s.longs = [] →
      blk.toNat / 2 ^ 160 % 2 ^ 64 = 0 → exec (.hello p blk) s = .next (s.linkEnds p why)) ∧
    (blockOk 5 blk = true → ∃ t, exec (.stopMark p blk) s = .next t ∧ (t.port p).markSeen = true) ∧
    (∀ f, s.carried p = false → blockOk 6 blk = true → s.siteNative p = true → s.portUp p = true → s.longs = [] → s.frameSent p frame = some f →
      Tab.get (s.port p).retries 0 frame < s.get Fab.lrWin →
      ∃ t, exec (.retryReq p blk frame) s = .next t ∧ t.wire = s.wire ++ [(p, f)] ∧
        Tab.get (t.port p).retries 0 frame = Tab.get (s.port p).retries 0 frame + 1) ∧
    (∀ g, s.carried p = false → blockOk 7 blk = true → s.ctxState p = 3 → s.longs = [] → laneGroup (mask.toNat &&& s.healthy p) = some g →
      exec (.narrow p blk mask) s = .next ((s.sendOpenBlock p 8).narrowTo p g)) ∧
    (∀ g, s.carried p = false → blockOk 8 blk = true → s.ctxState p = 4 → s.longs = [] → laneGroup mask.toNat = some g →
      exec (.narrowAck p blk mask) s = .next (s.narrowTo p g))

/-- A port's own events (R272, R312, R322-R327): training that succeeds enters the HELLO exchange on every lane, and one that fails leaves the
port down with its reason; the HELLO with SEEN brings the link up; KEEPALIVE goes out; silence, a failed narrowing and a lane that fails
take the port down or narrow it. -/
def Obligations.PortEventsMoveTheLink : Prop :=
  ∀ (s : State) (p lane symbols : Nat), s.active = true → p < 512 →
    (s.ctxState p = 1 →
      (∃ t, exec (.linkTraining p .ok) s = .next t ∧ t.ctxState p = 2 ∧ t.width p = s.cfgWidth p % 2 ^ 4) ∧
      exec (.linkTraining p .trainFailed) s = .next (s.linkEnds p 2) ∧ exec (.linkTraining p .noLock) s = .next (s.linkEnds p 3) ∧
      exec (.linkTraining p .laneOrder) s = .next (s.linkEnds p 1)) ∧
    (s.ctxState p ≠ 1 → ∀ r, exec (.linkTraining p r) s = .next s) ∧
    (s.ctxState p = 2 → (s.port p).hello = none →
      exec (.helloSend p) s = .next (s.sendBlock p 1 (s.helloBody p 0))) ∧
    (s.ctxState p = 2 → (s.port p).hello ≠ none → s.healthy p = 2 ^ s.cfgWidth p - 1 →
      ∃ t, exec (.helloSend p) s = .next t ∧ t.ctxState p = 3 ∧ t.get (Oct.ctxLinkEvt (p / 8) (p % 8)) = 1) ∧
    (s.portUp p = true → exec (.keepaliveSend p) s = .next (s.sendOpenBlock p 9)) ∧
    (s.portUp p = true → exec (.peerSilent p) s = .next (s.linkDown p 9).settleRetires) ∧
    (s.ctxState p = 2 → exec (.peerSilent p) s = .next (s.linkEnds p 4).settleRetires) ∧
    (s.ctxOn p = true → s.ctxState p = 0 → exec (.bringUpRetry p) s = .next (s.set (Oct.ctxState (p / 8) (p % 8)) 1)) ∧
    (s.ctxState p = 4 → exec (.narrowFailed p) s = .next (s.linkDown p 13).settleRetires) ∧
    (lane < 512 →
      ∃ t, exec (.laneFail lane) s = .next t ∧ t.get (Oct.laneFailed (lane / 8) (lane % 8)) = 1) ∧
    (lane < 512 → s.get (Oct.failThresh (lane / 8)) < symbols →
      ∃ t, exec (.failThresh lane symbols) s = .next t ∧ t.get (Oct.laneFailed (lane / 8) (lane % 8)) = 1) ∧
    (symbols ≤ s.get (Oct.failThresh (lane / 8)) →
      exec (.failThresh lane symbols) s = .next (s.bump (Oct.laneSymCorr (lane / 8) (lane % 8)) symbols)) ∧
    (s.portUp p = true → s.retryOn p = false →
      exec (.uncorrectableCodeword p false) s =
        .next ((s.bump (Oct.ctxFecUncorr (p / 8) (p % 8)) 1).bump (Aoc.portErrors p) 1))

/-! ### Packets -/

/-- Every arrival command whose packet is of its class brings it to its port; any other brings nothing. A transit packet is one that is
not for this device, and a reserved KIND comes as a write, to be discarded (R258, R260, R261, R284; log entry 9). A frame that the port's
receive FIFO loses is discarded, and the port logs SUPPLY (R48). -/
def Obligations.PacketsArriveByTheirClass : Prop :=
  ∀ (s : State) (p : Nat) (pkt : Pkt), s.forMe pkt = true →
    let come : Host.Outcome State Fault Refusal := .next (s.arrive p pkt)
    let plain : Prop := pktMirror pkt = false
    (pktMirror pkt = true → exec (.mirror p pkt) s = come) ∧
    (plain → pktKind pkt = 1 → exec (.signal p pkt) s = come) ∧
    (plain → pktKind pkt = 2 → pktRh pkt ≠ 0xFF01 → exec (.read p pkt) s = come) ∧
    (plain → pktKind pkt = 2 → pktRh pkt = 0xFF01 → exec (.missReport p pkt) s = come) ∧
    (plain → pktKind pkt = 3 → exec (.reply p pkt) s = come) ∧
    (plain → pktKind pkt = 4 → exec (.ack p pkt) s = come) ∧
    (plain → pktKind pkt = 5 → exec (.nack p pkt) s = come) ∧
    (plain → pktKind pkt = 7 → exec (.custody p pkt) s = come) ∧
    (plain → pktKind pkt = 6 →
      (mgmtType pkt = 1 → exec (.slowMark p pkt) s = come) ∧ (mgmtType pkt = 2 → exec (.heartbeat p pkt) s = come) ∧
      (mgmtType pkt = 3 → exec (.routeAlarm p pkt) s = come) ∧ (mgmtType pkt = 4 → exec (.pair p pkt) s = come) ∧
      (mgmtType pkt = 5 → exec (.fill p pkt) s = come) ∧ (mgmtType pkt = 6 → exec (.replicaDigest p pkt) s = come)) ∧
    (plain → pktKind pkt = 0 →
      (s.isCommit pkt = true → isResult pkt = false → exec (.commitVote p pkt) s = come) ∧
      (s.isCommit pkt = true → isResult pkt = true → exec (.commitResult p pkt) s = come) ∧
      (s.isCommit pkt = false → pktVc pkt = 0 → pktRh pkt = 0xFF10 → exec (.fetch p pkt) s = come) ∧
      (s.isCommit pkt = false → s.isReduction p pkt = true → exec (.reductionPacket p pkt) s = come) ∧
      (s.isCommit pkt = false → s.isReduction p pkt = false → ¬ (pktVc pkt = 0 ∧ pktRh pkt = 0xFF10) →
        exec (.write p pkt) s = come)) ∧
    (8 ≤ pktKind pkt → exec (.write p pkt) s = come) ∧
    (plain → pktKind pkt ≠ 0 → (pktKind pkt < 8 → exec (.write p pkt) s = .next s) ∧ exec (.fetch p pkt) s = .next s) ∧
    exec (.transit p pkt) s = .next s ∧
    (let spilt := s.logE clSupply (.port p) 0 []
     (s.active = true → s.portUp p = true → p < 512 →
        exec (.write p pkt true) s = .next spilt ∧ exec (.transit p pkt true) s = .next spilt) ∧
     (s.active = false ∨ s.portUp p = false ∨ 512 ≤ p →
        exec (.write p pkt true) s = .next s ∧ exec (.transit p pkt true) s = .next s))

/-- What meets a packet at its port: nothing arrives on a link that is down, and what flow control does not admit stays with its sender (R265,
R267, R277); between this port's stop mark and the peer's it is captured while the buffer has room and then gives its credit back, unless on
VC2; beyond that it keeps its ingress buffer (R278, R279), as while routing is stopped (R403); a header that is not sound is logged and
discarded (R260, R474). A packet for another device with HOPS spent is discarded and counted, a segment's duplicate goes no further, any
other goes on in custody (R275, R284, R285). Every packet discarded here gives its credit back (R266). -/
def Obligations.ArrivalsAreCapturedHeldOrLetIn : Prop :=
  ∀ (s : State) (p : Nat) (pkt : Pkt),
    let t := s.arrive p pkt
    let back (u : State) : State := if s.forMe pkt = true then u else u.returnCredit p pkt
    (s.active = false ∨ s.portUp p = false ∨ 512 ≤ p ∨ s.admits p pkt = false → t = s) ∧
    (s.active = true → s.portUp p = true → p < 512 → s.admits p pkt = true →
      (s.capturing p = true → pktVc pkt ≠ 2 →
        ((s.port p).parked = [] → s.captureFits p pkt = true → s.longHaul p = false →
          (t.port p).captured = (s.port p).captured ++ [pkt] ∧ (t.port p).parked = [] ∧
            t.get (Fab.captured p) = (s.get (Fab.captured p) + pktLen pkt) % 2 ^ 64 ∧ t.mem = s.mem ∧ t.srcs = s.srcs) ∧
        ((s.port p).parked ≠ [] ∨ s.captureFits p pkt = false →
          (t.port p).parked = (s.port p).parked ++ [pkt] ∧ (t.port p).captured = (s.port p).captured ∧ t.mem = s.mem ∧ t.wire = s.wire)) ∧
      (s.capturing p = false ∨ pktVc pkt = 2 → s.flag Cmd.routingStopped = true →
        (t.port p).parked = (s.port p).parked ++ [pkt] ∧ t.mem = s.mem ∧ t.wire = s.wire) ∧
      (s.capturing p = false ∨ pktVc pkt = 2 → s.flag Cmd.routingStopped = false → t = (s.countRx p pkt).letIn p pkt false)) ∧
    (hdrOk pkt = false → s.letIn p pkt false = (s.logE clSequence (.port p) (pktSrc pkt) []).returnCredit p pkt) ∧
    (s.forMe pkt = false → exec (.transit p pkt) s = .next t) ∧
    (pktHops pkt = 0 → s.transit p pkt false = back (s.bump Fab.hopsExpired 1)) ∧
    (pktHops pkt ≠ 0 →
      let c := s.takeCustody p pkt
      (c.2 = false → s.transit p pkt false = back c.1) ∧
      (c.2 = true → pktMcast pkt = false → s.transit p pkt false = c.1.forwardTo p pkt false) ∧
      (c.2 = true → pktMcast pkt = true → s.transit p pkt false = back (c.1.forwardCopies pkt)))

/-- The destination's checks of a packet that is acknowledged, in order (R263, R268, R269): a bad CRC is counted and answered with nothing; a
SEQ received before is counted and acknowledged again and the packet not used; one beyond the window is logged; any other is used and
its SEQ marked, a duplicate from then on. A packet held for its turn is a duplicate too, but no ACK covers it yet (R245). -/
def Obligations.DestinationsCheckCrcAndSequence : Prop :=
  (∀ (x : SrcState) (seq : Nat), x.cum < 2 ^ 32 → seq < 2 ^ 32 → (∀ g ∈ x.got, g < 2 ^ 32 ∧ x.classify g = .duplicate) →
    x.classify seq = .accepted → (x.mark seq).classify seq = .duplicate ∧ (x.mark seq).cum < 2 ^ 32) ∧
  ∀ (s : State) (p : Nat) (pkt : Pkt) (paid : Bool) (body : State → Done), s.longHaul p = false ∨ paid = true →
    (pktCrcOk pkt = false →
      s.checked p pkt paid body = s.crcFailed p pkt ∧ (s.checked p pkt paid body).get Fab.crcFail = (s.get Fab.crcFail + 1) % 2 ^ 64 ∧
      (s.checked p pkt paid body).srcs = s.srcs ∧ (s.checked p pkt paid body).wire = s.wire ∧
      (s.checked p pkt paid body).dsts = s.dsts) ∧
    (pktCrcOk pkt = true → kindAcked (pktKind pkt) = true →
      ((s.src (pktSrc pkt)).classify (pktSeq pkt) = .duplicate →
        s.checked p pkt paid body = ((s.bump Fab.duplicates 1).sendAck (pktSrc pkt)).dropCustody pkt) ∧
      ((s.src (pktSrc pkt)).classify (pktSeq pkt) = .beyond →
        s.checked p pkt paid body =
          s.logE clSequence (.port p) (pktSrc pkt) [((s.src (pktSrc pkt)).cum, 32), (pktSeq pkt, 32)]) ∧
      ((s.src (pktSrc pkt)).classify (pktSeq pkt) = .accepted → (body s).2 = .accept →
        s.checked p pkt paid body = ((body s).1.acknowledge pkt).dropCustody pkt) ∧
      ((s.src (pktSrc pkt)).classify (pktSeq pkt) = .accepted → (body s).2 = .hold →
        let t := s.checked p pkt paid body
        t.wire = (body s).1.wire ∧ (t.src (pktSrc pkt)).got = ((body s).1.src (pktSrc pkt)).got ∧
          (t.src (pktSrc pkt)).cum = ((body s).1.src (pktSrc pkt)).cum ∧ pktSeq pkt ∈ (t.src (pktSrc pkt)).held)) ∧
    (pktCrcOk pkt = true → kindAcked (pktKind pkt) = false → (body s).2 = .accept → s.checked p pkt paid body = (body s).1)

/-- What a packet does once it is used (R250, R258, R259, R261): a write permitted by its region's entry puts its payload there and nowhere
else, a refused one is answered with reason 1 and logged; a signal add of the SIGNAL service, or at a region's handle, adds to its word;
reserved handles and payloads are answered with reason 2; an ACK releases the copies it covers. What a region's entry asks of a signal add is
DEDUCED (log entry 11). Memory beside the payload may change only as records of a stalled trace are written meanwhile (R443). -/
def Obligations.PacketBodiesFollowTheirKind : Prop :=
  ∀ (s : State) (p a : Nat) (pkt : Pkt) (ok : RegionEntry → Bool),
    (s.regionAddr (pktRh pkt) (pktOffset pkt) (pktLength pkt) ok = none →
      s.writeBody p pkt ok = (s.logE clAccess (.port p) (pktSrc pkt) [(pktRh pkt, 16), (pktOffset pkt, 40)], .nack 1)) ∧
    (s.regionAddr (pktRh pkt) (pktOffset pkt) (pktLength pkt) ok = some a → s.ramOk a pkt.payload.length = true →
      s.storeErr a pkt.payload.length = none →
      (s.writeBody p pkt ok).2 = .accept ∧ (s.flag Obs.traceStall = false → ∀ x, (s.writeBody p pkt ok).1.rd x =
        if a ≤ x ∧ x < a + pkt.payload.length then pkt.payload.getD (x - a) 0 else s.rd x)) ∧
    (pktKind pkt = 1 → pkt.payload.length = 16 → leNat pkt.payload / 2 ^ 70 = 0 →
      pktRh pkt = 0xFF20 ∧ a = pktOffset pkt ∨
        pktRh pkt < 0xFF00 ∧ s.regionAddr (pktRh pkt) (pktOffset pkt) 8 (fun _ => true) = some a →
      ∀ t, s.sigAdd a (leNat pkt.payload % 2 ^ 64) ⟨pktSrc pkt, leNat pkt.payload / 2 ^ 64 % 2 ^ 6⟩ = .added t →
        (s.body p pkt).2 = .accept ∧ (s.flag Obs.traceStall = false → (s.body p pkt).1.mem = t.mem)) ∧
    (pktKind pkt = 1 → pkt.payload.length = 16 → leNat pkt.payload / 2 ^ 70 = 0 → 0xFF00 ≤ pktRh pkt → pktRh pkt ≠ 0xFF20 →
      s.body p pkt = (s, .nack 2)) ∧
    (pktKind pkt = 1 → pkt.payload.length = 16 → leNat pkt.payload / 2 ^ 70 = 0 → pktRh pkt < 0xFF00 →
      s.regionAddr (pktRh pkt) (pktOffset pkt) 8 (fun _ => true) = none →
      s.body p pkt = (s.logE clAccess (.port p) (pktSrc pkt) [(pktRh pkt, 16), (pktOffset pkt, 40)], .nack 1)) ∧
    (pktKind pkt = 2 → pktRh pkt ≠ 0xFF00 → pktRh pkt ≠ 0xFF01 → s.body p pkt = (s, .nack 2)) ∧
    (pktKind pkt = 0 → pktVc pkt ≠ 0 → 0xFF00 ≤ pktRh pkt → s.body p pkt = (s, .nack 2)) ∧
    (pktKind pkt = 4 → ackOk pkt false = true →
      (s.dst (leNat pkt.payload % 2 ^ 20)).waiting = [] → (∀ f ∈ (s.dst (leNat pkt.payload % 2 ^ 20)).flights, f.dma = none) →
      ∀ f, f ∈ ((s.body p pkt).1.dst (leNat pkt.payload % 2 ^ 20)).flights ↔
        f ∈ (s.dst (leNat pkt.payload % 2 ^ 20)).flights ∧
          ackCovers (leNat pkt.payload / 2 ^ 32 % 2 ^ 32) (leNat pkt.payload / 2 ^ 64 % 2 ^ 64) (pktSeq f.pkt) = false)

/-- A mirror copy at its destination, as R305 has it: written after the checks, discarded and counted where one fails; no answer, no log
entry and no transport state in either case. Memory beside the copy may change only as records of a stalled trace are written (R443). -/
def Obligations.MirrorCopiesKeepNoState : Prop :=
  ∀ (s : State) (p : Nat) (pkt : Pkt), pktMirror pkt = true →
    let t := s.mirrorIn p pkt
    let permitted := s.regionAddr (pktRh pkt) (pktOffset pkt) (pktLength pkt) (·.wUnsched)
    t.wire = s.wire ∧ t.log = s.log ∧ t.srcs = s.srcs ∧ t.dsts = s.dsts ∧ t.ports = s.ports ∧
    (∀ a, pktCrcOk pkt = true → permitted = some a → s.ramOk a pkt.payload.length = true → s.storeErr a pkt.payload.length = none →
      s.flag Obs.traceStall = false → ∀ x, t.rd x = if a ≤ x ∧ x < a + pkt.payload.length then pkt.payload.getD (x - a) 0 else s.rd x) ∧
    (pktCrcOk pkt = false ∨ permitted = none →
      t.mem = s.mem ∧ ∃ n, n < 8 ∧ t.get (Sl.mirRxRefused n) = (s.get (Sl.mirRxRefused n) + 1) % 2 ^ 64)

/-- Timers and turns of the transport (R187, R268-R270, R275, R295, R297, R306): a packet whose timer runs out is sent again with RESEND
and its timer doubled, up to RESEND_MAX, and then given up with its destination failed, whether its source holds it or a long-haul port its
segment; gaps are asked for by NACK; a request whose update
has come is served; a closed pool is rebuilt; a port grants, and its share and samples begin anew. -/
def Obligations.TransportTimersAct : Prop :=
  ∀ (s : State) (named : Option Nat) (d p m pool : Nat) (seq : W32) (f : Flight), s.active = true →
    let src := named.getD (s.get Fab.deviceId)
    (s.cut = false → src = s.get Fab.deviceId → (s.dst d).flights = [f] → pktSeq f.pkt = seq.toNat → f.custody = false →
      (f.tries ≤ s.get Fab.resendMax →
        exec (.resend d seq named) s =
          .next (((s.setDst d { s.dst d with flights := [{ f with tries := f.tries + 1, timer := 2 * f.timer }] }).bump Fab.resends 1).sendOut
            0 f.via (pktPut f.pkt 202 1 1))) ∧
      (s.get Fab.resendMax < f.tries → f.owner = none →
        ∃ t, exec (.resend d seq named) s = .next t ∧ (t.dst d).failed = true ∧ (t.dst d).flights = [] ∧ t.get Fab.failedDst = d % 2 ^ 20 ∧
          t.get Fab.timeoutEvt = 1)) ∧
    (∀ e x k, s.cut = false → src ≠ s.get Fab.deviceId → s.ports = [(e, x)] → x.window = [k] → k.isOf src d seq.toNat = true →
      (k.tries ≤ s.get Fab.resendMax → s.portUp e = true →
        ∃ t, exec (.resend d seq named) s = .next t ∧ (t.port e).window = [k.again] ∧
          t.wire = s.wire ++ [(e, s.frameOf e (pktPut k.pkt 202 1 1))] ∧ t.get Fab.resends = (s.get Fab.resends + 1) % 2 ^ 64) ∧
      (s.get Fab.resendMax < k.tries → s.portUp e = true →
        ∃ t, exec (.resend d seq named) s = .next t ∧ (t.port e).window = [] ∧ (t.dst d).failed = true ∧
          t.get Fab.failedDst = d % 2 ^ 20 ∧ t.get Fab.timeoutEvt = 1) ∧
      (s.portUp e = false → exec (.resend d seq named) s = .next s)) ∧
    (s.cut = true → exec (.resend d seq named) s = .next s ∧ exec (.delivTo d seq) s = .next s) ∧
    ((s.src d).got = [] → (s.src d).held = [] → exec (.gapNack d) s = .next s) ∧
    (∀ g, (s.src d).gaps = [g] → exec (.gapNack d) s = .next (s.sendNack d g.1 g.2 0)) ∧
    (s.cut = false → f ∈ (s.dst d).flights → pktSeq f.pkt = seq.toNat → f.custody = true →
      ∃ t, exec (.delivTo d seq) s = .next t ∧ t.get Fab.timeoutEvt = 1 ∧ t.dsts = s.dsts ∧
        ∃ n x, Tab.find t.log n = some x ∧ x.cls = clE2eTimeout) ∧
    (m < 4 → pool < 8 → s.flag (Pool.closed m pool) = true →
      exec (.poolRebuild m pool) s = .next ((s.poolRebuild m pool).retryDie m) ∧ (s.poolRebuild m pool).get (Pool.closed m pool) = 0) ∧
    (s.flag (Pool.closed m pool) = false → exec (.poolRebuild m pool) s = .next s) ∧
    (∀ q, s.portUp p = true → s.vc0Turn p = true → s.headOf p 0 = some q →
      exec (.transmit p) s = .next (((s.setPort p ((s.port p).take 0 q)).transmitQ p q).sendMark p).turns ∧
        ((s.port p).take 0 q).queue 0 = ((s.port p).queue 0).erase q) ∧
    (s.portUp p = false → exec (.transmit p) s = .next s) ∧
    (∃ t, exec (.shareInterval p) s = .next t ∧ (t.port p).vc0Ns = 0 ∧ t.csr = s.csr ∧ t.mem = s.mem) ∧
    (m < 4 → ∃ t, exec (.sample m) s = .next t ∧ t.mem = s.mem ∧ ∀ c v, c < 128 → 1 ≤ v → v ≤ 5 →
      t.get (Tm.qDepth m c v) = (s.port (128 * m + c)).depth v % 2 ^ 32) ∧
    (∀ q idx, s.running = true → s.fetches[idx]? = some q → q.whole = true →
      fqStep q.head + 1 ≤ s.updValue (lyBucket (s.layer (fqLayer q.head))) →
      exec (.fetchWaitEnds idx) s = .next (({ s with fetches := s.fetches.eraseIdx idx }.decideFetch q).showWaiting))

/-! ### Commit and survival -/

/-- A device votes once it may, on the first barrier or commit entry without its vote; its vote waits for its children's, and the root of a
barrier that has every vote ends it; the time bound of an outcome, the norm of the step, which is that of the schedule's records where it
names some, and a bucket's restore by replica act as their rules say; a commit makes the step COMMITTED and begins the next step and a new
epoch, and of the votes only those of barriers to come stay (R216, R217, R219, R223, R236, R240, R242-R244). -/
def Obligations.VotesAndCommits : Prop :=
  ∀ (s : State) (i v : Nat) (norm : W32) (k : Bucket) (whole : Bool), s.active = true → s.running = true →
    let own (t : State) : Option Nat := Tab.find t.commit.own (s.ordinal 0 i)
    (s.nextVote = some i → s.mayVote i = true → s.collKind i = 7 →
      exec .vote s = .next (s.castVote i (votePayload 1 true 0 s.step 1 0)).turns) ∧
    (s.isRoot i = false ∨ (∃ d ∈ (s.tree i).children, Tab.find s.commit.votes (s.ordinal 0 i * 2 ^ 20 + d) = none) →
      own (s.castVote i v) = some v) ∧
    (s.isRoot i = true → (s.tree i).children = [] → s.voters i = voteCount v → s.collKind i = 7 →
      own (s.castVote i v) = none ∧ s.ordinal 0 i ∈ (s.castVote i v).commit.done) ∧
    (s.nextVote = some i → s.mayVote i = true → s.collKind i = 8 → exec .vote s = .next (s.voteCommit i).turns) ∧
    (s.nextVote = none → exec .vote s = .next s) ∧
    (s.nextVote = some i → s.mayVote i = false → exec .vote s = .next s) ∧
    (s.commit.own ≠ [] → s.commit.failed = false →
      ∃ t, exec .commitTimeout s = .next t ∧ t.get Fab.timeoutEvt = 1 ∧ t.get Side.alertPend = 1 ∧ t.commit = s.commit ∧
        ∃ n x, Tab.find t.log n = some x ∧ x.cls = clE2eTimeout) ∧
    (s.commit.own = [] → exec .commitTimeout s = .next s) ∧
    (s.get Upd.clipMode ≠ 0 → s.normNow = none → s.sched.norms = [] ∨ norm.toNat = s.globalNorm →
      ∃ t, exec (.clipFactorWrite norm) s = .next t ∧ t.normNow = some norm.toNat ∧ t.get Upd.normCur = s.get Upd.normCur) ∧
    (s.sched.norms ≠ [] → norm.toNat ≠ s.globalNorm → exec (.clipFactorWrite norm) s = .next s) ∧
    (s.bucket k.id = some k → k.owned = true → k.id ∈ s.restoring → (∃ j ∈ s.restoring, j ≠ k.id) →
      ∃ t, exec (.restoreFromReplica k.id whole) s = .next t ∧ t.restoring = s.restoring.filter (· != k.id) ∧ t.csr = s.csr ∧ t.mem = s.mem) ∧
    (s.bucket k.id = some k → k.owned = true → k.id ∉ s.restoring → exec (.restoreFromReplica k.id whole) s = .next s) ∧
    (s.sched.commitWords = [] → s.sched.buckets = [] → s.get Upd.gtCount = 0 →
      s.commitStep.step = s.step + 1 ∧ s.commitStep.get Upd.committed = s.step % 2 ^ 64 ∧
      s.commitStep.get Coll.epoch = (s.get Coll.epoch + 1) % 2 ^ 64 ∧
      s.commitStep.commit = { votes := s.commitStep.commit.votes } ∧
      ∀ e, e ∈ s.commitStep.commit.votes ↔ e ∈ s.commit.votes ∧ 0 ≤ ordDiff (e.1 / 2 ^ 20) (s.ordinal 1 0))

/-- Survival timers: heartbeats to every peer (R362), a peer that is lost (R363), a pairing that nobody answers (R359), refill one piece at a
time (R373), and stragglers reported while the device keeps waiting (R383). -/
def Obligations.SurvivalTimersReport : Prop :=
  ∀ (s : State) (peer bucket : Nat) (missing : List Nat) (h : HostHdr), s.active = true →
    (s.running = true → s.peers = [peer] → exec .heartbeatSend s = .next (s.sendMsg peer 2 0 (s.get Upd.committed) 0 16)) ∧
    (s.running = false → exec .heartbeatSend s = .next s) ∧
    (peer ∈ s.peers → ∃ t, exec (.hbMiss peer) s = .next t ∧ t.get Surv.peerLostEvt = 1 ∧ t.get Side.alertPend = 1 ∧
      t.get Surv.partner = s.get Surv.partner ∧ t.get Surv.pairState = s.get Surv.pairState ∧ t.sched = s.sched ∧ t.routes = s.routes ∧
      t.mem = s.mem ∧ ∃ n x, Tab.find t.log n = some x ∧ x.cls = clE2eTimeout) ∧
    (peer ∉ s.peers → exec (.hbMiss peer) s = .next s) ∧
    (s.pairCmd = some h → ∃ t, exec .pairTimeout s = completes t 0x30 h stNotReady [] ∧ t.pairCmd = none ∧ t.csr = s.csr) ∧
    (s.pairCmd = none → exec .pairTimeout s = .next s) ∧
    (s.running = true → 1 ≤ s.step → (s.owned.filter fun e => pmState e.2 == 1).length < s.get Surv.fillPar →
      exec .refillSweeper s = .next s.refillSweep) ∧
    (s.running = true → s.get Surv.straggleUs ≠ 0 → missing ≠ [] →
      ∃ t, exec (.straggleUs bucket missing) s = .next t ∧ t.get Surv.straggleEvt = 1 ∧ t.get Side.alertPend = 1 ∧ t.buckets = s.buckets ∧
        t.chans = s.chans ∧ t.get Cmd.runState = s.get Cmd.runState)

/-! ### Memory, flash and lifetime -/

/-- Scrubbing and migration (R336-R340, R344, R476): a line or word without error stays as it is, one with a single symbol or bit in error is
corrected and counted, one beyond the code's correction becomes poisoned or keeps its error; after the last line of a retired channel the
migration ends. -/
def Obligations.ScrubbingFindsErrors : Prop :=
  ∀ (s : State) (addr n : Nat), s.active = true →
    (isLpddr addr = true → s.inSpare addr = false → s.get (Mc.retCh (addr / 0x2A00000000)) ≠ s.chanAt addr % 48 →
      exec (.patrolScrub addr false 0) s = .next s ∧
      (addr / 64 * 64 ∉ s.poison →
        exec (.patrolScrub addr false 1) s = .next (s.lineCorrected (addr / 64 * 64)) ∧
        ∀ k, 2 ≤ k → k ≤ 7 → exec (.patrolScrub addr false k) s = .next (s.lineUncorr (addr / 64 * 64)) ∧
          addr / 64 * 64 ∈ (s.lineUncorr (addr / 64 * 64)).poison) ∧
      (addr / 64 * 64 ∈ s.poison → ∀ k, exec (.patrolScrub addr false k) s = .next s) ∧
      exec (.patrolScrub addr true 0) s = .next s) ∧
    (isStone addr = true →
      (addr / 8 * 8 ∉ s.badWords →
        exec (.stoneScrub addr 0) s = .next s ∧
        (∃ t, exec (.stoneScrub addr 1) s = .next t ∧ t.badWords = s.badWords ∧
          t.get (Sc.corr (dieOf addr)) = (s.get (Sc.corr (dieOf addr)) + 1) % 2 ^ 32) ∧
        (∃ t, exec (.stoneScrub addr 2) s = .next t ∧ addr / 8 * 8 ∈ t.badWords))) ∧
    (n < 8 → s.flag (Mc.migrating n) = true → s.longs = [] →
      (s.get (Mc.migPtr n) + 1 < chanLines → exec (.migrationLineCopy n 0) s = .next (s.bump (Mc.migPtr n) 1)) ∧
      (s.get (Mc.migPtr n) + 1 = chanLines →
        ∃ t, exec (.migrationLineCopy n 0) s = .next t ∧ t.get (Mc.migrating n) = 0 ∧ t.get (Mc.retireEvt n) = 1))

/-- Impressions and flash (R347, R351-R353): the sweeper claims the next bucket of the impression's plan whose state is that of its step, the
commit record makes the impression valid and marks it where a partner's digest did not come, a block that fails is retired and its failures
counted. -/
def Obligations.FlashKeepsImpressions : Prop :=
  ∀ (s : State) (w : ImpWrite) (k : Bucket) (block : Nat),
    (s.active = true → s.running = true → s.impWrite = some w → (s.impPlan w).find? (s.sweepable w.imp.step) = some k →
      exec .sweeper s = .next (s.claim k)) ∧
    (s.impWrite = none → exec .sweeper s = .next s ∧ exec .commitRecord s = .next s) ∧
    (s.active = true → s.running = true → s.impWrite = some w → s.impPlan w = [] → w.early = [] → s.get Surv.sharedM = 0 →
      ∃ t, exec .commitRecord s = .next t ∧ t.impWrite = none ∧ t.validCount = s.validCount + 1 ∧
        t.get Imp.validStep = w.imp.step % 2 ^ 64 ∧ t.get Imp.writingStep = 2 ^ 64 - 1 ∧ t.get Surv.exportReady = s.get Surv.exportReady ∧
        t.get Imp.uncompared = if w.expect.all (fun id => decide (id ∈ w.compared)) = true then s.get Imp.uncompared else 1) ∧
    (∀ e f, s.alive = true → Tab.get s.flash (0, 0, false) block = (e, f, false) →
      ∃ t, exec (.flashProgramFailure block) s = .next t ∧ Tab.get t.flash (0, 0, false) block = (e, f + 1, true) ∧
        t.get Imp.blocksRetired = (s.get Imp.blocksRetired + 1) % 2 ^ 32 ∧ t.get Imp.flashEvt = 1 ∧
        ∀ j, j ≠ block → Tab.get t.flash (0, 0, false) j = Tab.get s.flash (0, 0, false) j) ∧
    (∀ e f, Tab.get s.flash (0, 0, false) block = (e, f, true) → exec (.flashProgramFailure block) s = .next s)

/-- Lifetime records: power-on time in steps of 600 s, written with the ageing (R426); ageing that passes the limit of R428 raises AGE_EVT; the
calendar advances once it is valid (R429). -/
def Obligations.LifetimeRecordsAdvance : Prop :=
  ∀ (s : State) (r mv : Nat) (temp : Int), s.alive = true →
    (∃ t, exec .lifetimeRecordWrite s = .next t ∧ t.get Sec.powerOnS = (s.get Sec.powerOnS + 600) % 2 ^ 64 ∧
      Tab.get t.stored 0 0 = t.get Sec.powerOnS ∧ ∀ u, u < 85 → Tab.get t.stored 0 (1 + u) = s.get (Sec.age u)) ∧
    (r < 85 →
      let minute := Tab.get s.ageFrac 0 r + ageFactor temp (if r < 72 then mv else 750)
      ∃ t, exec (.ageUpdate r temp mv) s = .next t ∧ t.get (Sec.age r) = (s.get (Sec.age r) + minute / (60 * 2 ^ 32)) % 2 ^ 32 ∧
        Tab.get t.ageFrac 0 r = minute % (60 * 2 ^ 32) ∧
        (s.get (Sec.age r) < 61362 → 61362 ≤ s.get (Sec.age r) + minute / (60 * 2 ^ 32) → t.get Sec.ageEvt = 1 ∧ t.get Side.alertPend = 1)) ∧
    (s.flag Sec.calValid = true → exec .calendarAdvance s = .next (s.bump Sec.calendar 1)) ∧
    (s.flag Sec.calValid = false → exec .calendarAdvance s = .next s)

/-! ### Power, resets and the sideband -/

/-- The input (R454, R455): an excursion is logged once, above 46.0 V the module falls to STANDBY with FAULT_CAUSE 2, below 34.0 V or above
50.0 V it is OFF, whatever the voltage (log entry 32), and a measurement is what the registers show. -/
def Obligations.TheInputDecidesThePowerState : Prop :=
  ∀ (s : State) (v iin pin avg : Nat),
    (s.alive = true → (34000 ≤ v ∧ v < 36000) ∨ (44000 < v ∧ v ≤ 46000) →
      (s.excursion = false → ∃ t, exec (.supplyExcursion v) s = .next t ∧ t.get Pwr.supplyEvt = 1 ∧ t.get Side.alertPend = 1 ∧
        t.excursion = true ∧ t.get Cmd.powerState = s.get Cmd.powerState ∧ ∃ n x, Tab.find t.log n = some x ∧ x.cls = clSupply ∧ x.utype = 9) ∧
      (s.excursion = true → exec (.supplyExcursion v) s = .next (s.set Pwr.vin v))) ∧
    (s.alive = true → 46000 < v → v ≤ 50000 →
      ∃ t, exec (.overvoltage v) s = .next t ∧ t.get Cmd.powerState = 1 ∧ t.get Side.faultCause = 2 ∧ t.get Side.faultOut = 1 ∧
        t.get Cmd.runState = 0 ∧ t.active = false) ∧
    (s.get Cmd.powerState ≠ 0 → v < 34000 ∨ 50000 < v →
      ∃ t, exec (.inputOff v) s = .next t ∧ (50000 < v → exec (.overvoltage v) s = .next t) ∧ t.get Cmd.powerState = 0 ∧ t.alive = false ∧ t.mem = [] ∧ t.log = []) ∧
    (s.get Cmd.powerState ≠ 0 →
      ∃ t, exec (.powerMeasurement v iin pin avg) s = .next t ∧ t.get Pwr.vin = v % 2 ^ 16 ∧ t.get Pwr.pinAvg = avg % 2 ^ 11 ∧
        t.mem = s.mem ∧ t.get Cmd.powerState = s.get Cmd.powerState)

/-- Resets and the entry to ACTIVE (R9, R420, R457-R461): power-on and RESET_N boot the hub into STANDBY, PWR_EN brings the dies up and down;
what is kept is kept, and the dies' memory is lost. A slot whose image passes is assumed for the boot (log entry 7). -/
def Obligations.ResetsAndPowerEnable : Prop :=
  ∀ (s : State) (v : Nat), s.slotBoots (s.get Sec.activeSlot) = true →
    (s.get Cmd.powerState = 0 → 35000 < v → v ≤ 50000 →
      ∃ t, exec (.powerOnReset v) s = .next t ∧ t.get Cmd.powerState = 1 ∧ t.get Cmd.runState = 0 ∧ t.mem = [] ∧ t.streams = [] ∧
        t.dsts = [] ∧ t.log = [] ∧ t.get Pwr.vin = v) ∧
    (s.alive = true → ∃ t, exec .warmReset s = .next t ∧ t.get Side.resetNIn = 0 ∧ t.alive = false ∧ t.mem = [] ∧ t.log = s.log ∧
      t.streams = [] ∧ t.get Sec.mono = s.get Sec.mono ∧ t.get Sec.calendar = s.get Sec.calendar) ∧
    (s.flag Side.resetNIn = true → exec .resetNHigh s = .next s) ∧
    (s.get Cmd.powerState = 1 → s.flag Side.resetNIn = false → s.flag Side.pwrEnIn = false →
      ∃ t, exec .resetNHigh s = .next t ∧ t.get Cmd.powerState = 1 ∧ t.alive = true ∧ t.get Sec.mono = (s.get Sec.mono + 1) % 2 ^ 64) ∧
    (s.alive = true → s.get Cmd.powerState = 1 → s.flag Sec.bootRecovery = false →
      (∃ t, exec (.pwrEnHigh true) s = .next t ∧ t.active = true ∧ t.get Side.pwrgdOut = 1 ∧ t.get Side.pwrEnIn = 1) ∧
      (∃ t, exec (.pwrEnHigh false) s = .next t ∧ t.get Cmd.powerState = 1 ∧ t.get Side.faultCause = 4)) ∧
    (s.active = true → ∃ t, exec .pwrEnLow s = .next t ∧ t.get Cmd.powerState = 1 ∧ t.get Side.pwrgdOut = 0 ∧ t.get Side.pwrEnIn = 0 ∧
      t.get Cmd.runState = 0 ∧ t.streams = [] ∧ t.ports = [] ∧ ∀ c ∈ t.mem, 0x3F000D000000 ≤ c.1) ∧
    (s.active = false → exec .pwrEnLow s = .next (s.set Side.pwrEnIn 0))

/-- Power and heat (R462, R466): the power step lowers the benches' cap above 97 % of P_LIMIT and raises it below 85 %; a region at its limit is
capped 5 mV lower, never below 600 mV; 103 C asserts THERM_N and logs, 107 C trips to STANDBY with FAULT_CAUSE 1, and a hot coolant inlet is
logged. -/
def Obligations.PowerAndHeatAreThrottled : Prop :=
  ∀ (s : State) (r : Nat) (temp : Int) (inlet : Nat),
    (s.active = true →
      (97 * s.get Pwr.pLimit < 100 * s.get Pwr.pinAvg →
        ∃ t, exec .powerThrottleStep s = .next t ∧ t.capPower = max 600 (s.capPower - 5) ∧ t.get Pwr.plimitEvt = 1) ∧
      (100 * s.get Pwr.pinAvg < 85 * s.get Pwr.pLimit →
        ∃ t, exec .powerThrottleStep s = .next t ∧ t.capPower = min 850 (s.capPower + 5)) ∧
      (s.lowPower = false → 85 * s.get Pwr.pLimit ≤ 100 * s.get Pwr.pinAvg → 100 * s.get Pwr.pinAvg ≤ 97 * s.get Pwr.pLimit →
        ∃ t, exec .powerThrottleStep s = .next t ∧ t.capPower = s.capPower) ∧
      (r < 72 → 10 * (s.get Pwr.tThrottle : Int) ≤ temp → -32768 ≤ temp → temp ≤ 32767 →
        ∃ t, exec (.thermalThrottleStep r temp) s = .next t ∧ Tab.get t.capHeat 850 r = max 600 (Tab.get s.capHeat 850 r - 5) ∧
          t.get (Rgn.temp r) = twos 16 temp % 2 ^ 16)) ∧
    (s.alive = true → r < 85 → 1030 ≤ temp → temp ≤ 32767 →
      ∃ t, exec (.thermN r temp) s = .next t ∧ t.get Pwr.thermEvt = 1 ∧ t.get Side.thermOut = 1 ∧
        ∃ n x, Tab.find t.log n = some x ∧ x.cls = clThermal) ∧
    (s.alive = true → r < 85 → 1070 ≤ temp →
      ∃ t, exec (.thermalTrip r temp) s = .next t ∧ t.get Cmd.powerState = 1 ∧ t.get Side.faultCause = 1 ∧ t.get Pwr.tripEvt = 1) ∧
    (s.alive = true → r < 72 → temp < 1030 → -32768 ≤ temp → (∀ u, u < 85 → u ≠ r → s.sensorTemp u < 1030) →
      ∃ t, exec (.thermNDeassert r temp) s = .next t ∧ t.get Side.thermOut = 0) ∧
    (s.alive = true → 450 < inlet →
      ∃ t, exec (.coolantHot inlet) s = .next t ∧ t.get Pwr.coolEvt = 1 ∧ t.get Side.alertPend = 1 ∧ t.get Pwr.coolIn = inlet % 2 ^ 16)

/-- The TAP holds the last instruction that it took, EXTEST only while RESET_N is low, and selects IDCODE at its reset (R467; the latter as
IEEE 1149.1, log entry 8); the SMBus reads 8 bytes at the address written to it and goes on behind them, ones where an address is not readable
(R468). -/
def Obligations.TheTapAndTheSmbusAnswer : Prop :=
  ∀ (s : State) (bytes : List Byte),
    (s.get Cmd.powerState ≠ 0 →
      exec .trstN s = .next { s with tapIr := 1, tapDrive := false } ∧ exec .idcode s = .next { s with tapIr := 1, tapDrive := false } ∧
      exec .samplePreload s = .next { s with tapIr := 2, tapDrive := false } ∧ exec .bypass s = .next { s with tapIr := 255, tapDrive := false } ∧
      (s.flag Side.resetNIn = false → exec .extest s = .next { s with tapIr := 0, tapDrive := true }) ∧
      (s.flag Side.resetNIn = true → exec .extest s = .next { s with tapIr := 255, tapDrive := false })) ∧
    (s.alive = true → bytes.length = 6 → exec (.blockWrite bytes) s = .next { s with smbAddr := leNat bytes }) ∧
    (s.alive = true → ∃ t, exec .blockRead s = .next t ∧ t.smbOut.length = 8 ∧ t.smbAddr = (s.smbAddr + 8) % 2 ^ 48 ∧ t.csr = s.csr ∧
      (s.smbAddr % 8 = 0 → t.smbOut = leBytes 8 (s.smbWord s.smbAddr).1) ∧
      ((∀ k, k < 8 → s.smbAddr + k < 0x3F00000B0000 ∨ 0x3F00000D0000 ≤ s.smbAddr + k) → t.smbOut = List.replicate 8 0xFF) ∧
      (∀ fs, 0x3F00000B0000 ≤ s.smbAddr → s.smbAddr < 0x3F00000D0000 → locate s.smbAddr = .regs fs → s.smbWord s.smbAddr = s.readFields fs))

/-! ### Observation and the Dreril Link -/

/-- Trace records leave their FIFO oldest first (R441); a wait of HANG_US raises HANG_EVT (R445); the second sample of a build ends it (R445,
R446). -/
def Obligations.ObservationReports : Prop :=
  ∀ (s : State) (r b i rec : Nat) (rest : List Nat),
    (s.active = true → r < 72 → Tab.get s.traceFifo [] r = rec :: rest →
      ∃ t, exec (.traceRingWrite r) s = .next t ∧ Tab.get t.traceFifo [] r = rest) ∧
    (s.active = true → Tab.get s.traceFifo [] r = [] → exec (.traceRingWrite r) s = .next s) ∧
    (s.active = true → b < 40 → i < 10 ∨ i = 15 → s.get Obs.hangUs ≠ 0 → s.get (Stn.state b i) = 2 →
      ∃ t, exec (.hangDetect b i) s = .next t ∧ t.get Obs.hangEvt = 1 ∧ t.get Side.alertPend = 1) ∧
    (s.get (Stn.state b i) ≠ 2 → exec (.hangDetect b i) s = .next s) ∧
    (∀ x, s.alive = true → s.graph = some x →
      ∃ t, exec .graphSample s = .next t ∧ t.graph = none ∧ t.get Obs.building = 0 ∧ t.get Obs.graphSeq = (s.get Obs.graphSeq + 1) % 2 ^ 64 ∧
        t.get Obs.graphCur = (1 - s.get Obs.graphCur) % 2) ∧
    (s.graph = none → exec .graphSample s = .next s)

/-- The Dreril Link (R387-R391): an ACK releases flits of the replay buffer, a NAK sends them again, a lost codeword makes a NAK due, control
flits carry it and the credits; the link goes down with LINK_DOWN logged and what is unsent held, and comes up by retraining. -/
def Obligations.TheDrerilLinkRecovers : Prop :=
  ∀ (s : State) (flit : BitVec 256), s.alive = true →
    (s.get Dl.linkState = 2 →
      (flitSound flit.toNat = false → exec (.linkControlFlit flit) s = .next (s.logE clSequence .hub 0 [])) ∧
      (flitSound flit.toNat = true → s.dreril.outQ = [] → flit.toNat / 2 ^ 28 % 2 = 0 →
        ∃ t, exec (.linkControlFlit flit) s = .next t ∧ t.dreril.replay = s.dreril.replay.drop (s.dreril.acked (flit.toNat / 2 ^ 16 % 2 ^ 12)) ∧
          t.wire = s.wire ∧ Tab.get t.dreril.credits 0 1 = Tab.get s.dreril.credits 0 1 + flit.toNat / 2 ^ 48 % 2 ^ 16) ∧
      (∃ t, exec .drerilCodewordUncorr s = .next t ∧ t.dreril.nakDue = true ∧ t.get Dl.cwUncorr = (s.get Dl.cwUncorr + 1) % 2 ^ 64) ∧
      (∃ t, exec .linkControlFlitSend s = .next t ∧ t.wire = s.wire ++ [(drerilWire, s.controlOut)] ∧ t.dreril.nakDue = false ∧
        t.dreril.replay = s.dreril.replay) ∧
      (∃ t, exec .drerilLinkDown s = .next t ∧ t.get Dl.linkState = 0 ∧ t.get Dl.linkEvt = 1 ∧ t.statusQ = s.statusQ ∧ t.bulkQ = s.bulkQ ∧
        ∃ n x, Tab.find t.log n = some x ∧ x.cls = clLinkDown) ∧
      exec .retrain s = .next s) ∧
    (s.get Dl.linkState ≠ 2 →
      exec (.linkControlFlit flit) s = .next s ∧ exec .drerilCodewordUncorr s = .next s ∧ exec .linkControlFlitSend s = .next s ∧
      exec .drerilLinkDown s = .next s ∧ ∃ t, exec .retrain s = .next t ∧ t.get Dl.linkState = 2 ∧
        t.get Dl.retrains = (s.get Dl.retrains + 1) % 2 ^ 32)
end

