-- ==== Sys2Proof/Laws/State.lean ====
section
/-! SUPPORT. What each update of the state leaves: one lemma per field and update, and the registers read after a write. -/

namespace Sys2Proof.Machine

open Sys2Proof

/-! ### Tables -/

@[simp] theorem Tab.get_put_same {α : Type} (t : Tab α) (d : α) (k : Nat) (v : α) : Tab.get (Tab.put t k v) d k = v := by
  induction t with
  | nil => simp [Tab.put, Tab.get]
  | cons c t ih =>
    simp only [Tab.put]
    split
    · simp [Tab.get]
    · split
      · simp [Tab.get]
      · simp [Tab.get, ih, *]

theorem Tab.get_put_ne {α : Type} (t : Tab α) (d : α) {k j : Nat} (v : α) (h : j ≠ k) : Tab.get (Tab.put t k v) d j = Tab.get t d j := by
  induction t with
  | nil => simp [Tab.put, Tab.get, h]
  | cons c t ih =>
    obtain ⟨k', v'⟩ := c
    simp only [Tab.put]
    split
    · simp [Tab.get, h]
    · split
      · subst_vars; simp [Tab.get, h]
      · simp [Tab.get, ih]

@[simp] theorem Tab.get_del_same {α : Type} (t : Tab α) (d : α) (k : Nat) : Tab.get (Tab.del t k) d k = d := by
  induction t with
  | nil => rfl
  | cons c t ih =>
    simp only [Tab.del] at ih
    by_cases h : c.1 = k
    · simp [Tab.del, h, ih]
    · simp [Tab.del, h, Tab.get, ih, Ne.symm h]

theorem Tab.get_del_ne {α : Type} (t : Tab α) (d : α) {k j : Nat} (h : j ≠ k) : Tab.get (Tab.del t k) d j = Tab.get t d j := by
  induction t with
  | nil => rfl
  | cons c t ih =>
    simp only [Tab.del] at ih
    by_cases hc : c.1 = k
    · simp [Tab.del, hc, ih, Tab.get, h]
    · simp [Tab.del, hc, Tab.get, ih]

@[simp] theorem Tab.get_set_same {α : Type} [DecidableEq α] (t : Tab α) (d : α) (k : Nat) (v : α) :
    Tab.get (Tab.set t d k v) d k = v := by
  unfold Tab.set
  split
  · simp [*]
  · simp

theorem Tab.get_set_ne {α : Type} [DecidableEq α] (t : Tab α) (c d : α) {k j : Nat} (v : α) (h : j ≠ k) :
    Tab.get (Tab.set t c k v) d j = Tab.get t d j := by
  unfold Tab.set
  split
  · exact Tab.get_del_ne t d h
  · exact Tab.get_put_ne t d v h

/-! ### Register fields -/

/-- A field reads as it was written, narrowed to its width. -/
@[simp] theorem State.get_set_same (s : State) (f : Field) (v : Nat) : (s.set f v).get f = v % 2 ^ f.width := by
  simp [State.get, State.set]

/-- A write of one field leaves every field at another place. -/
theorem State.get_set_ne (s : State) {f g : Field} (v : Nat) (h : g.key ≠ f.key) : (s.set f v).get g = s.get g := by
  simp [State.get, State.set, Tab.get_set_ne _ _ _ _ h]

@[simp] theorem State.get_bump_same (s : State) (f : Field) (n : Nat) : (s.bump f n).get f = (s.get f + n) % 2 ^ f.width := by
  simp [State.bump]

theorem State.get_bump_ne (s : State) {f g : Field} (n : Nat) (h : g.key ≠ f.key) : (s.bump f n).get g = s.get g :=
  State.get_set_ne s _ h

/-- A list of writes leaves every field that it does not name. -/
theorem State.get_setAll_ne (s : State) (l : List (Field × Nat)) {g : Field} (h : ∀ e ∈ l, g.key ≠ e.1.key) :
    (s.setAll l).get g = s.get g := by
  induction l generalizing s with
  | nil => rfl
  | cons e l ih =>
    have := ih (s.set e.1 e.2) (fun x hx => h x (List.mem_cons_of_mem _ hx))
    rw [show s.setAll (e :: l) = (s.set e.1 e.2).setAll l from rfl, this]
    exact State.get_set_ne s _ (h e (List.mem_cons_self ..))

/-! ### Fields of the state -/

@[simp] theorem State.set_pending (s : State) (f : Field) (v : Nat) : (s.set f v).pending = s.pending := rfl
@[simp] theorem State.set_mem (s : State) (f : Field) (v : Nat) : (s.set f v).mem = s.mem := rfl
@[simp] theorem State.set_poison (s : State) (f : Field) (v : Nat) : (s.set f v).poison = s.poison := rfl
@[simp] theorem State.set_badWords (s : State) (f : Field) (v : Nat) : (s.set f v).badWords = s.badWords := rfl
@[simp] theorem State.set_chanErrs (s : State) (f : Field) (v : Nat) : (s.set f v).chanErrs = s.chanErrs := rfl
@[simp] theorem State.set_log (s : State) (f : Field) (v : Nat) : (s.set f v).log = s.log := rfl
@[simp] theorem State.set_comps (s : State) (f : Field) (v : Nat) : (s.set f v).comps = s.comps := rfl
@[simp] theorem State.set_streams (s : State) (f : Field) (v : Nat) : (s.set f v).streams = s.streams := rfl
@[simp] theorem State.set_queues (s : State) (f : Field) (v : Nat) : (s.set f v).queues = s.queues := rfl
@[simp] theorem State.set_chans (s : State) (f : Field) (v : Nat) : (s.set f v).chans = s.chans := rfl
@[simp] theorem State.set_snaps (s : State) (f : Field) (v : Nat) : (s.set f v).snaps = s.snaps := rfl
@[simp] theorem State.set_benchCur (s : State) (f : Field) (v : Nat) : (s.set f v).benchCur = s.benchCur := rfl
@[simp] theorem State.set_stnCnt (s : State) (f : Field) (v : Nat) : (s.set f v).stnCnt = s.stnCnt := rfl
@[simp] theorem State.set_veils (s : State) (f : Field) (v : Nat) : (s.set f v).veils = s.veils := rfl
@[simp] theorem State.set_slotCur (s : State) (f : Field) (v : Nat) : (s.set f v).slotCur = s.slotCur := rfl
@[simp] theorem State.set_rings (s : State) (f : Field) (v : Nat) : (s.set f v).rings = s.rings := rfl
@[simp] theorem State.set_elapsed (s : State) (f : Field) (v : Nat) : (s.set f v).elapsed = s.elapsed := rfl
@[simp] theorem State.set_resetAt (s : State) (f : Field) (v : Nat) : (s.set f v).resetAt = s.resetAt := rfl
@[simp] theorem State.set_sched (s : State) (f : Field) (v : Nat) : (s.set f v).sched = s.sched := rfl
@[simp] theorem State.set_step (s : State) (f : Field) (v : Nat) : (s.set f v).step = s.step := rfl
@[simp] theorem State.set_jobBegun (s : State) (f : Field) (v : Nat) : (s.set f v).jobBegun = s.jobBegun := rfl
@[simp] theorem State.set_layouts (s : State) (f : Field) (v : Nat) : (s.set f v).layouts = s.layouts := rfl
@[simp] theorem State.set_buckets (s : State) (f : Field) (v : Nat) : (s.set f v).buckets = s.buckets := rfl
@[simp] theorem State.set_badLayers (s : State) (f : Field) (v : Nat) : (s.set f v).badLayers = s.badLayers := rfl
@[simp] theorem State.set_badGroups (s : State) (f : Field) (v : Nat) : (s.set f v).badGroups = s.badGroups := rfl
@[simp] theorem State.set_badColl (s : State) (f : Field) (v : Nat) : (s.set f v).badColl = s.badColl := rfl
@[simp] theorem State.set_fetches (s : State) (f : Field) (v : Nat) : (s.set f v).fetches = s.fetches := rfl
@[simp] theorem State.set_dsts (s : State) (f : Field) (v : Nat) : (s.set f v).dsts = s.dsts := rfl
@[simp] theorem State.set_srcs (s : State) (f : Field) (v : Nat) : (s.set f v).srcs = s.srcs := rfl
@[simp] theorem State.set_dmas (s : State) (f : Field) (v : Nat) : (s.set f v).dmas = s.dmas := rfl
@[simp] theorem State.set_marks (s : State) (f : Field) (v : Nat) : (s.set f v).marks = s.marks := rfl
@[simp] theorem State.set_ports (s : State) (f : Field) (v : Nat) : (s.set f v).ports = s.ports := rfl
@[simp] theorem State.set_poolWords (s : State) (f : Field) (v : Nat) : (s.set f v).poolWords = s.poolWords := rfl
@[simp] theorem State.set_inUse (s : State) (f : Field) (v : Nat) : (s.set f v).inUse = s.inUse := rfl
@[simp] theorem State.set_policers (s : State) (f : Field) (v : Nat) : (s.set f v).policers = s.policers := rfl
@[simp] theorem State.set_routes (s : State) (f : Field) (v : Nat) : (s.set f v).routes = s.routes := rfl
@[simp] theorem State.set_alarms (s : State) (f : Field) (v : Nat) : (s.set f v).alarms = s.alarms := rfl
@[simp] theorem State.set_aborted (s : State) (f : Field) (v : Nat) : (s.set f v).aborted = s.aborted := rfl
@[simp] theorem State.set_commit (s : State) (f : Field) (v : Nat) : (s.set f v).commit = s.commit := rfl
@[simp] theorem State.set_impNext (s : State) (f : Field) (v : Nat) : (s.set f v).impNext = s.impNext := rfl
@[simp] theorem State.set_imps (s : State) (f : Field) (v : Nat) : (s.set f v).imps = s.imps := rfl
@[simp] theorem State.set_impWrite (s : State) (f : Field) (v : Nat) : (s.set f v).impWrite = s.impWrite := rfl
@[simp] theorem State.set_validCount (s : State) (f : Field) (v : Nat) : (s.set f v).validCount = s.validCount := rfl
@[simp] theorem State.set_normNow (s : State) (f : Field) (v : Nat) : (s.set f v).normNow = s.normNow := rfl
@[simp] theorem State.set_abortDue (s : State) (f : Field) (v : Nat) : (s.set f v).abortDue = s.abortDue := rfl
@[simp] theorem State.set_abortCmd (s : State) (f : Field) (v : Nat) : (s.set f v).abortCmd = s.abortCmd := rfl
@[simp] theorem State.set_aborting (s : State) (f : Field) (v : Nat) : (s.set f v).aborting = s.aborting := rfl
@[simp] theorem State.set_retCause (s : State) (f : Field) (v : Nat) : (s.set f v).retCause = s.retCause := rfl
@[simp] theorem State.set_restoring (s : State) (f : Field) (v : Nat) : (s.set f v).restoring = s.restoring := rfl
@[simp] theorem State.set_pairWith (s : State) (f : Field) (v : Nat) : (s.set f v).pairWith = s.pairWith := rfl
@[simp] theorem State.set_pairCmd (s : State) (f : Field) (v : Nat) : (s.set f v).pairCmd = s.pairCmd := rfl
@[simp] theorem State.set_pairPeer (s : State) (f : Field) (v : Nat) : (s.set f v).pairPeer = s.pairPeer := rfl
@[simp] theorem State.set_fills (s : State) (f : Field) (v : Nat) : (s.set f v).fills = s.fills := rfl
@[simp] theorem State.set_adopting (s : State) (f : Field) (v : Nat) : (s.set f v).adopting = s.adopting := rfl
@[simp] theorem State.set_restores (s : State) (f : Field) (v : Nat) : (s.set f v).restores = s.restores := rfl
@[simp] theorem State.set_mailboxes (s : State) (f : Field) (v : Nat) : (s.set f v).mailboxes = s.mailboxes := rfl
@[simp] theorem State.set_longs (s : State) (f : Field) (v : Nat) : (s.set f v).longs = s.longs := rfl
@[simp] theorem State.set_statusQ (s : State) (f : Field) (v : Nat) : (s.set f v).statusQ = s.statusQ := rfl
@[simp] theorem State.set_bulkQ (s : State) (f : Field) (v : Nat) : (s.set f v).bulkQ = s.bulkQ := rfl
@[simp] theorem State.set_dreril (s : State) (f : Field) (v : Nat) : (s.set f v).dreril = s.dreril := rfl
@[simp] theorem State.set_launch (s : State) (f : Field) (v : Nat) : (s.set f v).launch = s.launch := rfl
@[simp] theorem State.set_stopAt (s : State) (f : Field) (v : Nat) : (s.set f v).stopAt = s.stopAt := rfl
@[simp] theorem State.set_cut (s : State) (f : Field) (v : Nat) : (s.set f v).cut = s.cut := rfl
@[simp] theorem State.set_rgns (s : State) (f : Field) (v : Nat) : (s.set f v).rgns = s.rgns := rfl
@[simp] theorem State.set_time (s : State) (f : Field) (v : Nat) : (s.set f v).time = s.time := rfl
@[simp] theorem State.set_keyHashes (s : State) (f : Field) (v : Nat) : (s.set f v).keyHashes = s.keyHashes := rfl
@[simp] theorem State.set_meas (s : State) (f : Field) (v : Nat) : (s.set f v).meas = s.meas := rfl
@[simp] theorem State.set_jobMeas (s : State) (f : Field) (v : Nat) : (s.set f v).jobMeas = s.jobMeas := rfl
@[simp] theorem State.set_fwSlots (s : State) (f : Field) (v : Nat) : (s.set f v).fwSlots = s.fwSlots := rfl
@[simp] theorem State.set_prevSlot (s : State) (f : Field) (v : Nat) : (s.set f v).prevSlot = s.prevSlot := rfl
@[simp] theorem State.set_ageFrac (s : State) (f : Field) (v : Nat) : (s.set f v).ageFrac = s.ageFrac := rfl
@[simp] theorem State.set_flash (s : State) (f : Field) (v : Nat) : (s.set f v).flash = s.flash := rfl
@[simp] theorem State.set_thermLow (s : State) (f : Field) (v : Nat) : (s.set f v).thermLow = s.thermLow := rfl
@[simp] theorem State.set_thermUp (s : State) (f : Field) (v : Nat) : (s.set f v).thermUp = s.thermUp := rfl
@[simp] theorem State.set_stored (s : State) (f : Field) (v : Nat) : (s.set f v).stored = s.stored := rfl
@[simp] theorem State.set_fixedTemp (s : State) (f : Field) (v : Nat) : (s.set f v).fixedTemp = s.fixedTemp := rfl
@[simp] theorem State.set_fixedRail (s : State) (f : Field) (v : Nat) : (s.set f v).fixedRail = s.fixedRail := rfl
@[simp] theorem State.set_traceFifo (s : State) (f : Field) (v : Nat) : (s.set f v).traceFifo = s.traceFifo := rfl
@[simp] theorem State.set_graph (s : State) (f : Field) (v : Nat) : (s.set f v).graph = s.graph := rfl
@[simp] theorem State.set_lastGraph (s : State) (f : Field) (v : Nat) : (s.set f v).lastGraph = s.lastGraph := rfl
@[simp] theorem State.set_capPower (s : State) (f : Field) (v : Nat) : (s.set f v).capPower = s.capPower := rfl
@[simp] theorem State.set_capHeat (s : State) (f : Field) (v : Nat) : (s.set f v).capHeat = s.capHeat := rfl
@[simp] theorem State.set_lowPower (s : State) (f : Field) (v : Nat) : (s.set f v).lowPower = s.lowPower := rfl
@[simp] theorem State.set_lowHeat (s : State) (f : Field) (v : Nat) : (s.set f v).lowHeat = s.lowHeat := rfl
@[simp] theorem State.set_tapIr (s : State) (f : Field) (v : Nat) : (s.set f v).tapIr = s.tapIr := rfl
@[simp] theorem State.set_tapDrive (s : State) (f : Field) (v : Nat) : (s.set f v).tapDrive = s.tapDrive := rfl
@[simp] theorem State.set_smbAddr (s : State) (f : Field) (v : Nat) : (s.set f v).smbAddr = s.smbAddr := rfl
@[simp] theorem State.set_smbOut (s : State) (f : Field) (v : Nat) : (s.set f v).smbOut = s.smbOut := rfl
@[simp] theorem State.set_excursion (s : State) (f : Field) (v : Nat) : (s.set f v).excursion = s.excursion := rfl
@[simp] theorem State.set_wire (s : State) (f : Field) (v : Nat) : (s.set f v).wire = s.wire := rfl
@[simp] theorem State.set_freeCtr (s : State) (f : Field) (v : Nat) : (s.set f v).freeCtr = s.freeCtr := rfl

@[simp] theorem State.bump_pending (s : State) (f : Field) (n : Nat) : (s.bump f n).pending = s.pending := rfl
@[simp] theorem State.bump_mem (s : State) (f : Field) (n : Nat) : (s.bump f n).mem = s.mem := rfl
@[simp] theorem State.bump_poison (s : State) (f : Field) (n : Nat) : (s.bump f n).poison = s.poison := rfl
@[simp] theorem State.bump_badWords (s : State) (f : Field) (n : Nat) : (s.bump f n).badWords = s.badWords := rfl
@[simp] theorem State.bump_chanErrs (s : State) (f : Field) (n : Nat) : (s.bump f n).chanErrs = s.chanErrs := rfl
@[simp] theorem State.bump_log (s : State) (f : Field) (n : Nat) : (s.bump f n).log = s.log := rfl
@[simp] theorem State.bump_comps (s : State) (f : Field) (n : Nat) : (s.bump f n).comps = s.comps := rfl
@[simp] theorem State.bump_streams (s : State) (f : Field) (n : Nat) : (s.bump f n).streams = s.streams := rfl
@[simp] theorem State.bump_queues (s : State) (f : Field) (n : Nat) : (s.bump f n).queues = s.queues := rfl
@[simp] theorem State.bump_chans (s : State) (f : Field) (n : Nat) : (s.bump f n).chans = s.chans := rfl
@[simp] theorem State.bump_snaps (s : State) (f : Field) (n : Nat) : (s.bump f n).snaps = s.snaps := rfl
@[simp] theorem State.bump_benchCur (s : State) (f : Field) (n : Nat) : (s.bump f n).benchCur = s.benchCur := rfl
@[simp] theorem State.bump_stnCnt (s : State) (f : Field) (n : Nat) : (s.bump f n).stnCnt = s.stnCnt := rfl
@[simp] theorem State.bump_veils (s : State) (f : Field) (n : Nat) : (s.bump f n).veils = s.veils := rfl
@[simp] theorem State.bump_slotCur (s : State) (f : Field) (n : Nat) : (s.bump f n).slotCur = s.slotCur := rfl
@[simp] theorem State.bump_rings (s : State) (f : Field) (n : Nat) : (s.bump f n).rings = s.rings := rfl
@[simp] theorem State.bump_elapsed (s : State) (f : Field) (n : Nat) : (s.bump f n).elapsed = s.elapsed := rfl
@[simp] theorem State.bump_resetAt (s : State) (f : Field) (n : Nat) : (s.bump f n).resetAt = s.resetAt := rfl
@[simp] theorem State.bump_sched (s : State) (f : Field) (n : Nat) : (s.bump f n).sched = s.sched := rfl
@[simp] theorem State.bump_step (s : State) (f : Field) (n : Nat) : (s.bump f n).step = s.step := rfl
@[simp] theorem State.bump_jobBegun (s : State) (f : Field) (n : Nat) : (s.bump f n).jobBegun = s.jobBegun := rfl
@[simp] theorem State.bump_layouts (s : State) (f : Field) (n : Nat) : (s.bump f n).layouts = s.layouts := rfl
@[simp] theorem State.bump_buckets (s : State) (f : Field) (n : Nat) : (s.bump f n).buckets = s.buckets := rfl
@[simp] theorem State.bump_badLayers (s : State) (f : Field) (n : Nat) : (s.bump f n).badLayers = s.badLayers := rfl
@[simp] theorem State.bump_badGroups (s : State) (f : Field) (n : Nat) : (s.bump f n).badGroups = s.badGroups := rfl
@[simp] theorem State.bump_badColl (s : State) (f : Field) (n : Nat) : (s.bump f n).badColl = s.badColl := rfl
@[simp] theorem State.bump_fetches (s : State) (f : Field) (n : Nat) : (s.bump f n).fetches = s.fetches := rfl
@[simp] theorem State.bump_dsts (s : State) (f : Field) (n : Nat) : (s.bump f n).dsts = s.dsts := rfl
@[simp] theorem State.bump_srcs (s : State) (f : Field) (n : Nat) : (s.bump f n).srcs = s.srcs := rfl
@[simp] theorem State.bump_dmas (s : State) (f : Field) (n : Nat) : (s.bump f n).dmas = s.dmas := rfl
@[simp] theorem State.bump_marks (s : State) (f : Field) (n : Nat) : (s.bump f n).marks = s.marks := rfl
@[simp] theorem State.bump_ports (s : State) (f : Field) (n : Nat) : (s.bump f n).ports = s.ports := rfl
@[simp] theorem State.bump_poolWords (s : State) (f : Field) (n : Nat) : (s.bump f n).poolWords = s.poolWords := rfl
@[simp] theorem State.bump_inUse (s : State) (f : Field) (n : Nat) : (s.bump f n).inUse = s.inUse := rfl
@[simp] theorem State.bump_policers (s : State) (f : Field) (n : Nat) : (s.bump f n).policers = s.policers := rfl
@[simp] theorem State.bump_routes (s : State) (f : Field) (n : Nat) : (s.bump f n).routes = s.routes := rfl
@[simp] theorem State.bump_alarms (s : State) (f : Field) (n : Nat) : (s.bump f n).alarms = s.alarms := rfl
@[simp] theorem State.bump_aborted (s : State) (f : Field) (n : Nat) : (s.bump f n).aborted = s.aborted := rfl
@[simp] theorem State.bump_commit (s : State) (f : Field) (n : Nat) : (s.bump f n).commit = s.commit := rfl
@[simp] theorem State.bump_impNext (s : State) (f : Field) (n : Nat) : (s.bump f n).impNext = s.impNext := rfl
@[simp] theorem State.bump_imps (s : State) (f : Field) (n : Nat) : (s.bump f n).imps = s.imps := rfl
@[simp] theorem State.bump_impWrite (s : State) (f : Field) (n : Nat) : (s.bump f n).impWrite = s.impWrite := rfl
@[simp] theorem State.bump_validCount (s : State) (f : Field) (n : Nat) : (s.bump f n).validCount = s.validCount := rfl
@[simp] theorem State.bump_normNow (s : State) (f : Field) (n : Nat) : (s.bump f n).normNow = s.normNow := rfl
@[simp] theorem State.bump_abortDue (s : State) (f : Field) (n : Nat) : (s.bump f n).abortDue = s.abortDue := rfl
@[simp] theorem State.bump_abortCmd (s : State) (f : Field) (n : Nat) : (s.bump f n).abortCmd = s.abortCmd := rfl
@[simp] theorem State.bump_aborting (s : State) (f : Field) (n : Nat) : (s.bump f n).aborting = s.aborting := rfl
@[simp] theorem State.bump_retCause (s : State) (f : Field) (n : Nat) : (s.bump f n).retCause = s.retCause := rfl
@[simp] theorem State.bump_restoring (s : State) (f : Field) (n : Nat) : (s.bump f n).restoring = s.restoring := rfl
@[simp] theorem State.bump_pairWith (s : State) (f : Field) (n : Nat) : (s.bump f n).pairWith = s.pairWith := rfl
@[simp] theorem State.bump_pairCmd (s : State) (f : Field) (n : Nat) : (s.bump f n).pairCmd = s.pairCmd := rfl
@[simp] theorem State.bump_pairPeer (s : State) (f : Field) (n : Nat) : (s.bump f n).pairPeer = s.pairPeer := rfl
@[simp] theorem State.bump_fills (s : State) (f : Field) (n : Nat) : (s.bump f n).fills = s.fills := rfl
@[simp] theorem State.bump_adopting (s : State) (f : Field) (n : Nat) : (s.bump f n).adopting = s.adopting := rfl
@[simp] theorem State.bump_restores (s : State) (f : Field) (n : Nat) : (s.bump f n).restores = s.restores := rfl
@[simp] theorem State.bump_mailboxes (s : State) (f : Field) (n : Nat) : (s.bump f n).mailboxes = s.mailboxes := rfl
@[simp] theorem State.bump_longs (s : State) (f : Field) (n : Nat) : (s.bump f n).longs = s.longs := rfl
@[simp] theorem State.bump_statusQ (s : State) (f : Field) (n : Nat) : (s.bump f n).statusQ = s.statusQ := rfl
@[simp] theorem State.bump_bulkQ (s : State) (f : Field) (n : Nat) : (s.bump f n).bulkQ = s.bulkQ := rfl
@[simp] theorem State.bump_dreril (s : State) (f : Field) (n : Nat) : (s.bump f n).dreril = s.dreril := rfl
@[simp] theorem State.bump_launch (s : State) (f : Field) (n : Nat) : (s.bump f n).launch = s.launch := rfl
@[simp] theorem State.bump_stopAt (s : State) (f : Field) (n : Nat) : (s.bump f n).stopAt = s.stopAt := rfl
@[simp] theorem State.bump_cut (s : State) (f : Field) (n : Nat) : (s.bump f n).cut = s.cut := rfl
@[simp] theorem State.bump_rgns (s : State) (f : Field) (n : Nat) : (s.bump f n).rgns = s.rgns := rfl
@[simp] theorem State.bump_time (s : State) (f : Field) (n : Nat) : (s.bump f n).time = s.time := rfl
@[simp] theorem State.bump_keyHashes (s : State) (f : Field) (n : Nat) : (s.bump f n).keyHashes = s.keyHashes := rfl
@[simp] theorem State.bump_meas (s : State) (f : Field) (n : Nat) : (s.bump f n).meas = s.meas := rfl
@[simp] theorem State.bump_jobMeas (s : State) (f : Field) (n : Nat) : (s.bump f n).jobMeas = s.jobMeas := rfl
@[simp] theorem State.bump_fwSlots (s : State) (f : Field) (n : Nat) : (s.bump f n).fwSlots = s.fwSlots := rfl
@[simp] theorem State.bump_prevSlot (s : State) (f : Field) (n : Nat) : (s.bump f n).prevSlot = s.prevSlot := rfl
@[simp] theorem State.bump_ageFrac (s : State) (f : Field) (n : Nat) : (s.bump f n).ageFrac = s.ageFrac := rfl
@[simp] theorem State.bump_flash (s : State) (f : Field) (n : Nat) : (s.bump f n).flash = s.flash := rfl
@[simp] theorem State.bump_thermLow (s : State) (f : Field) (n : Nat) : (s.bump f n).thermLow = s.thermLow := rfl
@[simp] theorem State.bump_thermUp (s : State) (f : Field) (n : Nat) : (s.bump f n).thermUp = s.thermUp := rfl
@[simp] theorem State.bump_stored (s : State) (f : Field) (n : Nat) : (s.bump f n).stored = s.stored := rfl
@[simp] theorem State.bump_fixedTemp (s : State) (f : Field) (n : Nat) : (s.bump f n).fixedTemp = s.fixedTemp := rfl
@[simp] theorem State.bump_fixedRail (s : State) (f : Field) (n : Nat) : (s.bump f n).fixedRail = s.fixedRail := rfl
@[simp] theorem State.bump_traceFifo (s : State) (f : Field) (n : Nat) : (s.bump f n).traceFifo = s.traceFifo := rfl
@[simp] theorem State.bump_graph (s : State) (f : Field) (n : Nat) : (s.bump f n).graph = s.graph := rfl
@[simp] theorem State.bump_lastGraph (s : State) (f : Field) (n : Nat) : (s.bump f n).lastGraph = s.lastGraph := rfl
@[simp] theorem State.bump_capPower (s : State) (f : Field) (n : Nat) : (s.bump f n).capPower = s.capPower := rfl
@[simp] theorem State.bump_capHeat (s : State) (f : Field) (n : Nat) : (s.bump f n).capHeat = s.capHeat := rfl
@[simp] theorem State.bump_lowPower (s : State) (f : Field) (n : Nat) : (s.bump f n).lowPower = s.lowPower := rfl
@[simp] theorem State.bump_lowHeat (s : State) (f : Field) (n : Nat) : (s.bump f n).lowHeat = s.lowHeat := rfl
@[simp] theorem State.bump_tapIr (s : State) (f : Field) (n : Nat) : (s.bump f n).tapIr = s.tapIr := rfl
@[simp] theorem State.bump_tapDrive (s : State) (f : Field) (n : Nat) : (s.bump f n).tapDrive = s.tapDrive := rfl
@[simp] theorem State.bump_smbAddr (s : State) (f : Field) (n : Nat) : (s.bump f n).smbAddr = s.smbAddr := rfl
@[simp] theorem State.bump_smbOut (s : State) (f : Field) (n : Nat) : (s.bump f n).smbOut = s.smbOut := rfl
@[simp] theorem State.bump_excursion (s : State) (f : Field) (n : Nat) : (s.bump f n).excursion = s.excursion := rfl
@[simp] theorem State.bump_wire (s : State) (f : Field) (n : Nat) : (s.bump f n).wire = s.wire := rfl
@[simp] theorem State.bump_freeCtr (s : State) (f : Field) (n : Nat) : (s.bump f n).freeCtr = s.freeCtr := rfl

@[simp] theorem State.store_pending (s : State) (a : Nat) (bs : List Byte) : (s.store a bs).pending = s.pending := rfl
@[simp] theorem State.store_csr (s : State) (a : Nat) (bs : List Byte) : (s.store a bs).csr = s.csr := rfl
@[simp] theorem State.store_chanErrs (s : State) (a : Nat) (bs : List Byte) : (s.store a bs).chanErrs = s.chanErrs := rfl
@[simp] theorem State.store_log (s : State) (a : Nat) (bs : List Byte) : (s.store a bs).log = s.log := rfl
@[simp] theorem State.store_comps (s : State) (a : Nat) (bs : List Byte) : (s.store a bs).comps = s.comps := rfl
@[simp] theorem State.store_streams (s : State) (a : Nat) (bs : List Byte) : (s.store a bs).streams = s.streams := rfl
@[simp] theorem State.store_queues (s : State) (a : Nat) (bs : List Byte) : (s.store a bs).queues = s.queues := rfl
@[simp] theorem State.store_chans (s : State) (a : Nat) (bs : List Byte) : (s.store a bs).chans = s.chans := rfl
@[simp] theorem State.store_snaps (s : State) (a : Nat) (bs : List Byte) : (s.store a bs).snaps = s.snaps := rfl
@[simp] theorem State.store_benchCur (s : State) (a : Nat) (bs : List Byte) : (s.store a bs).benchCur = s.benchCur := rfl
@[simp] theorem State.store_stnCnt (s : State) (a : Nat) (bs : List Byte) : (s.store a bs).stnCnt = s.stnCnt := rfl
@[simp] theorem State.store_veils (s : State) (a : Nat) (bs : List Byte) : (s.store a bs).veils = s.veils := rfl
@[simp] theorem State.store_slotCur (s : State) (a : Nat) (bs : List Byte) : (s.store a bs).slotCur = s.slotCur := rfl
@[simp] theorem State.store_rings (s : State) (a : Nat) (bs : List Byte) : (s.store a bs).rings = s.rings := rfl
@[simp] theorem State.store_elapsed (s : State) (a : Nat) (bs : List Byte) : (s.store a bs).elapsed = s.elapsed := rfl
@[simp] theorem State.store_resetAt (s : State) (a : Nat) (bs : List Byte) : (s.store a bs).resetAt = s.resetAt := rfl
@[simp] theorem State.store_sched (s : State) (a : Nat) (bs : List Byte) : (s.store a bs).sched = s.sched := rfl
@[simp] theorem State.store_step (s : State) (a : Nat) (bs : List Byte) : (s.store a bs).step = s.step := rfl
@[simp] theorem State.store_jobBegun (s : State) (a : Nat) (bs : List Byte) : (s.store a bs).jobBegun = s.jobBegun := rfl
@[simp] theorem State.store_layouts (s : State) (a : Nat) (bs : List Byte) : (s.store a bs).layouts = s.layouts := rfl
@[simp] theorem State.store_buckets (s : State) (a : Nat) (bs : List Byte) : (s.store a bs).buckets = s.buckets := rfl
@[simp] theorem State.store_badLayers (s : State) (a : Nat) (bs : List Byte) : (s.store a bs).badLayers = s.badLayers := rfl
@[simp] theorem State.store_badGroups (s : State) (a : Nat) (bs : List Byte) : (s.store a bs).badGroups = s.badGroups := rfl
@[simp] theorem State.store_badColl (s : State) (a : Nat) (bs : List Byte) : (s.store a bs).badColl = s.badColl := rfl
@[simp] theorem State.store_fetches (s : State) (a : Nat) (bs : List Byte) : (s.store a bs).fetches = s.fetches := rfl
@[simp] theorem State.store_dsts (s : State) (a : Nat) (bs : List Byte) : (s.store a bs).dsts = s.dsts := rfl
@[simp] theorem State.store_srcs (s : State) (a : Nat) (bs : List Byte) : (s.store a bs).srcs = s.srcs := rfl
@[simp] theorem State.store_dmas (s : State) (a : Nat) (bs : List Byte) : (s.store a bs).dmas = s.dmas := rfl
@[simp] theorem State.store_marks (s : State) (a : Nat) (bs : List Byte) : (s.store a bs).marks = s.marks := rfl
@[simp] theorem State.store_ports (s : State) (a : Nat) (bs : List Byte) : (s.store a bs).ports = s.ports := rfl
@[simp] theorem State.store_poolWords (s : State) (a : Nat) (bs : List Byte) : (s.store a bs).poolWords = s.poolWords := rfl
@[simp] theorem State.store_inUse (s : State) (a : Nat) (bs : List Byte) : (s.store a bs).inUse = s.inUse := rfl
@[simp] theorem State.store_policers (s : State) (a : Nat) (bs : List Byte) : (s.store a bs).policers = s.policers := rfl
@[simp] theorem State.store_routes (s : State) (a : Nat) (bs : List Byte) : (s.store a bs).routes = s.routes := rfl
@[simp] theorem State.store_alarms (s : State) (a : Nat) (bs : List Byte) : (s.store a bs).alarms = s.alarms := rfl
@[simp] theorem State.store_aborted (s : State) (a : Nat) (bs : List Byte) : (s.store a bs).aborted = s.aborted := rfl
@[simp] theorem State.store_commit (s : State) (a : Nat) (bs : List Byte) : (s.store a bs).commit = s.commit := rfl
@[simp] theorem State.store_impNext (s : State) (a : Nat) (bs : List Byte) : (s.store a bs).impNext = s.impNext := rfl
@[simp] theorem State.store_imps (s : State) (a : Nat) (bs : List Byte) : (s.store a bs).imps = s.imps := rfl
@[simp] theorem State.store_impWrite (s : State) (a : Nat) (bs : List Byte) : (s.store a bs).impWrite = s.impWrite := rfl
@[simp] theorem State.store_validCount (s : State) (a : Nat) (bs : List Byte) : (s.store a bs).validCount = s.validCount := rfl
@[simp] theorem State.store_normNow (s : State) (a : Nat) (bs : List Byte) : (s.store a bs).normNow = s.normNow := rfl
@[simp] theorem State.store_abortDue (s : State) (a : Nat) (bs : List Byte) : (s.store a bs).abortDue = s.abortDue := rfl
@[simp] theorem State.store_abortCmd (s : State) (a : Nat) (bs : List Byte) : (s.store a bs).abortCmd = s.abortCmd := rfl
@[simp] theorem State.store_aborting (s : State) (a : Nat) (bs : List Byte) : (s.store a bs).aborting = s.aborting := rfl
@[simp] theorem State.store_retCause (s : State) (a : Nat) (bs : List Byte) : (s.store a bs).retCause = s.retCause := rfl
@[simp] theorem State.store_restoring (s : State) (a : Nat) (bs : List Byte) : (s.store a bs).restoring = s.restoring := rfl
@[simp] theorem State.store_pairWith (s : State) (a : Nat) (bs : List Byte) : (s.store a bs).pairWith = s.pairWith := rfl
@[simp] theorem State.store_pairCmd (s : State) (a : Nat) (bs : List Byte) : (s.store a bs).pairCmd = s.pairCmd := rfl
@[simp] theorem State.store_pairPeer (s : State) (a : Nat) (bs : List Byte) : (s.store a bs).pairPeer = s.pairPeer := rfl
@[simp] theorem State.store_fills (s : State) (a : Nat) (bs : List Byte) : (s.store a bs).fills = s.fills := rfl
@[simp] theorem State.store_adopting (s : State) (a : Nat) (bs : List Byte) : (s.store a bs).adopting = s.adopting := rfl
@[simp] theorem State.store_restores (s : State) (a : Nat) (bs : List Byte) : (s.store a bs).restores = s.restores := rfl
@[simp] theorem State.store_mailboxes (s : State) (a : Nat) (bs : List Byte) : (s.store a bs).mailboxes = s.mailboxes := rfl
@[simp] theorem State.store_longs (s : State) (a : Nat) (bs : List Byte) : (s.store a bs).longs = s.longs := rfl
@[simp] theorem State.store_statusQ (s : State) (a : Nat) (bs : List Byte) : (s.store a bs).statusQ = s.statusQ := rfl
@[simp] theorem State.store_bulkQ (s : State) (a : Nat) (bs : List Byte) : (s.store a bs).bulkQ = s.bulkQ := rfl
@[simp] theorem State.store_dreril (s : State) (a : Nat) (bs : List Byte) : (s.store a bs).dreril = s.dreril := rfl
@[simp] theorem State.store_launch (s : State) (a : Nat) (bs : List Byte) : (s.store a bs).launch = s.launch := rfl
@[simp] theorem State.store_stopAt (s : State) (a : Nat) (bs : List Byte) : (s.store a bs).stopAt = s.stopAt := rfl
@[simp] theorem State.store_cut (s : State) (a : Nat) (bs : List Byte) : (s.store a bs).cut = s.cut := rfl
@[simp] theorem State.store_rgns (s : State) (a : Nat) (bs : List Byte) : (s.store a bs).rgns = s.rgns := rfl
@[simp] theorem State.store_time (s : State) (a : Nat) (bs : List Byte) : (s.store a bs).time = s.time := rfl
@[simp] theorem State.store_keyHashes (s : State) (a : Nat) (bs : List Byte) : (s.store a bs).keyHashes = s.keyHashes := rfl
@[simp] theorem State.store_meas (s : State) (a : Nat) (bs : List Byte) : (s.store a bs).meas = s.meas := rfl
@[simp] theorem State.store_jobMeas (s : State) (a : Nat) (bs : List Byte) : (s.store a bs).jobMeas = s.jobMeas := rfl
@[simp] theorem State.store_fwSlots (s : State) (a : Nat) (bs : List Byte) : (s.store a bs).fwSlots = s.fwSlots := rfl
@[simp] theorem State.store_prevSlot (s : State) (a : Nat) (bs : List Byte) : (s.store a bs).prevSlot = s.prevSlot := rfl
@[simp] theorem State.store_ageFrac (s : State) (a : Nat) (bs : List Byte) : (s.store a bs).ageFrac = s.ageFrac := rfl
@[simp] theorem State.store_flash (s : State) (a : Nat) (bs : List Byte) : (s.store a bs).flash = s.flash := rfl
@[simp] theorem State.store_thermLow (s : State) (a : Nat) (bs : List Byte) : (s.store a bs).thermLow = s.thermLow := rfl
@[simp] theorem State.store_thermUp (s : State) (a : Nat) (bs : List Byte) : (s.store a bs).thermUp = s.thermUp := rfl
@[simp] theorem State.store_stored (s : State) (a : Nat) (bs : List Byte) : (s.store a bs).stored = s.stored := rfl
@[simp] theorem State.store_fixedTemp (s : State) (a : Nat) (bs : List Byte) : (s.store a bs).fixedTemp = s.fixedTemp := rfl
@[simp] theorem State.store_fixedRail (s : State) (a : Nat) (bs : List Byte) : (s.store a bs).fixedRail = s.fixedRail := rfl
@[simp] theorem State.store_traceFifo (s : State) (a : Nat) (bs : List Byte) : (s.store a bs).traceFifo = s.traceFifo := rfl
@[simp] theorem State.store_graph (s : State) (a : Nat) (bs : List Byte) : (s.store a bs).graph = s.graph := rfl
@[simp] theorem State.store_lastGraph (s : State) (a : Nat) (bs : List Byte) : (s.store a bs).lastGraph = s.lastGraph := rfl
@[simp] theorem State.store_capPower (s : State) (a : Nat) (bs : List Byte) : (s.store a bs).capPower = s.capPower := rfl
@[simp] theorem State.store_capHeat (s : State) (a : Nat) (bs : List Byte) : (s.store a bs).capHeat = s.capHeat := rfl
@[simp] theorem State.store_lowPower (s : State) (a : Nat) (bs : List Byte) : (s.store a bs).lowPower = s.lowPower := rfl
@[simp] theorem State.store_lowHeat (s : State) (a : Nat) (bs : List Byte) : (s.store a bs).lowHeat = s.lowHeat := rfl
@[simp] theorem State.store_tapIr (s : State) (a : Nat) (bs : List Byte) : (s.store a bs).tapIr = s.tapIr := rfl
@[simp] theorem State.store_tapDrive (s : State) (a : Nat) (bs : List Byte) : (s.store a bs).tapDrive = s.tapDrive := rfl
@[simp] theorem State.store_smbAddr (s : State) (a : Nat) (bs : List Byte) : (s.store a bs).smbAddr = s.smbAddr := rfl
@[simp] theorem State.store_smbOut (s : State) (a : Nat) (bs : List Byte) : (s.store a bs).smbOut = s.smbOut := rfl
@[simp] theorem State.store_excursion (s : State) (a : Nat) (bs : List Byte) : (s.store a bs).excursion = s.excursion := rfl
@[simp] theorem State.store_wire (s : State) (a : Nat) (bs : List Byte) : (s.store a bs).wire = s.wire := rfl
@[simp] theorem State.store_freeCtr (s : State) (a : Nat) (bs : List Byte) : (s.store a bs).freeCtr = s.freeCtr := rfl

@[simp] theorem State.setPort_ports (s : State) (p : Nat) (x : Port) : (s.setPort p x).ports = Tab.set s.ports {} p x := rfl
@[simp] theorem State.setPort_csr (s : State) (p : Nat) (x : Port) : (s.setPort p x).csr = s.csr := rfl
@[simp] theorem State.setPort_mem (s : State) (p : Nat) (x : Port) : (s.setPort p x).mem = s.mem := rfl
@[simp] theorem State.setPort_pending (s : State) (p : Nat) (x : Port) : (s.setPort p x).pending = s.pending := rfl
@[simp] theorem State.get_setPort (s : State) (p : Nat) (x : Port) (g : Field) : (s.setPort p x).get g = s.get g := rfl
@[simp] theorem State.setDst_dsts (s : State) (d : Nat) (x : DstState) : (s.setDst d x).dsts = Tab.set s.dsts {} d x := rfl
@[simp] theorem State.setDst_csr (s : State) (d : Nat) (x : DstState) : (s.setDst d x).csr = s.csr := rfl
@[simp] theorem State.setDst_mem (s : State) (d : Nat) (x : DstState) : (s.setDst d x).mem = s.mem := rfl
@[simp] theorem State.setDst_pending (s : State) (d : Nat) (x : DstState) : (s.setDst d x).pending = s.pending := rfl
@[simp] theorem State.get_setDst (s : State) (d : Nat) (x : DstState) (g : Field) : (s.setDst d x).get g = s.get g := rfl
@[simp] theorem State.setSrc_srcs (s : State) (d : Nat) (x : SrcState) : (s.setSrc d x).srcs = Tab.set s.srcs {} d x := rfl
@[simp] theorem State.setSrc_csr (s : State) (d : Nat) (x : SrcState) : (s.setSrc d x).csr = s.csr := rfl
@[simp] theorem State.setSrc_mem (s : State) (d : Nat) (x : SrcState) : (s.setSrc d x).mem = s.mem := rfl
@[simp] theorem State.setSrc_pending (s : State) (d : Nat) (x : SrcState) : (s.setSrc d x).pending = s.pending := rfl
@[simp] theorem State.get_setSrc (s : State) (d : Nat) (x : SrcState) (g : Field) : (s.setSrc d x).get g = s.get g := rfl
@[simp] theorem State.setRgn_rgns (s : State) (r : Nat) (x : RgnState) : (s.setRgn r x).rgns = Tab.set s.rgns {} r x := rfl
@[simp] theorem State.setRgn_csr (s : State) (r : Nat) (x : RgnState) : (s.setRgn r x).csr = s.csr := rfl
@[simp] theorem State.setRgn_mem (s : State) (r : Nat) (x : RgnState) : (s.setRgn r x).mem = s.mem := rfl
@[simp] theorem State.setRgn_pending (s : State) (r : Nat) (x : RgnState) : (s.setRgn r x).pending = s.pending := rfl
@[simp] theorem State.get_setRgn (s : State) (r : Nat) (x : RgnState) (g : Field) : (s.setRgn r x).get g = s.get g := rfl
@[simp] theorem State.setComp_comps (s : State) (b : Nat) (x : Comp) : (s.setComp b x).comps = Tab.set s.comps {} b x := rfl
@[simp] theorem State.setComp_csr (s : State) (b : Nat) (x : Comp) : (s.setComp b x).csr = s.csr := rfl
@[simp] theorem State.setComp_mem (s : State) (b : Nat) (x : Comp) : (s.setComp b x).mem = s.mem := rfl
@[simp] theorem State.setComp_pending (s : State) (b : Nat) (x : Comp) : (s.setComp b x).pending = s.pending := rfl
@[simp] theorem State.get_setComp (s : State) (b : Nat) (x : Comp) (g : Field) : (s.setComp b x).get g = s.get g := rfl
@[simp] theorem State.setBk_buckets (s : State) (k : Nat) (x : BkState) : (s.setBk k x).buckets = Tab.set s.buckets {} k x := rfl
@[simp] theorem State.setBk_csr (s : State) (k : Nat) (x : BkState) : (s.setBk k x).csr = s.csr := rfl
@[simp] theorem State.setBk_mem (s : State) (k : Nat) (x : BkState) : (s.setBk k x).mem = s.mem := rfl
@[simp] theorem State.setBk_pending (s : State) (k : Nat) (x : BkState) : (s.setBk k x).pending = s.pending := rfl
@[simp] theorem State.get_setBk (s : State) (k : Nat) (x : BkState) (g : Field) : (s.setBk k x).get g = s.get g := rfl
@[simp] theorem State.setTimeMarks_time (s : State) (x : TimeMarks) : (s.setTimeMarks x).time = x := rfl
@[simp] theorem State.setTimeMarks_csr (s : State) (x : TimeMarks) : (s.setTimeMarks x).csr = s.csr := rfl
@[simp] theorem State.setTimeMarks_mem (s : State) (x : TimeMarks) : (s.setTimeMarks x).mem = s.mem := rfl
@[simp] theorem State.setTimeMarks_pending (s : State) (x : TimeMarks) : (s.setTimeMarks x).pending = s.pending := rfl
@[simp] theorem State.get_setTimeMarks (s : State) (x : TimeMarks) (g : Field) : (s.setTimeMarks x).get g = s.get g := rfl
@[simp] theorem State.setStream_streams (s : State) (b i : Nat) (x : Stream) : (s.setStream b i x).streams = Tab.put s.streams (16 * b + i) x := rfl
@[simp] theorem State.setStream_csr (s : State) (b i : Nat) (x : Stream) : (s.setStream b i x).csr = s.csr := rfl
@[simp] theorem State.setStream_mem (s : State) (b i : Nat) (x : Stream) : (s.setStream b i x).mem = s.mem := rfl
@[simp] theorem State.setStream_pending (s : State) (b i : Nat) (x : Stream) : (s.setStream b i x).pending = s.pending := rfl
@[simp] theorem State.get_setStream (s : State) (b i : Nat) (x : Stream) (g : Field) : (s.setStream b i x).get g = s.get g := rfl
@[simp] theorem State.delStream_streams (s : State) (b i : Nat) : (s.delStream b i).streams = Tab.del s.streams (16 * b + i) := rfl
@[simp] theorem State.delStream_csr (s : State) (b i : Nat) : (s.delStream b i).csr = s.csr := rfl
@[simp] theorem State.delStream_mem (s : State) (b i : Nat) : (s.delStream b i).mem = s.mem := rfl
@[simp] theorem State.delStream_pending (s : State) (b i : Nat) : (s.delStream b i).pending = s.pending := rfl
@[simp] theorem State.get_delStream (s : State) (b i : Nat) (g : Field) : (s.delStream b i).get g = s.get g := rfl
@[simp] theorem State.get_store (s : State) (a : Nat) (bs : List Byte) (g : Field) : (s.store a bs).get g = s.get g := rfl
@[simp] theorem State.rd_set (s : State) (f : Field) (v a : Nat) : (s.set f v).rd a = s.rd a := rfl
@[simp] theorem State.rd_bump (s : State) (f : Field) (n a : Nat) : (s.bump f n).rd a = s.rd a := rfl
@[simp] theorem State.setComp_comp_same (s : State) (b : Nat) (x : Comp) : (s.setComp b x).comp b = x := Tab.get_set_same ..

end Sys2Proof.Machine
end

