-- ==== Sys2Proof/Laws/Compositor.lean ====
section
/-! SUPPORT. What the Compositor's shared operations do: registers, the program counter, retirement. -/

namespace Sys2Proof.Machine

open Sys2Proof Safety

theorem Safety.onlyFields_refl (s : State) (l : List Field) : onlyFields s s l := ⟨rfl, fun _ _ => rfl⟩

theorem Safety.onlyFields_trans {s t u : State} {l : List Field} (h : onlyFields s t l) (k : onlyFields t u l) : onlyFields s u l := by
  refine ⟨?_, fun f hf => (k.2 f hf).trans (h.2 f hf)⟩
  have h1 := h.1
  have h2 := k.1
  rw [h2, h1]

theorem Safety.onlyFields_set (s : State) {l : List Field} {f : Field} (v : Nat) (h : f ∈ l) : onlyFields s (s.set f v) l :=
  ⟨rfl, fun _ hg => State.get_set_ne s v (hg f h)⟩

theorem Safety.onlyFields_bump (s : State) {l : List Field} {f : Field} (n : Nat) (h : f ∈ l) : onlyFields s (s.bump f n) l :=
  Safety.onlyFields_set s _ h

/-- A step that writes only fields of a shorter list. -/
theorem Safety.onlyFields_mono {s t : State} {l m : List Field} (h : onlyFields s t l) (k : ∀ f ∈ l, f ∈ m) : onlyFields s t m :=
  ⟨h.1, fun f hf => h.2 f fun _ hg => hf _ (k _ hg)⟩

theorem Cmp.gr_key_ne {b r q : Nat} (h : r ≠ q) : (Cmp.gr b r).key ≠ (Cmp.gr b q).key := by
  simp only [Field.key, Cmp.gr]; omega

theorem Cmp.gr_key_ne_pc (b r : Nat) : (Cmp.gr b r).key ≠ (Cmp.pc b).key := by
  simp only [Field.key, Cmp.gr, Cmp.pc]; omega

theorem Cmp.gr_key_ne_instret (b r : Nat) : (Cmp.gr b r).key ≠ (Cmp.instret b).key := by
  simp only [Field.key, Cmp.gr, Cmp.instret]; omega

theorem Cmp.pc_key_ne_instret (b : Nat) : (Cmp.pc b).key ≠ (Cmp.instret b).key := by
  simp only [Field.key, Cmp.pc, Cmp.instret]; omega

/-- What a write of g[rd] leaves: g0 stays zero, every other register is as it was (R153). -/
theorem State.g_setG (s : State) (b : Nat) (r q : BitVec 5) (v : W32) : (s.setG b r v).g b q = if q = r ∧ r ≠ 0 then v else s.g b q := by
  unfold State.setG
  by_cases hr : r = 0
  · simp [hr]
  · simp only [hr, if_false, State.g]
    by_cases hq : q = 0
    · have : ¬ (q = r ∧ r ≠ 0) := fun h => hr (h.1 ▸ hq)
      rw [if_pos hq, if_pos hq, if_neg this]
    · simp only [hq, if_false]
      by_cases h : q = r
      · subst h
        simp only [ne_eq, hq, not_false_eq_true, and_self, if_true, State.get_set_same]
        apply BitVec.eq_of_toNat_eq
        simp [Cmp.gr, v.isLt]
      · have : q.toNat ≠ r.toNat := fun e => h (BitVec.eq_of_toNat_eq e)
        simp only [h, false_and, if_false, State.get_set_ne _ _ (Cmp.gr_key_ne this)]

theorem State.setG_only (s : State) (b : Nat) (r : BitVec 5) (v : W32) : onlyFields s (s.setG b r v) (grFields b r) := by
  unfold State.setG grFields
  split
  · exact Safety.onlyFields_refl ..
  · exact Safety.onlyFields_set s _ (List.mem_singleton_self _)

theorem State.pc_setG (s : State) (b : Nat) (r : BitVec 5) (v : W32) : (s.setG b r v).pc b = s.pc b := by
  unfold State.setG State.pc
  split
  · rfl
  · exact State.get_set_ne _ _ (Ne.symm (Cmp.gr_key_ne_pc _ _))

theorem State.instret_setG (s : State) (b : Nat) (r : BitVec 5) (v : W32) :
    (s.setG b r v).get (Cmp.instret b) = s.get (Cmp.instret b) := by
  unfold State.setG
  split
  · rfl
  · exact State.get_set_ne _ _ (Ne.symm (Cmp.gr_key_ne_instret _ _))

theorem State.g_goto (s : State) (b a : Nat) (r : BitVec 5) : (s.goto b a).g b r = s.g b r := by
  simp only [State.g, State.goto, State.get_set_ne _ _ (Cmp.gr_key_ne_pc _ _), State.get_bump_ne _ _ (Cmp.gr_key_ne_instret _ _)]

/-- Going on at an address retires the instruction and changes nothing else. -/
theorem State.goto_retired (s : State) (b a : Nat) : retired s (s.goto b a) b a := by
  refine ⟨by simp [State.goto, State.pc, Cmp.pc], ?_⟩
  rw [State.goto, State.get_set_ne _ _ (Ne.symm (Cmp.pc_key_ne_instret b))]
  simp [Cmp.instret]

theorem State.goto_only (s : State) (b a : Nat) : onlyFields s (s.goto b a) (retireFields b) :=
  Safety.onlyFields_trans (Safety.onlyFields_bump s 1 (by simp [retireFields]))
    (Safety.onlyFields_set _ _ (by simp [retireFields]))

theorem State.goto_goesTo (s : State) (b a : Nat) : goesTo s b a (.next (s.goto b a)) :=
  ⟨_, rfl, fun r => State.g_goto s b a r, State.goto_retired s b a, State.goto_only s b a⟩

theorem Safety.retired_of {s t u : State} {b pc : Nat} (h : retired t u b pc) (k : t.get (Cmp.instret b) = s.get (Cmp.instret b)) :
    retired s u b pc := by
  obtain ⟨h1, h2⟩ := h
  exact ⟨h1, by rw [h2, k]⟩

/-- Everything that writing a result does: g[rd], the program counter, INSTRET. -/
theorem State.result_writes (s : State) (b : Nat) (rd : BitVec 5) (v : W32) : writesReg s b rd v (.next (s.result b rd v)) := by
  refine ⟨_, rfl, fun r => ?_, ?_, ?_⟩
  · rw [State.result, State.nextPc, State.g_goto, State.g_setG]
  · rw [State.result, State.nextPc, State.pc_setG]
    exact Safety.retired_of (State.goto_retired _ b _) (State.instret_setG s b rd v)
  · exact Safety.onlyFields_trans (Safety.onlyFields_mono (State.setG_only s b rd v) fun f hf => List.mem_append_left _ hf)
      (Safety.onlyFields_mono (State.goto_only _ b _) fun f hf => List.mem_append_right _ hf)

/-- Where the Compositor takes an instruction, it is its effect. -/
theorem State.instr_of_ready {s : State} {b : Nat} (f : State → State) (h : ready s b) : s.instr b f = f s := by
  simp [State.instr, h.1, h.2]

end Sys2Proof.Machine
end

