-- ==== Sys2Proof/Laws/Memory.lean ====
section
/-! SUPPORT. Memory in canonical form: what keeps it, and what a read after a write gives. -/

namespace Sys2Proof.Machine

open Sys2Proof

theorem Tab.wf_iff {α : Type} [DecidableEq α] (t : Tab α) (d : α) :
    Tab.wf t d = true ↔ t.Pairwise (fun x y => x.1 < y.1) ∧ ∀ e ∈ t, e.2 ≠ d := by
  induction t with
  | nil => simp [Tab.wf]
  | cons c m ih =>
    obtain ⟨a, b⟩ := c
    simp only [Tab.wf, Bool.and_eq_true, ih, List.pairwise_cons, List.mem_cons, bne_iff_ne, List.all_eq_true, decide_eq_true_eq,
      forall_eq_or_imp]
    tauto

theorem Tab.get_append {α : Type} (m n : Tab α) (d : α) (a : Nat) :
    Tab.get (m ++ n) d a = if a ∈ m.map (·.1) then Tab.get m d a else Tab.get n d a := by
  induction m with
  | nil => simp
  | cons c m ih =>
    obtain ⟨k, v⟩ := c
    by_cases hk : a = k
    · simp [Tab.get, hk]
    · simp only [List.cons_append, Tab.get, hk, if_false, List.map_cons, List.mem_cons, false_or, ih]

theorem Tab.get_filter {α : Type} (m : Tab α) (d : α) (p : Nat → Bool) (a : Nat) :
    Tab.get (m.filter fun c => p c.1) d a = if p a then Tab.get m d a else d := by
  induction m with
  | nil => simp [Tab.get]
  | cons c m ih =>
    obtain ⟨k, v⟩ := c
    by_cases hk : a = k
    · subst hk
      by_cases hp : p a = true
      · simp [hp, Tab.get]
      · simp only [List.filter_cons, hp, if_false, Bool.false_eq_true] at ih ⊢; exact ih
    · by_cases hp : p k = true
      · simp only [List.filter_cons, hp, if_true, Tab.get, hk, if_false]; exact ih
      · simp only [List.filter_cons, hp, if_false, Tab.get, hk, Bool.false_eq_true]; exact ih

theorem Tab.mem_put {α : Type} {t : Tab α} {k : Nat} {v : α} {e : Nat × α} (h : e ∈ Tab.put t k v) : e = (k, v) ∨ e ∈ t := by
  induction t with
  | nil => simpa [Tab.put] using h
  | cons c t ih =>
    simp only [Tab.put] at h
    split at h
    · simpa using h
    · split at h
      · rcases List.mem_cons.1 h with h | h
        · exact .inl h
        · exact .inr (List.mem_cons_of_mem _ h)
      · rcases List.mem_cons.1 h with h | h
        · exact .inr (h ▸ List.mem_cons_self ..)
        · exact (ih h).imp_right (List.mem_cons_of_mem _)

theorem Tab.mem_of_find {α : Type} {t : Tab α} {k : Nat} {v : α} (h : Tab.find t k = some v) : (k, v) ∈ t := by
  induction t with
  | nil => simp [Tab.find] at h
  | cons c t ih =>
    obtain ⟨k', v'⟩ := c
    simp only [Tab.find] at h
    split at h
    · simp_all
    · exact List.mem_cons_of_mem _ (ih h)

/-- The canonical form, as addresses that strictly rise and bytes that are not zero. -/
theorem Memory.wf_iff (m : List Host.Cell) :
    Memory.wf m = true ↔ m.Pairwise (fun c d => c.1 < d.1) ∧ ∀ c ∈ m, c.2 ≠ 0 :=
  Tab.wf_iff m 0

theorem Memory.wf_nil : Memory.wf [] = true := by decide

theorem Memory.wf_filter {m : List Host.Cell} (p : Host.Cell → Bool) (h : Memory.wf m = true) :
    Memory.wf (m.filter p) = true := by
  rw [Memory.wf_iff] at *
  exact ⟨h.1.filter p, fun c hc => h.2 c (List.mem_filter.1 hc).1⟩

theorem Memory.wf_append {m n : List Host.Cell} (hm : Memory.wf m = true) (hn : Memory.wf n = true)
    (h : ∀ c ∈ m, ∀ d ∈ n, c.1 < d.1) : Memory.wf (m ++ n) = true := by
  rw [Memory.wf_iff] at *
  refine ⟨List.pairwise_append.2 ⟨hm.1, hn.1, h⟩, fun c hc => ?_⟩
  exact (List.mem_append.1 hc).elim (hm.2 c) (hn.2 c)

theorem mem_cells {a : Nat} {bs : List Byte} {c : Host.Cell} (h : c ∈ cells a bs) :
    a ≤ c.1 ∧ c.1 < a + bs.length ∧ c.2 ≠ 0 := by
  induction bs generalizing a with
  | nil => simp [cells] at h
  | cons b bs ih =>
    simp only [cells] at h
    split at h
    · have := ih h; simp only [List.length_cons]; exact ⟨by omega, by omega, this.2.2⟩
    · rcases List.mem_cons.1 h with rfl | h
      · simpa using ‹¬ b = 0›
      · have := ih h; simp only [List.length_cons]; exact ⟨by omega, by omega, this.2.2⟩

theorem Memory.wf_cells (a : Nat) (bs : List Byte) : Memory.wf (cells a bs) = true := by
  rw [Memory.wf_iff]
  refine ⟨?_, fun c hc => (mem_cells hc).2.2⟩
  induction bs generalizing a with
  | nil => simp [cells]
  | cons b bs ih =>
    simp only [cells]
    split
    · exact ih _
    · exact List.pairwise_cons.2 ⟨fun c hc => (mem_cells hc).1, ih _⟩

/-- A write keeps the canonical form. -/
theorem Memory.wf_write {m : List Host.Cell} (a : Nat) (bs : List Byte) (h : Memory.wf m = true) :
    Memory.wf (memWrite m a bs) = true := by
  refine Memory.wf_append (Memory.wf_append (Memory.wf_filter _ h) (Memory.wf_cells a bs) ?_) (Memory.wf_filter _ h) ?_
  · intro c hc d hd
    have := (mem_cells hd).1
    have := (List.mem_filter.1 hc).2
    simp at this; omega
  · intro c hc d hd
    have hd := (List.mem_filter.1 hd).2
    simp only [decide_eq_true_eq] at hd
    rcases List.mem_append.1 hc with hc | hc
    · have := (List.mem_filter.1 hc).2
      simp only [decide_eq_true_eq] at this; omega
    · have := mem_cells hc; omega

/-- A copy of a range keeps the canonical form. -/
theorem Memory.wf_move {m : List Host.Cell} (src dst n : Nat) (h : Memory.wf m = true) : Memory.wf (moveCells m src dst n) = true := by
  have lo {c : Host.Cell} (hc : c ∈ m.filter fun c => decide (c.1 < dst)) : c.1 < dst := by simpa using (List.mem_filter.1 hc).2
  have hi {c : Host.Cell} (hc : c ∈ m.filter fun c => decide (dst + n ≤ c.1)) : dst + n ≤ c.1 := by simpa using (List.mem_filter.1 hc).2
  have mid {c : Host.Cell} (hc : c ∈ m.filter fun c => decide (src ≤ c.1 ∧ c.1 < src + n)) : src ≤ c.1 ∧ c.1 < src + n := by
    simpa using (List.mem_filter.1 hc).2
  refine Memory.wf_append (Memory.wf_append (Memory.wf_filter _ h) ?_ fun c hc d hd => ?_) (Memory.wf_filter _ h) fun c hc d hd => ?_
  · have hw := (Memory.wf_iff _).1 (Memory.wf_filter (fun c => decide (src ≤ c.1 ∧ c.1 < src + n)) h)
    refine (Memory.wf_iff _).2 ⟨List.pairwise_map.2 (hw.1.imp_of_mem fun hp hq hl => ?_), fun c hc => ?_⟩
    · have := mid hp; have := mid hq; dsimp only; omega
    · obtain ⟨q, hq, rfl⟩ := List.mem_map.1 hc
      exact hw.2 q hq
  · obtain ⟨q, hq, rfl⟩ := List.mem_map.1 hd
    have := lo hc; have := mid hq; dsimp only; omega
  · have := hi hd
    rcases List.mem_append.1 hc with hc | hc
    · have := lo hc; omega
    · obtain ⟨q, hq, rfl⟩ := List.mem_map.1 hc
      have := mid hq; dsimp only; omega

/-! ### Reads -/

theorem memRead_nil (a : Nat) : memRead [] a = 0 := rfl

theorem memRead_append (m n : List Host.Cell) (a : Nat) :
    memRead (m ++ n) a = if a ∈ m.map (·.1) then memRead m a else memRead n a := Tab.get_append m n 0 a

theorem memRead_absent (m : List Host.Cell) (a : Nat) (h : a ∉ m.map (·.1)) : memRead m a = 0 := by
  have := memRead_append m [] a
  rw [if_neg h, List.append_nil] at this
  exact this

theorem memRead_filter (m : List Host.Cell) (p : Nat → Bool) (a : Nat) :
    memRead (m.filter fun c => p c.1) a = if p a then memRead m a else 0 := Tab.get_filter m 0 p a

theorem memRead_cells (a : Nat) (bs : List Byte) (x : Nat) :
    memRead (cells a bs) x = if a ≤ x ∧ x < a + bs.length then bs.getD (x - a) 0 else 0 := by
  induction bs generalizing a with
  | nil => simp [cells, memRead, Tab.get]
  | cons b bs ih =>
    have step : memRead (cells a (b :: bs)) x = if x = a then b else memRead (cells (a + 1) bs) x := by
      simp only [cells]
      split
      · rename_i hb
        by_cases hx : x = a
        · subst hx; subst hb
          rw [ih]; simp
        · simp [hx]
      · simp [memRead, Tab.get]
    rw [step, ih]
    by_cases hx : x = a
    · subst hx; simp
    · simp only [hx, if_false, List.length_cons]
      by_cases h : a + 1 ≤ x ∧ x < a + 1 + bs.length
      · have e : x - a = (x - (a + 1)) + 1 := by omega
        rw [if_pos h, if_pos (by omega), e]; simp
      · rw [if_neg h, if_neg (by omega)]

/-- A byte read after a write: the written byte inside the written range, the old byte outside it. -/
theorem memRead_write (m : List Host.Cell) (a : Nat) (bs : List Byte) (x : Nat) :
    memRead (memWrite m a bs) x = if a ≤ x ∧ x < a + bs.length then bs.getD (x - a) 0 else memRead m x := by
  unfold memWrite
  rw [memRead_append, memRead_append, memRead_filter m (fun k => decide (k < a)),
    memRead_filter m (fun k => decide (a + bs.length ≤ k)), memRead_cells]
  have hl : x ∈ (m.filter fun c => decide (c.1 < a)).map (·.1) → x < a := by
    intro h; obtain ⟨c, hc, rfl⟩ := List.mem_map.1 h; simpa using (List.mem_filter.1 hc).2
  have hc : x ∈ (cells a bs).map (·.1) → a ≤ x ∧ x < a + bs.length := by
    intro h; obtain ⟨c, hc, rfl⟩ := List.mem_map.1 h; have := mem_cells hc; exact ⟨this.1, this.2.1⟩
  have h0 : x < a → x ∉ (m.filter fun c => decide (c.1 < a)).map (·.1) → memRead m x = 0 := by
    intro hx hn
    have := memRead_absent _ _ hn
    rw [memRead_filter m (fun k => decide (k < a))] at this
    simpa [hx] using this
  have h1 : a ≤ x ∧ x < a + bs.length → x ∉ (cells a bs).map (·.1) → bs.getD (x - a) 0 = 0 := by
    intro hx hn
    have := memRead_absent _ _ hn
    rw [memRead_cells] at this
    simpa [hx] using this
  simp only [List.map_append, List.mem_append]
  by_cases hx : x < a
  · have n1 : x ∉ (cells a bs).map (·.1) := fun h => by have := hc h; omega
    have e1 : ¬ (a ≤ x ∧ x < a + bs.length) := by omega
    have e2 : ¬ a + bs.length ≤ x := by omega
    by_cases hm : x ∈ (m.filter fun c => decide (c.1 < a)).map (·.1)
    · simp only [hm, true_or, if_true, hx, decide_true, e1, if_false]
    · simp only [hm, n1, or_self, if_false, e1, e2, decide_false, Bool.false_eq_true, h0 hx hm]
  · have n0 : x ∉ (m.filter fun c => decide (c.1 < a)).map (·.1) := fun h => hx (hl h)
    by_cases hin : a ≤ x ∧ x < a + bs.length
    · have e2 : ¬ a + bs.length ≤ x := by omega
      by_cases hm : x ∈ (cells a bs).map (·.1)
      · simp only [hm, or_true, if_true, n0, if_false, hin, and_self]
      · simp only [hm, n0, or_self, if_false, hin, and_self, if_true, e2, decide_false, Bool.false_eq_true, h1 hin hm]
    · have n1 : x ∉ (cells a bs).map (·.1) := fun h => hin (hc h)
      have e2 : a + bs.length ≤ x := by omega
      simp only [n0, n1, or_self, if_false, hin, e2, decide_true, if_true]

/-- What a store does to a byte of memory. -/
theorem State.rd_store (s : State) (a : Nat) (bs : List Byte) (x : Nat) :
    (s.store a bs).rd x = if a ≤ x ∧ x < a + bs.length then bs.getD (x - a) 0 else s.rd x := memRead_write _ _ _ _

end Sys2Proof.Machine
end

