-- ==== Sys2Proof/Laws/Keeps.lean ====
section
/-! SUPPORT. The relation that every operation keeps: the queue of commands is left as it is, and a state in canonical form leads
to one in canonical form. Its lemmas about the results of operations, and about the shapes a definition is built of. -/

namespace Sys2Proof.Machine

open Sys2Proof

/-- From z, the state t has the same queue, and is in canonical form where z is. -/
structure Keeps (z t : State) : Prop where
  queue : t.pending = z.pending
  canon : Safety.canonical z → Safety.canonical t

/-- The states of an answer keep. -/
inductive KeepsA (z : State) : Answer → Prop
  | done {t : State} {a b : Nat} {l : List Nat} (h : Keeps z t) : KeepsA z (.done t a b l)
  | later {t : State} (h : Keeps z t) : KeepsA z (.later t)

/-- The states of a step of a stream keep. -/
inductive KeepsR (z : State) : Res → Prop
  | wait : KeepsR z .wait
  | stop {t : State} (h : Keeps z t) : KeepsR z (.stop t)
  | ok {t : State} (h : Keeps z t) : KeepsR z (.ok t)

/-- The states of a write keep. -/
inductive KeepsW (z : State) : WriteRes → Prop
  | ok {t : State} (h : Keeps z t) : KeepsW z (.ok t)
  | refused {t : State} {a : Nat} (h : Keeps z t) : KeepsW z (.refused t a)
  | violation : KeepsW z .violation

/-- The states of a read keep. -/
inductive KeepsD (z : State) : ReadRes → Prop
  | word {t : State} {v : Nat} (h : Keeps z t) : KeepsD z (.word v t)
  | refused {a : Nat} : KeepsD z (.refused a)
  | violation : KeepsD z .violation
  | hw {t : State} {a : Nat} (h : Keeps z t) : KeepsD z (.hw t a)

/-- The state of a look at a token keeps. -/
inductive KeepsP (z : State) : Peek → Prop
  | wait : KeepsP z .wait
  | bad {t : State} (h : Keeps z t) : KeepsP z (.bad t)
  | tok {x : Tok} : KeepsP z (.tok x)

/-- The state of a fetch of tokens keeps. -/
inductive KeepsG (z : State) : Got → Prop
  | wait : KeepsG z .wait
  | bad {t : State} (h : Keeps z t) : KeepsG z (.bad t)
  | toks {l : List Tok} : KeepsG z (.toks l)

/-- The states of a signal add keep. -/
inductive KeepsS (z : State) : SigAdd → Prop
  | added {t : State} (h : Keeps z t) : KeepsS z (.added t)
  | overflow {t : State} (h : Keeps z t) : KeepsS z (.overflow t)
  | absent : KeepsS z .absent
  | unreadable : KeepsS z .unreadable

/-- The states of a load keep. -/
inductive KeepsL (z : State) : Loaded → Prop
  | value {t : State} {v : Nat} (h : Keeps z t) : KeepsL z (.value t v)
  | fault {t : State} (h : Keeps z t) : KeepsL z (.fault t)

/-- The state of a signal reference that faults keeps. -/
inductive KeepsF (z : State) : SigRef → Prop
  | fault {t : State} (h : Keeps z t) : KeepsF z (.fault t)
  | word {a e : Nat} : KeepsF z (.word a e)

/-- A state, if there is one, keeps. -/
inductive KeepsQ (z : State) : Option State → Prop
  | none : KeepsQ z Option.none
  | some {t : State} (h : Keeps z t) : KeepsQ z (Option.some t)

/-- The states of an early result, if there is one, keep. -/
inductive KeepsE (z : State) : Option Res → Prop
  | none : KeepsE z Option.none
  | some {r : Res} (h : KeepsR z r) : KeepsE z (Option.some r)

/-- A command answers a next state that keeps, or stops. -/
inductive KeepsO (z : State) : Host.Outcome State Fault Refusal → Prop
  | next {t : State} (h : Keeps z t) : KeepsO z (.next t)
  | fault {f : Fault} : KeepsO z (.fault f)
  | refused {r : Refusal} : KeepsO z (.refused r)

namespace Keeps

theorem refl (z : State) : Keeps z z := ⟨rfl, id⟩

theorem trans {z s t : State} (h : Keeps z s) (k : Keeps s t) : Keeps z t := ⟨k.queue.trans h.queue, fun c => k.canon (h.canon c)⟩

/-- A state that differs from one that keeps in neither queue, memory nor snapshots. -/
theorem mk' {z t : State}
    {f1 : Tab Nat} {f2 : List Nat} {f3 : List Nat} {f4 : Tab (List Nat)} {f5 : Tab LogEntry} {f6 : Tab Comp} {f7 : Tab Stream}
    {f8 : Tab Queue} {f9 : Tab (List ChanTok)} {f10 : Tab Nat} {f11 : Tab Nat} {f12 : Tab (List Veil)} {f13 : Tab Nat}
    {f14 : Schedule} {f15 : Nat} {f16 : Bool} {f17 : Tab Nat} {f18 : Tab BkState} {f19 : List Nat} {f20 : List Nat}
    {f21 : List Nat} {f22 : List FetchReq} {f23 : Tab DstState} {f24 : Tab SrcState} {f25 : Tab Dma} {f26 : Tab (Nat × Nat)}
    {f27 : Tab Port} {f28 : Tab Nat} {f29 : Tab Nat} {f30 : List (Nat × Nat)} {f31 : Tab Policer} {f32 : Tab RouteSet}
    {f33 : List Nat} {f34 : Option (Nat × Nat)} {f35 : Commit} {f36 : Bool} {f37 : List Impression} {f38 : Option ImpWrite}
    {f39 : Nat} {f40 : Option Nat} {f41 : Option Nat} {f42 : Option HostHdr} {f43 : Option Nat} {f44 : Tab Nat} {f45 : List Nat}
    {f46 : Option (Nat × Bool)} {f47 : Option HostHdr} {f48 : Option (Nat × Nat)} {f49 : Tab FillState} {f50 : List Nat}
    {f51 : Tab Schedule} {f52 : Tab Reply} {f53 : List LongCmd} {f54 : List Reply} {f55 : List BulkOut} {f56 : Dreril}
    {f57 : Option (Nat × HostHdr × Schedule)} {f58 : Option (Nat × HostHdr)} {f59 : Bool} {f60 : Tab RgnState} {f61 : TimeMarks}
    {f62 : Tab Nat} {f63 : Tab Meas} {f64 : Option Meas} {f65 : Tab FwSlot} {f66 : Nat} {f67 : Tab Nat}
    {f68 : Tab (Nat × Nat × Bool)} {f69 : Int} {f70 : Bool} {f71 : Tab Nat} {f72 : Tab Int} {f73 : Tab Nat}
    {f74 : Tab (List Nat)} {f75 : Option (Nat × List WaitSeen)} {f76 : Nat} {f77 : Nat} {f78 : Tab Nat} {f79 : Bool}
    {f80 : List Nat} {f81 : Nat} {f82 : Bool} {f83 : Nat} {f84 : List Byte} {f85 : Bool} {f86 : Nat} {f87 : Nat × Nat}
    {f88 : List (Nat × Nat)} {f89 : Nat}
    (h : Keeps z t) : Keeps z ⟨t.pending, f1, t.mem, f2, f3, f4, f5, f6, f7, f8, f9, t.snaps, f10, f11, f12, f13, f14, f15, f16, f17, f18, f19, f20, f21,
    f22, f23, f24, f25, f26, f27, f28, f29, f30, f31, f32, f33, f34, f35, f36, f37, f38, f39, f40, f41, f42, f43, f44, f45, f46,
    f47, f48, f49, f50, f51, f52, f53, f54, f55, f56, f57, f58, f59, f60, f61, f62, f63, f64, f65, f66, f67, f68, f69, f70, f71,
    f72, f73, f74, f75, f76, f77, f78, f79, f80, f81, f82, f83, f84, f85, f86, f87, f88, f89⟩ :=
  ⟨h.queue, h.canon⟩

/-- A state whose memory is in canonical form where z is, and whose queue and snapshots are those of one that keeps. -/
theorem mkMem {z t : State} {m : List Host.Cell}
    {f1 : Tab Nat} {f2 : List Nat} {f3 : List Nat} {f4 : Tab (List Nat)} {f5 : Tab LogEntry} {f6 : Tab Comp} {f7 : Tab Stream}
    {f8 : Tab Queue} {f9 : Tab (List ChanTok)} {f10 : Tab Nat} {f11 : Tab Nat} {f12 : Tab (List Veil)} {f13 : Tab Nat}
    {f14 : Schedule} {f15 : Nat} {f16 : Bool} {f17 : Tab Nat} {f18 : Tab BkState} {f19 : List Nat} {f20 : List Nat}
    {f21 : List Nat} {f22 : List FetchReq} {f23 : Tab DstState} {f24 : Tab SrcState} {f25 : Tab Dma} {f26 : Tab (Nat × Nat)}
    {f27 : Tab Port} {f28 : Tab Nat} {f29 : Tab Nat} {f30 : List (Nat × Nat)} {f31 : Tab Policer} {f32 : Tab RouteSet}
    {f33 : List Nat} {f34 : Option (Nat × Nat)} {f35 : Commit} {f36 : Bool} {f37 : List Impression} {f38 : Option ImpWrite}
    {f39 : Nat} {f40 : Option Nat} {f41 : Option Nat} {f42 : Option HostHdr} {f43 : Option Nat} {f44 : Tab Nat} {f45 : List Nat}
    {f46 : Option (Nat × Bool)} {f47 : Option HostHdr} {f48 : Option (Nat × Nat)} {f49 : Tab FillState} {f50 : List Nat}
    {f51 : Tab Schedule} {f52 : Tab Reply} {f53 : List LongCmd} {f54 : List Reply} {f55 : List BulkOut} {f56 : Dreril}
    {f57 : Option (Nat × HostHdr × Schedule)} {f58 : Option (Nat × HostHdr)} {f59 : Bool} {f60 : Tab RgnState} {f61 : TimeMarks}
    {f62 : Tab Nat} {f63 : Tab Meas} {f64 : Option Meas} {f65 : Tab FwSlot} {f66 : Nat} {f67 : Tab Nat}
    {f68 : Tab (Nat × Nat × Bool)} {f69 : Int} {f70 : Bool} {f71 : Tab Nat} {f72 : Tab Int} {f73 : Tab Nat}
    {f74 : Tab (List Nat)} {f75 : Option (Nat × List WaitSeen)} {f76 : Nat} {f77 : Nat} {f78 : Tab Nat} {f79 : Bool}
    {f80 : List Nat} {f81 : Nat} {f82 : Bool} {f83 : Nat} {f84 : List Byte} {f85 : Bool} {f86 : Nat} {f87 : Nat × Nat}
    {f88 : List (Nat × Nat)} {f89 : Nat}
    (h : Keeps z t) (hm : Safety.canonical t → Memory.wf m = true) : Keeps z ⟨t.pending, f1, m, f2, f3, f4, f5, f6, f7, f8, f9, t.snaps, f10, f11, f12, f13, f14, f15, f16, f17, f18, f19, f20, f21, f22,
    f23, f24, f25, f26, f27, f28, f29, f30, f31, f32, f33, f34, f35, f36, f37, f38, f39, f40, f41, f42, f43, f44, f45, f46, f47,
    f48, f49, f50, f51, f52, f53, f54, f55, f56, f57, f58, f59, f60, f61, f62, f63, f64, f65, f66, f67, f68, f69, f70, f71, f72,
    f73, f74, f75, f76, f77, f78, f79, f80, f81, f82, f83, f84, f85, f86, f87, f88, f89⟩ :=
  ⟨h.queue, fun c => ⟨hm (h.canon c), (h.canon c).2⟩⟩

/-- A state that differs from one that keeps by a write to memory. -/
theorem mkWrite {z t : State} {a : Nat} {bs : List Byte}
    {f1 : Tab Nat} {f2 : List Nat} {f3 : List Nat} {f4 : Tab (List Nat)} {f5 : Tab LogEntry} {f6 : Tab Comp} {f7 : Tab Stream}
    {f8 : Tab Queue} {f9 : Tab (List ChanTok)} {f10 : Tab Nat} {f11 : Tab Nat} {f12 : Tab (List Veil)} {f13 : Tab Nat}
    {f14 : Schedule} {f15 : Nat} {f16 : Bool} {f17 : Tab Nat} {f18 : Tab BkState} {f19 : List Nat} {f20 : List Nat}
    {f21 : List Nat} {f22 : List FetchReq} {f23 : Tab DstState} {f24 : Tab SrcState} {f25 : Tab Dma} {f26 : Tab (Nat × Nat)}
    {f27 : Tab Port} {f28 : Tab Nat} {f29 : Tab Nat} {f30 : List (Nat × Nat)} {f31 : Tab Policer} {f32 : Tab RouteSet}
    {f33 : List Nat} {f34 : Option (Nat × Nat)} {f35 : Commit} {f36 : Bool} {f37 : List Impression} {f38 : Option ImpWrite}
    {f39 : Nat} {f40 : Option Nat} {f41 : Option Nat} {f42 : Option HostHdr} {f43 : Option Nat} {f44 : Tab Nat} {f45 : List Nat}
    {f46 : Option (Nat × Bool)} {f47 : Option HostHdr} {f48 : Option (Nat × Nat)} {f49 : Tab FillState} {f50 : List Nat}
    {f51 : Tab Schedule} {f52 : Tab Reply} {f53 : List LongCmd} {f54 : List Reply} {f55 : List BulkOut} {f56 : Dreril}
    {f57 : Option (Nat × HostHdr × Schedule)} {f58 : Option (Nat × HostHdr)} {f59 : Bool} {f60 : Tab RgnState} {f61 : TimeMarks}
    {f62 : Tab Nat} {f63 : Tab Meas} {f64 : Option Meas} {f65 : Tab FwSlot} {f66 : Nat} {f67 : Tab Nat}
    {f68 : Tab (Nat × Nat × Bool)} {f69 : Int} {f70 : Bool} {f71 : Tab Nat} {f72 : Tab Int} {f73 : Tab Nat}
    {f74 : Tab (List Nat)} {f75 : Option (Nat × List WaitSeen)} {f76 : Nat} {f77 : Nat} {f78 : Tab Nat} {f79 : Bool}
    {f80 : List Nat} {f81 : Nat} {f82 : Bool} {f83 : Nat} {f84 : List Byte} {f85 : Bool} {f86 : Nat} {f87 : Nat × Nat}
    {f88 : List (Nat × Nat)} {f89 : Nat}
    (h : Keeps z t) : Keeps z ⟨t.pending, f1, memWrite t.mem a bs, f2, f3, f4, f5, f6, f7, f8, f9, t.snaps, f10, f11, f12, f13, f14, f15, f16, f17, f18,
    f19, f20, f21, f22, f23, f24, f25, f26, f27, f28, f29, f30, f31, f32, f33, f34, f35, f36, f37, f38, f39, f40, f41, f42, f43,
    f44, f45, f46, f47, f48, f49, f50, f51, f52, f53, f54, f55, f56, f57, f58, f59, f60, f61, f62, f63, f64, f65, f66, f67, f68,
    f69, f70, f71, f72, f73, f74, f75, f76, f77, f78, f79, f80, f81, f82, f83, f84, f85, f86, f87, f88, f89⟩ :=
  mkMem h fun c => Memory.wf_write _ _ c.1

/-- A state that differs from one that keeps by memory cells left out. -/
theorem mkFilter {z t : State} {p : Host.Cell → Bool}
    {f1 : Tab Nat} {f2 : List Nat} {f3 : List Nat} {f4 : Tab (List Nat)} {f5 : Tab LogEntry} {f6 : Tab Comp} {f7 : Tab Stream}
    {f8 : Tab Queue} {f9 : Tab (List ChanTok)} {f10 : Tab Nat} {f11 : Tab Nat} {f12 : Tab (List Veil)} {f13 : Tab Nat}
    {f14 : Schedule} {f15 : Nat} {f16 : Bool} {f17 : Tab Nat} {f18 : Tab BkState} {f19 : List Nat} {f20 : List Nat}
    {f21 : List Nat} {f22 : List FetchReq} {f23 : Tab DstState} {f24 : Tab SrcState} {f25 : Tab Dma} {f26 : Tab (Nat × Nat)}
    {f27 : Tab Port} {f28 : Tab Nat} {f29 : Tab Nat} {f30 : List (Nat × Nat)} {f31 : Tab Policer} {f32 : Tab RouteSet}
    {f33 : List Nat} {f34 : Option (Nat × Nat)} {f35 : Commit} {f36 : Bool} {f37 : List Impression} {f38 : Option ImpWrite}
    {f39 : Nat} {f40 : Option Nat} {f41 : Option Nat} {f42 : Option HostHdr} {f43 : Option Nat} {f44 : Tab Nat} {f45 : List Nat}
    {f46 : Option (Nat × Bool)} {f47 : Option HostHdr} {f48 : Option (Nat × Nat)} {f49 : Tab FillState} {f50 : List Nat}
    {f51 : Tab Schedule} {f52 : Tab Reply} {f53 : List LongCmd} {f54 : List Reply} {f55 : List BulkOut} {f56 : Dreril}
    {f57 : Option (Nat × HostHdr × Schedule)} {f58 : Option (Nat × HostHdr)} {f59 : Bool} {f60 : Tab RgnState} {f61 : TimeMarks}
    {f62 : Tab Nat} {f63 : Tab Meas} {f64 : Option Meas} {f65 : Tab FwSlot} {f66 : Nat} {f67 : Tab Nat}
    {f68 : Tab (Nat × Nat × Bool)} {f69 : Int} {f70 : Bool} {f71 : Tab Nat} {f72 : Tab Int} {f73 : Tab Nat}
    {f74 : Tab (List Nat)} {f75 : Option (Nat × List WaitSeen)} {f76 : Nat} {f77 : Nat} {f78 : Tab Nat} {f79 : Bool}
    {f80 : List Nat} {f81 : Nat} {f82 : Bool} {f83 : Nat} {f84 : List Byte} {f85 : Bool} {f86 : Nat} {f87 : Nat × Nat}
    {f88 : List (Nat × Nat)} {f89 : Nat}
    (h : Keeps z t) : Keeps z ⟨t.pending, f1, t.mem.filter p, f2, f3, f4, f5, f6, f7, f8, f9, t.snaps, f10, f11, f12, f13, f14, f15, f16, f17, f18, f19,
    f20, f21, f22, f23, f24, f25, f26, f27, f28, f29, f30, f31, f32, f33, f34, f35, f36, f37, f38, f39, f40, f41, f42, f43, f44,
    f45, f46, f47, f48, f49, f50, f51, f52, f53, f54, f55, f56, f57, f58, f59, f60, f61, f62, f63, f64, f65, f66, f67, f68, f69,
    f70, f71, f72, f73, f74, f75, f76, f77, f78, f79, f80, f81, f82, f83, f84, f85, f86, f87, f88, f89⟩ :=
  mkMem h fun c => Memory.wf_filter _ c.1

/-- A state whose memory and snapshots are in canonical form where z is, and whose queue is that of one that keeps. -/
theorem mkSnaps {z t : State} {m : List Host.Cell} {x : Tab Snapshot}
    {f1 : Tab Nat} {f2 : List Nat} {f3 : List Nat} {f4 : Tab (List Nat)} {f5 : Tab LogEntry} {f6 : Tab Comp} {f7 : Tab Stream}
    {f8 : Tab Queue} {f9 : Tab (List ChanTok)} {f10 : Tab Nat} {f11 : Tab Nat} {f12 : Tab (List Veil)} {f13 : Tab Nat}
    {f14 : Schedule} {f15 : Nat} {f16 : Bool} {f17 : Tab Nat} {f18 : Tab BkState} {f19 : List Nat} {f20 : List Nat}
    {f21 : List Nat} {f22 : List FetchReq} {f23 : Tab DstState} {f24 : Tab SrcState} {f25 : Tab Dma} {f26 : Tab (Nat × Nat)}
    {f27 : Tab Port} {f28 : Tab Nat} {f29 : Tab Nat} {f30 : List (Nat × Nat)} {f31 : Tab Policer} {f32 : Tab RouteSet}
    {f33 : List Nat} {f34 : Option (Nat × Nat)} {f35 : Commit} {f36 : Bool} {f37 : List Impression} {f38 : Option ImpWrite}
    {f39 : Nat} {f40 : Option Nat} {f41 : Option Nat} {f42 : Option HostHdr} {f43 : Option Nat} {f44 : Tab Nat} {f45 : List Nat}
    {f46 : Option (Nat × Bool)} {f47 : Option HostHdr} {f48 : Option (Nat × Nat)} {f49 : Tab FillState} {f50 : List Nat}
    {f51 : Tab Schedule} {f52 : Tab Reply} {f53 : List LongCmd} {f54 : List Reply} {f55 : List BulkOut} {f56 : Dreril}
    {f57 : Option (Nat × HostHdr × Schedule)} {f58 : Option (Nat × HostHdr)} {f59 : Bool} {f60 : Tab RgnState} {f61 : TimeMarks}
    {f62 : Tab Nat} {f63 : Tab Meas} {f64 : Option Meas} {f65 : Tab FwSlot} {f66 : Nat} {f67 : Tab Nat}
    {f68 : Tab (Nat × Nat × Bool)} {f69 : Int} {f70 : Bool} {f71 : Tab Nat} {f72 : Tab Int} {f73 : Tab Nat}
    {f74 : Tab (List Nat)} {f75 : Option (Nat × List WaitSeen)} {f76 : Nat} {f77 : Nat} {f78 : Tab Nat} {f79 : Bool}
    {f80 : List Nat} {f81 : Nat} {f82 : Bool} {f83 : Nat} {f84 : List Byte} {f85 : Bool} {f86 : Nat} {f87 : Nat × Nat}
    {f88 : List (Nat × Nat)} {f89 : Nat}
    (h : Keeps z t) (hm : Safety.canonical t → Memory.wf m = true) (hx : Safety.canonical t → ∀ e ∈ x, Safety.snapOk e.1 e.2) :
    Keeps z ⟨t.pending, f1, m, f2, f3, f4, f5, f6, f7, f8, f9, x, f10, f11, f12, f13, f14, f15, f16, f17, f18, f19, f20, f21, f22, f23,
    f24, f25, f26, f27, f28, f29, f30, f31, f32, f33, f34, f35, f36, f37, f38, f39, f40, f41, f42, f43, f44, f45, f46, f47, f48,
    f49, f50, f51, f52, f53, f54, f55, f56, f57, f58, f59, f60, f61, f62, f63, f64, f65, f66, f67, f68, f69, f70, f71, f72, f73,
    f74, f75, f76, f77, f78, f79, f80, f81, f82, f83, f84, f85, f86, f87, f88, f89⟩ :=
  ⟨h.queue, fun c => ⟨hm (h.canon c), hx (h.canon c)⟩⟩

theorem ite {z a b : State} {c : Prop} [Decidable c] (ha : Keeps z a) (hb : Keeps z b) : Keeps z (if c then a else b) := by
  split
  · exact ha
  · exact hb

theorem elim {z s : State} {α : Type} {o : Option α} {f : α → State} (h : Keeps z s) (hf : ∀ x, Keeps z (f x)) :
    Keeps z (o.elim s f) := by
  cases o with
  | none => exact h
  | some x => exact hf x

theorem ofId {z s : State} (h : Keeps z s) : Keeps z (id s) := h

theorem foldl {z : State} {α : Type} {f : State → α → State} {l : List α} {s : State} (hf : ∀ t x, Keeps z t → Keeps z (f t x))
    (h : Keeps z s) : Keeps z (l.foldl f s) := by
  induction l generalizing s with
  | nil => exact h
  | cons x l ih => exact ih (hf s x h)

theorem foldlFst {z : State} {α β : Type} {f : State × β → α → State × β} {l : List α} {p : State × β}
    (hf : ∀ q x, Keeps z q.1 → Keeps z (f q x).1) (h : Keeps z p.1) : Keeps z (l.foldl f p).1 := by
  induction l generalizing p with
  | nil => exact h
  | cons x l ih => exact ih (hf p x h)

theorem foldlSnd {z : State} {α β : Type} {f : β × State → α → β × State} {l : List α} {p : β × State}
    (hf : ∀ q x, Keeps z q.2 → Keeps z (f q x).2) (h : Keeps z p.2) : Keeps z (l.foldl f p).2 := by
  induction l generalizing p with
  | nil => exact h
  | cons x l ih => exact ih (hf p x h)

theorem fstOf {z t : State} {α : Type} {p : State × α} {x : α} (e : p = (t, x)) (h : Keeps z p.1) : Keeps z t := by
  subst e; exact h

theorem sndOf {z t : State} {α : Type} {p : α × State} {x : α} (e : p = (x, t)) (h : Keeps z p.2) : Keeps z t := by
  subst e; exact h

end Keeps

theorem KeepsA.ite {z : State} {a b : Answer} {c : Prop} [Decidable c] (ha : KeepsA z a) (hb : KeepsA z b) :
    KeepsA z (if c then a else b) := by
  split
  · exact ha
  · exact hb

theorem KeepsR.ite {z : State} {a b : Res} {c : Prop} [Decidable c] (ha : KeepsR z a) (hb : KeepsR z b) :
    KeepsR z (if c then a else b) := by
  split
  · exact ha
  · exact hb

theorem KeepsW.ite {z : State} {a b : WriteRes} {c : Prop} [Decidable c] (ha : KeepsW z a) (hb : KeepsW z b) :
    KeepsW z (if c then a else b) := by
  split
  · exact ha
  · exact hb

theorem KeepsD.ite {z : State} {a b : ReadRes} {c : Prop} [Decidable c] (ha : KeepsD z a) (hb : KeepsD z b) :
    KeepsD z (if c then a else b) := by
  split
  · exact ha
  · exact hb

theorem KeepsP.ite {z : State} {a b : Peek} {c : Prop} [Decidable c] (ha : KeepsP z a) (hb : KeepsP z b) :
    KeepsP z (if c then a else b) := by
  split
  · exact ha
  · exact hb

theorem KeepsG.ite {z : State} {a b : Got} {c : Prop} [Decidable c] (ha : KeepsG z a) (hb : KeepsG z b) :
    KeepsG z (if c then a else b) := by
  split
  · exact ha
  · exact hb

theorem KeepsS.ite {z : State} {a b : SigAdd} {c : Prop} [Decidable c] (ha : KeepsS z a) (hb : KeepsS z b) :
    KeepsS z (if c then a else b) := by
  split
  · exact ha
  · exact hb

theorem KeepsL.ite {z : State} {a b : Loaded} {c : Prop} [Decidable c] (ha : KeepsL z a) (hb : KeepsL z b) :
    KeepsL z (if c then a else b) := by
  split
  · exact ha
  · exact hb

theorem KeepsF.ite {z : State} {a b : SigRef} {c : Prop} [Decidable c] (ha : KeepsF z a) (hb : KeepsF z b) :
    KeepsF z (if c then a else b) := by
  split
  · exact ha
  · exact hb

theorem KeepsQ.ite {z : State} {a b : Option State} {c : Prop} [Decidable c] (ha : KeepsQ z a) (hb : KeepsQ z b) :
    KeepsQ z (if c then a else b) := by
  split
  · exact ha
  · exact hb

theorem KeepsE.ite {z : State} {a b : Option Res} {c : Prop} [Decidable c] (ha : KeepsE z a) (hb : KeepsE z b) :
    KeepsE z (if c then a else b) := by
  split
  · exact ha
  · exact hb

theorem KeepsO.ite {z : State} {a b : Host.Outcome State Fault Refusal} {c : Prop} [Decidable c] (ha : KeepsO z a) (hb : KeepsO z b) :
    KeepsO z (if c then a else b) := by
  split
  · exact ha
  · exact hb

/-! ### The states inside results -/

theorem KeepsA.ofDone {z t : State} {r : Answer} {a b : Nat} {l : List Nat} (e : r = .done t a b l) (h : KeepsA z r) : Keeps z t := by
  subst e; cases h; assumption

theorem KeepsA.ofLater {z t : State} {r : Answer} (e : r = .later t) (h : KeepsA z r) : Keeps z t := by
  subst e; cases h; assumption

theorem KeepsR.ofStop {z t : State} {r : Res} (e : r = .stop t) (h : KeepsR z r) : Keeps z t := by
  subst e; cases h; assumption

theorem KeepsR.ofOk {z t : State} {r : Res} (e : r = .ok t) (h : KeepsR z r) : Keeps z t := by
  subst e; cases h; assumption

theorem KeepsW.ofOk {z t : State} {r : WriteRes} (e : r = .ok t) (h : KeepsW z r) : Keeps z t := by
  subst e; cases h; assumption

theorem KeepsW.ofRefused {z t : State} {r : WriteRes} {a : Nat} (e : r = .refused t a) (h : KeepsW z r) : Keeps z t := by
  subst e; cases h; assumption

theorem KeepsD.ofWord {z t : State} {r : ReadRes} {v : Nat} (e : r = .word v t) (h : KeepsD z r) : Keeps z t := by
  subst e; cases h; assumption

theorem KeepsD.ofHw {z t : State} {r : ReadRes} {a : Nat} (e : r = .hw t a) (h : KeepsD z r) : Keeps z t := by
  subst e; cases h; assumption

theorem KeepsP.ofBad {z t : State} {r : Peek} (e : r = .bad t) (h : KeepsP z r) : Keeps z t := by
  subst e; cases h; assumption

theorem KeepsG.ofBad {z t : State} {r : Got} (e : r = .bad t) (h : KeepsG z r) : Keeps z t := by
  subst e; cases h; assumption

theorem KeepsS.ofAdded {z t : State} {r : SigAdd} (e : r = .added t) (h : KeepsS z r) : Keeps z t := by
  subst e; cases h; assumption

theorem KeepsS.ofOverflow {z t : State} {r : SigAdd} (e : r = .overflow t) (h : KeepsS z r) : Keeps z t := by
  subst e; cases h; assumption

theorem KeepsL.ofFault {z t : State} {r : Loaded} (e : r = .fault t) (h : KeepsL z r) : Keeps z t := by
  subst e; cases h; assumption

theorem KeepsL.ofValue {z t : State} {r : Loaded} {v : Nat} (e : r = .value t v) (h : KeepsL z r) : Keeps z t := by
  subst e; cases h; assumption

theorem KeepsF.ofFault {z t : State} {r : SigRef} (e : r = .fault t) (h : KeepsF z r) : Keeps z t := by
  subst e; cases h; assumption

theorem KeepsQ.ofSome {z t : State} {r : Option State} (e : r = Option.some t) (h : KeepsQ z r) : Keeps z t := by
  subst e; cases h; assumption

theorem KeepsQ.findSome {z : State} {α : Type} {f : α → Option State} {l : List α} (h : ∀ x, KeepsQ z (f x)) :
    KeepsQ z (l.findSome? f) := by
  induction l with
  | nil => exact .none
  | cons x l ih =>
    rw [List.findSome?_cons]
    have hx := h x
    split
    · rw [‹f x = _›] at hx; exact hx
    · exact ih

theorem KeepsQ.mapOpt {z : State} {α : Type} {f : α → State} {o : Option α} (h : ∀ x, Keeps z (f x)) : KeepsQ z (o.map f) := by
  cases o with
  | none => exact .none
  | some x => exact .some (h x)

theorem KeepsQ.foldlM {z s : State} {α : Type} {f : State → α → Option State} {l : List α} (hf : ∀ t x, Keeps z t → KeepsQ z (f t x))
    (h : Keeps z s) : KeepsQ z (l.foldlM f s) := by
  induction l generalizing s with
  | nil => exact .some h
  | cons x l ih =>
    rw [List.foldlM_cons]
    have hx := hf s x h
    cases hx' : f s x with
    | none => exact .none
    | some t => rw [hx'] at hx; cases hx; exact ih (by assumption)

theorem KeepsE.ofSome {z : State} {t : Res} {r : Option Res} (e : r = Option.some t) (h : KeepsE z r) : KeepsR z t := by
  subst e; cases h; assumption

theorem KeepsE.ofFst {z : State} {α : Type} {t : Res} {x : α} {p : Option Res × α} (e : p = (Option.some t, x)) (h : KeepsE z p.1) :
    KeepsR z t := by
  subst e; cases h; assumption

theorem KeepsO.ofNext {z t : State} {r : Host.Outcome State Fault Refusal} (e : r = .next t) (h : KeepsO z r) : Keeps z t := by
  subst e; cases h; assumption

end Sys2Proof.Machine
end

