-- ==== Sys2Proof/Laws/KeepsOps.lean ====
section
/-! SUPPORT. Every operation keeps the queue and the canonical form: registers, memory, the log, the fabric's sending and receiving, signals and benches. -/

set_option maxRecDepth 4000

namespace Sys2Proof.Machine

open Sys2Proof

/-! ### Regs -/

theorem State.set_keeps {z s : State} {f : Field} {v : Nat} (hs : Keeps z s) : Keeps z (State.set s f v) := by
  unfold State.set
  repeat' first
    | with_reducible first
      | assumption
    | with_reducible apply Keeps.mk'

theorem State.bump_keeps {z s : State} {f : Field} {n : Nat} (hs : Keeps z s) : Keeps z (State.bump s f n) := by
  unfold State.bump
  repeat' with_reducible first | assumption | apply State.set_keeps

theorem State.setAll_keeps {z s : State} {l : List (Field × Nat)} (hs : Keeps z s) : Keeps z (State.setAll s l) := by
  unfold State.setAll
  repeat' with_reducible first | assumption | intro _ | apply State.set_keeps | apply Keeps.foldl

/-! ### Ops -/

theorem State.fresh_keeps {z s : State} (hs : Keeps z s) : Keeps z (State.fresh s).2 := by
  unfold State.fresh
  dsimp only
  repeat' first
    | with_reducible first
      | assumption
    | with_reducible apply Keeps.mk'

theorem State.store_keeps {z s : State} {a : Nat} {bs : List Byte} (hs : Keeps z s) : Keeps z (State.store s a bs)
    := by
  unfold State.store
  repeat' first
    | with_reducible first
      | assumption
    | with_reducible apply Keeps.mkWrite

theorem State.storeNat_keeps {z s : State} {a : Nat} {n : Nat} {v : Nat} (hs : Keeps z s) : Keeps z (State.storeNat
    s a n v) := by
  unfold State.storeNat
  repeat' with_reducible first | assumption | apply State.store_keeps

theorem State.setComp_keeps {z s : State} {b : Nat} {x : Comp} (hs : Keeps z s) : Keeps z (State.setComp s b x) := by
  unfold State.setComp
  repeat' first
    | with_reducible first
      | assumption
    | with_reducible apply Keeps.mk'

theorem State.showMons_keeps {z s : State} {b : Nat} (hs : Keeps z s) : Keeps z (State.showMons s b) := by
  unfold State.showMons
  dsimp only
  repeat' with_reducible first | assumption | apply State.setAll_keeps

theorem State.fireBench_keeps {z s : State} {b : Nat} {a : Nat} {n : Nat} (hs : Keeps z s) : Keeps z
    (State.fireBench s b a n) := by
  unfold State.fireBench
  dsimp only
  repeat' with_reducible first | assumption | apply State.showMons_keeps | apply State.setComp_keeps | apply Keeps.ite

theorem State.fireMons_keeps {z s : State} {a : Nat} {n : Nat} (hs : Keeps z s) : Keeps z (State.fireMons s a n) := by
  unfold State.fireMons
  repeat' with_reducible first | assumption | intro _ | apply State.fireBench_keeps | apply Keeps.foldl

theorem State.put_keeps {z s : State} {a : Nat} {bs : List Byte} (hs : Keeps z s) : Keeps z (State.put s a bs) := by
  unfold State.put
  dsimp only
  repeat' first
    | with_reducible first
      | assumption | apply State.fireMons_keeps | apply State.store_keeps
    | with_reducible apply Keeps.mk'

theorem State.alert_keeps {z s : State} (hs : Keeps z s) : Keeps z (State.alert s) := by
  unfold State.alert
  repeat' with_reducible first | assumption | apply State.bump_keeps | apply State.set_keeps

theorem State.traceRing_keeps {z s : State} {rec : Nat} (hs : Keeps z s) : Keeps z (State.traceRing s rec) := by
  unfold State.traceRing
  dsimp only
  repeat' first
    | with_reducible first
      | assumption | apply State.store_keeps | apply State.bump_keeps | apply State.set_keeps | apply Keeps.ite
    | split

theorem State.traceDrain_keeps {z s : State} {r : Nat} (hs : Keeps z s) : Keeps z (State.traceDrain s r) := by
  unfold State.traceDrain
  repeat' first
    | with_reducible first
      | assumption | apply State.traceRing_keeps
    | split | with_reducible apply Keeps.mk'

theorem State.trace_keeps {z s : State} {r : Nat} {kind : Nat} {fields : List (Nat × Nat)} (hs : Keeps z s) : Keeps
    z (State.trace s r kind fields) := by
  unfold State.trace
  dsimp only
  repeat' first
    | with_reducible first
      | assumption | apply State.traceDrain_keeps | apply State.bump_keeps | apply Keeps.ite
    | with_reducible apply Keeps.mk'

theorem State.logCount_keeps {z s : State} {cls : Nat} (hs : Keeps z s) : Keeps z (State.logCount s cls) := by
  unfold State.logCount
  dsimp only
  repeat' with_reducible first | assumption | apply State.bump_keeps | apply State.set_keeps | apply Keeps.ite

theorem State.log1_keeps {z s : State} {cls : Nat} {u : LogUnit} {address : Nat} {detail : Nat} (hs : Keeps z s) :
    Keeps z (State.log1 s cls u address detail) := by
  unfold State.log1
  dsimp only
  repeat' first
    | with_reducible first
      | assumption | apply State.logCount_keeps | apply State.trace_keeps | apply State.bump_keeps
    | split | with_reducible apply Keeps.mk'

theorem State.logE_keeps {z s : State} {cls : Nat} {u : LogUnit} {address : Nat} {details : List (Nat × Nat)} (hs :
    Keeps z s) : Keeps z (State.logE s cls u address details) := by
  unfold State.logE
  repeat' with_reducible first | assumption | apply State.log1_keeps

theorem State.violation_keeps {z s : State} {opcode : Nat} {a : Nat} (hs : Keeps z s) : Keeps z (State.violation s
    opcode a) := by
  unfold State.violation
  repeat' with_reducible first | assumption | apply State.logE_keeps | apply State.set_keeps

theorem State.sendFlit_keeps {z s : State} {ch : Nat} (hs : Keeps z s) : Keeps z (State.sendFlit s ch) := by
  unfold State.sendFlit
  dsimp only
  repeat' first
    | with_reducible first
      | assumption | apply Keeps.ite
    | split | with_reducible apply Keeps.mk'

theorem State.sendFlits_keeps {z s : State} {ch n : Nat} (hs : Keeps z s) : Keeps z (s.sendFlits ch n) := by
  induction n generalizing s with
  | zero => exact hs
  | succ n ih => exact ih (State.sendFlit_keeps hs)

theorem State.drainDreril_keeps {z s : State} (hs : Keeps z s) : Keeps z (State.drainDreril s) := by
  unfold State.drainDreril
  dsimp only
  repeat' with_reducible first | assumption | apply State.sendFlits_keeps

theorem State.reply_keeps {z s : State} {r : Reply} (hs : Keeps z s) : Keeps z (State.reply s r) := by
  unfold State.reply
  dsimp only
  repeat' first
    | with_reducible first
      | assumption | apply State.drainDreril_keeps | apply State.bump_keeps | apply State.set_keeps
    | split | with_reducible apply Keeps.mk'

theorem State.bulkOut_keeps {z s : State} {tag : Nat} {data : List Byte} (hs : Keeps z s) : Keeps z (State.bulkOut s
    tag data) := by
  unfold State.bulkOut
  dsimp only
  repeat' first
    | with_reducible first
      | assumption | apply State.drainDreril_keeps
    | with_reducible apply Keeps.mk'

theorem State.tickBench_keeps {z s : State} {b : Nat} (hs : Keeps z s) : Keeps z (State.tickBench s b) := by
  unfold State.tickBench
  repeat' with_reducible first | assumption | apply State.bump_keeps | apply Keeps.ite

theorem State.countTick_keeps {z s : State} (hs : Keeps z s) : Keeps z (State.countTick s) := by
  unfold State.countTick
  dsimp only
  repeat' first
    | with_reducible first
      | assumption | apply State.bump_keeps | apply Keeps.ite
    | with_reducible apply Keeps.mk'

theorem tick_keeps {z s : State} (hs : Keeps z s) : Keeps z (tick s) := by
  unfold tick
  dsimp only
  repeat' first
    | with_reducible first
      | assumption | intro _ | apply State.countTick_keeps | apply State.tickBench_keeps | apply State.bump_keeps
      | apply Keeps.ite | apply Keeps.foldl
    | with_reducible apply Keeps.mk'

/-! ### Transport -/

theorem State.setPort_keeps {z s : State} {p : Nat} {x : Port} (hs : Keeps z s) : Keeps z (State.setPort s p x) := by
  unfold State.setPort
  repeat' first
    | with_reducible first
      | assumption
    | with_reducible apply Keeps.mk'

theorem State.onPort_keeps {z s : State} {p : Nat} {f : Port → Port} (hs : Keeps z s) : Keeps z (State.onPort s p f)
    := by
  unfold State.onPort
  repeat' with_reducible first | assumption | apply State.setPort_keeps

theorem State.emit_keeps {z s : State} {p : Nat} {n : Nat} (hs : Keeps z s) : Keeps z (State.emit s p n) := by
  unfold State.emit
  repeat' first
    | with_reducible first
      | assumption | apply State.onPort_keeps
    | with_reducible apply Keeps.mk'

theorem State.sendBlock_keeps {z s : State} {p : Nat} {type : Nat} {body : Nat} (hs : Keeps z s) : Keeps z
    (State.sendBlock s p type body) := by
  unfold State.sendBlock
  dsimp only
  repeat' with_reducible first | assumption | apply State.emit_keeps | apply Keeps.ite

theorem State.sendOpenBlock_keeps {z s : State} {p : Nat} {type : Nat} (hs : Keeps z s) : Keeps z
    (State.sendOpenBlock s p type) := by
  unfold State.sendOpenBlock
  dsimp only
  repeat' with_reducible first | assumption | apply State.sendBlock_keeps | apply State.fresh_keeps

theorem State.grantCredit_keeps {z s : State} {p : Nat} {l : List (Nat × Nat)} (hs : Keeps z s) : Keeps z
    (State.grantCredit s p l) := by
  unfold State.grantCredit
  repeat' with_reducible first | assumption | apply State.sendOpenBlock_keeps | apply State.onPort_keeps

theorem State.spendCredit_keeps {z s : State} {p : Nat} {pkt : Pkt} (hs : Keeps z s) : Keeps z (State.spendCredit s
    p pkt) := by
  unfold State.spendCredit
  repeat' with_reducible first | assumption | apply State.onPort_keeps | apply Keeps.ite

theorem State.returnCredit_keeps {z s : State} {p : Nat} {pkt : Pkt} (hs : Keeps z s) : Keeps z (State.returnCredit
    s p pkt) := by
  unfold State.returnCredit
  repeat' with_reducible first | assumption | apply State.grantCredit_keeps | apply Keeps.ite

theorem State.poolBad_keeps {z s : State} {m : Nat} {i : Nat} {off : Nat} {op : Nat} (hs : Keeps z s) : Keeps z
    (State.poolBad s m i off op) := by
  unfold State.poolBad
  dsimp only
  repeat' with_reducible first | assumption | apply State.logE_keeps | apply State.setAll_keeps | apply State.bump_keeps

theorem State.poolTake_keeps {z s : State} {m : Nat} {i : Nat} (hs : Keeps z s) : Keeps z (State.poolTake s m i).2
    := by
  unfold State.poolTake
  dsimp only
  repeat' first
    | with_reducible first
      | assumption | apply State.poolBad_keeps | apply State.setAll_keeps
    | split | with_reducible apply Keeps.mk'

theorem State.poolAlloc_keeps {z s : State} {m : Nat} {i : Nat} {fallback : Bool} {y4 : Nat} (hs : Keeps z s) :
    Keeps z (State.poolAlloc s m i fallback y4).2 := by
  induction y4 generalizing s m i fallback with
  | zero =>
    unfold State.poolAlloc
    dsimp only
    assumption
  | succ n ih =>
    unfold State.poolAlloc
    repeat' first
      | with_reducible first
        | assumption | apply ih | apply State.poolTake_keeps | apply State.bump_keeps | apply Keeps.ite
      | split | refine Keeps.sndOf (by assumption) ?_

theorem State.bufAlloc_keeps {z s : State} {m : Nat} {n : Nat} (hs : Keeps z s) : Keeps z (State.bufAlloc s m n).2
    := by
  unfold State.bufAlloc
  repeat' with_reducible first | assumption | apply State.poolAlloc_keeps

theorem State.poolFree_keeps {z s : State} {m : Nat} {i : Nat} {off : Nat} (hs : Keeps z s) : Keeps z
    (State.poolFree s m i off) := by
  unfold State.poolFree
  dsimp only
  repeat' first
    | with_reducible first
      | assumption | apply State.poolBad_keeps | apply State.setAll_keeps | apply Keeps.ite
    | with_reducible apply Keeps.mk'

theorem State.bufFree_keeps {z s : State} {b : Option (Nat × Nat)} (hs : Keeps z s) : Keeps z (State.bufFree s b) :=
    by
  unfold State.bufFree
  repeat' first
    | with_reducible first
      | assumption | apply State.poolFree_keeps
    | split

theorem State.poolRebuild_keeps {z s : State} {m : Nat} {i : Nat} (hs : Keeps z s) : Keeps z (State.poolRebuild s m
    i) := by
  unfold State.poolRebuild
  dsimp only
  repeat' first
    | with_reducible first
      | assumption | apply State.setAll_keeps
    | with_reducible apply Keeps.mk'

theorem State.fitReplay_keeps {z s : State} {p : Nat} (hs : Keeps z s) : Keeps z (State.fitReplay s p) := by
  unfold State.fitReplay
  dsimp only
  repeat' first
    | with_reducible first
      | assumption | apply State.poolFree_keeps | apply State.poolTake_keeps | apply State.onPort_keeps | apply Keeps.ite
    | split

theorem State.setLinkMode_keeps {z s : State} {v : Nat} (hs : Keeps z s) : Keeps z (State.setLinkMode s v) := by
  unfold State.setLinkMode
  dsimp only
  repeat' with_reducible first | assumption | intro _ | apply State.fitReplay_keeps | apply State.set_keeps | apply Keeps.foldl

theorem State.enqueue_keeps {z s : State} {e : Nat} {q : Queued} (hs : Keeps z s) : Keeps z (State.enqueue s e q) :=
    by
  unfold State.enqueue
  repeat' with_reducible first | assumption | apply State.onPort_keeps

theorem State.stage_keeps {z s : State} {n : Nat} {bytes : Nat} (hs : Keeps z s) : Keeps z (State.stage s n bytes)
    := by
  unfold State.stage
  dsimp only
  repeat' with_reducible first | assumption | apply State.setAll_keeps

theorem State.unstage_keeps {z s : State} {n : Nat} {bytes : Nat} (hs : Keeps z s) : Keeps z (State.unstage s n
    bytes) := by
  unfold State.unstage
  repeat' with_reducible first | assumption | apply State.set_keeps

theorem State.release_keeps {z s : State} {q : Queued} (hs : Keeps z s) : Keeps z (State.release s q) := by
  unfold State.release
  dsimp only
  repeat' first
    | with_reducible first
      | assumption | apply State.unstage_keeps | apply State.bufFree_keeps | apply State.returnCredit_keeps
    | split

theorem State.ringHop_keeps {z s : State} {pkt : Pkt} {dir : Nat} {i : Nat} (hs : Keeps z s) : Keeps z
    (State.ringHop s pkt dir i) := by
  unfold State.ringHop
  dsimp only
  repeat' first
    | with_reducible first
      | assumption | apply State.trace_keeps | apply State.bump_keeps
    | with_reducible apply Keeps.mk'

theorem State.ringLeave_keeps {z s : State} {pkt : Pkt} {dir : Nat} {i : Nat} (hs : Keeps z s) : Keeps z
    (State.ringLeave s pkt dir i) := by
  unfold State.ringLeave
  dsimp only
  repeat' first
    | with_reducible first
      | assumption
    | with_reducible apply Keeps.mk'

theorem State.ringCross_keeps {z s : State} {pkt : Pkt} {a : Nat} {b : Nat} (hs : Keeps z s) : Keeps z
    (State.ringCross s pkt a b) := by
  unfold State.ringCross
  dsimp only
  repeat' with_reducible first
    | assumption | intro _ | apply State.ringLeave_keeps | apply State.ringHop_keeps | apply Keeps.foldl

theorem State.keepHeld_keeps {z s : State} {e : Nat} {q : Queued} (hs : Keeps z s) : Keeps z (State.keepHeld s e q)
    := by
  unfold State.keepHeld
  repeat' with_reducible first | assumption | apply State.onPort_keeps

theorem State.accept_keeps {z s : State} {e : Nat} {q : Queued} (hs : Keeps z s) : Keeps z (State.accept s e q) := by
  unfold State.accept
  dsimp only
  repeat' first
    | with_reducible first
      | assumption | apply State.keepHeld_keeps | apply State.ringCross_keeps | apply State.release_keeps
      | apply State.enqueue_keeps | apply State.bufAlloc_keeps | apply Keeps.ite
    | split | refine Keeps.sndOf (by assumption) ?_

theorem State.retryHeld_keeps {z s : State} {e : Nat} (hs : Keeps z s) : Keeps z (State.retryHeld s e) := by
  unfold State.retryHeld
  repeat' first
    | with_reducible first
      | assumption | apply State.accept_keeps | apply State.onPort_keeps
    | split

theorem State.pathDown_keeps {z s : State} {m : Nat} (hs : Keeps z s) : Keeps z (State.pathDown s m) := by
  unfold State.pathDown
  repeat' with_reducible first | assumption | apply State.bump_keeps | apply State.set_keeps

theorem State.depart_keeps {z s : State} {m : Nat} {q : Queued} (hs : Keeps z s) : Keeps z (State.depart s m q) := by
  unfold State.depart
  repeat' first
    | with_reducible first
      | assumption | apply State.pathDown_keeps | apply State.accept_keeps | apply State.release_keeps | apply State.logE_keeps
      | apply Keeps.ite
    | split

theorem State.setDst_keeps {z s : State} {d : Nat} {x : DstState} (hs : Keeps z s) : Keeps z (State.setDst s d x) :=
    by
  unfold State.setDst
  repeat' first
    | with_reducible first
      | assumption
    | with_reducible apply Keeps.mk'

theorem State.timeout_keeps {z s : State} {u : LogUnit} {dev : Nat} {details : List (Nat × Nat)} (hs : Keeps z s) :
    Keeps z (State.timeout s u dev details) := by
  unfold State.timeout
  repeat' with_reducible first | assumption | apply State.logE_keeps | apply State.set_keeps

theorem State.stagePkt_keeps {z s : State} {n : Nat} {pkt : Pkt} (hs : Keeps z s) : Keeps z (State.stagePkt s n pkt)
    := by
  unfold State.stagePkt
  repeat' with_reducible first | assumption | apply State.stage_keeps | apply State.trace_keeps | apply State.bump_keeps

theorem State.injectPkt_keeps {z s : State} {n : Nat} {pkt : Pkt} (hs : Keeps z s) : Keeps z (State.injectPkt s n
    pkt) := by
  unfold State.injectPkt
  repeat' with_reducible first | assumption | apply State.stagePkt_keeps | apply State.depart_keeps

theorem State.failStream_keeps {z s : State} {owner : Option (Nat × Nat)} (hs : Keeps z s) : Keeps z
    (State.failStream s owner) := by
  unfold State.failStream
  repeat' first
    | with_reducible first
      | assumption
    | split | with_reducible apply Keeps.mk'

theorem State.sendOut_keeps {z s : State} {n : Nat} {via : Option Nat} {pkt : Pkt} (hs : Keeps z s) : Keeps z
    (State.sendOut s n via pkt) := by
  unfold State.sendOut
  repeat' first
    | with_reducible first
      | assumption | apply State.injectPkt_keeps | apply State.stagePkt_keeps | apply State.accept_keeps
    | split

theorem State.sendTo_keeps {z s : State} {n : Nat} {owner : Option (Nat × Nat)} {dma : Option Nat} {d : Draft} {m :
    Nat} {via : Option Nat} (hs : Keeps z s) : Keeps z (State.sendTo s n owner dma d m via) := by
  unfold State.sendTo
  dsimp only
  repeat' with_reducible first
    | assumption | apply State.sendOut_keeps | apply State.failStream_keeps | apply State.timeout_keeps
    | apply State.setDst_keeps | apply Keeps.ite

theorem State.inject_keeps {z s : State} {n : Nat} {owner : Option (Nat × Nat)} {dma : Option Nat} {d : Draft} (hs :
    Keeps z s) : Keeps z (State.inject s n owner dma d) := by
  unfold State.inject
  repeat' with_reducible first | assumption | apply State.sendTo_keeps

theorem State.multicast_keeps {z s : State} {n : Nat} {owner : Option (Nat × Nat)} {g : Nat} {d : Draft} (hs : Keeps
    z s) : Keeps z (State.multicast s n owner g d) := by
  unfold State.multicast
  repeat' with_reducible first | assumption | intro _ | apply State.sendTo_keeps | apply Keeps.foldl

theorem State.send_keeps {z s : State} {d : Draft} (hs : Keeps z s) : Keeps z (State.send s d) := by
  unfold State.send
  repeat' with_reducible first | assumption | apply State.inject_keeps

theorem State.sendMgmt_keeps {z s : State} {dst : Nat} {payload : List Byte} (hs : Keeps z s) : Keeps z
    (State.sendMgmt s dst payload) := by
  unfold State.sendMgmt
  repeat' with_reducible first | assumption | apply State.send_keeps

theorem State.refillDst_keeps {z s : State} {d : Nat} {y2 : Nat} (hs : Keeps z s) : Keeps z (State.refillDst s d y2)
    := by
  induction y2 generalizing s d with
  | zero =>
    unfold State.refillDst
    assumption
  | succ n ih =>
    unfold State.refillDst
    dsimp only
    repeat' first
      | with_reducible first
        | assumption | apply ih | apply State.sendOut_keeps | apply State.setDst_keeps | apply Keeps.ite
      | split

theorem State.setSrc_keeps {z s : State} {d : Nat} {x : SrcState} (hs : Keeps z s) : Keeps z (State.setSrc s d x) :=
    by
  unfold State.setSrc
  repeat' first
    | with_reducible first
      | assumption
    | with_reducible apply Keeps.mk'

theorem State.sendAck_keeps {z s : State} {d : Nat} (hs : Keeps z s) : Keeps z (State.sendAck s d) := by
  unfold State.sendAck
  repeat' with_reducible first | assumption | apply State.send_keeps

theorem State.sendNack_keeps {z s : State} {d : Nat} {seq : Nat} {count : Nat} {reason : Nat} (hs : Keeps z s) :
    Keeps z (State.sendNack s d seq count reason) := by
  unfold State.sendNack
  repeat' with_reducible first | assumption | apply State.send_keeps

theorem State.acknowledge_keeps {z s : State} {pkt : Pkt} (hs : Keeps z s) : Keeps z (State.acknowledge s pkt) := by
  unfold State.acknowledge
  repeat' with_reducible first | assumption | apply State.sendAck_keeps | apply State.setSrc_keeps

/-! ### Margin -/

theorem State.traceMargin_keeps {z s : State} {r : Nat} (hs : Keeps z s) : Keeps z (State.traceMargin s r) := by
  unfold State.traceMargin
  repeat' with_reducible first | assumption | apply State.trace_keeps

theorem State.applyCode_keeps {z s : State} {r : Nat} (hs : Keeps z s) : Keeps z (State.applyCode s r) := by
  unfold State.applyCode
  dsimp only
  repeat' with_reducible first | assumption | apply State.traceMargin_keeps | apply State.set_keeps | apply Keeps.ite

theorem State.slowSend_keeps {z s : State} {r : Nat} {mult : Nat} (hs : Keeps z s) : Keeps z (State.slowSend s r
    mult) := by
  unfold State.slowSend
  repeat' with_reducible first | assumption | intro _ | apply State.sendMgmt_keeps | apply State.set_keeps | apply Keeps.foldl

theorem State.loseBench_keeps {z s : State} {b : Nat} {cause : Nat} (hs : Keeps z s) : Keeps z (State.loseBench s b
    cause) := by
  unfold State.loseBench
  repeat' with_reducible first | assumption | apply State.alert_keeps | apply State.setAll_keeps

theorem State.logOpen_keeps {z s : State} {u : LogUnit} {address : Nat} {details : List (Nat × Nat)} (hs : Keeps z
    s) : Keeps z (State.logOpen s u address details) := by
  unfold State.logOpen
  dsimp only
  repeat' with_reducible first | assumption | apply State.logE_keeps | apply State.fresh_keeps

theorem State.retireStart_keeps {z s : State} {b : Nat} {cause : Nat} (hs : Keeps z s) : Keeps z (State.retireStart
    s b cause) := by
  unfold State.retireStart
  dsimp only
  repeat' first
    | with_reducible first
      | assumption | apply State.logOpen_keeps | apply State.loseBench_keeps | apply State.slowSend_keeps
      | apply State.applyCode_keeps | apply State.setAll_keeps | apply Keeps.ite
    | split | with_reducible apply Keeps.mk'

theorem State.setRgn_keeps {z s : State} {r : Nat} {x : RgnState} (hs : Keeps z s) : Keeps z (State.setRgn s r x) :=
    by
  unfold State.setRgn
  repeat' first
    | with_reducible first
      | assumption
    | with_reducible apply Keeps.mk'

theorem State.marginRaise_keeps {z s : State} {r : Nat} {b : Nat} (hs : Keeps z s) : Keeps z (State.marginRaise s r
    b) := by
  unfold State.marginRaise
  dsimp only
  repeat' with_reducible first
    | assumption | apply State.setRgn_keeps | apply State.retireStart_keeps | apply State.applyCode_keeps
    | apply State.alert_keeps | apply State.set_keeps | apply Keeps.ite

theorem State.rgnError_keeps {z s : State} {r : Nat} (hs : Keeps z s) : Keeps z (State.rgnError s r) := by
  unfold State.rgnError
  dsimp only
  repeat' with_reducible first | assumption | apply State.marginRaise_keeps | apply State.setRgn_keeps | apply Keeps.ite

theorem State.logR_keeps {z s : State} {cls : Nat} {u : LogUnit} {address : Nat} {details : List (Nat × Nat)} (hs :
    Keeps z s) : Keeps z (State.logR s cls u address details) := by
  unfold State.logR
  dsimp only
  repeat' first
    | with_reducible first
      | assumption | apply State.rgnError_keeps | apply State.logE_keeps
    | split

/-! ### Lines -/

theorem State.retireChannel_keeps {z s : State} {c : Nat} {cause : Nat} (hs : Keeps z s) : Keeps z
    (State.retireChannel s c cause) := by
  unfold State.retireChannel
  dsimp only
  repeat' with_reducible first
    | assumption | apply State.logOpen_keeps | apply State.alert_keeps | apply State.setAll_keeps | apply State.set_keeps
    | apply Keeps.ite

theorem State.chanError_keeps {z s : State} {c : Nat} {kind : Nat} (hs : Keeps z s) : Keeps z (State.chanError s c
    kind) := by
  unfold State.chanError
  dsimp only
  repeat' first
    | with_reducible first
      | assumption | apply State.retireChannel_keeps | apply Keeps.ite
    | with_reducible apply Keeps.mk'

theorem State.lineCorrected_keeps {z s : State} {a : Nat} (hs : Keeps z s) : Keeps z (State.lineCorrected s a) := by
  unfold State.lineCorrected
  dsimp only
  repeat' with_reducible first
    | assumption | apply State.chanError_keeps | apply State.logE_keeps | apply State.bump_keeps | apply State.set_keeps

theorem State.lineUncorr_keeps {z s : State} {a : Nat} (hs : Keeps z s) : Keeps z (State.lineUncorr s a) := by
  unfold State.lineUncorr
  dsimp only
  repeat' first
    | with_reducible first
      | assumption | apply State.chanError_keeps | apply State.logE_keeps | apply State.setAll_keeps | apply State.bump_keeps
      | apply Keeps.ite
    | with_reducible apply Keeps.mk'

/-! ### Receive -/

theorem Done.close_keeps {z : State} {d : Done} {pkt : Pkt} (hd : Keeps z d.1) : Keeps z (Done.close d pkt) := by
  unfold Done.close
  dsimp only
  repeat' first
    | with_reducible first
      | assumption | apply State.acknowledge_keeps | apply State.sendNack_keeps | apply State.setSrc_keeps | apply Keeps.ite
    | split

theorem State.refuseAccess_keeps {z s : State} {p : Nat} {src : Nat} {h : Nat} {off : Nat} (hs : Keeps z s) : Keeps
    z (State.refuseAccess s p src h off) := by
  unfold State.refuseAccess
  repeat' with_reducible first | assumption | apply State.logE_keeps

theorem State.delivered_keeps {z s : State} {p : Nat} {n : Nat} {pkt : Pkt} (hs : Keeps z s) : Keeps z
    (State.delivered s p n pkt) := by
  unfold State.delivered
  dsimp only
  repeat' with_reducible first
    | assumption | apply State.ringCross_keeps | apply State.unstage_keeps | apply State.stage_keeps | apply State.trace_keeps
    | apply State.bump_keeps

theorem State.orderViolation_keeps {z s : State} {u : LogUnit} {src : Nat} {station : Option Nat} {expected : Nat}
    {seen : Nat} (hs : Keeps z s) : Keeps z (State.orderViolation s u src station expected seen) := by
  unfold State.orderViolation
  dsimp only
  repeat' with_reducible first | assumption | apply State.logE_keeps | apply State.setAll_keeps

theorem State.grantOrdinals_keeps {z s : State} {p : Nat} {k : Nat} {l : List Nat} (hs : Keeps z s) : Keeps z
    (State.grantOrdinals s p k l) := by
  unfold State.grantOrdinals
  dsimp only
  repeat' with_reducible first | assumption | apply State.grantCredit_keeps | apply Keeps.ite

theorem State.grantEpoch_keeps {z s : State} (hs : Keeps z s) : Keeps z (State.grantEpoch s) := by
  unfold State.grantEpoch
  repeat' with_reducible first | assumption | intro _ | apply State.grantOrdinals_keeps | apply Keeps.foldl

theorem State.served_keeps {z s : State} {p : Nat} (hs : Keeps z s) : Keeps z (State.served s p) := by
  unfold State.served
  dsimp only
  repeat' with_reducible first | assumption | apply State.grantOrdinals_keeps | apply State.setPort_keeps | apply Keeps.ite

theorem State.refuseOrdinal_keeps {z s : State} {p : Nat} {pkt : Pkt} {expected : Nat} (hs : Keeps z s) : Keeps z
    (State.refuseOrdinal s p pkt expected) := by
  unfold State.refuseOrdinal
  dsimp only
  repeat' with_reducible first
    | assumption | apply State.orderViolation_keeps | apply State.sendNack_keeps | apply State.setSrc_keeps

theorem State.dropAhead_keeps {z s : State} {p : Nat} {pkt : Pkt} (hs : Keeps z s) : Keeps z (State.dropAhead s p
    pkt) := by
  unfold State.dropAhead
  repeat' with_reducible first | assumption | apply State.setSrc_keeps | apply State.returnCredit_keeps

theorem State.sendCustody_keeps {z s : State} {p : Nat} {src : Nat} {dst : Nat} (hs : Keeps z s) : Keeps z
    (State.sendCustody s p src dst) := by
  unfold State.sendCustody
  repeat' with_reducible first | assumption | apply State.send_keeps

theorem State.takeCustody_keeps {z s : State} {p : Nat} {pkt : Pkt} (hs : Keeps z s) : Keeps z (State.takeCustody s p pkt).1
    := by
  unfold State.takeCustody
  generalize custKey p (pktSrc pkt) (pktDst pkt) = k
  by_cases h : s.longHaul p = true ∧ kindAcked (pktKind pkt) = true
  · simp only [if_pos h]
    generalize (s.src k).classify (pktSeq pkt) = c
    cases c with
    | duplicate => simp only; exact State.sendCustody_keeps (State.bump_keeps hs)
    | beyond => simp only; exact State.logE_keeps hs
    | accepted =>
      simp only
      split
      · simp only; exact Keeps.ite hs (State.refuseOrdinal_keeps hs)
      · simp only; exact State.sendCustody_keeps (State.onPort_keeps (State.setSrc_keeps hs))
  · simp only [if_neg h]
    exact hs

theorem State.dropCustody_keeps {z s : State} {pkt : Pkt} (hs : Keeps z s) : Keeps z (State.dropCustody s pkt) := by
  unfold State.dropCustody
  dsimp only
  repeat' first
    | with_reducible first
      | assumption
    | with_reducible apply Keeps.mk'

theorem State.park_keeps {z s : State} {p : Nat} {pkt : Pkt} (hs : Keeps z s) : Keeps z (State.park s p pkt) := by
  unfold State.park
  repeat' with_reducible first | assumption | apply State.onPort_keeps

theorem State.capture_keeps {z s : State} {p : Nat} {pkt : Pkt} (hs : Keeps z s) : Keeps z (State.capture s p pkt)
    := by
  unfold State.capture
  dsimp only
  repeat' with_reducible first
    | assumption | apply State.park_keeps | apply State.takeCustody_keeps | apply State.returnCredit_keeps
    | apply State.onPort_keeps | apply State.bump_keeps | apply Keeps.ite

theorem State.countRx_keeps {z s : State} {p : Nat} {pkt : Pkt} (hs : Keeps z s) : Keeps z (State.countRx s p pkt)
    := by
  unfold State.countRx
  repeat' with_reducible first | assumption | apply State.spendCredit_keeps | apply State.bump_keeps

theorem State.crcFailed_keeps {z s : State} {p : Nat} {pkt : Pkt} (hs : Keeps z s) : Keeps z (State.crcFailed s p
    pkt) := by
  unfold State.crcFailed
  dsimp only
  repeat' with_reducible first
    | assumption | apply State.rgnError_keeps | apply State.logE_keeps | apply State.bump_keeps | apply State.set_keeps
    | apply Keeps.ite

theorem State.checked_keeps {z s : State} {p : Nat} {pkt : Pkt} {paid : Bool} {body : State → Done} (hs : Keeps z s)
    (hbody : (∀ x00, Keeps z x00 → Keeps z (body x00).1)) : Keeps z (State.checked s p pkt paid body) := by
  unfold State.checked
  dsimp only
  repeat' first
    | with_reducible first
      | assumption | apply hbody | apply State.crcFailed_keeps | apply State.dropCustody_keeps | apply State.takeCustody_keeps
      | apply Done.close_keeps | apply State.sendAck_keeps | apply State.logE_keeps | apply State.bump_keeps | apply Keeps.ite
    | split

theorem State.ingress_keeps {z s : State} {p : Nat} {pkt : Pkt} {paid : Bool} {use : State → State} (hs : Keeps z s)
    (huse : (∀ x00, Keeps z x00 → Keeps z (use x00))) : Keeps z (State.ingress s p pkt paid use) := by
  unfold State.ingress
  dsimp only
  repeat' first
    | with_reducible first
      | assumption | apply huse | apply State.bufFree_keeps | apply State.bufAlloc_keeps | apply State.returnCredit_keeps
      | apply State.spendCredit_keeps | apply State.bump_keeps | apply Keeps.ite
    | split | refine Keeps.sndOf (by assumption) ?_

theorem State.inTurn_keeps {z s : State} {p : Nat} {pkt : Pkt} {body : State → Done} (hs : Keeps z s) (hbody : (∀
    x00, Keeps z x00 → Keeps z (body x00).1)) : Keeps z (State.inTurn s p pkt body).1 := by
  unfold State.inTurn
  repeat' first
    | with_reducible first
      | assumption | apply hbody | apply State.refuseOrdinal_keeps | apply State.served_keeps | apply State.onPort_keeps
      | apply State.bump_keeps
    | split

/-! ### Switch -/

theorem State.paceSent_keeps {z s : State} {e : Nat} {n : Nat} (hs : Keeps z s) : Keeps z (State.paceSent s e n) := by
  unfold State.paceSent
  dsimp only
  repeat' with_reducible first | assumption | apply State.onPort_keeps | apply Keeps.ite

theorem State.takeCredit_keeps {z s : State} {e : Nat} {pkt : Pkt} (hs : Keeps z s) : Keeps z (State.takeCredit s e
    pkt) := by
  unfold State.takeCredit
  dsimp only
  repeat' with_reducible first | assumption | apply State.onPort_keeps

theorem State.nearCustody_keeps {z s : State} {e : Nat} {pkt : Pkt} (hs : Keeps z s) : Keeps z (State.nearCustody s
    e pkt) := by
  unfold State.nearCustody
  dsimp only
  repeat' with_reducible first
    | assumption | apply State.sendCustody_keeps | apply State.setSrc_keeps | apply State.setDst_keeps | apply Keeps.ite

theorem State.mirrorOne_keeps {z s : State} {m : Nat} {k : Nat} {dir : Nat} {port : Nat} {pkt : Pkt} (hs : Keeps z
    s) : Keeps z (State.mirrorOne s m k dir port pkt) := by
  unfold State.mirrorOne
  dsimp only
  repeat' with_reducible first
    | assumption | apply State.accept_keeps | apply State.ringCross_keeps | apply State.bump_keeps | apply State.set_keeps
    | apply Keeps.ite

theorem State.mirrorAt_keeps {z s : State} {dir : Nat} {port : Nat} {pkt : Pkt} (hs : Keeps z s) : Keeps z
    (State.mirrorAt s dir port pkt) := by
  unfold State.mirrorAt
  repeat' with_reducible first | assumption | intro _ | apply State.mirrorOne_keeps | apply Keeps.foldl

theorem State.setBuckets_keeps {z s : State} {m : Nat} {i : Nat} {x : Policer} (hs : Keeps z s) : Keeps z
    (State.setBuckets s m i x) := by
  unfold State.setBuckets
  repeat' first
    | with_reducible first
      | assumption | apply State.setAll_keeps
    | with_reducible apply Keeps.mk'

theorem State.police_keeps {z s : State} {p : Nat} {pkt : Pkt} (hs : Keeps z s) : Keeps z (State.police s p pkt).2
    := by
  unfold State.police
  dsimp only
  repeat' first
    | with_reducible first
      | assumption | apply State.setBuckets_keeps | apply State.bump_keeps | apply State.set_keeps
    | split

theorem State.pushChan_keeps {z s : State} {key : Nat} {t : ChanTok} (hs : Keeps z s) : Keeps z (State.pushChan s
    key t) := by
  unfold State.pushChan
  dsimp only
  repeat' first
    | with_reducible first
      | assumption | apply State.stage_keeps | apply State.trace_keeps | apply State.bump_keeps
    | with_reducible apply Keeps.mk'

theorem State.presentPkt_keeps {z s : State} {dir : Nat} {peer : Nat} {pkt : Pkt} (hs : Keeps z s) : Keeps z
    (State.presentPkt s dir peer pkt) := by
  unfold State.presentPkt
  repeat' with_reducible first | assumption | intro _ | apply State.pushChan_keeps | apply Keeps.ite | apply Keeps.foldl

theorem State.putOut_keeps {z s : State} {e : Nat} {pkt : Pkt} {d : Nat} (hs : Keeps z s) : Keeps z (State.putOut s
    e pkt d) := by
  unfold State.putOut
  dsimp only
  repeat' with_reducible first
    | assumption | apply State.presentPkt_keeps | apply State.nearCustody_keeps | apply State.takeCredit_keeps
    | apply State.paceSent_keeps | apply State.served_keeps | apply State.emit_keeps | apply State.onPort_keeps
    | apply State.bump_keeps | apply Keeps.ite

theorem State.retryDie_keeps {z s : State} {m : Nat} (hs : Keeps z s) : Keeps z (State.retryDie s m) := by
  unfold State.retryDie
  repeat' with_reducible first | assumption | intro _ | apply State.retryHeld_keeps | apply Keeps.foldl

theorem State.transmitQ_keeps {z s : State} {e : Nat} {q : Queued} (hs : Keeps z s) : Keeps z (State.transmitQ s e
    q) := by
  unfold State.transmitQ
  dsimp only
  repeat' first
    | with_reducible first
      | assumption | apply State.retryDie_keeps | apply State.putOut_keeps | apply State.mirrorAt_keeps
      | apply State.sendCustody_keeps | apply State.bufFree_keeps | apply State.bump_keeps | apply Keeps.ite
    | split

theorem State.grant_keeps {z s : State} {e : Nat} (hs : Keeps z s) : Keeps z (State.grant s e) := by
  unfold State.grant
  dsimp only
  repeat' first
    | with_reducible first
      | assumption | apply State.transmitQ_keeps | apply State.setPort_keeps | apply Keeps.ite
    | split

theorem execShareInterval_keeps {z : State} {p : Nat} {s : State} (hs : Keeps z s) : KeepsO z (execShareInterval p s) := by
  unfold execShareInterval
  repeat' with_reducible first | assumption | apply State.onPort_keeps | apply KeepsO.next | apply Keeps.ite

theorem State.sampleQueue_keeps {z s : State} {p : Nat} {v : Nat} (hs : Keeps z s) : Keeps z (State.sampleQueue s p
    v) := by
  unfold State.sampleQueue
  dsimp only
  repeat' with_reducible first | assumption | apply State.setPort_keeps | apply State.setAll_keeps

theorem execSample_keeps {z : State} {m : Nat} {s : State} (hs : Keeps z s) : KeepsO z (execSample m s) := by
  unfold execSample
  repeat' with_reducible first
    | assumption | intro _ | apply State.sampleQueue_keeps | apply KeepsO.next | apply Keeps.ite | apply Keeps.foldl

theorem execPoolRebuild_keeps {z : State} {m : Nat} {pool : Nat} {s : State} (hs : Keeps z s) : KeepsO z (execPoolRebuild m
    pool s) := by
  unfold execPoolRebuild
  repeat' with_reducible first
    | assumption | apply State.retryDie_keeps | apply State.poolRebuild_keeps | apply KeepsO.next | apply Keeps.ite

theorem State.cutOut_keeps {z s : State} {p : Nat} {e : Nat} {pkt : Pkt} (hs : Keeps z s) : Keeps z (State.cutOut s
    p e pkt) := by
  unfold State.cutOut
  dsimp only
  repeat' with_reducible first
    | assumption | apply State.putOut_keeps | apply State.mirrorAt_keeps | apply State.ringCross_keeps
    | apply State.onPort_keeps | apply State.bump_keeps

theorem State.abortWire_keeps {z s : State} {e : Nat} {good : Nat} {bad : Nat} (hs : Keeps z s) : Keeps z
    (State.abortWire s e good bad) := by
  unfold State.abortWire
  repeat' first
    | with_reducible first
      | assumption | apply State.emit_keeps | apply Keeps.ite
    | split | with_reducible apply Keeps.mk'

theorem State.abortCut_keeps {z s : State} {p : Nat} (hs : Keeps z s) : Keeps z (State.abortCut s p) := by
  unfold State.abortCut
  dsimp only
  repeat' first
    | with_reducible first
      | assumption | apply State.abortWire_keeps | apply State.onPort_keeps | apply State.bump_keeps
    | split

theorem State.abortCuts_keeps {z s : State} {p : Nat} (hs : Keeps z s) : Keeps z (State.abortCuts s p) := by
  unfold State.abortCuts
  repeat' with_reducible first | assumption | intro _ | apply State.abortCut_keeps | apply Keeps.foldl

theorem State.forwardOne_keeps {z s : State} {p : Nat} {q : Queued} (hs : Keeps z s) : Keeps z (State.forwardOne s p
    q) := by
  unfold State.forwardOne
  repeat' first
    | with_reducible first
      | assumption | apply State.cutOut_keeps | apply State.depart_keeps | apply State.pathDown_keeps
      | apply State.release_keeps | apply Keeps.ite
    | split

theorem State.forwardCopy_keeps {z s : State} {pkt : Pkt} {e : Nat} {m : Nat} (hs : Keeps z s) : Keeps z
    (State.forwardCopy s pkt e m) := by
  unfold State.forwardCopy
  dsimp only
  repeat' with_reducible first
    | assumption | apply State.setDst_keeps | apply State.pathDown_keeps | apply State.accept_keeps | apply State.logE_keeps
    | apply Keeps.ite

theorem State.forwardCopies_keeps {z s : State} {pkt : Pkt} (hs : Keeps z s) : Keeps z (State.forwardCopies s pkt)
    := by
  unfold State.forwardCopies
  repeat' with_reducible first | assumption | intro _ | apply State.forwardCopy_keeps | apply Keeps.foldl

theorem State.forwardTo_keeps {z s : State} {p : Nat} {pkt : Pkt} {paid : Bool} (hs : Keeps z s) : Keeps z
    (State.forwardTo s p pkt paid) := by
  unfold State.forwardTo
  dsimp only
  repeat' first
    | with_reducible first
      | assumption | apply State.forwardOne_keeps | apply State.bufAlloc_keeps | apply State.bump_keeps | apply Keeps.ite
    | split | refine Keeps.sndOf (by assumption) ?_

theorem State.transit_keeps {z s : State} {p : Nat} {pkt : Pkt} {paid : Bool} (hs : Keeps z s) : Keeps z
    (State.transit s p pkt paid) := by
  unfold State.transit
  dsimp only
  repeat' first
    | with_reducible first
      | assumption | apply State.forwardTo_keeps | apply State.forwardCopies_keeps | apply State.takeCustody_keeps
      | apply State.returnCredit_keeps | apply State.bump_keeps | apply Keeps.ite
    | split

theorem State.mirrorIn_keeps {z s : State} {p : Nat} {pkt : Pkt} (hs : Keeps z s) : Keeps z (State.mirrorIn s p pkt)
    := by
  unfold State.mirrorIn
  dsimp only
  repeat' first
    | with_reducible first
      | assumption | apply State.crcFailed_keeps | apply State.delivered_keeps | apply State.put_keeps | apply State.bump_keeps
      | apply Keeps.ite
    | split

/-! ### Signals -/

theorem State.sigFault_keeps {z s : State} {e : Nat} (hs : Keeps z s) : Keeps z (State.sigFault s e) := by
  unfold State.sigFault
  repeat' with_reducible first | assumption | apply State.storeNat_keeps

theorem State.sigWaiter_keeps {z s : State} {e : Nat} {k : Nat} {on : Bool} (hs : Keeps z s) : Keeps z
    (State.sigWaiter s e k on) := by
  unfold State.sigWaiter
  dsimp only
  repeat' with_reducible first | assumption | apply State.storeNat_keeps

theorem State.countFault_keeps {z s : State} {a : Nat} {kind : Nat} (hs : Keeps z s) : Keeps z (State.countFault s a
    kind) := by
  unfold State.countFault
  repeat' with_reducible first | assumption | apply State.setAll_keeps

theorem State.sigAdd_keeps {z s : State} {a : Nat} {inc : Nat} {by' : Signaller} (hs : Keeps z s) : KeepsS z
    (State.sigAdd s a inc by') := by
  unfold State.sigAdd
  dsimp only
  repeat' first
    | with_reducible first
      | assumption | apply State.countFault_keeps | apply State.sigFault_keeps | apply State.logE_keeps
      | apply State.fireMons_keeps | apply State.storeNat_keeps | apply KeepsS.added | apply KeepsS.overflow
      | apply KeepsS.absent | apply KeepsS.unreadable | apply KeepsS.ite
    | split

theorem State.signal_keeps {z s : State} {u : LogUnit} {a : Nat} {inc : Nat} {by' : Signaller} (hs : Keeps z s) :
    Keeps z (State.signal s u a inc by') := by
  unfold State.signal
  repeat' first
    | with_reducible first
      | assumption | apply State.sigAdd_keeps | apply State.logE_keeps
    | split | refine KeepsS.ofAdded (by assumption) ?_ | refine KeepsS.ofOverflow (by assumption) ?_

/-! ### Bench -/

theorem State.haltBench_keeps {z s : State} {b : Nat} (hs : Keeps z s) : Keeps z (State.haltBench s b) := by
  unfold State.haltBench
  repeat' with_reducible first | assumption | apply State.setAll_keeps | apply Keeps.ite

theorem State.haltStation_keeps {z s : State} {b : Nat} {i : Nat} (hs : Keeps z s) : Keeps z (State.haltStation s b
    i) := by
  unfold State.haltStation
  repeat' with_reducible first | assumption | apply State.haltBench_keeps | apply State.set_keeps

theorem State.setStream_keeps {z s : State} {b : Nat} {i : Nat} {x : Stream} (hs : Keeps z s) : Keeps z
    (State.setStream s b i x) := by
  unfold State.setStream
  repeat' first
    | with_reducible first
      | assumption
    | with_reducible apply Keeps.mk'

theorem State.delStream_keeps {z s : State} {b : Nat} {i : Nat} (hs : Keeps z s) : Keeps z (State.delStream s b i)
    := by
  unfold State.delStream
  repeat' first
    | with_reducible first
      | assumption
    | with_reducible apply Keeps.mk'

theorem State.stnViolation_keeps {z s : State} {b : Nat} {i : Nat} {a : Nat} (hs : Keeps z s) : Keeps z
    (State.stnViolation s b i a) := by
  unfold State.stnViolation
  repeat' with_reducible first | assumption | apply State.logE_keeps | apply State.set_keeps

theorem State.refuseStream_keeps {z s : State} {b : Nat} {i : Nat} {a : Nat} (hs : Keeps z s) : Keeps z
    (State.refuseStream s b i a) := by
  unfold State.refuseStream
  repeat' with_reducible first
    | assumption | apply State.stnViolation_keeps | apply State.haltBench_keeps | apply State.set_keeps

theorem State.stnHaltViolation_keeps {z s : State} {b : Nat} {i : Nat} {a : Nat} (hs : Keeps z s) : Keeps z
    (State.stnHaltViolation s b i a) := by
  unfold State.stnHaltViolation
  repeat' with_reducible first | assumption | apply State.stnViolation_keeps | apply State.haltStation_keeps

end Sys2Proof.Machine
end

