-- ==== Sys2Proof/Laws/KeepsFabric.lean ====
section
/-! SUPPORT. Every operation keeps the queue and the canonical form: packet services, regions and margins, the timebase, ports and links. -/

set_option maxRecDepth 4000

namespace Sys2Proof.Machine

open Sys2Proof

/-! ### Fabric -/

theorem State.stoneUncorr_keeps {z s : State} {a : Nat} (hs : Keeps z s) : Keeps z (State.stoneUncorr s a) := by
  unfold State.stoneUncorr
  dsimp only
  repeat' with_reducible first | assumption | apply State.logE_keeps | apply State.bump_keeps | apply State.set_keeps

theorem State.storeRefused_keeps {z s : State} {u : LogUnit} {a : Nat} (hs : Keeps z s) : Keeps z
    (State.storeRefused s u a) := by
  unfold State.storeRefused
  repeat' with_reducible first | assumption | apply State.stoneUncorr_keeps | apply State.logE_keeps | apply Keeps.ite

theorem State.writeBody_keeps {z s : State} {p : Nat} {pkt : Pkt} {ok : RegionEntry → Bool} (hs : Keeps z s) : Keeps
    z (State.writeBody s p pkt ok).1 := by
  unfold State.writeBody
  dsimp only
  repeat' first
    | with_reducible first
      | assumption | apply State.storeRefused_keeps | apply State.delivered_keeps | apply State.refuseAccess_keeps
      | apply State.logE_keeps | apply State.put_keeps
    | split

theorem State.signalBody_keeps {z s : State} {p : Nat} {pkt : Pkt} (hs : Keeps z s) : Keeps z (State.signalBody s p
    pkt).1 := by
  unfold State.signalBody
  dsimp only
  repeat' first
    | with_reducible first
      | assumption | apply State.storeRefused_keeps | apply State.sigAdd_keeps | apply State.delivered_keeps
      | apply State.refuseAccess_keeps | apply State.logE_keeps
    | split | refine KeepsS.ofAdded (by assumption) ?_ | refine KeepsS.ofOverflow (by assumption) ?_

theorem State.readBody_keeps {z s : State} {p : Nat} {pkt : Pkt} (hs : Keeps z s) : Keeps z (State.readBody s p
    pkt).1 := by
  unfold State.readBody
  dsimp only
  repeat' first
    | with_reducible first
      | assumption | apply State.stoneUncorr_keeps | apply State.refuseAccess_keeps | apply State.inject_keeps
      | apply State.logE_keeps | apply Keeps.ite
    | split

theorem State.dmaAcked_keeps {z s : State} {k : Nat} (hs : Keeps z s) : Keeps z (State.dmaAcked s k) := by
  unfold State.dmaAcked
  dsimp only
  repeat' first
    | with_reducible first
      | assumption | apply State.inject_keeps | apply Keeps.ite
    | split | with_reducible apply Keeps.mk'

theorem State.ackRelease_keeps {z s : State} {peer : Nat} {cum : Nat} {map : Nat} (hs : Keeps z s) : Keeps z
    (State.ackRelease s peer cum map) := by
  unfold State.ackRelease
  dsimp only
  repeat' with_reducible first
    | assumption | intro _ | apply State.dmaAcked_keeps | apply State.refillDst_keeps | apply State.setDst_keeps
    | apply Keeps.foldl

theorem State.ackBody_keeps {z s : State} {p : Nat} {pkt : Pkt} (hs : Keeps z s) : Keeps z (State.ackBody s p pkt).1
    := by
  unfold State.ackBody
  dsimp only
  repeat' first
    | with_reducible first
      | assumption | apply State.ackRelease_keeps | apply State.logE_keeps
    | split

theorem State.resendOne_keeps {z s : State} {d : Nat} {f : Flight} (hs : Keeps z s) : Keeps z (State.resendOne s d
    f) := by
  unfold State.resendOne
  dsimp only
  repeat' with_reducible first | assumption | apply State.sendOut_keeps | apply State.setDst_keeps | apply State.bump_keeps

theorem State.nackedOne_keeps {z s : State} {d : Nat} {f : Flight} (hs : Keeps z s) : Keeps z (State.nackedOne s d
    f) := by
  unfold State.nackedOne
  dsimp only
  repeat' first
    | with_reducible first
      | assumption | apply State.haltStation_keeps | apply State.setDst_keeps | apply State.logE_keeps
    | split

theorem State.nackBody_keeps {z s : State} {p : Nat} {pkt : Pkt} (hs : Keeps z s) : Keeps z (State.nackBody s p
    pkt).1 := by
  unfold State.nackBody
  dsimp only
  repeat' first
    | with_reducible first
      | assumption | intro _ | apply State.nackedOne_keeps | apply State.resendOne_keeps | apply State.logE_keeps
      | apply Keeps.foldl
    | split

theorem State.custodyPort_keeps {z s : State} {p : Nat} {pkt : Pkt} (hs : Keeps z s) : Keeps z (State.custodyPort s
    p pkt) := by
  unfold State.custodyPort
  repeat' with_reducible first | assumption | apply State.onPort_keeps | apply Keeps.ite

theorem State.custodyBody_keeps {z s : State} {p : Nat} {pkt : Pkt} (hs : Keeps z s) : Keeps z (State.custodyBody s
    p pkt).1 := by
  unfold State.custodyBody
  dsimp only
  repeat' first
    | with_reducible first
      | assumption | apply State.custodyPort_keeps | apply State.setDst_keeps | apply State.logE_keeps
    | split

theorem State.custodyTransit_keeps {z s : State} {p : Nat} {pkt : Pkt} (hs : Keeps z s) : Keeps z
    (State.custodyTransit s p pkt) := by
  unfold State.custodyTransit
  repeat' with_reducible first
    | assumption | apply State.custodyPort_keeps | apply State.crcFailed_keeps | apply State.logE_keeps | apply Keeps.ite

theorem State.ackPasses_keeps {z s : State} {pkt : Pkt} (hs : Keeps z s) : Keeps z (State.ackPasses s pkt) := by
  unfold State.ackPasses
  dsimp only
  repeat' first
    | with_reducible first
      | assumption | apply Keeps.ite
    | with_reducible apply Keeps.mk'

theorem State.giveUp_keeps {z s : State} {d : Nat} {f : Flight} (hs : Keeps z s) : Keeps z (State.giveUp s d f) := by
  unfold State.giveUp
  dsimp only
  repeat' with_reducible first
    | assumption | apply State.failStream_keeps | apply State.timeout_keeps | apply State.setDst_keeps | apply State.set_keeps

theorem State.segmentGivesUp_keeps {z s : State} {k : Copy} (hs : Keeps z s) : Keeps z (State.segmentGivesUp s k) :=
    by
  unfold State.segmentGivesUp
  dsimp only
  repeat' with_reducible first | assumption | apply State.timeout_keeps | apply State.setDst_keeps | apply State.set_keeps

theorem State.windowResend_keeps {z s : State} {e : Nat} {k : Copy} (hs : Keeps z s) : Keeps z (State.windowResend s
    e k) := by
  unfold State.windowResend
  repeat' with_reducible first
    | assumption | apply State.segmentGivesUp_keeps | apply State.emit_keeps | apply State.onPort_keeps | apply State.bump_keeps
    | apply Keeps.ite

theorem State.receptionResend_keeps {z s : State} {e : Nat} {k : Copy} (hs : Keeps z s) : Keeps z
    (State.receptionResend s e k) := by
  unfold State.receptionResend
  repeat' with_reducible first
    | assumption | apply State.segmentGivesUp_keeps | apply State.depart_keeps | apply State.onPort_keeps
    | apply State.bump_keeps | apply Keeps.ite

theorem State.segmentResend_keeps {z s : State} {src : Nat} {dst : Nat} {seq : Nat} (hs : Keeps z s) : Keeps z
    (State.segmentResend s src dst seq) := by
  unfold State.segmentResend
  repeat' first
    | with_reducible first
      | assumption | apply State.receptionResend_keeps | apply State.windowResend_keeps
    | split

theorem execResend_keeps {z : State} {dst : Nat} {seq : W32} {s : State} {src : optParam (Option Nat) none} (hs : Keeps z s) :
    KeepsO z (execResend dst seq s src) := by
  unfold execResend
  dsimp only
  repeat' first
    | with_reducible first
      | assumption | apply State.segmentResend_keeps | apply State.giveUp_keeps | apply State.resendOne_keeps
      | apply KeepsO.next | apply Keeps.ite
    | split

theorem execGapNack_keeps {z : State} {src : Nat} {s : State} (hs : Keeps z s) : KeepsO z (execGapNack src s) := by
  unfold execGapNack
  repeat' with_reducible first
    | assumption | intro _ | apply State.sendNack_keeps | apply KeepsO.next | apply Keeps.ite | apply Keeps.foldl

theorem execDelivTo_keeps {z : State} {dst : Nat} {seq : W32} {s : State} (hs : Keeps z s) : KeepsO z (execDelivTo dst seq s)
    := by
  unfold execDelivTo
  repeat' with_reducible first | assumption | apply State.timeout_keeps | apply KeepsO.next | apply Keeps.ite

theorem State.blockIn_keeps {z s : State} {p : Nat} {type : Nat} {b : BitVec 256} {carriedOk : Bool} {use : State →
    State} (hs : Keeps z s) (huse : (∀ x00, Keeps z x00 → Keeps z (use x00))) : Keeps z (State.blockIn s p type b carriedOk
    use) := by
  unfold State.blockIn
  dsimp only
  repeat' with_reducible first | assumption | apply huse | apply State.bump_keeps | apply State.set_keeps | apply Keeps.ite

theorem execCredit_keeps {z : State} {p : Nat} {blk : BitVec 256} {vcs : List Nat} {ords : Tab Nat} {s : State} (hs : Keeps z
    s) : KeepsO z (execCredit p blk vcs ords s) := by
  unfold execCredit
  repeat' with_reducible first | assumption | intro _ | apply State.blockIn_keeps | apply State.onPort_keeps | apply KeepsO.next

/-! ### Regions -/

theorem State.thermCycle_keeps {z s : State} (hs : Keeps z s) : Keeps z (State.thermCycle s) := by
  unfold State.thermCycle
  dsimp only
  repeat' first
    | with_reducible first
      | assumption | apply State.bump_keeps | apply Keeps.ite
    | with_reducible apply Keeps.mk'

theorem State.regionTemp_keeps {z s : State} {r : Nat} {t : Int} (hs : Keeps z s) : Keeps z (State.regionTemp s r t)
    := by
  unfold State.regionTemp
  dsimp only
  repeat' with_reducible first | assumption | apply State.thermCycle_keeps | apply State.applyCode_keeps | apply State.set_keeps

theorem State.senseTemp_keeps {z s : State} {u : Nat} {t : Int} (hs : Keeps z s) : Keeps z (State.senseTemp s u t)
    := by
  unfold State.senseTemp
  dsimp only
  repeat' first
    | with_reducible first
      | assumption | apply State.regionTemp_keeps | apply State.setAll_keeps | apply Keeps.ite
    | with_reducible apply Keeps.mk'

theorem State.canary_keeps {z s : State} {r : Nat} {matched : Bool} (hs : Keeps z s) : Keeps z (State.canary s r
    matched) := by
  unfold State.canary
  dsimp only
  repeat' with_reducible first
    | assumption | apply State.marginRaise_keeps | apply State.setRgn_keeps | apply State.bump_keeps | apply Keeps.ite

theorem execCanaryCapture_keeps {z : State} {r : Nat} {matched : Bool} {s : State} (hs : Keeps z s) : KeepsO z
    (execCanaryCapture r matched s) := by
  unfold execCanaryCapture
  repeat' with_reducible first | assumption | apply State.canary_keeps | apply KeepsO.next | apply Keeps.ite

theorem execMarginLower_keeps {z : State} {r : Nat} {band : Nat} {s : State} (hs : Keeps z s) : KeepsO z (execMarginLower r
    band s) := by
  unfold execMarginLower
  dsimp only
  repeat' with_reducible first
    | assumption | apply State.setRgn_keeps | apply State.applyCode_keeps | apply State.set_keeps | apply KeepsO.next
    | apply Keeps.ite

theorem execBandChange_keeps {z : State} {r : Nat} {temp : Int} {s : State} (hs : Keeps z s) : KeepsO z (execBandChange r temp
    s) := by
  unfold execBandChange
  repeat' with_reducible first | assumption | apply State.senseTemp_keeps | apply KeepsO.next | apply Keeps.ite

theorem execSlowMarkSend_keeps {z : State} {r : Nat} {s : State} (hs : Keeps z s) : KeepsO z (execSlowMarkSend r s) := by
  unfold execSlowMarkSend
  repeat' with_reducible first | assumption | apply State.slowSend_keeps | apply KeepsO.next | apply Keeps.ite

theorem execSlewingEnd_keeps {z : State} {r : Nat} {s : State} (hs : Keeps z s) : KeepsO z (execSlewingEnd r s) := by
  unfold execSlewingEnd
  repeat' with_reducible first | assumption | apply State.setAll_keeps | apply KeepsO.next | apply Keeps.ite

theorem State.scaleTimers_keeps {z s : State} {d : Nat} {old : Nat} {new : Nat} (hs : Keeps z s) : Keeps z
    (State.scaleTimers s d old new) := by
  unfold State.scaleTimers
  dsimp only
  repeat' first
    | with_reducible first
      | assumption | apply State.setDst_keeps | apply Keeps.ite
    | with_reducible apply Keeps.mk'

theorem State.setMarks_keeps {z s : State} {src : Nat} {m : Tab (Nat × Nat)} (hs : Keeps z s) : Keeps z
    (State.setMarks s src m) := by
  unfold State.setMarks
  dsimp only
  repeat' first
    | with_reducible first
      | assumption | apply State.scaleTimers_keeps
    | with_reducible apply Keeps.mk'

theorem State.mgmtBody_keeps {z s : State} {pkt : Pkt} {len : Nat} {use : State → State} (hs : Keeps z s) (huse : (∀
    x00, Keeps z x00 → Keeps z (use x00))) : Keeps z (State.mgmtBody s pkt len use).1 := by
  unfold State.mgmtBody
  repeat' first
    | with_reducible first
      | assumption | apply huse | apply State.bump_keeps
    | split

theorem State.slowBody_keeps {z s : State} {pkt : Pkt} (hs : Keeps z s) : Keeps z (State.slowBody s pkt).1 := by
  unfold State.slowBody
  dsimp only
  repeat' first
    | with_reducible first
      | assumption | intro _ | apply State.mgmtBody_keeps | apply State.setMarks_keeps | apply State.bump_keeps
    | split

theorem execSlowMarkExpiry_keeps {z : State} {src : Nat} {r : Nat} {s : State} (hs : Keeps z s) : KeepsO z (execSlowMarkExpiry
    src r s) := by
  unfold execSlowMarkExpiry
  repeat' with_reducible first | assumption | apply State.setMarks_keeps | apply KeepsO.next | apply Keeps.ite

/-! ### Timebase -/

theorem State.setTimeMarks_keeps {z s : State} {x : TimeMarks} (hs : Keeps z s) : Keeps z (State.setTimeMarks s x)
    := by
  unfold State.setTimeMarks
  repeat' first
    | with_reducible first
      | assumption
    | with_reducible apply Keeps.mk'

theorem State.roundFree_keeps {z s : State} {n : Int} {d : Nat} (hs : Keeps z s) : Keeps z (State.roundFree s n d).2
    := by
  unfold State.roundFree
  dsimp only
  repeat' first
    | with_reducible first
      | assumption | apply State.fresh_keeps
    | split

theorem State.stepCount_keeps {z s : State} {k : Nat} (hs : Keeps z s) : Keeps z (State.stepCount s k) := by
  unfold State.stepCount
  dsimp only
  repeat' with_reducible first | assumption | apply State.setTimeMarks_keeps | apply State.bump_keeps

theorem State.coarse_keeps {z s : State} (hs : Keeps z s) : Keeps z (State.coarse s) := by
  unfold State.coarse
  dsimp only
  repeat' with_reducible first
    | assumption | apply State.stepCount_keeps | apply State.setTimeMarks_keeps | apply State.setAll_keeps | apply Keeps.ite

theorem State.filterOffset_keeps {z s : State} {half : Int} (hs : Keeps z s) : Keeps z (State.filterOffset s half)
    := by
  unfold State.filterOffset
  dsimp only
  repeat' with_reducible first
    | assumption | apply State.roundFree_keeps | apply State.setTimeMarks_keeps | apply State.set_keeps

theorem State.newOffset_keeps {z s : State} {half : Int} {bound : Nat} (hs : Keeps z s) : Keeps z (State.newOffset s
    half bound) := by
  unfold State.newOffset
  dsimp only
  repeat' with_reducible first
    | assumption | apply State.filterOffset_keeps | apply State.coarse_keeps | apply State.setTimeMarks_keeps
    | apply State.set_keeps | apply Keeps.ite

theorem execTimeMarkSend_keeps {z s : State} (hs : Keeps z s) : KeepsO z (execTimeMarkSend s) := by
  unfold execTimeMarkSend
  dsimp only
  repeat' with_reducible first
    | assumption | apply State.setTimeMarks_keeps | apply State.sendOpenBlock_keeps | apply KeepsO.next | apply Keeps.ite

theorem execTimeReq_keeps {z : State} {p : Nat} {blk : BitVec 256} {_t1 : W64} {s : State} (hs : Keeps z s) : KeepsO z
    (execTimeReq p blk _t1 s) := by
  unfold execTimeReq
  dsimp only
  repeat' with_reducible first
    | assumption | intro _ | apply State.setTimeMarks_keeps | apply State.blockIn_keeps | apply State.sendOpenBlock_keeps
    | apply KeepsO.next | apply Keeps.ite

theorem State.rttSample_keeps {z s : State} {p : Nat} {n : Nat} (hs : Keeps z s) : Keeps z (State.rttSample s p n)
    := by
  unfold State.rttSample
  dsimp only
  repeat' with_reducible first | assumption | apply State.alert_keeps | apply State.set_keeps | apply Keeps.ite

theorem State.timeReply_keeps {z s : State} {p : Nat} {t1 : Nat} {t2 : Nat} {t3 : Nat} (hs : Keeps z s) : Keeps z
    (State.timeReply s p t1 t2 t3) := by
  unfold State.timeReply
  dsimp only
  repeat' with_reducible first
    | assumption | apply State.rttSample_keeps | apply State.newOffset_keeps | apply State.roundFree_keeps
    | apply State.setTimeMarks_keeps | apply State.set_keeps

theorem execTimeResp_keeps {z : State} {p : Nat} {blk : BitVec 256} {t2 : W64} {t3 : W64} {s : State} (hs : Keeps z s) :
    KeepsO z (execTimeResp p blk t2 t3 s) := by
  unfold execTimeResp
  repeat' first
    | with_reducible first
      | assumption | intro _ | apply State.timeReply_keeps | apply State.blockIn_keeps | apply KeepsO.next | apply Keeps.ite
    | split

theorem execSlew_keeps {z s : State} (hs : Keeps z s) : KeepsO z (execSlew s) := by
  unfold execSlew
  dsimp only
  repeat' with_reducible first
    | assumption | apply State.stepCount_keeps | apply State.setTimeMarks_keeps | apply KeepsO.next | apply Keeps.ite

theorem execTbLockTimeout_keeps {z s : State} (hs : Keeps z s) : KeepsO z (execTbLockTimeout s) := by
  unfold execTbLockTimeout
  dsimp only
  repeat' with_reducible first
    | assumption | apply State.setTimeMarks_keeps | apply State.set_keeps | apply KeepsO.next | apply Keeps.ite

theorem execRefLost_keeps {z s : State} (hs : Keeps z s) : KeepsO z (execRefLost s) := by
  unfold execRefLost
  dsimp only
  repeat' with_reducible first
    | assumption | apply State.setTimeMarks_keeps | apply State.alert_keeps | apply State.set_keeps | apply KeepsO.next
    | apply Keeps.ite

theorem execReferencePresent_keeps {z s : State} (hs : Keeps z s) : KeepsO z (execReferencePresent s) := by
  unfold execReferencePresent
  dsimp only
  repeat' with_reducible first
    | assumption | apply State.setTimeMarks_keeps | apply State.set_keeps | apply KeepsO.next | apply Keeps.ite

theorem execPpsIn_keeps {z s : State} (hs : Keeps z s) : KeepsO z (execPpsIn s) := by
  unfold execPpsIn
  dsimp only
  repeat' with_reducible first
    | assumption | apply State.filterOffset_keeps | apply State.coarse_keeps | apply State.set_keeps | apply KeepsO.next
    | apply Keeps.ite

theorem execPpsOut_keeps {z s : State} (hs : Keeps z s) : KeepsO z (execPpsOut s) := by
  unfold execPpsOut
  dsimp only
  repeat' with_reducible first | assumption | apply State.setTimeMarks_keeps | apply KeepsO.next | apply Keeps.ite

/-! ### Ports -/

theorem State.chooseRoute_keeps {z s : State} (hs : Keeps z s) : Keeps z (State.chooseRoute s) := by
  unfold State.chooseRoute
  repeat' first
    | with_reducible first
      | assumption | apply State.alert_keeps | apply State.set_keeps
    | split

theorem State.raiseAlarm_keeps {z s : State} {d : Nat} {tell : Bool} (hs : Keeps z s) : Keeps z (State.raiseAlarm s
    d tell) := by
  unfold State.raiseAlarm
  dsimp only
  repeat' first
    | with_reducible first
      | assumption | intro _ | apply State.chooseRoute_keeps | apply State.sendMgmt_keeps | apply State.setLinkMode_keeps
      | apply State.setAll_keeps | apply Keeps.ite | apply Keeps.foldl
    | with_reducible apply Keeps.mk'

theorem State.setCtx_keeps {z s : State} {p : Nat} {v : Nat} (hs : Keeps z s) : Keeps z (State.setCtx s p v) := by
  unfold State.setCtx
  repeat' with_reducible first | assumption | apply State.set_keeps

theorem State.setLanes_keeps {z s : State} {p : Nat} {width : Nat} {mask : Nat} (hs : Keeps z s) : Keeps z
    (State.setLanes s p width mask) := by
  unfold State.setLanes
  repeat' with_reducible first | assumption | apply State.setAll_keeps

theorem State.sendMark_keeps {z s : State} {p : Nat} (hs : Keeps z s) : Keeps z (State.sendMark s p) := by
  unfold State.sendMark
  repeat' with_reducible first | assumption | apply State.sendOpenBlock_keeps | apply State.onPort_keeps | apply Keeps.ite

theorem State.linkEnds_keeps {z s : State} {p : Nat} {reason : Nat} (hs : Keeps z s) : Keeps z (State.linkEnds s p
    reason) := by
  unfold State.linkEnds
  dsimp only
  repeat' with_reducible first
    | assumption | apply State.setCtx_keeps | apply State.abortCuts_keeps | apply State.fitReplay_keeps
    | apply State.onPort_keeps | apply State.logE_keeps | apply State.setAll_keeps

theorem State.linkDown_keeps {z s : State} {p : Nat} {reason : Nat} (hs : Keeps z s) : Keeps z (State.linkDown s p
    reason) := by
  unfold State.linkDown
  dsimp only
  repeat' with_reducible first
    | assumption | apply State.linkEnds_keeps | apply State.raiseAlarm_keeps | apply State.set_keeps | apply Keeps.ite

theorem State.portFails_keeps {z s : State} {p : Nat} {reason : Nat} (hs : Keeps z s) : Keeps z (State.portFails s p
    reason) := by
  unfold State.portFails
  repeat' with_reducible first | assumption | apply State.linkDown_keeps | apply State.linkEnds_keeps | apply Keeps.ite

theorem State.narrowStart_keeps {z s : State} {p : Nat} {lane : Nat} (hs : Keeps z s) : Keeps z (State.narrowStart s
    p lane) := by
  unfold State.narrowStart
  repeat' first
    | with_reducible first
      | assumption | apply State.linkDown_keeps | apply State.setCtx_keeps | apply State.sendOpenBlock_keeps
      | apply State.logE_keeps | apply Keeps.ite
    | split

theorem State.narrowTo_keeps {z s : State} {p : Nat} {g : Nat × Nat} (hs : Keeps z s) : Keeps z (State.narrowTo s p
    g) := by
  unfold State.narrowTo
  dsimp only
  repeat' first
    | with_reducible first
      | assumption | apply State.narrowStart_keeps | apply State.sendMark_keeps | apply State.setLanes_keeps
      | apply State.setCtx_keeps | apply State.abortCuts_keeps | apply State.set_keeps
    | split

theorem State.laneFails_keeps {z s : State} {lane : Nat} (hs : Keeps z s) : Keeps z (State.laneFails s lane) := by
  unfold State.laneFails
  dsimp only
  repeat' with_reducible first | assumption | apply State.narrowStart_keeps | apply State.set_keeps | apply Keeps.ite

theorem execLaneFail_keeps {z : State} {lane : Nat} {s : State} (hs : Keeps z s) : KeepsO z (execLaneFail lane s) := by
  unfold execLaneFail
  repeat' with_reducible first
    | assumption | apply State.laneFails_keeps | apply State.set_keeps | apply KeepsO.next | apply Keeps.ite

theorem execFailThresh_keeps {z : State} {lane : Nat} {symbols : Nat} {s : State} (hs : Keeps z s) : KeepsO z (execFailThresh
    lane symbols s) := by
  unfold execFailThresh
  dsimp only
  repeat' with_reducible first
    | assumption | apply State.laneFails_keeps | apply State.bump_keeps | apply KeepsO.next | apply Keeps.ite

theorem State.narrowIn_keeps {z s : State} {p : Nat} {mask : Nat} (hs : Keeps z s) : Keeps z (State.narrowIn s p
    mask) := by
  unfold State.narrowIn
  repeat' first
    | with_reducible first
      | assumption | apply State.narrowTo_keeps | apply State.linkDown_keeps | apply State.sendOpenBlock_keeps | apply Keeps.ite
    | split

theorem State.trainStart_keeps {z s : State} {p : Nat} (hs : Keeps z s) : Keeps z (State.trainStart s p) := by
  unfold State.trainStart
  repeat' with_reducible first | assumption | apply State.setCtx_keeps | apply Keeps.ite

theorem execLinkTraining_keeps {z : State} {p : Nat} {res : TrainResult} {s : State} (hs : Keeps z s) : KeepsO z
    (execLinkTraining p res s) := by
  unfold execLinkTraining
  dsimp only
  repeat' first
    | with_reducible first
      | assumption | intro _ | apply State.linkEnds_keeps | apply State.setLanes_keeps | apply State.setCtx_keeps
      | apply State.set_keeps | apply KeepsO.next | apply Keeps.ite | apply Keeps.foldl
    | split

theorem execBringUpRetry_keeps {z : State} {p : Nat} {s : State} (hs : Keeps z s) : KeepsO z (execBringUpRetry p s) := by
  unfold execBringUpRetry
  repeat' with_reducible first | assumption | apply State.trainStart_keeps | apply KeepsO.next | apply Keeps.ite

theorem State.linkUp_keeps {z s : State} {p : Nat} (hs : Keeps z s) : Keeps z (State.linkUp s p) := by
  unfold State.linkUp
  dsimp only
  repeat' first
    | with_reducible first
      | assumption | apply State.narrowStart_keeps | apply State.sendMark_keeps | apply State.setCtx_keeps
      | apply State.grantOrdinals_keeps | apply State.fitReplay_keeps | apply State.grantCredit_keeps | apply State.set_keeps
      | apply Keeps.ite
    | split

theorem State.helloOut_keeps {z s : State} {p : Nat} (hs : Keeps z s) : Keeps z (State.helloOut s p) := by
  unfold State.helloOut
  dsimp only
  repeat' with_reducible first
    | assumption | apply State.linkUp_keeps | apply State.sendBlock_keeps | apply State.onPort_keeps | apply Keeps.ite

theorem execHelloSend_keeps {z : State} {p : Nat} {s : State} (hs : Keeps z s) : KeepsO z (execHelloSend p s) := by
  unfold execHelloSend
  repeat' with_reducible first | assumption | apply State.helloOut_keeps | apply KeepsO.next | apply Keeps.ite

theorem State.helloRtt_keeps {z s : State} {p : Nat} {h : Nat} (hs : Keeps z s) : Keeps z (State.helloRtt s p h) := by
  unfold State.helloRtt
  repeat' with_reducible first | assumption | apply State.rttSample_keeps | apply Keeps.ite

theorem State.holdHello_keeps {z s : State} {p : Nat} {h : Nat} (hs : Keeps z s) : Keeps z (State.holdHello s p h)
    := by
  unfold State.holdHello
  repeat' with_reducible first | assumption | apply State.onPort_keeps | apply State.setAll_keeps

theorem State.helloIn_keeps {z s : State} {p : Nat} {h : Nat} (hs : Keeps z s) : Keeps z (State.helloIn s p h) := by
  unfold State.helloIn
  dsimp only
  repeat' first
    | with_reducible first
      | assumption | apply State.holdHello_keeps | apply State.helloRtt_keeps | apply State.trainStart_keeps
      | apply State.linkDown_keeps | apply State.linkEnds_keeps | apply Keeps.ite
    | split

theorem State.helloBlock_keeps {z s : State} {p : Nat} {blk : BitVec 256} (hs : Keeps z s) : Keeps z
    (State.helloBlock s p blk) := by
  unfold State.helloBlock
  repeat' with_reducible first
    | assumption | intro _ | apply State.helloIn_keeps | apply State.blockIn_keeps | apply State.bump_keeps | apply Keeps.ite

theorem State.keepaliveBlock_keeps {z s : State} {p : Nat} {blk : BitVec 256} (hs : Keeps z s) : Keeps z
    (State.keepaliveBlock s p blk) := by
  unfold State.keepaliveBlock
  repeat' with_reducible first | assumption | intro _ | apply State.blockIn_keeps | apply Keeps.ofId

theorem execKeepalive_keeps {z : State} {p : Nat} {blk : BitVec 256} {s : State} (hs : Keeps z s) : KeepsO z (execKeepalive p
    blk s) := by
  unfold execKeepalive
  repeat' with_reducible first | assumption | apply State.keepaliveBlock_keeps | apply KeepsO.next

theorem execKeepaliveSend_keeps {z : State} {p : Nat} {s : State} (hs : Keeps z s) : KeepsO z (execKeepaliveSend p s) := by
  unfold execKeepaliveSend
  repeat' with_reducible first | assumption | apply State.sendOpenBlock_keeps | apply KeepsO.next | apply Keeps.ite

theorem State.retryFrame_keeps {z s : State} {p : Nat} {n : Nat} (hs : Keeps z s) : Keeps z (State.retryFrame s p n)
    := by
  unfold State.retryFrame
  dsimp only
  repeat' first
    | with_reducible first
      | assumption | apply State.linkDown_keeps | apply State.emit_keeps | apply State.onPort_keeps | apply Keeps.ite
    | split

theorem execUncorrectableCodeword_keeps {z : State} {p : Nat} {cut : Bool} {s : State} (hs : Keeps z s) : KeepsO z
    (execUncorrectableCodeword p cut s) := by
  unfold execUncorrectableCodeword
  dsimp only
  repeat' with_reducible first
    | assumption | apply State.abortCut_keeps | apply State.sendOpenBlock_keeps | apply State.bump_keeps | apply KeepsO.next
    | apply Keeps.ite

theorem State.cutCheck_keeps {z s : State} (hs : Keeps z s) : Keeps z (State.cutCheck s) := by
  unfold State.cutCheck
  repeat' with_reducible first | assumption | apply State.set_keeps | apply Keeps.ite

theorem State.markBlock_keeps {z s : State} {p : Nat} {blk : BitVec 256} (hs : Keeps z s) : Keeps z (State.markBlock
    s p blk) := by
  unfold State.markBlock
  repeat' with_reducible first
    | assumption | intro _ | apply State.cutCheck_keeps | apply State.blockIn_keeps | apply State.onPort_keeps

end Sys2Proof.Machine
end

