-- ==== Sys2Proof/Laws/KeepsBench.lean ====
section
/-! SUPPORT. Every operation keeps the queue and the canonical form: Compositor, streams, stations and the sequencing of benches. -/

set_option maxRecDepth 4000

namespace Sys2Proof.Machine

open Sys2Proof

/-! ### Compositor -/

theorem State.setG_keeps {z s : State} {b : Nat} {r : BitVec 5} {v : W32} (hs : Keeps z s) : Keeps z (State.setG s b
    r v) := by
  unfold State.setG
  repeat' with_reducible first | assumption | apply State.set_keeps | apply Keeps.ite

theorem State.setPair_keeps {z s : State} {b : Nat} {r : BitVec 5} {v : Nat} (hs : Keeps z s) : Keeps z
    (State.setPair s b r v) := by
  unfold State.setPair
  repeat' with_reducible first | assumption | apply State.setG_keeps

theorem State.goto_keeps {z s : State} {b : Nat} {a : Nat} (hs : Keeps z s) : Keeps z (State.goto s b a) := by
  unfold State.goto
  repeat' with_reducible first | assumption | apply State.bump_keeps | apply State.set_keeps

theorem State.nextPc_keeps {z s : State} {b : Nat} (hs : Keeps z s) : Keeps z (State.nextPc s b) := by
  unfold State.nextPc
  repeat' with_reducible first | assumption | apply State.goto_keeps

theorem State.showWait_keeps {z s : State} {b : Nat} {kind : Nat} {stn : Nat} {h : Nat} {idx : Nat} {mask : Nat} (hs
    : Keeps z s) : Keeps z (State.showWait s b kind stn h idx mask) := by
  unfold State.showWait
  repeat' with_reducible first | assumption | apply State.setAll_keeps

theorem State.wait_keeps {z s : State} {b : Nat} {w : Wait} {kind : Nat} {stn : Nat} {h : Nat} {idx : Nat} {mask :
    Nat} (hs : Keeps z s) : Keeps z (State.wait s b w kind stn h idx mask) := by
  unfold State.wait
  dsimp only
  repeat' with_reducible first
    | assumption | apply State.showWait_keeps | apply State.trace_keeps | apply State.setComp_keeps | apply State.set_keeps
    | apply Keeps.ite

theorem State.waitDone_keeps {z s : State} {b : Nat} (hs : Keeps z s) : Keeps z (State.waitDone s b) := by
  unfold State.waitDone
  dsimp only
  repeat' first
    | with_reducible first
      | assumption | apply State.showWait_keeps | apply State.trace_keeps | apply State.setComp_keeps | apply State.setAll_keeps
    | split

theorem State.cmpHalt_keeps {z s : State} {b : Nat} (hs : Keeps z s) : Keeps z (State.cmpHalt s b) := by
  unfold State.cmpHalt
  repeat' with_reducible first | assumption | apply State.waitDone_keeps | apply State.haltBench_keeps | apply State.set_keeps

theorem State.cmpViolation_keeps {z s : State} {b : Nat} {a : Nat} {details : List (Nat × Nat)} (hs : Keeps z s) :
    Keeps z (State.cmpViolation s b a details) := by
  unfold State.cmpViolation
  repeat' with_reducible first | assumption | apply State.cmpHalt_keeps | apply State.logE_keeps | apply State.set_keeps

theorem State.illegal_keeps {z s : State} {b : Nat} {w : W32} (hs : Keeps z s) : Keeps z (State.illegal s b w) := by
  unfold State.illegal
  dsimp only
  repeat' with_reducible first | assumption | apply State.cmpViolation_keeps | apply State.setAll_keeps

theorem State.cmpUncorr_keeps {z s : State} {b : Nat} {a : Nat} (hs : Keeps z s) : Keeps z (State.cmpUncorr s b a)
    := by
  unfold State.cmpUncorr
  dsimp only
  repeat' with_reducible first
    | assumption | apply State.cmpHalt_keeps | apply State.logE_keeps | apply State.bump_keeps | apply State.set_keeps
    | apply Keeps.ite

theorem State.localFault_keeps {z s : State} {b : Nat} {a : Nat} (hs : Keeps z s) : Keeps z (State.localFault s b a)
    := by
  unfold State.localFault
  repeat' with_reducible first | assumption | apply State.cmpViolation_keeps

theorem State.setQueueWord_keeps {z s : State} {b : Nat} {q : Nat} {w : Nat} (hs : Keeps z s) : Keeps z
    (State.setQueueWord s b q w) := by
  unfold State.setQueueWord
  repeat' with_reducible first | assumption | apply State.setAll_keeps

theorem State.unveil_keeps {z s : State} {key : Nat} {a : Option Nat} (hs : Keeps z s) : Keeps z (State.unveil s key
    a) := by
  unfold State.unveil
  dsimp only
  repeat' first
    | with_reducible first
      | assumption
    | split | with_reducible apply Keeps.mk'

theorem State.unveilSig_keeps {z s : State} {b : Nat} {a : Nat} (hs : Keeps z s) : Keeps z (State.unveilSig s b a)
    := by
  unfold State.unveilSig
  repeat' with_reducible first | assumption | intro _ | apply State.unveil_keeps | apply Keeps.foldl

theorem State.cmpCorrected_keeps {z s : State} {b : Nat} {x : Nat} {f : Field} (hs : Keeps z s) : Keeps z
    (State.cmpCorrected s b x f) := by
  unfold State.cmpCorrected
  repeat' with_reducible first | assumption | apply State.logR_keeps | apply State.bump_keeps | apply Keeps.ite

theorem State.cmpBroken_keeps {z s : State} {b : Nat} {x : Nat} (hs : Keeps z s) : Keeps z (State.cmpBroken s b x)
    := by
  unfold State.cmpBroken
  repeat' first
    | with_reducible first
      | assumption | apply State.cmpUncorr_keeps
    | split | with_reducible apply Keeps.mk'

theorem State.loadLocal_keeps {z s : State} {b : Nat} {a : Nat} {n : Nat} {c : Check} (hs : Keeps z s) : KeepsL z
    (State.loadLocal s b a n c) := by
  unfold State.loadLocal
  dsimp only
  repeat' first
    | with_reducible first
      | assumption | apply State.cmpBroken_keeps | apply State.cmpCorrected_keeps | apply State.localFault_keeps
      | apply State.cmpUncorr_keeps | apply KeepsL.value | apply KeepsL.fault
    | split

theorem State.storeMem_keeps {z s : State} {b : Nat} {x : Nat} {n : Nat} {v : Nat} (hs : Keeps z s) : Keeps z
    (State.storeMem s b x n v) := by
  unfold State.storeMem
  repeat' first
    | with_reducible first
      | assumption | apply State.cmpUncorr_keeps | apply State.nextPc_keeps | apply State.put_keeps
    | split

theorem State.storeLocal_keeps {z s : State} {b : Nat} {a : Nat} {n : Nat} {v : Nat} {w : Wait} (hs : Keeps z s) :
    Keeps z (State.storeLocal s b a n v w) := by
  unfold State.storeLocal
  dsimp only
  repeat' first
    | with_reducible first
      | assumption | apply State.storeMem_keeps | apply State.setQueueWord_keeps | apply State.localFault_keeps
      | apply State.cmpUncorr_keeps | apply State.waitDone_keeps | apply State.wait_keeps | apply State.nextPc_keeps
      | apply State.put_keeps | apply Keeps.ite
    | split

theorem State.result_keeps {z s : State} {b : Nat} {rd : BitVec 5} {v : W32} (hs : Keeps z s) : Keeps z
    (State.result s b rd v) := by
  unfold State.result
  repeat' with_reducible first | assumption | apply State.nextPc_keeps | apply State.setG_keeps

theorem State.instr_keeps {z s : State} {b : Nat} {f : State → State} (hs : Keeps z s) (hf : (∀ x00, Keeps z x00 →
    Keeps z (f x00))) : Keeps z (State.instr s b f) := by
  unfold State.instr
  repeat' first
    | with_reducible first
      | assumption | apply hf | apply State.cmpUncorr_keeps | apply Keeps.ite
    | split

theorem execAddi_keeps {z : State} {b : Nat} {rd : BitVec 5} {ra : BitVec 5} {imm : BitVec 16} {s : State} (hs : Keeps z s) :
    KeepsO z (execAddi b rd ra imm s) := by
  unfold execAddi
  repeat' with_reducible first | assumption | intro _ | apply State.instr_keeps | apply State.result_keeps | apply KeepsO.next

theorem execAndi_keeps {z : State} {b : Nat} {rd : BitVec 5} {ra : BitVec 5} {imm : BitVec 16} {s : State} (hs : Keeps z s) :
    KeepsO z (execAndi b rd ra imm s) := by
  unfold execAndi
  repeat' with_reducible first | assumption | intro _ | apply State.instr_keeps | apply State.result_keeps | apply KeepsO.next

theorem execOri_keeps {z : State} {b : Nat} {rd : BitVec 5} {ra : BitVec 5} {imm : BitVec 16} {s : State} (hs : Keeps z s) :
    KeepsO z (execOri b rd ra imm s) := by
  unfold execOri
  repeat' with_reducible first | assumption | intro _ | apply State.instr_keeps | apply State.result_keeps | apply KeepsO.next

theorem execXori_keeps {z : State} {b : Nat} {rd : BitVec 5} {ra : BitVec 5} {imm : BitVec 16} {s : State} (hs : Keeps z s) :
    KeepsO z (execXori b rd ra imm s) := by
  unfold execXori
  repeat' with_reducible first | assumption | intro _ | apply State.instr_keeps | apply State.result_keeps | apply KeepsO.next

theorem execSlti_keeps {z : State} {b : Nat} {rd : BitVec 5} {ra : BitVec 5} {imm : BitVec 16} {s : State} (hs : Keeps z s) :
    KeepsO z (execSlti b rd ra imm s) := by
  unfold execSlti
  repeat' with_reducible first | assumption | intro _ | apply State.instr_keeps | apply State.result_keeps | apply KeepsO.next

theorem execSltiu_keeps {z : State} {b : Nat} {rd : BitVec 5} {ra : BitVec 5} {imm : BitVec 16} {s : State} (hs : Keeps z s) :
    KeepsO z (execSltiu b rd ra imm s) := by
  unfold execSltiu
  repeat' with_reducible first | assumption | intro _ | apply State.instr_keeps | apply State.result_keeps | apply KeepsO.next

theorem execLui_keeps {z : State} {b : Nat} {rd : BitVec 5} {imm : BitVec 16} {s : State} (hs : Keeps z s) : KeepsO z (execLui
    b rd imm s) := by
  unfold execLui
  repeat' with_reducible first | assumption | intro _ | apply State.instr_keeps | apply State.result_keeps | apply KeepsO.next

theorem execSlli_keeps {z : State} {b : Nat} {rd : BitVec 5} {ra : BitVec 5} {sh : BitVec 5} {s : State} (hs : Keeps z s) :
    KeepsO z (execSlli b rd ra sh s) := by
  unfold execSlli
  repeat' with_reducible first | assumption | intro _ | apply State.instr_keeps | apply State.result_keeps | apply KeepsO.next

theorem execSrli_keeps {z : State} {b : Nat} {rd : BitVec 5} {ra : BitVec 5} {sh : BitVec 5} {s : State} (hs : Keeps z s) :
    KeepsO z (execSrli b rd ra sh s) := by
  unfold execSrli
  repeat' with_reducible first | assumption | intro _ | apply State.instr_keeps | apply State.result_keeps | apply KeepsO.next

theorem execSrai_keeps {z : State} {b : Nat} {rd : BitVec 5} {ra : BitVec 5} {sh : BitVec 5} {s : State} (hs : Keeps z s) :
    KeepsO z (execSrai b rd ra sh s) := by
  unfold execSrai
  repeat' with_reducible first | assumption | intro _ | apply State.instr_keeps | apply State.result_keeps | apply KeepsO.next

theorem execAdd_keeps {z : State} {b : Nat} {rd : BitVec 5} {ra : BitVec 5} {rb : BitVec 5} {s : State} (hs : Keeps z s) :
    KeepsO z (execAdd b rd ra rb s) := by
  unfold execAdd
  repeat' with_reducible first | assumption | intro _ | apply State.instr_keeps | apply State.result_keeps | apply KeepsO.next

theorem execSub_keeps {z : State} {b : Nat} {rd : BitVec 5} {ra : BitVec 5} {rb : BitVec 5} {s : State} (hs : Keeps z s) :
    KeepsO z (execSub b rd ra rb s) := by
  unfold execSub
  repeat' with_reducible first | assumption | intro _ | apply State.instr_keeps | apply State.result_keeps | apply KeepsO.next

theorem execAnd_keeps {z : State} {b : Nat} {rd : BitVec 5} {ra : BitVec 5} {rb : BitVec 5} {s : State} (hs : Keeps z s) :
    KeepsO z (execAnd b rd ra rb s) := by
  unfold execAnd
  repeat' with_reducible first | assumption | intro _ | apply State.instr_keeps | apply State.result_keeps | apply KeepsO.next

theorem execOr_keeps {z : State} {b : Nat} {rd : BitVec 5} {ra : BitVec 5} {rb : BitVec 5} {s : State} (hs : Keeps z s) :
    KeepsO z (execOr b rd ra rb s) := by
  unfold execOr
  repeat' with_reducible first | assumption | intro _ | apply State.instr_keeps | apply State.result_keeps | apply KeepsO.next

theorem execXor_keeps {z : State} {b : Nat} {rd : BitVec 5} {ra : BitVec 5} {rb : BitVec 5} {s : State} (hs : Keeps z s) :
    KeepsO z (execXor b rd ra rb s) := by
  unfold execXor
  repeat' with_reducible first | assumption | intro _ | apply State.instr_keeps | apply State.result_keeps | apply KeepsO.next

theorem execSll_keeps {z : State} {b : Nat} {rd : BitVec 5} {ra : BitVec 5} {rb : BitVec 5} {s : State} (hs : Keeps z s) :
    KeepsO z (execSll b rd ra rb s) := by
  unfold execSll
  repeat' with_reducible first | assumption | intro _ | apply State.instr_keeps | apply State.result_keeps | apply KeepsO.next

theorem execSrl_keeps {z : State} {b : Nat} {rd : BitVec 5} {ra : BitVec 5} {rb : BitVec 5} {s : State} (hs : Keeps z s) :
    KeepsO z (execSrl b rd ra rb s) := by
  unfold execSrl
  repeat' with_reducible first | assumption | intro _ | apply State.instr_keeps | apply State.result_keeps | apply KeepsO.next

theorem execSra_keeps {z : State} {b : Nat} {rd : BitVec 5} {ra : BitVec 5} {rb : BitVec 5} {s : State} (hs : Keeps z s) :
    KeepsO z (execSra b rd ra rb s) := by
  unfold execSra
  repeat' with_reducible first | assumption | intro _ | apply State.instr_keeps | apply State.result_keeps | apply KeepsO.next

theorem execSlt_keeps {z : State} {b : Nat} {rd : BitVec 5} {ra : BitVec 5} {rb : BitVec 5} {s : State} (hs : Keeps z s) :
    KeepsO z (execSlt b rd ra rb s) := by
  unfold execSlt
  repeat' with_reducible first | assumption | intro _ | apply State.instr_keeps | apply State.result_keeps | apply KeepsO.next

theorem execSltu_keeps {z : State} {b : Nat} {rd : BitVec 5} {ra : BitVec 5} {rb : BitVec 5} {s : State} (hs : Keeps z s) :
    KeepsO z (execSltu b rd ra rb s) := by
  unfold execSltu
  repeat' with_reducible first | assumption | intro _ | apply State.instr_keeps | apply State.result_keeps | apply KeepsO.next

theorem execMul_keeps {z : State} {b : Nat} {rd : BitVec 5} {ra : BitVec 5} {rb : BitVec 5} {s : State} (hs : Keeps z s) :
    KeepsO z (execMul b rd ra rb s) := by
  unfold execMul
  repeat' with_reducible first | assumption | intro _ | apply State.instr_keeps | apply State.result_keeps | apply KeepsO.next

theorem execMulhu_keeps {z : State} {b : Nat} {rd : BitVec 5} {ra : BitVec 5} {rb : BitVec 5} {s : State} (hs : Keeps z s) :
    KeepsO z (execMulhu b rd ra rb s) := by
  unfold execMulhu
  repeat' with_reducible first | assumption | intro _ | apply State.instr_keeps | apply State.result_keeps | apply KeepsO.next

theorem execMulh_keeps {z : State} {b : Nat} {rd : BitVec 5} {ra : BitVec 5} {rb : BitVec 5} {s : State} (hs : Keeps z s) :
    KeepsO z (execMulh b rd ra rb s) := by
  unfold execMulh
  repeat' with_reducible first | assumption | intro _ | apply State.instr_keeps | apply State.result_keeps | apply KeepsO.next

theorem execLw_keeps {z : State} {b : Nat} {rd : BitVec 5} {ra : BitVec 5} {imm : BitVec 16} {s : State} {c : optParam Check
    Check.pass} (hs : Keeps z s) : KeepsO z (execLw b rd ra imm s c) := by
  unfold execLw
  repeat' first
    | with_reducible first
      | assumption | intro _ | apply State.instr_keeps | apply State.result_keeps | apply State.loadLocal_keeps
      | apply KeepsO.next
    | split | refine KeepsL.ofFault (by assumption) ?_ | refine KeepsL.ofValue (by assumption) ?_

theorem execSw_keeps {z : State} {b : Nat} {rd : BitVec 5} {ra : BitVec 5} {imm : BitVec 16} {s : State} (hs : Keeps z s) :
    KeepsO z (execSw b rd ra imm s) := by
  unfold execSw
  repeat' with_reducible first
    | assumption | intro _ | apply State.instr_keeps | apply State.storeLocal_keeps | apply KeepsO.next

theorem State.oddPair_keeps {z s : State} {b : Nat} {a : Nat} {w : W32} (hs : Keeps z s) : Keeps z (State.oddPair s
    b a w) := by
  unfold State.oddPair
  repeat' with_reducible first | assumption | apply State.localFault_keeps | apply State.setAll_keeps

theorem execLd_keeps {z : State} {b : Nat} {rd : BitVec 5} {ra : BitVec 5} {imm : BitVec 16} {s : State} {c : optParam Check
    Check.pass} (hs : Keeps z s) : KeepsO z (execLd b rd ra imm s c) := by
  unfold execLd
  repeat' first
    | with_reducible first
      | assumption | intro _ | apply State.oddPair_keeps | apply State.instr_keeps | apply State.loadLocal_keeps
      | apply State.nextPc_keeps | apply State.setPair_keeps | apply KeepsO.next | apply Keeps.ite
    | split | refine KeepsL.ofFault (by assumption) ?_ | refine KeepsL.ofValue (by assumption) ?_

theorem execSd_keeps {z : State} {b : Nat} {rd : BitVec 5} {ra : BitVec 5} {imm : BitVec 16} {s : State} (hs : Keeps z s) :
    KeepsO z (execSd b rd ra imm s) := by
  unfold execSd
  repeat' with_reducible first
    | assumption | intro _ | apply State.oddPair_keeps | apply State.instr_keeps | apply State.storeLocal_keeps
    | apply KeepsO.next | apply Keeps.ite

theorem State.branch_keeps {z s : State} {b : Nat} {taken : Bool} {off : BitVec 16} (hs : Keeps z s) : Keeps z
    (State.branch s b taken off) := by
  unfold State.branch
  repeat' with_reducible first | assumption | apply State.nextPc_keeps | apply State.goto_keeps | apply Keeps.ite

theorem execBeq_keeps {z : State} {b : Nat} {ra : BitVec 5} {rb : BitVec 5} {off : BitVec 16} {s : State} (hs : Keeps z s) :
    KeepsO z (execBeq b ra rb off s) := by
  unfold execBeq
  repeat' with_reducible first | assumption | intro _ | apply State.branch_keeps | apply State.instr_keeps | apply KeepsO.next

theorem execBne_keeps {z : State} {b : Nat} {ra : BitVec 5} {rb : BitVec 5} {off : BitVec 16} {s : State} (hs : Keeps z s) :
    KeepsO z (execBne b ra rb off s) := by
  unfold execBne
  repeat' with_reducible first | assumption | intro _ | apply State.branch_keeps | apply State.instr_keeps | apply KeepsO.next

theorem execBlt_keeps {z : State} {b : Nat} {ra : BitVec 5} {rb : BitVec 5} {off : BitVec 16} {s : State} (hs : Keeps z s) :
    KeepsO z (execBlt b ra rb off s) := by
  unfold execBlt
  repeat' with_reducible first | assumption | intro _ | apply State.branch_keeps | apply State.instr_keeps | apply KeepsO.next

theorem execBge_keeps {z : State} {b : Nat} {ra : BitVec 5} {rb : BitVec 5} {off : BitVec 16} {s : State} (hs : Keeps z s) :
    KeepsO z (execBge b ra rb off s) := by
  unfold execBge
  repeat' with_reducible first | assumption | intro _ | apply State.branch_keeps | apply State.instr_keeps | apply KeepsO.next

theorem execBltu_keeps {z : State} {b : Nat} {ra : BitVec 5} {rb : BitVec 5} {off : BitVec 16} {s : State} (hs : Keeps z s) :
    KeepsO z (execBltu b ra rb off s) := by
  unfold execBltu
  repeat' with_reducible first | assumption | intro _ | apply State.branch_keeps | apply State.instr_keeps | apply KeepsO.next

theorem execBgeu_keeps {z : State} {b : Nat} {ra : BitVec 5} {rb : BitVec 5} {off : BitVec 16} {s : State} (hs : Keeps z s) :
    KeepsO z (execBgeu b ra rb off s) := by
  unfold execBgeu
  repeat' with_reducible first | assumption | intro _ | apply State.branch_keeps | apply State.instr_keeps | apply KeepsO.next

theorem execJal_keeps {z : State} {b : Nat} {off : BitVec 26} {s : State} (hs : Keeps z s) : KeepsO z (execJal b off s) := by
  unfold execJal
  repeat' with_reducible first
    | assumption | intro _ | apply State.instr_keeps | apply State.goto_keeps | apply State.setG_keeps | apply KeepsO.next

theorem execJalr_keeps {z : State} {b : Nat} {rd : BitVec 5} {ra : BitVec 5} {imm : BitVec 16} {s : State} (hs : Keeps z s) :
    KeepsO z (execJalr b rd ra imm s) := by
  unfold execJalr
  dsimp only
  repeat' with_reducible first
    | assumption | intro _ | apply State.instr_keeps | apply State.illegal_keeps | apply State.goto_keeps
    | apply State.setG_keeps | apply KeepsO.next | apply Keeps.ite

theorem execIllegalInstruction_keeps {z : State} {b : Nat} {word : W32} {s : State} {c : optParam Check Check.pass} (hs :
    Keeps z s) : KeepsO z (execIllegalInstruction b word s c) := by
  unfold execIllegalInstruction
  dsimp only
  repeat' first
    | with_reducible first
      | assumption | intro _ | apply State.instr_keeps | apply State.cmpBroken_keeps | apply State.cmpCorrected_keeps
      | apply State.illegal_keeps | apply KeepsO.next | apply Keeps.ite
    | split

/-! ### Streams -/

theorem State.countKind_keeps {z s : State} {b : Nat} {i : Nat} {f : Nat} {k : Nat} {n : Nat} (hs : Keeps z s) :
    Keeps z (State.countKind s b i f k n) := by
  unfold State.countKind
  repeat' first
    | with_reducible first
      | assumption | apply State.bump_keeps | apply Keeps.ite
    | with_reducible apply Keeps.mk'

theorem State.countKinds_keeps {z s : State} {b : Nat} {i : Nat} {f : Nat} {ks : List (List Nat)} (hs : Keeps z s) :
    Keeps z (State.countKinds s b i f ks) := by
  unfold State.countKinds
  repeat' with_reducible first | assumption | intro _ | apply State.countKind_keeps | apply Keeps.foldl

theorem State.countConv_keeps {z s : State} {b : Nat} {i : Nat} {f : Nat} {ks : List (List Nat)} (hs : Keeps z s) :
    Keeps z (State.countConv s b i f ks) := by
  unfold State.countConv
  repeat' with_reducible first | assumption | apply State.countKinds_keeps | apply State.countKind_keeps

theorem State.countIn_keeps {z s : State} {b : Nat} {i : Nat} {f : Nat} {vs : List Val} (hs : Keeps z s) : Keeps z
    (State.countIn s b i f vs) := by
  unfold State.countIn
  repeat' with_reducible first | assumption | apply State.countKind_keeps

theorem State.latchStream_keeps {z s : State} {b : Nat} {i : Nat} {x : Stream} {status : Nat} (hs : Keeps z s) :
    Keeps z (State.latchStream s b i x status) := by
  unfold State.latchStream
  dsimp only
  repeat' first
    | with_reducible first
      | assumption | apply State.trace_keeps | apply State.store_keeps | apply State.bump_keeps | apply Keeps.ite
    | split

theorem State.dropStream_keeps {z s : State} {b : Nat} {i : Nat} {status : Nat} (hs : Keeps z s) : Keeps z
    (State.dropStream s b i status) := by
  unfold State.dropStream
  repeat' first
    | with_reducible first
      | assumption | apply State.latchStream_keeps | apply State.delStream_keeps
    | split

theorem State.stnStop_keeps {z s : State} {b : Nat} {i : Nat} (hs : Keeps z s) : Keeps z (State.stnStop s b i) := by
  unfold State.stnStop
  repeat' with_reducible first | assumption | apply State.dropStream_keeps | apply State.haltStation_keeps

theorem State.stnFault_keeps {z s : State} {b : Nat} {i : Nat} {a : Nat} (hs : Keeps z s) : Keeps z (State.stnFault
    s b i a) := by
  unfold State.stnFault
  repeat' with_reducible first | assumption | apply State.stnStop_keeps | apply State.stnViolation_keeps

theorem State.stnRefuse_keeps {z s : State} {b : Nat} {i : Nat} {a : Nat} (hs : Keeps z s) : Keeps z
    (State.stnRefuse s b i a) := by
  unfold State.stnRefuse
  repeat' with_reducible first | assumption | apply State.stnStop_keeps | apply State.stnViolation_keeps | apply State.set_keeps

theorem State.stnSequence_keeps {z s : State} {b : Nat} {i : Nat} {details : List (Nat × Nat)} (hs : Keeps z s) :
    Keeps z (State.stnSequence s b i details) := by
  unfold State.stnSequence
  repeat' with_reducible first | assumption | apply State.stnStop_keeps | apply State.logE_keeps

theorem State.stnTag_keeps {z s : State} {b : Nat} {i : Nat} {p : Nat} {expected : Nat} {seen : Nat} {last : Bool}
    (hs : Keeps z s) : Keeps z (State.stnTag s b i p expected seen last) := by
  unfold State.stnTag
  repeat' with_reducible first | assumption | apply State.stnStop_keeps | apply State.logE_keeps | apply State.setAll_keeps

theorem State.stnUncorr_keeps {z s : State} {b : Nat} {i : Nat} {a : Nat} (hs : Keeps z s) : Keeps z
    (State.stnUncorr s b i a) := by
  unfold State.stnUncorr
  dsimp only
  repeat' with_reducible first
    | assumption | apply State.stnStop_keeps | apply State.logE_keeps | apply State.bump_keeps | apply State.set_keeps
    | apply Keeps.ite

theorem State.peekQueue_keeps {z s : State} {b : Nat} {i : Nat} {p : Nat} {q : Nat} {j : Nat} {n : Nat} {count :
    Nat} (hs : Keeps z s) : KeepsP z (State.peekQueue s b i p q j n count) := by
  unfold State.peekQueue
  dsimp only
  repeat' first
    | with_reducible first
      | assumption | apply State.stnUncorr_keeps | apply State.stnTag_keeps | apply KeepsP.wait | apply KeepsP.bad
      | apply KeepsP.tok | apply KeepsP.ite
    | split

theorem State.readTok_keeps {z s : State} {b : Nat} {i : Nat} {d : Desc} {a : Nat} {n : Nat} {tok : List Byte → Tok}
    (hs : Keeps z s) : KeepsP z (State.readTok s b i d a n tok) := by
  unfold State.readTok
  dsimp only
  repeat' first
    | with_reducible first
      | assumption | apply State.stnUncorr_keeps | apply State.stnFault_keeps | apply KeepsP.bad | apply KeepsP.tok
      | apply KeepsP.ite
    | split

theorem State.peekTensor_keeps {z s : State} {b : Nat} {i : Nat} {p : Nat} {j : Nat} {x : Stream} {d : Desc} (hs :
    Keeps z s) : KeepsP z (State.peekTensor s b i p j x d) := by
  unfold State.peekTensor
  repeat' first
    | with_reducible first
      | assumption | apply State.readTok_keeps | apply State.stnFault_keeps | apply KeepsP.bad
    | split

theorem State.peekChan_keeps {z s : State} {b : Nat} {c : Nat} {j : Nat} {n : Nat} : KeepsP z (State.peekChan s b c
    j n) := by
  unfold State.peekChan
  repeat' first
    | with_reducible first
      | apply KeepsP.wait | apply KeepsP.tok
    | split

theorem State.peek_keeps {z s : State} {b : Nat} {i : Nat} {p : Nat} {j : Nat} {x : Stream} (hs : Keeps z s) :
    KeepsP z (State.peek s b i p j x) := by
  unfold State.peek
  repeat' first
    | with_reducible first
      | assumption | apply State.peekChan_keeps | apply State.peekTensor_keeps | apply State.peekQueue_keeps | apply KeepsP.wait
      | apply KeepsP.ite
    | split

theorem State.collect_keeps {z s : State} {b : Nat} {i : Nat} {x : Stream} {ok : Tok → Bool} {y5 : List (Nat × Nat)}
    {y6 : List Tok} (hs : Keeps z s) : KeepsG z (State.collect s b i x ok y5 y6) := by
  induction y5 generalizing s b i x ok y6 with
  | nil =>
    unfold State.collect
    repeat' with_reducible first | apply KeepsG.toks
  | cons y l ih =>
    unfold State.collect
    repeat' first
      | with_reducible first
        | assumption | apply ih | apply State.peek_keeps | apply State.stnRefuse_keeps | apply KeepsG.wait | apply KeepsG.bad
        | apply KeepsG.ite
      | split | refine KeepsP.ofBad (by assumption) ?_

theorem Res.bind_keeps {z : State} {r : Res} {f : State → Res} (hr : KeepsR z r) (hf : (∀ x00, Keeps z x00 → KeepsR z (f
    x00))) : KeepsR z (Res.bind r f) := by
  unfold Res.bind
  repeat' first
    | with_reducible first
      | assumption | apply hf
    | split | exact KeepsR.ofOk rfl (by assumption)

theorem Res.map_keeps {z : State} {r : Res} {f : State → State} (hr : KeepsR z r) (hf : (∀ x00, Keeps z x00 → Keeps z (f
    x00))) : KeepsR z (Res.map r f) := by
  unfold Res.map
  repeat' with_reducible first | assumption | intro _ | apply hf | apply Res.bind_keeps | apply KeepsR.ok

theorem Got.andThen_keeps {z : State} {g : Got} {f : List Tok → Res} (hg : KeepsG z g) (hf : (∀ x00, KeepsR z (f x00))) :
    KeepsR z (Got.andThen g f) := by
  unfold Got.andThen
  repeat' first
    | with_reducible first
      | apply hf | apply KeepsR.wait | apply KeepsR.stop
    | split | exact KeepsG.ofBad rfl (by assumption)

theorem State.onStream_keeps {z s : State} {b : Nat} {i : Nat} {f : Stream → Stream} (hs : Keeps z s) : Keeps z
    (State.onStream s b i f) := by
  unfold State.onStream
  repeat' first
    | with_reducible first
      | assumption | apply State.setStream_keeps
    | split

theorem State.consume_keeps {z s : State} {b : Nat} {i : Nat} {p : Nat} (hs : Keeps z s) : Keeps z (State.consume s
    b i p) := by
  unfold State.consume
  dsimp only
  repeat' first
    | with_reducible first
      | assumption | apply State.setStream_keeps | apply State.unstage_keeps | apply State.bump_keeps | apply Keeps.ite
    | split | with_reducible apply Keeps.mk'

theorem State.consumeN_keeps {z s : State} {b : Nat} {i : Nat} {p : Nat} {y4 : Nat} (hs : Keeps z s) : Keeps z
    (State.consumeN s b i p y4) := by
  induction y4 generalizing s b i p with
  | zero =>
    unfold State.consumeN
    assumption
  | succ n ih =>
    unfold State.consumeN
    repeat' with_reducible first | assumption | apply ih | apply State.consume_keeps

theorem State.consumeAll_keeps {z s : State} {b : Nat} {i : Nat} {x : Stream} (hs : Keeps z s) : Keeps z
    (State.consumeAll s b i x) := by
  unfold State.consumeAll
  repeat' with_reducible first | assumption | intro _ | apply State.consume_keeps | apply Keeps.foldl

theorem State.stnPut_keeps {z s : State} {b : Nat} {i : Nat} {a : Nat} {bs : List Byte} (hs : Keeps z s) : Keeps z
    (State.stnPut s b i a bs) := by
  unfold State.stnPut
  dsimp only
  repeat' first
    | with_reducible first
      | assumption | apply State.fireMons_keeps | apply State.store_keeps | apply Keeps.ite
    | split | with_reducible apply Keeps.mk'

theorem State.stnWrite_keeps {z s : State} {b : Nat} {i : Nat} {a : Nat} {bs : List Byte} {scale : Bool} (hs : Keeps
    z s) : KeepsR z (State.stnWrite s b i a bs scale) := by
  unfold State.stnWrite
  repeat' first
    | with_reducible first
      | assumption | apply State.stnPut_keeps | apply State.stnUncorr_keeps | apply State.stnFault_keeps | apply KeepsR.stop
      | apply KeepsR.ok | apply KeepsR.ite
    | split

theorem State.emitted_keeps {z s : State} {b : Nat} {i : Nat} {p : Nat} {w : Nat} (hs : Keeps z s) : Keeps z
    (State.emitted s b i p w) := by
  unfold State.emitted
  dsimp only
  repeat' first
    | with_reducible first
      | assumption | apply State.setStream_keeps | apply State.trace_keeps | apply State.bump_keeps
    | split

theorem State.emitChan_keeps {z s : State} {b : Nat} {i : Nat} {p : Nat} {x : Stream} {c : SliceChan} {t : Tok} (hs
    : Keeps z s) : Keeps z (State.emitChan s b i p x c t) := by
  unfold State.emitChan
  dsimp only
  repeat' first
    | with_reducible first
      | assumption | apply State.onStream_keeps | apply State.multicast_keeps | apply State.inject_keeps
    | split

theorem State.emitTok_keeps {z s : State} {b : Nat} {i : Nat} {p : Nat} {t : Tok} {addr : Option Int} (hs : Keeps z
    s) : KeepsR z (State.emitTok s b i p t addr) := by
  unfold State.emitTok
  dsimp only
  repeat' first
    | with_reducible first
      | assumption | intro _ | apply State.emitChan_keeps | apply State.emitted_keeps | apply State.stnWrite_keeps
      | apply Res.map_keeps | apply State.stnRefuse_keeps | apply State.stnFault_keeps | apply State.inject_keeps
      | apply KeepsR.stop | apply KeepsR.ok | apply KeepsR.ite
    | split | with_reducible apply Keeps.mk'

theorem State.emitNone_keeps {z s : State} {b : Nat} {i : Nat} {p : Nat} {fmt : Nat} (hs : Keeps z s) : KeepsR z
    (State.emitNone s b i p fmt) := by
  unfold State.emitNone
  repeat' first
    | with_reducible first
      | assumption | apply State.emitTok_keeps | apply State.emitted_keeps | apply KeepsR.stop | apply KeepsR.ok
      | apply KeepsR.ite
    | split

theorem State.addUnits_keeps {z s : State} {b : Nat} {i : Nat} {n : Nat} (hs : Keeps z s) : Keeps z (State.addUnits
    s b i n) := by
  unfold State.addUnits
  repeat' with_reducible first | assumption | apply State.onStream_keeps

theorem State.stnWait_keeps {z s : State} {b : Nat} {i : Nat} (hs : Keeps z s) : Keeps z (State.stnWait s b i) := by
  unfold State.stnWait
  repeat' with_reducible first
    | assumption | apply State.onStream_keeps | apply State.trace_keeps | apply State.set_keeps | apply Keeps.ite

theorem State.stnGo_keeps {z s : State} {b : Nat} {i : Nat} (hs : Keeps z s) : Keeps z (State.stnGo s b i) := by
  unfold State.stnGo
  repeat' with_reducible first | assumption | apply State.trace_keeps | apply State.setAll_keeps | apply Keeps.ite

theorem State.checkFail_keeps {z s : State} {b : Nat} {i : Nat} (hs : Keeps z s) : Keeps z (State.checkFail s b i)
    := by
  unfold State.checkFail
  dsimp only
  repeat' with_reducible first
    | assumption | apply State.logR_keeps | apply State.logE_keeps | apply State.setAll_keeps | apply Keeps.ite

theorem State.stnCorrected_keeps {z s : State} {b : Nat} {i : Nat} {a : Nat} (hs : Keeps z s) : Keeps z
    (State.stnCorrected s b i a) := by
  unfold State.stnCorrected
  repeat' with_reducible first
    | assumption | apply State.lineCorrected_keeps | apply State.logR_keeps | apply State.bump_keeps | apply Keeps.ite

theorem State.stnBroken_keeps {z s : State} {b : Nat} {i : Nat} {a : Nat} (hs : Keeps z s) : Keeps z
    (State.stnBroken s b i a) := by
  unfold State.stnBroken
  dsimp only
  repeat' first
    | with_reducible first
      | assumption | apply State.stnUncorr_keeps | apply State.lineUncorr_keeps | apply Keeps.ite
    | with_reducible apply Keeps.mk'

theorem State.slotServed_keeps {z s : State} {b : Nat} {i : Nat} (hs : Keeps z s) : Keeps z (State.slotServed s b i)
    := by
  unfold State.slotServed
  dsimp only
  repeat' first
    | with_reducible first
      | assumption
    | with_reducible apply Keeps.mk'

theorem State.position_keeps {z s : State} {b : Nat} {i : Nat} {c : Check} {work : State → Stream → Res} (hs : Keeps
    z s) (hwork : (∀ x00 x01, Keeps z x00 → KeepsR z (work x00 x01))) : Keeps z (State.position s b i c work) := by
  unfold State.position
  dsimp only
  repeat' first
    | with_reducible first
      | assumption | apply hwork | apply State.slotServed_keeps | apply State.stnBroken_keeps | apply State.stnCorrected_keeps
      | apply State.checkFail_keeps | apply State.stnGo_keeps | apply State.stnWait_keeps | apply Keeps.ite
    | split | refine KeepsR.ofStop (by assumption) ?_ | refine KeepsR.ofOk (by assumption) ?_

theorem State.formStep_keeps {z s : State} {b : Nat} {i : Nat} {kind : Nat} {form : Nat} {c : Check} {work : State →
    Stream → Res} (hs : Keeps z s) (hwork : (∀ x00 x01, Keeps z x00 → KeepsR z (work x00 x01))) : Keeps z (State.formStep s b
    i kind form c work) := by
  unfold State.formStep
  repeat' first
    | with_reducible first
      | assumption | apply State.position_keeps | apply Keeps.ite
    | split

theorem State.collDone_keeps {z s : State} {b : Nat} {x : Stream} (hs : Keeps z s) : Keeps z (State.collDone s b x)
    := by
  unfold State.collDone
  dsimp only
  repeat' first
    | with_reducible first
      | assumption | apply Keeps.ite
    | with_reducible apply Keeps.mk'

theorem State.setBk_keeps {z s : State} {id : Nat} {x : BkState} (hs : Keeps z s) : Keeps z (State.setBk s id x) := by
  unfold State.setBk
  repeat' first
    | with_reducible first
      | assumption
    | with_reducible apply Keeps.mk'

theorem State.freeGlob_keeps {z s : State} {id : Nat} (hs : Keeps z s) : Keeps z (State.freeGlob s id) := by
  unfold State.freeGlob
  dsimp only
  repeat' with_reducible first | assumption | intro _ | apply State.storeNat_keeps | apply Keeps.foldl

theorem State.freeShard_keeps {z s : State} {k : Bucket} (hs : Keeps z s) : Keeps z (State.freeShard s k) := by
  unfold State.freeShard
  repeat' first
    | with_reducible first
      | assumption | apply State.freeGlob_keeps | apply Keeps.ite
    | split

theorem State.laneSent_keeps {z s : State} {x : Stream} (hs : Keeps z s) : Keeps z (State.laneSent s x) := by
  unfold State.laneSent
  dsimp only
  repeat' with_reducible first
    | assumption | intro _ | apply State.freeShard_keeps | apply State.freeGlob_keeps | apply State.setBk_keeps
    | apply Keeps.ite | apply Keeps.foldl

theorem State.copyDone_keeps {z s : State} {x : Stream} (hs : Keeps z s) : Keeps z (State.copyDone s x) := by
  unfold State.copyDone
  dsimp only
  repeat' first
    | with_reducible first
      | assumption | apply State.setBk_keeps
    | split

theorem State.finishStream_keeps {z s : State} {b : Nat} {i : Nat} {x : Stream} (hs : Keeps z s) : Keeps z
    (State.finishStream s b i x) := by
  unfold State.finishStream
  dsimp only
  repeat' with_reducible first
    | assumption | apply State.copyDone_keeps | apply State.laneSent_keeps | apply State.collDone_keeps
    | apply State.latchStream_keeps | apply State.delStream_keeps | apply State.signal_keeps | apply State.setAll_keeps
    | apply State.bump_keeps | apply Keeps.ite

/-! ### Reduce -/

theorem State.globPut_keeps {z s : State} {base : Nat} {nb : Nat} {bs : List Byte} (hs : Keeps z s) : Keeps z
    (State.globPut s base nb bs) := by
  unfold State.globPut
  dsimp only
  repeat' with_reducible first | assumption | intro _ | apply State.storeNat_keeps | apply State.store_keeps | apply Keeps.foldl

theorem State.globDone_keeps {z s : State} {base : Nat} {nb : Nat} (hs : Keeps z s) : Keeps z (State.globDone s base
    nb) := by
  unfold State.globDone
  repeat' with_reducible first | assumption | apply State.storeNat_keeps

theorem State.globClear_keeps {z s : State} {base : Nat} {nb : Nat} (hs : Keeps z s) : Keeps z (State.globClear s
    base nb) := by
  unfold State.globClear
  repeat' with_reducible first | assumption | apply State.storeNat_keeps

theorem State.discard_keeps {z s : State} {b : Nat} {i : Nat} {bucket : Nat} {blk : Nat} {src : Nat} (hs : Keeps z
    s) : Keeps z (State.discard s b i bucket blk src) := by
  unfold State.discard
  repeat' with_reducible first | assumption | apply State.logE_keeps | apply State.setAll_keeps | apply State.bump_keeps

/-! ### Pieces -/

theorem State.showPieces_keeps {z s : State} (hs : Keeps z s) : Keeps z (State.showPieces s) := by
  unfold State.showPieces
  dsimp only
  repeat' with_reducible first | assumption | apply State.setAll_keeps

theorem State.setPiece_keeps {z s : State} {j : Nat} {st : Nat} {tries : Nat} (hs : Keeps z s) : Keeps z
    (State.setPiece s j st tries) := by
  unfold State.setPiece
  repeat' with_reducible first | assumption | apply State.showPieces_keeps | apply State.storeNat_keeps

theorem State.sendMsg_keeps {z s : State} {dst : Nat} {type : Nat} {lo : Nat} {step : Nat} {hi : Nat} {len : Nat}
    (hs : Keeps z s) : Keeps z (State.sendMsg s dst type lo step hi len) := by
  unfold State.sendMsg
  repeat' with_reducible first | assumption | apply State.sendMgmt_keeps

theorem State.sendFill_keeps {z s : State} {dst : Nat} {phase : Nat} {bucket : Nat} {step : Nat} {digest : Nat} (hs
    : Keeps z s) : Keeps z (State.sendFill s dst phase bucket step digest) := by
  unfold State.sendFill
  repeat' with_reducible first | assumption | apply State.sendMsg_keeps

theorem State.sendReplicaDigest_keeps {z s : State} {dst : Nat} {bucket : Nat} {step : Nat} {digest : Nat} (hs :
    Keeps z s) : Keeps z (State.sendReplicaDigest s dst bucket step digest) := by
  unfold State.sendReplicaDigest
  repeat' with_reducible first | assumption | apply State.sendMsg_keeps

theorem State.sendBulk_keeps {z s : State} {dst : Nat} {a : Nat} {n : Nat} (hs : Keeps z s) : Keeps z
    (State.sendBulk s dst a n) := by
  unfold State.sendBulk
  dsimp only
  repeat' with_reducible first | assumption | intro _ | apply State.inject_keeps | apply State.fresh_keeps | apply Keeps.foldl

theorem State.feed_keeps {z s : State} {dst : Nat} {k : Bucket} {step : Nat} (hs : Keeps z s) : Keeps z (State.feed
    s dst k step) := by
  unfold State.feed
  repeat' with_reducible first | assumption | apply State.sendBulk_keeps

theorem State.feedPieces_keeps {z s : State} {k : Bucket} {step : Nat} (hs : Keeps z s) : Keeps z (State.feedPieces
    s k step) := by
  unfold State.feedPieces
  repeat' with_reducible first | assumption | intro _ | apply State.feed_keeps | apply Keeps.foldl

/-! ### Anvil -/

theorem State.recordTokAt_keeps {z s : State} {b : Nat} {i : Nat} {d : Desc} {a : Int} {phase : Nat} (hs : Keeps z
    s) : KeepsP z (State.recordTokAt s b i d a phase) := by
  unfold State.recordTokAt
  repeat' with_reducible first | assumption | apply State.readTok_keeps

theorem State.peekRec_keeps {z s : State} {b : Nat} {i : Nat} {p : Nat} {x : Stream} {phase : Nat} {blk : Nat} (hs :
    Keeps z s) : KeepsP z (State.peekRec s b i p x phase blk) := by
  unfold State.peekRec
  repeat' first
    | with_reducible first
      | assumption | apply State.recordTokAt_keeps | apply State.peek_keeps
    | split

theorem State.peekNext_keeps {z s : State} {b : Nat} {i : Nat} {p : Nat} {x : Stream} (hs : Keeps z s) : KeepsP z
    (State.peekNext s b i p x) := by
  unfold State.peekNext
  dsimp only
  repeat' first
    | with_reducible first
      | assumption | apply State.recordTokAt_keeps | apply State.peek_keeps
    | split

theorem State.nextRec_keeps {z s : State} {b : Nat} {i : Nat} {p : Nat} {x : Stream} {ok : Nat → Bool} (hs : Keeps z
    s) : KeepsG z (State.nextRec s b i p x ok) := by
  unfold State.nextRec
  repeat' first
    | with_reducible first
      | assumption | apply State.peekNext_keeps | apply State.stnRefuse_keeps | apply KeepsG.wait | apply KeepsG.bad
      | apply KeepsG.toks | apply KeepsG.ite
    | split | refine KeepsP.ofBad (by assumption) ?_

theorem State.collectRec_keeps {z s : State} {b : Nat} {i : Nat} {x : Stream} {phase : Nat} {blk : Nat} {ok : Nat →
    Bool} {y7 : List Nat} {y8 : List Tok} (hs : Keeps z s) : KeepsG z (State.collectRec s b i x phase blk ok y7 y8) := by
  induction y7 generalizing s b i x phase blk ok y8 with
  | nil =>
    unfold State.collectRec
    repeat' with_reducible first | apply KeepsG.toks
  | cons y l ih =>
    unfold State.collectRec
    repeat' first
      | with_reducible first
        | assumption | apply ih | apply State.peekRec_keeps | apply State.stnRefuse_keeps | apply KeepsG.wait | apply KeepsG.bad
        | apply KeepsG.ite
      | split | refine KeepsP.ofBad (by assumption) ?_

theorem State.useRecord_keeps {z s : State} {b : Nat} {i : Nat} {lane : Nat} {blk : Nat} {sc : Nat} {f : Nat} {t :
    Tok} (hs : Keeps z s) : Keeps z (State.useRecord s b i lane blk sc f t).1 := by
  unfold State.useRecord
  dsimp only
  repeat' first
    | with_reducible first
      | assumption | apply State.discard_keeps | apply State.countIn_keeps | apply State.countConv_keeps
    | split

theorem State.sumTokens_keeps {z s : State} {b : Nat} {i : Nat} {lane : Nat} {blk : Nat} {sc : Nat} {f : Nat} {ts :
    List Tok} (hs : Keeps z s) : Keeps z (State.sumTokens s b i lane blk sc f ts).1 := by
  unfold State.sumTokens
  dsimp only
  repeat' first
    | with_reducible first
      | assumption | intro _ | apply State.useRecord_keeps | apply Keeps.foldlFst
    | split | refine Keeps.fstOf (by assumption) ?_

theorem State.emitPart_keeps {z s : State} {b : Nat} {i : Nat} {lane : Nat} {blk : Nat} {x : Stream} {p : Part} (hs
    : Keeps z s) : KeepsR z (State.emitPart s b i lane blk x p) := by
  unfold State.emitPart
  dsimp only
  repeat' with_reducible first
    | assumption | apply State.emitNone_keeps | apply State.emitTok_keeps | apply State.stnSequence_keeps | apply KeepsR.stop
    | apply KeepsR.ite

theorem State.sumWork_keeps {z : State} {b : Nat} {i : Nat} {lane : Nat} {s : State} {x : Stream} (hs : Keeps z s) : KeepsR z
    (State.sumWork b i lane s x) := by
  unfold State.sumWork
  dsimp only
  repeat' first
    | with_reducible first
      | assumption | intro _ | apply State.emitPart_keeps | apply State.sumTokens_keeps | apply State.collectRec_keeps
      | apply State.addUnits_keeps | apply State.consumeAll_keeps | apply Got.andThen_keeps | apply Res.map_keeps
      | apply State.stnUncorr_keeps | apply State.stnSequence_keeps | apply State.stnStop_keeps | apply State.logE_keeps
      | apply KeepsR.wait | apply KeepsR.stop | apply KeepsR.ite
    | split

theorem State.emitScale_keeps {z s : State} {b : Nat} {i : Nat} {x : Stream} {payload : List Byte} {blocks : Nat}
    (hs : Keeps z s) : KeepsR z (State.emitScale s b i x payload blocks) := by
  unfold State.emitScale
  dsimp only
  repeat' first
    | with_reducible first
      | assumption | apply State.globClear_keeps | apply State.globDone_keeps | apply State.globPut_keeps
      | apply State.emitTok_keeps | apply State.emitted_keeps | apply State.stnFault_keeps | apply KeepsR.stop | apply KeepsR.ok
      | apply KeepsR.ite | apply Keeps.ite
    | split

theorem State.scaleNone_keeps {z s : State} {b : Nat} {i : Nat} {x : Stream} (hs : Keeps z s) : KeepsR z
    (State.scaleNone s b i x) := by
  unfold State.scaleNone
  dsimp only
  repeat' first
    | with_reducible first
      | assumption | apply State.globClear_keeps | apply State.emitNone_keeps | apply State.emitted_keeps
      | apply State.onStream_keeps | apply KeepsR.ok | apply Keeps.ite
    | split

theorem State.peekScale_keeps {z s : State} {b : Nat} {i : Nat} {p : Nat} {x : Stream} (hs : Keeps z s) : KeepsP z
    (State.peekScale s b i p x) := by
  unfold State.peekScale
  dsimp only
  repeat' first
    | with_reducible first
      | assumption | apply State.peek_keeps | apply State.readTok_keeps
    | split

theorem State.collectScale_keeps {z s : State} {b : Nat} {i : Nat} {x : Stream} {y4 : List Nat} {y5 : List Tok} (hs
    : Keeps z s) : KeepsG z (State.collectScale s b i x y4 y5) := by
  induction y4 generalizing s b i x y5 with
  | nil =>
    unfold State.collectScale
    repeat' with_reducible first | apply KeepsG.toks
  | cons y l ih =>
    unfold State.collectScale
    repeat' first
      | with_reducible first
        | assumption | apply ih | apply State.peekScale_keeps | apply State.stnRefuse_keeps | apply KeepsG.wait
        | apply KeepsG.bad | apply KeepsG.ite
      | split | refine KeepsP.ofBad (by assumption) ?_

theorem State.scaleWork_keeps {z : State} {b : Nat} {i : Nat} {s : State} {x : Stream} (hs : Keeps z s) : KeepsR z
    (State.scaleWork b i s x) := by
  unfold State.scaleWork
  dsimp only
  repeat' first
    | with_reducible first
      | assumption | intro _ | apply State.collectScale_keeps | apply State.scaleNone_keeps | apply State.emitScale_keeps
      | apply State.discard_keeps | apply State.addUnits_keeps | apply State.consumeAll_keeps | apply Got.andThen_keeps
      | apply Res.map_keeps | apply State.stnStop_keeps | apply State.logE_keeps | apply KeepsR.wait | apply KeepsR.stop
      | apply KeepsR.ite | apply Keeps.foldl
    | split

theorem State.normWork_keeps {z : State} {b : Nat} {i : Nat} {s : State} {x : Stream} (hs : Keeps z s) : KeepsR z
    (State.normWork b i s x) := by
  unfold State.normWork
  dsimp only
  repeat' first
    | with_reducible first
      | assumption | intro _ | apply State.nextRec_keeps | apply State.discard_keeps | apply State.addUnits_keeps
      | apply State.emitTok_keeps | apply State.consume_keeps | apply State.onStream_keeps | apply Got.andThen_keeps
      | apply KeepsR.wait | apply KeepsR.ok | apply KeepsR.ite | apply Keeps.ite
    | split

theorem State.lineSumWork_keeps {z : State} {b : Nat} {i : Nat} {col : Bool} {s : State} {x : Stream} (hs : Keeps z s) :
    KeepsR z (State.lineSumWork b i col s x) := by
  unfold State.lineSumWork
  dsimp only
  repeat' first
    | with_reducible first
      | assumption | intro _ | apply State.discard_keeps | apply State.addUnits_keeps | apply State.emitTok_keeps
      | apply State.consume_keeps | apply State.onStream_keeps | apply Got.andThen_keeps | apply State.collect_keeps
      | apply State.countIn_keeps | apply KeepsR.wait | apply KeepsR.ok | apply KeepsR.ite | apply Keeps.ite
    | split

theorem State.shardHeld_keeps {z s : State} {k : Bucket} {b : Nat} (hs : Keeps z s) : Keeps z (State.shardHeld s k
    b) := by
  unfold State.shardHeld
  dsimp only
  repeat' with_reducible first
    | assumption | apply State.feedPieces_keeps | apply State.freeShard_keeps | apply State.setBk_keeps | apply State.logE_keeps
    | apply State.setAll_keeps | apply Keeps.ite

theorem State.noteBlock_keeps {z s : State} {b : Nat} {bucket : Nat} {blk : Nat} {n : Nat} {contrib : Option Nat}
    (hs : Keeps z s) : Keeps z (State.noteBlock s b bucket blk n contrib) := by
  unfold State.noteBlock
  dsimp only
  repeat' first
    | with_reducible first
      | assumption | apply State.shardHeld_keeps | apply State.setBk_keeps | apply State.logE_keeps | apply Keeps.ite
    | split

theorem State.noteMax_keeps {z s : State} {b : Nat} {x : Stream} {first : Nat} {blocks : Nat} {contrib : Nat} (hs :
    Keeps z s) : Keeps z (State.noteMax s b x first blocks contrib) := by
  unfold State.noteMax
  repeat' with_reducible first | assumption | apply State.noteBlock_keeps | apply Keeps.ite

theorem State.maxWork_keeps {z : State} {b : Nat} {i : Nat} {maxOp : Bool} {s : State} {x : Stream} (hs : Keeps z s) : KeepsR
    z (State.maxWork b i maxOp s x) := by
  unfold State.maxWork
  dsimp only
  repeat' first
    | with_reducible first
      | assumption | intro _ | apply State.noteMax_keeps | apply State.discard_keeps | apply State.addUnits_keeps
      | apply State.emitNone_keeps | apply State.emitTok_keeps | apply State.consumeAll_keeps | apply Got.andThen_keeps
      | apply Res.map_keeps | apply State.collect_keeps | apply State.stnStop_keeps | apply State.countIn_keeps
      | apply State.logE_keeps | apply KeepsR.wait | apply KeepsR.stop | apply KeepsR.ite | apply Keeps.foldl
    | split

theorem State.anvilWork_keeps {z : State} {b : Nat} {i : Nat} {form : Nat} {s : State} {x : Stream} (hs : Keeps z s) : KeepsR
    z (State.anvilWork b i form s x) := by
  unfold State.anvilWork
  repeat' first
    | with_reducible first
      | assumption | apply State.maxWork_keeps | apply State.lineSumWork_keeps | apply State.normWork_keeps
      | apply State.scaleWork_keeps | apply State.sumWork_keeps
    | split

/-! ### Quench -/

theorem State.writeAll_keeps {z s : State} {b : Nat} {i : Nat} {y3 : List (Int × List Byte)} (hs : Keeps z s) :
    KeepsR z (State.writeAll s b i y3) := by
  induction y3 generalizing s b i with
  | nil =>
    unfold State.writeAll
    repeat' with_reducible first | assumption | apply KeepsR.ok
  | cons y l ih =>
    unfold State.writeAll
    repeat' with_reducible first | assumption | intro _ | apply ih | apply State.stnWrite_keeps | apply Res.bind_keeps

theorem State.writeBlock_keeps {z s : State} {b : Nat} {i : Nat} {d : Desc} {pos : Nat} {n : Nat} {bs : List Byte}
    (hs : Keeps z s) : KeepsR z (State.writeBlock s b i d pos n bs) := by
  unfold State.writeBlock
  repeat' with_reducible first
    | assumption | apply State.writeAll_keeps | apply State.stnFault_keeps | apply KeepsR.stop | apply KeepsR.ite

theorem State.emittedTile_keeps {z s : State} {b : Nat} {i : Nat} {x : Stream} {dflag : Nat} {count : Nat} {fmt :
    Nat} (hs : Keeps z s) : Keeps z (State.emittedTile s b i x dflag count fmt) := by
  unfold State.emittedTile
  dsimp only
  repeat' with_reducible first | assumption | apply State.emitted_keeps

theorem State.emitted0_keeps {z s : State} {b : Nat} {i : Nat} {x : Stream} {count : Nat} {fmt : Nat} (hs : Keeps z
    s) : Keeps z (State.emitted0 s b i x count fmt) := by
  unfold State.emitted0
  repeat' with_reducible first | assumption | apply State.emittedTile_keeps

theorem State.convertRow_keeps {z s : State} {b : Nat} {i : Nat} {x : Stream} {d : Desc} {w : Nat} {m : Nat} {first
    : Nat} {mask : Nat} {vs : List Val} (hs : Keeps z s) : KeepsR z (State.convertRow s b i x d w m first mask vs) := by
  unfold State.convertRow
  dsimp only
  repeat' with_reducible first
    | assumption | intro _ | apply State.emittedTile_keeps | apply State.writeAll_keeps | apply State.setBk_keeps
    | apply Res.map_keeps | apply State.countConv_keeps

theorem State.convertBlocks_keeps {z s : State} {b : Nat} {i : Nat} {x : Stream} {d : Desc} {vs : List Val} {e :
    Nat} {mask : Nat} {y8 : List Nat} (hs : Keeps z s) : KeepsR z (State.convertBlocks s b i x d vs e mask y8) := by
  induction y8 generalizing s b i x d vs e mask with
  | nil =>
    unfold State.convertBlocks
    repeat' with_reducible first | assumption | apply KeepsR.ok
  | cons y l ih =>
    unfold State.convertBlocks
    dsimp only
    repeat' with_reducible first
      | assumption | intro _ | apply ih | apply State.writeBlock_keeps | apply Res.bind_keeps | apply State.countConv_keeps
      | apply KeepsR.ite

theorem State.convertWork_keeps {z : State} {b : Nat} {i : Nat} {s : State} {x : Stream} (hs : Keeps z s) : KeepsR z
    (State.convertWork b i s x) := by
  unfold State.convertWork
  dsimp only
  repeat' first
    | with_reducible first
      | assumption | intro _ | apply State.convertBlocks_keeps | apply State.convertRow_keeps | apply State.emitted0_keeps
      | apply State.writeBlock_keeps | apply State.addUnits_keeps | apply State.emitTok_keeps | apply State.consume_keeps
      | apply State.onStream_keeps | apply Got.andThen_keeps | apply Res.map_keeps | apply State.collect_keeps
      | apply State.countIn_keeps | apply State.countConv_keeps | apply KeepsR.wait | apply KeepsR.ok | apply KeepsR.ite
      | apply Keeps.ite
    | split

theorem State.finishWork_keeps {z : State} {b : Nat} {i : Nat} {s : State} {x : Stream} (hs : Keeps z s) : KeepsR z
    (State.finishWork b i s x) := by
  unfold State.finishWork
  dsimp only
  repeat' first
    | with_reducible first
      | assumption | intro _ | apply State.emitted0_keeps | apply State.writeBlock_keeps | apply State.noteBlock_keeps
      | apply State.nextRec_keeps | apply State.addUnits_keeps | apply State.emitNone_keeps | apply State.emitTok_keeps
      | apply State.consume_keeps | apply Got.andThen_keeps | apply Res.map_keeps | apply State.stnSequence_keeps
      | apply State.stnFault_keeps | apply State.countConv_keeps | apply KeepsR.wait | apply KeepsR.stop | apply KeepsR.ite
    | split

theorem State.zeroBlocks_keeps {z s : State} {b : Nat} {i : Nat} {x : Stream} {d : Desc} {base : Nat} {nb : Nat} {y7
    : List Nat} (hs : Keeps z s) : KeepsR z (State.zeroBlocks s b i x d base nb y7) := by
  induction y7 generalizing s b i x d base nb with
  | nil =>
    unfold State.zeroBlocks
    repeat' with_reducible first | assumption | apply KeepsR.ok
  | cons y l ih =>
    unfold State.zeroBlocks
    dsimp only
    repeat' with_reducible first
      | assumption | intro _ | apply ih | apply State.writeBlock_keeps | apply State.addUnits_keeps | apply Res.bind_keeps
      | apply State.stnFault_keeps | apply State.countConv_keeps | apply KeepsR.stop | apply KeepsR.ite

theorem State.zfillWork_keeps {z : State} {b : Nat} {i : Nat} {s : State} {x : Stream} (hs : Keeps z s) : KeepsR z
    (State.zfillWork b i s x) := by
  unfold State.zfillWork
  dsimp only
  repeat' first
    | with_reducible first
      | assumption | intro _ | apply State.zeroBlocks_keeps | apply State.emitted0_keeps | apply State.noteBlock_keeps
      | apply Res.map_keeps | apply State.stnUncorr_keeps | apply KeepsR.wait | apply KeepsR.stop | apply KeepsR.ite
    | split

theorem State.quenchWork_keeps {z : State} {b : Nat} {i : Nat} {form : Nat} {s : State} {x : Stream} (hs : Keeps z s) : KeepsR
    z (State.quenchWork b i form s x) := by
  unfold State.quenchWork
  repeat' first
    | with_reducible first
      | assumption | apply State.zfillWork_keeps | apply State.finishWork_keeps | apply State.convertWork_keeps
    | split

/-! ### Movers -/

theorem State.collectUntil_keeps {z s : State} {b : Nat} {i : Nat} {x : Stream} {ok : Tok → Bool} {size : Tok → Nat}
    {p : Nat} {need : Nat} {y8 : Nat} {y9 : Nat} {y10 : List Tok} (hs : Keeps z s) : KeepsG z (State.collectUntil s b i x ok
    size p need y8 y9 y10) := by
  induction y8 generalizing s b i x ok size p need y9 y10 with
  | zero =>
    unfold State.collectUntil
    repeat' with_reducible first | apply KeepsG.toks
  | succ n ih =>
    unfold State.collectUntil
    repeat' first
      | with_reducible first
        | assumption | apply ih | apply State.peek_keeps | apply State.stnRefuse_keeps | apply KeepsG.wait | apply KeepsG.bad
        | apply KeepsG.toks | apply KeepsG.ite
      | split | refine KeepsP.ofBad (by assumption) ?_

theorem State.collectAll_keeps {z s : State} {b : Nat} {i : Nat} {x : Stream} {ok : Tok → Bool} {p : Nat} (hs :
    Keeps z s) : KeepsG z (State.collectAll s b i x ok p) := by
  unfold State.collectAll
  repeat' with_reducible first | assumption | apply State.collect_keeps

theorem State.consumeRest_keeps {z s : State} {b : Nat} {i : Nat} {x : Stream} (hs : Keeps z s) : Keeps z
    (State.consumeRest s b i x) := by
  unfold State.consumeRest
  repeat' with_reducible first | assumption | intro _ | apply State.consumeN_keeps | apply Keeps.foldl

theorem State.readRow_keeps {z s : State} {b : Nat} {i : Nat} {d : Desc} {r : Nat} (hs : Keeps z s) : KeepsP z
    (State.readRow s b i d r) := by
  unfold State.readRow
  repeat' with_reducible first | assumption | apply State.readTok_keeps

theorem State.badIndex_keeps {z s : State} {b : Nat} {i : Nat} {d : Desc} {k : Nat} (hs : Keeps z s) : Keeps z
    (State.badIndex s b i d k) := by
  unfold State.badIndex
  repeat' with_reducible first | assumption | apply State.stnFault_keeps | apply State.set_keeps

theorem State.readRows_keeps {z s : State} {b : Nat} {i : Nat} {d : Desc} {y4 : List Nat} {y5 : List Byte} {y6 :
    Nat} (hs : Keeps z s) : KeepsG z (State.readRows s b i d y4 y5 y6) := by
  induction y4 generalizing s b i d y5 y6 with
  | nil =>
    unfold State.readRows
    repeat' with_reducible first | apply KeepsG.toks
  | cons y l ih =>
    unfold State.readRows
    repeat' first
      | with_reducible first
        | assumption | apply ih | apply State.badIndex_keeps | apply State.readRow_keeps | apply KeepsG.wait | apply KeepsG.bad
        | apply KeepsG.ite
      | split | refine KeepsP.ofBad (by assumption) ?_

theorem State.emitForme_keeps {z s : State} {b : Nat} {i : Nat} {x : Stream} {t : Tok} (hs : Keeps z s) : KeepsR z
    (State.emitForme s b i x t) := by
  unfold State.emitForme
  dsimp only
  repeat' with_reducible first
    | assumption | intro _ | apply State.addUnits_keeps | apply State.emitTok_keeps | apply State.onStream_keeps
    | apply Res.map_keeps | apply Keeps.ite

theorem State.gatherTok_keeps {z s : State} {b : Nat} {i : Nat} {x : Stream} {d : Desc} {S : Nat} {k : Nat} {off :
    Nat} {idx : List Nat} (hs : Keeps z s) : KeepsR z (State.gatherTok s b i x d S k off idx) := by
  unfold State.gatherTok
  dsimp only
  repeat' with_reducible first
    | assumption | intro _ | apply State.emitForme_keeps | apply State.readRows_keeps | apply Got.andThen_keeps
    | apply State.bump_keeps | apply KeepsR.ite | apply Keeps.ite

theorem State.releaseIdx_keeps {z s : State} {b : Nat} {i : Nat} {e : Nat} {y4 : List Tok} {y5 : Nat} (hs : Keeps z
    s) : Keeps z (State.releaseIdx s b i e y4 y5) := by
  induction y4 generalizing s b i e y5 with
  | nil =>
    unfold State.releaseIdx
    repeat' with_reducible first | assumption | apply State.onStream_keeps
  | cons y l ih =>
    unfold State.releaseIdx
    repeat' with_reducible first
      | assumption | apply ih | apply State.consume_keeps | apply State.onStream_keeps | apply Keeps.ite

theorem State.gatherRest_keeps {z s : State} {b : Nat} {i : Nat} {x : Stream} {covered : Nat} (hs : Keeps z s) :
    KeepsR z (State.gatherRest s b i x covered) := by
  unfold State.gatherRest
  repeat' with_reducible first
    | assumption | intro _ | apply State.consume_keeps | apply Got.andThen_keeps | apply State.collect_keeps
    | apply State.stnRefuse_keeps | apply KeepsR.stop | apply KeepsR.ok | apply KeepsR.ite

theorem State.gatherWork_keeps {z : State} {b : Nat} {i : Nat} {s : State} {x : Stream} (hs : Keeps z s) : KeepsR z
    (State.gatherWork b i s x) := by
  unfold State.gatherWork
  dsimp only
  repeat' first
    | with_reducible first
      | assumption | intro _ | apply State.gatherRest_keeps | apply State.releaseIdx_keeps | apply State.gatherTok_keeps
      | apply State.collectUntil_keeps | apply Got.andThen_keeps | apply Res.map_keeps | apply State.stnRefuse_keeps
      | apply KeepsR.wait | apply KeepsR.stop | apply KeepsR.ite
    | split

theorem State.permuteWork_keeps {z : State} {b : Nat} {i : Nat} {s : State} {x : Stream} (hs : Keeps z s) : KeepsR z
    (State.permuteWork b i s x) := by
  unfold State.permuteWork
  dsimp only
  repeat' first
    | with_reducible first
      | assumption | intro _ | apply State.gatherTok_keeps | apply State.stnUncorr_keeps | apply State.stnFault_keeps
      | apply KeepsQ.some | apply KeepsQ.findSome | apply KeepsQ.mapOpt | apply KeepsQ.ite | apply KeepsR.wait
      | apply KeepsR.stop | apply KeepsR.ite
    | split | refine KeepsQ.ofSome (by assumption) ?_

theorem State.stridedWork_keeps {z : State} {b : Nat} {i : Nat} {s : State} {x : Stream} (hs : Keeps z s) : KeepsR z
    (State.stridedWork b i s x) := by
  unfold State.stridedWork
  repeat' first
    | with_reducible first
      | assumption | intro _ | apply State.addUnits_keeps | apply State.emitTok_keeps | apply Res.map_keeps
      | apply State.peekTensor_keeps | apply KeepsR.wait | apply KeepsR.stop | apply KeepsR.ite
    | split | refine KeepsP.ofBad (by assumption) ?_

theorem State.releaseRows_keeps {z s : State} {b : Nat} {i : Nat} {y3 : List Tok} {y4 : Nat} (hs : Keeps z s) :
    Keeps z (State.releaseRows s b i y3 y4).2 := by
  induction y3 generalizing s b i y4 with
  | nil =>
    unfold State.releaseRows
    dsimp only
    assumption
  | cons y l ih =>
    unfold State.releaseRows
    repeat' first
      | with_reducible first
        | assumption | apply ih | apply State.consume_keeps
      | split

theorem State.scatterWork_keeps {z : State} {b : Nat} {i : Nat} {s : State} {x : Stream} (hs : Keeps z s) : KeepsR z
    (State.scatterWork b i s x) := by
  unfold State.scatterWork
  dsimp only
  repeat' first
    | with_reducible first
      | assumption | intro _ | apply State.releaseRows_keeps | apply State.badIndex_keeps | apply State.collectUntil_keeps
      | apply State.addUnits_keeps | apply State.stnWrite_keeps | apply State.consume_keeps | apply State.onStream_keeps
      | apply Got.andThen_keeps | apply Res.map_keeps | apply State.collect_keeps | apply State.stnRefuse_keeps
      | apply State.bump_keeps | apply KeepsR.wait | apply KeepsR.stop | apply KeepsR.ok | apply KeepsR.ite | apply Keeps.ite
    | split

theorem State.formeWork_keeps {z : State} {b : Nat} {i : Nat} {form : Nat} {s : State} {x : Stream} (hs : Keeps z s) : KeepsR
    z (State.formeWork b i form s x) := by
  unfold State.formeWork
  repeat' first
    | with_reducible first
      | assumption | apply State.scatterWork_keeps | apply State.stridedWork_keeps | apply State.permuteWork_keeps
      | apply State.gatherWork_keeps
    | split

theorem State.lastOut_keeps {z s : State} {b : Nat} {i : Nat} {x : Stream} {units : Nat} {f : State → State} (hs :
    Keeps z s) (hf : (∀ x00, Keeps z x00 → Keeps z (f x00))) : Keeps z (State.lastOut s b i x units f) := by
  unfold State.lastOut
  repeat' with_reducible first
    | assumption | apply hf | apply State.consumeRest_keeps | apply State.addUnits_keeps | apply Keeps.ite

theorem State.nextKeys_keeps {z s : State} {b : Nat} {i : Nat} {x : Stream} (hs : Keeps z s) : KeepsG z
    (State.nextKeys s b i x) := by
  unfold State.nextKeys
  repeat' with_reducible first | assumption | apply State.collect_keeps

theorem State.countToks_keeps {z s : State} {b : Nat} {i : Nat} {ts : List Tok} (hs : Keeps z s) : Keeps z
    (State.countToks s b i ts) := by
  unfold State.countToks
  repeat' with_reducible first | assumption | intro _ | apply State.countIn_keeps | apply Keeps.foldl

theorem State.foldList_keeps {z s : State} {b : Nat} {i : Nat} {x : Stream} {ts : List Tok} {fold : List Nat} (hs :
    Keeps z s) : KeepsR z (State.foldList s b i x ts fold) := by
  unfold State.foldList
  repeat' with_reducible first
    | assumption | apply State.countToks_keeps | apply State.addUnits_keeps | apply State.consumeAll_keeps
    | apply State.onStream_keeps | apply KeepsR.ok

theorem State.emitList_keeps {z s : State} {b : Nat} {i : Nat} {x : Stream} {cap : Nat} (hs : Keeps z s) : KeepsR z
    (State.emitList s b i x cap) := by
  unfold State.emitList
  dsimp only
  repeat' with_reducible first
    | assumption | intro _ | apply State.emitTok_keeps | apply Res.map_keeps | apply State.bump_keeps | apply KeepsR.wait
    | apply KeepsR.ite | apply Keeps.ite

theorem State.selectWork_keeps {z : State} {b : Nat} {i : Nat} {s : State} {x : Stream} (hs : Keeps z s) : KeepsR z
    (State.selectWork b i s x) := by
  unfold State.selectWork
  dsimp only
  repeat' with_reducible first
    | assumption | intro _ | apply State.emitList_keeps | apply State.foldList_keeps | apply State.countToks_keeps
    | apply State.nextKeys_keeps | apply State.addUnits_keeps | apply State.emitTok_keeps | apply State.consumeAll_keeps
    | apply Got.andThen_keeps | apply Res.map_keeps | apply State.stnRefuse_keeps | apply KeepsR.wait | apply KeepsR.stop
    | apply KeepsR.ite

theorem State.topkWork_keeps {z : State} {b : Nat} {i : Nat} {s : State} {x : Stream} (hs : Keeps z s) : KeepsR z
    (State.topkWork b i s x) := by
  unfold State.topkWork
  dsimp only
  repeat' with_reducible first
    | assumption | intro _ | apply State.emitList_keeps | apply State.foldList_keeps | apply State.nextKeys_keeps
    | apply Got.andThen_keeps | apply State.stnRefuse_keeps | apply KeepsR.stop | apply KeepsR.ite

theorem State.galleyRuns_keeps {z s : State} {b : Nat} {i : Nat} {x : Stream} {pay : Bool} {y5 : List Nat} {y6 :
    List (List Keyed)} {y7 : Nat} (hs : Keeps z s) : KeepsE z (State.galleyRuns s b i x pay y5 y6 y7).1 := by
  induction y5 generalizing s b i x pay y6 y7 with
  | nil =>
    unfold State.galleyRuns
    dsimp only
    repeat' with_reducible first | apply KeepsE.none
  | cons y l ih =>
    unfold State.galleyRuns
    dsimp only
    repeat' first
      | with_reducible first
        | assumption | apply ih | apply State.collectAll_keeps | apply KeepsE.some | apply KeepsG.toks | apply KeepsG.ite
        | apply KeepsR.wait | apply KeepsR.stop
      | split | refine KeepsG.ofBad (by assumption) ?_

theorem State.galleyWork_keeps {z : State} {b : Nat} {i : Nat} {form : Nat} {s : State} {x : Stream} (hs : Keeps z s) : KeepsR
    z (State.galleyWork b i form s x) := by
  unfold State.galleyWork
  dsimp only
  repeat' first
    | with_reducible first
      | assumption | intro _ | apply State.galleyRuns_keeps | apply State.consumeRest_keeps | apply State.addUnits_keeps
      | apply State.emitTok_keeps | apply Res.map_keeps | apply State.stnSequence_keeps | apply State.stnRefuse_keeps
      | apply State.countIn_keeps | apply State.bump_keeps | apply State.set_keeps | apply KeepsR.wait | apply KeepsR.stop
      | apply KeepsR.ite | apply Keeps.ite
    | split | refine KeepsE.ofFst (by assumption) ?_

/-! ### Products -/

theorem State.matvecWork_keeps {z : State} {b : Nat} {i : Nat} {s : State} {x : Stream} (hs : Keeps z s) : KeepsR z
    (State.matvecWork b i s x) := by
  unfold State.matvecWork
  dsimp only
  repeat' first
    | with_reducible first
      | assumption | intro _ | apply State.lastOut_keeps | apply State.collectAll_keeps | apply State.addUnits_keeps
      | apply State.emitTok_keeps | apply Got.andThen_keeps | apply Res.map_keeps | apply State.stnUncorr_keeps
      | apply State.stnRefuse_keeps | apply State.stnFault_keeps | apply State.countIn_keeps | apply State.countKind_keeps
      | apply State.set_keeps | apply KeepsR.wait | apply KeepsR.stop | apply KeepsR.ite
    | split

theorem State.outerWork_keeps {z : State} {b : Nat} {i : Nat} {s : State} {x : Stream} (hs : Keeps z s) : KeepsR z
    (State.outerWork b i s x) := by
  unfold State.outerWork
  dsimp only
  repeat' with_reducible first
    | assumption | intro _ | apply State.lastOut_keeps | apply State.collectAll_keeps | apply State.addUnits_keeps
    | apply State.emitTok_keeps | apply Got.andThen_keeps | apply Res.map_keeps | apply State.stnRefuse_keeps
    | apply State.countIn_keeps | apply State.countKind_keeps | apply State.set_keeps | apply KeepsR.wait | apply KeepsR.stop
    | apply KeepsR.ite

theorem State.platenWork_keeps {z : State} {b : Nat} {i : Nat} {form : Nat} {s : State} {x : Stream} (hs : Keeps z s) : KeepsR
    z (State.platenWork b i form s x) := by
  unfold State.platenWork
  repeat' first
    | with_reducible first
      | assumption | apply State.outerWork_keeps | apply State.matvecWork_keeps
    | split

theorem State.proofWork_keeps {z : State} {b : Nat} {i : Nat} {form : Nat} {s : State} {x : Stream} (hs : Keeps z s) : KeepsR
    z (State.proofWork b i form s x) := by
  unfold State.proofWork
  dsimp only
  repeat' with_reducible first
    | assumption | intro _ | apply State.addUnits_keeps | apply State.emitTok_keeps | apply State.consume_keeps
    | apply Got.andThen_keeps | apply Res.map_keeps | apply State.collect_keeps | apply State.setAll_keeps
    | apply State.bump_keeps | apply KeepsR.wait | apply KeepsR.ok | apply KeepsR.ite

/-! ### Impress -/

theorem State.claim_keeps {z s : State} {k : Bucket} (hs : Keeps z s) : Keeps z (State.claim s k) := by
  unfold State.claim
  dsimp only
  repeat' first
    | with_reducible first
      | assumption | apply State.bump_keeps | apply Keeps.ite
    | split | with_reducible apply Keeps.mk'

/-! ### Temper -/

theorem State.writeConstants_keeps {z s : State} (hs : Keeps z s) : Keeps z (State.writeConstants s) := by
  unfold State.writeConstants
  repeat' with_reducible first | assumption | intro _ | apply State.storeNat_keeps | apply State.set_keeps | apply Keeps.foldl

theorem State.statRun_keeps {z s : State} {b : Nat} {base : Tab Val} {r : StatRun} (hs : Keeps z s) : KeepsR z
    (State.statRun s b base r) := by
  unfold State.statRun
  dsimp only
  repeat' first
    | with_reducible first
      | assumption | apply State.stnWrite_keeps | apply State.countIn_keeps | apply State.countConv_keeps
      | apply State.countKinds_keeps | apply KeepsR.ok
    | split

theorem State.statRuns_keeps {z s : State} {b : Nat} {base : Tab Val} {y3 : List StatRun} (hs : Keeps z s) : KeepsR
    z (State.statRuns s b base y3) := by
  induction y3 generalizing s b base with
  | nil =>
    unfold State.statRuns
    repeat' with_reducible first | assumption | apply KeepsR.ok
  | cons y l ih =>
    unfold State.statRuns
    repeat' with_reducible first | assumption | intro _ | apply ih | apply State.statRun_keeps | apply Res.bind_keeps

theorem State.runStats_keeps {z s : State} {b : Nat} {x : Stream} {k : Bucket} {g : Segment} {w : Nat} {sc : Nat}
    {step : Nat} (hs : Keeps z s) : KeepsR z (State.runStats s b x k g w sc step) := by
  unfold State.runStats
  dsimp only
  repeat' first
    | with_reducible first
      | assumption | apply State.statRuns_keeps | apply State.setBk_keeps | apply State.stnUncorr_keeps
      | apply State.stnSequence_keeps | apply KeepsR.stop | apply KeepsR.ok | apply KeepsR.ite
    | split

theorem State.beginUpdate_keeps {z s : State} {k : Bucket} {step : Nat} {replay : Bool} (hs : Keeps z s) : Keeps z
    (State.beginUpdate s k step replay) := by
  unfold State.beginUpdate
  dsimp only
  repeat' with_reducible first | assumption | apply State.claim_keeps | apply State.setBk_keeps | apply Keeps.ite

theorem State.noteTile_keeps {z s : State} {replay : Bool} {step : Nat} {group : Nat} {j : Nat} {k : Bucket} {rowlen
    : Nat} {pl : TilePlan} (hs : Keeps z s) : Keeps z (State.noteTile s replay step group j k rowlen pl) := by
  unfold State.noteTile
  dsimp only
  repeat' with_reducible first | assumption | apply State.setBk_keeps | apply Keeps.ite

theorem State.elemTile_keeps {z : State} {b : Nat} {replay : Bool} {step : Nat} {x : Stream} {k : Bucket} {g : Segment} {a :
    Nat} {pl : TilePlan} {t : Tok} {s : State} (hs : Keeps z s) : KeepsR z (State.elemTile b replay step x k g a pl t s) := by
  unfold State.elemTile
  dsimp only
  repeat' first
    | with_reducible first
      | assumption | intro _ | apply State.noteTile_keeps | apply State.writeAll_keeps | apply State.addUnits_keeps
      | apply State.emitTok_keeps | apply State.consume_keeps | apply Res.map_keeps | apply Res.bind_keeps
      | apply State.stnUncorr_keeps | apply State.countIn_keeps | apply State.countConv_keeps | apply State.countKinds_keeps
      | apply KeepsR.stop | apply KeepsR.ok | apply KeepsR.ite
    | split

theorem State.tileWork_keeps {z : State} {b : Nat} {replay : Bool} {step : Nat} {x : Stream} {k : Bucket} {g : Segment} {d :
    Desc} {t : Tok} {s : State} (hs : Keeps z s) : KeepsR z (State.tileWork b replay step x k g d t s) := by
  unfold State.tileWork
  dsimp only
  repeat' with_reducible first
    | assumption | intro _ | apply State.elemTile_keeps | apply State.beginUpdate_keeps | apply State.runStats_keeps
    | apply Res.bind_keeps | apply KeepsR.ok | apply KeepsR.ite | apply Keeps.ite

theorem State.temperWork_keeps {z : State} {b : Nat} {replay : Bool} {s : State} {x : Stream} (hs : Keeps z s) : KeepsR z
    (State.temperWork b replay s x) := by
  unfold State.temperWork
  dsimp only
  repeat' first
    | with_reducible first
      | assumption | intro _ | apply State.tileWork_keeps | apply Got.andThen_keeps | apply State.collect_keeps
      | apply KeepsR.wait | apply KeepsR.stop | apply KeepsR.ite
    | split

theorem State.temperDone_keeps {z s : State} {x : Stream} (hs : Keeps z s) : Keeps z (State.temperDone s x) := by
  unfold State.temperDone
  dsimp only
  repeat' first
    | with_reducible first
      | assumption | apply State.setBk_keeps | apply Keeps.ite
    | split

/-! ### Sequencer -/

theorem State.showLaunch_keeps {z s : State} {b : Nat} {x : Stream} (hs : Keeps z s) : Keeps z (State.showLaunch s b
    x) := by
  unfold State.showLaunch
  dsimp only
  repeat' first
    | with_reducible first
      | assumption | apply State.setAll_keeps | apply State.set_keeps | apply Keeps.ite
    | split

theorem State.refuseLaunch_keeps {z s : State} {b : Nat} {recLocal : Nat} {w : Nat} {a : Nat} (hs : Keeps z s) :
    Keeps z (State.refuseLaunch s b recLocal w a) := by
  unfold State.refuseLaunch
  dsimp only
  repeat' with_reducible first
    | assumption | apply State.latchStream_keeps | apply State.waitDone_keeps | apply State.refuseStream_keeps
    | apply State.stnViolation_keeps | apply State.haltBench_keeps | apply Keeps.ite

theorem State.refuseOrder_keeps {z s : State} {b : Nat} {recLocal : Nat} {w : Nat} {expected : Nat} {coll : Nat} (hs
    : Keeps z s) : Keeps z (State.refuseOrder s b recLocal w expected coll) := by
  unfold State.refuseOrder
  dsimp only
  repeat' with_reducible first
    | assumption | apply State.latchStream_keeps | apply State.waitDone_keeps | apply State.haltBench_keeps
    | apply State.orderViolation_keeps | apply State.set_keeps

theorem State.launchStream_keeps {z s : State} {b : Nat} {recLocal : Nat} {w : Nat} (hs : Keeps z s) : Keeps z
    (State.launchStream s b recLocal w) := by
  unfold State.launchStream
  dsimp only
  repeat' with_reducible first
    | assumption | apply State.showLaunch_keeps | apply State.waitDone_keeps | apply State.nextPc_keeps
    | apply State.setStream_keeps | apply State.trace_keeps | apply State.set_keeps

theorem State.swapCmp_keeps {z s : State} {b : Nat} (hs : Keeps z s) : Keeps z (State.swapCmp s b) := by
  unfold State.swapCmp
  repeat' with_reducible first | assumption | apply State.setAll_keeps

theorem State.swapTmp_keeps {z s : State} {b : Nat} (hs : Keeps z s) : Keeps z (State.swapTmp s b) := by
  unfold State.swapTmp
  repeat' with_reducible first | assumption | apply State.setAll_keeps

theorem State.tmpBoundary_keeps {z s : State} {b : Nat} (hs : Keeps z s) : Keeps z (State.tmpBoundary s b) := by
  unfold State.tmpBoundary
  repeat' with_reducible first | assumption | apply State.swapTmp_keeps | apply Keeps.ite

theorem State.strmLaunch_keeps {z s : State} {b : Nat} {a : Nat} {w : Nat} (hs : Keeps z s) : Keeps z
    (State.strmLaunch s b a w) := by
  unfold State.strmLaunch
  dsimp only
  repeat' first
    | with_reducible first
      | assumption | apply State.launchStream_keeps | apply State.refuseOrder_keeps | apply State.refuseLaunch_keeps
    | split | with_reducible apply Keeps.mk'

theorem State.strmGo_keeps {z s : State} {b : Nat} {ra : BitVec 5} {imm : BitVec 16} {a : Nat} {w : Nat} (hs : Keeps
    z s) : Keeps z (State.strmGo s b ra imm a w) := by
  unfold State.strmGo
  dsimp only
  repeat' with_reducible first
    | assumption | apply State.strmLaunch_keeps | apply State.tmpBoundary_keeps | apply State.wait_keeps | apply Keeps.ite

theorem State.strm_keeps {z s : State} {b : Nat} {ra : BitVec 5} {imm : BitVec 16} (hs : Keeps z s) : Keeps z
    (State.strm s b ra imm) := by
  unfold State.strm
  dsimp only
  repeat' first
    | with_reducible first
      | assumption | apply State.strmGo_keeps | apply State.refuseLaunch_keeps | apply State.localFault_keeps
      | apply State.cmpUncorr_keeps | apply Keeps.ite
    | split

theorem execStrm_keeps {z : State} {b : Nat} {ra : BitVec 5} {imm : BitVec 16} {s : State} (hs : Keeps z s) : KeepsO z
    (execStrm b ra imm s) := by
  unfold execStrm
  repeat' with_reducible first | assumption | intro _ | apply State.strm_keeps | apply State.instr_keeps | apply KeepsO.next

theorem State.swait_keeps {z s : State} {b : Nat} {sel : BitVec 5} (hs : Keeps z s) : Keeps z (State.swait s b sel)
    := by
  unfold State.swait
  repeat' with_reducible first
    | assumption | intro _ | apply State.unveil_keeps | apply State.illegal_keeps | apply State.waitDone_keeps
    | apply State.wait_keeps | apply State.nextPc_keeps | apply Keeps.ite | apply Keeps.foldl

theorem execSwait_keeps {z : State} {b : Nat} {sel : BitVec 5} {s : State} (hs : Keeps z s) : KeepsO z (execSwait b sel s) := by
  unfold execSwait
  repeat' with_reducible first | assumption | intro _ | apply State.swait_keeps | apply State.instr_keeps | apply KeepsO.next

theorem execFence_keeps {z : State} {b : Nat} {s : State} (hs : Keeps z s) : KeepsO z (execFence b s) := by
  unfold execFence
  repeat' with_reducible first | assumption | intro _ | apply State.instr_keeps | apply State.nextPc_keeps | apply KeepsO.next

theorem State.boundaries_keeps {z s : State} {b : Nat} (hs : Keeps z s) : Keeps z (State.boundaries s b) := by
  unfold State.boundaries
  repeat' with_reducible first | assumption | apply State.tmpBoundary_keeps | apply State.swapCmp_keeps | apply Keeps.ite

theorem State.benchStopped_keeps {z s : State} {b : Nat} (hs : Keeps z s) : Keeps z (State.benchStopped s b) := by
  unfold State.benchStopped
  repeat' with_reducible first | assumption | apply State.boundaries_keeps | apply State.setAll_keeps

theorem State.endProgram_keeps {z s : State} {b : Nat} (hs : Keeps z s) : Keeps z (State.endProgram s b) := by
  unfold State.endProgram
  repeat' with_reducible first
    | assumption | apply State.benchStopped_keeps | apply State.waitDone_keeps | apply State.wait_keeps
    | apply State.nextPc_keeps | apply Keeps.ite

theorem execEndB_keeps {z : State} {b : Nat} {s : State} (hs : Keeps z s) : KeepsO z (execEndB b s) := by
  unfold execEndB
  repeat' with_reducible first
    | assumption | intro _ | apply State.endProgram_keeps | apply State.instr_keeps | apply KeepsO.next

theorem execBndry_keeps {z : State} {b : Nat} {target : BitVec 13} {s : State} (hs : Keeps z s) : KeepsO z (execBndry b target
    s) := by
  unfold execBndry
  repeat' with_reducible first
    | assumption | intro _ | apply State.swapCmp_keeps | apply State.instr_keeps | apply State.nextPc_keeps
    | apply State.goto_keeps | apply KeepsO.next | apply Keeps.ite

theorem State.handleFault_keeps {z s : State} {b : Nat} {h : Nat} (hs : Keeps z s) : Keeps z (State.handleFault s b
    h) := by
  unfold State.handleFault
  repeat' with_reducible first | assumption | apply State.localFault_keeps

theorem State.wordFault_keeps {z s : State} {b : Nat} {a : Nat} (hs : Keeps z s) : Keeps z (State.wordFault s b a)
    := by
  unfold State.wordFault
  repeat' with_reducible first | assumption | apply State.cmpViolation_keeps

theorem State.sigRef_keeps {z s : State} {b : Nat} {ra : BitVec 5} {hd : BitVec 10} (hs : Keeps z s) : KeepsF z
    (State.sigRef s b ra hd) := by
  unfold State.sigRef
  repeat' first
    | with_reducible first
      | assumption | apply State.wordFault_keeps | apply State.handleFault_keeps | apply State.cmpUncorr_keeps
      | apply KeepsF.fault | apply KeepsF.word
    | split

theorem State.syncWaiter_keeps {z s : State} {b : Nat} {a : Nat} (hs : Keeps z s) : Keeps z (State.syncWaiter s b a)
    := by
  unfold State.syncWaiter
  repeat' first
    | with_reducible first
      | assumption | apply State.sigWaiter_keeps
    | split

theorem State.sigrd_keeps {z s : State} {b : Nat} {rd : BitVec 5} {ra : BitVec 5} {hd : BitVec 10} (hs : Keeps z s)
    : Keeps z (State.sigrd s b rd ra hd) := by
  unfold State.sigrd
  repeat' first
    | with_reducible first
      | assumption | apply State.sigRef_keeps | apply State.illegal_keeps | apply State.nextPc_keeps | apply State.setPair_keeps
      | apply Keeps.ite
    | split | refine KeepsF.ofFault (by assumption) ?_

theorem execSigrd_keeps {z : State} {b : Nat} {rd : BitVec 5} {ra : BitVec 5} {hd : BitVec 10} {s : State} (hs : Keeps z s) :
    KeepsO z (execSigrd b rd ra hd s) := by
  unfold execSigrd
  repeat' with_reducible first | assumption | intro _ | apply State.sigrd_keeps | apply State.instr_keeps | apply KeepsO.next

theorem State.sigaddI_keeps {z s : State} {b : Nat} {rd : BitVec 5} {ra : BitVec 5} {hd : BitVec 10} (hs : Keeps z
    s) : Keeps z (State.sigaddI s b rd ra hd) := by
  unfold State.sigaddI
  repeat' first
    | with_reducible first
      | assumption | apply State.sigRef_keeps | apply State.wordFault_keeps | apply State.cmpUncorr_keeps
      | apply State.nextPc_keeps | apply State.sigAdd_keeps
    | split | refine KeepsF.ofFault (by assumption) ?_ | refine KeepsS.ofAdded (by assumption) ?_
    | refine KeepsS.ofOverflow (by assumption) ?_

theorem execSigadd_keeps {z : State} {b : Nat} {rd : BitVec 5} {ra : BitVec 5} {hd : BitVec 10} {s : State} (hs : Keeps z s) :
    KeepsO z (execSigadd b rd ra hd s) := by
  unfold execSigadd
  repeat' with_reducible first | assumption | intro _ | apply State.sigaddI_keeps | apply State.instr_keeps | apply KeepsO.next

theorem State.sigwait_keeps {z s : State} {b : Nat} {rd : BitVec 5} {ra : BitVec 5} {hd : BitVec 10} (hs : Keeps z
    s) : Keeps z (State.sigwait s b rd ra hd) := by
  unfold State.sigwait
  repeat' first
    | with_reducible first
      | assumption | apply State.syncWaiter_keeps | apply State.sigRef_keeps | apply State.unveilSig_keeps
      | apply State.illegal_keeps | apply State.waitDone_keeps | apply State.wait_keeps | apply State.nextPc_keeps
      | apply Keeps.ite
    | split | refine KeepsF.ofFault (by assumption) ?_

theorem execSigwait_keeps {z : State} {b : Nat} {rd : BitVec 5} {ra : BitVec 5} {hd : BitVec 10} {s : State} (hs : Keeps z s)
    : KeepsO z (execSigwait b rd ra hd s) := by
  unfold execSigwait
  repeat' with_reducible first | assumption | intro _ | apply State.sigwait_keeps | apply State.instr_keeps | apply KeepsO.next

theorem State.sigmon_keeps {z s : State} {b : Nat} {rd : BitVec 5} {ra : BitVec 5} {slot : BitVec 3} {hd : BitVec
    10} (hs : Keeps z s) : Keeps z (State.sigmon s b rd ra slot hd) := by
  unfold State.sigmon
  dsimp only
  repeat' first
    | with_reducible first
      | assumption | apply State.syncWaiter_keeps | apply State.sigRef_keeps | apply State.illegal_keeps
      | apply State.nextPc_keeps | apply State.showMons_keeps | apply State.setComp_keeps | apply Keeps.ite
    | split | refine KeepsF.ofFault (by assumption) ?_

theorem execSigmon_keeps {z : State} {b : Nat} {rd : BitVec 5} {ra : BitVec 5} {slot : BitVec 3} {hd : BitVec 10} {s : State}
    (hs : Keeps z s) : KeepsO z (execSigmon b rd ra slot hd s) := by
  unfold execSigmon
  repeat' with_reducible first | assumption | intro _ | apply State.sigmon_keeps | apply State.instr_keeps | apply KeepsO.next

theorem State.refreshMons_keeps {z s : State} {b : Nat} (hs : Keeps z s) : Keeps z (State.refreshMons s b) := by
  unfold State.refreshMons
  dsimp only
  repeat' with_reducible first | assumption | apply State.showMons_keeps | apply State.setComp_keeps

theorem State.mwait_keeps {z s : State} {b : Nat} {mask : BitVec 8} (hs : Keeps z s) : Keeps z (State.mwait s b
    mask) := by
  unfold State.mwait
  dsimp only
  repeat' with_reducible first
    | assumption | intro _ | apply State.refreshMons_keeps | apply State.syncWaiter_keeps | apply State.unveilSig_keeps
    | apply State.waitDone_keeps | apply State.wait_keeps | apply State.nextPc_keeps | apply State.showMons_keeps
    | apply State.setComp_keeps | apply Keeps.ite | apply Keeps.foldl

theorem execMwait_keeps {z : State} {b : Nat} {mask : BitVec 8} {s : State} (hs : Keeps z s) : KeepsO z (execMwait b mask s)
    := by
  unfold execMwait
  repeat' with_reducible first | assumption | intro _ | apply State.mwait_keeps | apply State.instr_keeps | apply KeepsO.next

theorem State.bcnt_keeps {z s : State} {b : Nat} {rd : BitVec 5} {ra : BitVec 5} {hd : BitVec 10} (hs : Keeps z s) :
    Keeps z (State.bcnt s b rd ra hd) := by
  unfold State.bcnt
  dsimp only
  repeat' first
    | with_reducible first
      | assumption | apply State.handleFault_keeps | apply State.cmpUncorr_keeps | apply State.illegal_keeps
      | apply State.nextPc_keeps | apply State.setG_keeps | apply Keeps.ite
    | split

theorem execBcnt_keeps {z : State} {b : Nat} {rd : BitVec 5} {ra : BitVec 5} {hd : BitVec 10} {s : State} (hs : Keeps z s) :
    KeepsO z (execBcnt b rd ra hd s) := by
  unfold execBcnt
  repeat' with_reducible first | assumption | intro _ | apply State.bcnt_keeps | apply State.instr_keeps | apply KeepsO.next

theorem execFeatq_keeps {z : State} {b : Nat} {rd : BitVec 5} {sel : BitVec 4} {s : State} (hs : Keeps z s) : KeepsO z
    (execFeatq b rd sel s) := by
  unfold execFeatq
  repeat' with_reducible first | assumption | intro _ | apply State.instr_keeps | apply State.result_keeps | apply KeepsO.next

theorem State.csrr_keeps {z s : State} {b : Nat} {rd : BitVec 5} {sel : BitVec 5} (hs : Keeps z s) : Keeps z
    (State.csrr s b rd sel) := by
  unfold State.csrr
  dsimp only
  repeat' first
    | with_reducible first
      | assumption | apply State.result_keeps | apply State.illegal_keeps | apply State.setComp_keeps | apply Keeps.ite
    | split

theorem execCsrr_keeps {z : State} {b : Nat} {rd : BitVec 5} {sel : BitVec 5} {s : State} (hs : Keeps z s) : KeepsO z
    (execCsrr b rd sel s) := by
  unfold execCsrr
  repeat' with_reducible first | assumption | intro _ | apply State.csrr_keeps | apply State.instr_keeps | apply KeepsO.next

theorem State.redo_keeps {z s : State} {b : Nat} {w : Wait} (hs : Keeps z s) : Keeps z (State.redo s b w) := by
  unfold State.redo
  repeat' first
    | with_reducible first
      | assumption | apply State.mwait_keeps | apply State.sigwait_keeps | apply State.endProgram_keeps
      | apply State.swait_keeps | apply State.strm_keeps | apply State.storeLocal_keeps
    | split

theorem State.stationWork_keeps {z : State} {b : Nat} {i : Nat} {form : Nat} {s : State} {x : Stream} (hs : Keeps z s) :
    KeepsR z (State.stationWork b i form s x) := by
  unfold State.stationWork
  repeat' first
    | with_reducible first
      | assumption | apply State.temperWork_keeps | apply State.proofWork_keeps | apply State.platenWork_keeps
      | apply State.galleyWork_keeps | apply State.topkWork_keeps | apply State.selectWork_keeps | apply State.formeWork_keeps
      | apply State.quenchWork_keeps | apply State.anvilWork_keeps | apply KeepsR.ite
    | split

theorem State.resumeStation_keeps {z s : State} {b : Nat} {i : Nat} (hs : Keeps z s) : Keeps z (State.resumeStation
    s b i) := by
  unfold State.resumeStation
  repeat' first
    | with_reducible first
      | assumption | apply State.stnGo_keeps | apply Keeps.ite
    | split

theorem execWaitEnds_keeps {z : State} {who : Waiter} {s : State} (hs : Keeps z s) : KeepsO z (execWaitEnds who s) := by
  unfold execWaitEnds
  repeat' first
    | with_reducible first
      | assumption | apply State.resumeStation_keeps | apply State.redo_keeps | apply KeepsO.next | apply Keeps.ite
    | split

theorem execScale_keeps {z : State} {b : Nat} {i : Nat} {c : Check} {s : State} (hs : Keeps z s) : KeepsO z (execScale b i c
    s) := by
  unfold execScale
  repeat' with_reducible first
    | assumption | intro _ | apply State.anvilWork_keeps | apply State.formStep_keeps | apply KeepsO.next

theorem execSum_keeps {z : State} {b : Nat} {i : Nat} {c : Check} {s : State} (hs : Keeps z s) : KeepsO z (execSum b i c s) :=
    by
  unfold execSum
  repeat' with_reducible first
    | assumption | intro _ | apply State.anvilWork_keeps | apply State.formStep_keeps | apply KeepsO.next

theorem execSumsp_keeps {z : State} {b : Nat} {i : Nat} {c : Check} {s : State} (hs : Keeps z s) : KeepsO z (execSumsp b i c
    s) := by
  unfold execSumsp
  repeat' with_reducible first
    | assumption | intro _ | apply State.anvilWork_keeps | apply State.formStep_keeps | apply KeepsO.next

theorem execNorm_keeps {z : State} {b : Nat} {i : Nat} {c : Check} {s : State} (hs : Keeps z s) : KeepsO z (execNorm b i c s)
    := by
  unfold execNorm
  repeat' with_reducible first
    | assumption | intro _ | apply State.anvilWork_keeps | apply State.formStep_keeps | apply KeepsO.next

theorem execRowsum_keeps {z : State} {b : Nat} {i : Nat} {c : Check} {s : State} (hs : Keeps z s) : KeepsO z (execRowsum b i c
    s) := by
  unfold execRowsum
  repeat' with_reducible first
    | assumption | intro _ | apply State.anvilWork_keeps | apply State.formStep_keeps | apply KeepsO.next

theorem execColsum_keeps {z : State} {b : Nat} {i : Nat} {c : Check} {s : State} (hs : Keeps z s) : KeepsO z (execColsum b i c
    s) := by
  unfold execColsum
  repeat' with_reducible first
    | assumption | intro _ | apply State.anvilWork_keeps | apply State.formStep_keeps | apply KeepsO.next

theorem execMax_keeps {z : State} {b : Nat} {i : Nat} {c : Check} {s : State} (hs : Keeps z s) : KeepsO z (execMax b i c s) :=
    by
  unfold execMax
  repeat' with_reducible first
    | assumption | intro _ | apply State.anvilWork_keeps | apply State.formStep_keeps | apply KeepsO.next

theorem execMin_keeps {z : State} {b : Nat} {i : Nat} {c : Check} {s : State} (hs : Keeps z s) : KeepsO z (execMin b i c s) :=
    by
  unfold execMin
  repeat' with_reducible first
    | assumption | intro _ | apply State.anvilWork_keeps | apply State.formStep_keeps | apply KeepsO.next

theorem execUpdate_keeps {z : State} {b : Nat} {c : Check} {s : State} (hs : Keeps z s) : KeepsO z (execUpdate b c s) := by
  unfold execUpdate
  repeat' with_reducible first
    | assumption | intro _ | apply State.temperWork_keeps | apply State.formStep_keeps | apply KeepsO.next

theorem execReplay_keeps {z : State} {b : Nat} {c : Check} {s : State} (hs : Keeps z s) : KeepsO z (execReplay b c s) := by
  unfold execReplay
  repeat' with_reducible first
    | assumption | intro _ | apply State.temperWork_keeps | apply State.formStep_keeps | apply KeepsO.next

theorem execConvert_keeps {z : State} {b : Nat} {i : Nat} {c : Check} {s : State} (hs : Keeps z s) : KeepsO z (execConvert b i
    c s) := by
  unfold execConvert
  repeat' with_reducible first
    | assumption | intro _ | apply State.quenchWork_keeps | apply State.formStep_keeps | apply KeepsO.next

theorem execFinish_keeps {z : State} {b : Nat} {i : Nat} {c : Check} {s : State} (hs : Keeps z s) : KeepsO z (execFinish b i c
    s) := by
  unfold execFinish
  repeat' with_reducible first
    | assumption | intro _ | apply State.quenchWork_keeps | apply State.formStep_keeps | apply KeepsO.next

theorem execZfill_keeps {z : State} {b : Nat} {i : Nat} {c : Check} {s : State} (hs : Keeps z s) : KeepsO z (execZfill b i c
    s) := by
  unfold execZfill
  repeat' with_reducible first
    | assumption | intro _ | apply State.quenchWork_keeps | apply State.formStep_keeps | apply KeepsO.next

theorem execGather_keeps {z : State} {b : Nat} {c : Check} {s : State} (hs : Keeps z s) : KeepsO z (execGather b c s) := by
  unfold execGather
  repeat' with_reducible first
    | assumption | intro _ | apply State.formeWork_keeps | apply State.formStep_keeps | apply KeepsO.next

theorem execScatter_keeps {z : State} {b : Nat} {c : Check} {s : State} (hs : Keeps z s) : KeepsO z (execScatter b c s) := by
  unfold execScatter
  repeat' with_reducible first
    | assumption | intro _ | apply State.formeWork_keeps | apply State.formStep_keeps | apply KeepsO.next

theorem execPermute_keeps {z : State} {b : Nat} {c : Check} {s : State} (hs : Keeps z s) : KeepsO z (execPermute b c s) := by
  unfold execPermute
  repeat' with_reducible first
    | assumption | intro _ | apply State.formeWork_keeps | apply State.formStep_keeps | apply KeepsO.next

theorem execStrided_keeps {z : State} {b : Nat} {c : Check} {s : State} (hs : Keeps z s) : KeepsO z (execStrided b c s) := by
  unfold execStrided
  repeat' with_reducible first
    | assumption | intro _ | apply State.formeWork_keeps | apply State.formStep_keeps | apply KeepsO.next

theorem execSelect_keeps {z : State} {b : Nat} {c : Check} {s : State} (hs : Keeps z s) : KeepsO z (execSelect b c s) := by
  unfold execSelect
  repeat' with_reducible first
    | assumption | intro _ | apply State.selectWork_keeps | apply State.formStep_keeps | apply KeepsO.next

theorem execTopk_keeps {z : State} {b : Nat} {c : Check} {s : State} (hs : Keeps z s) : KeepsO z (execTopk b c s) := by
  unfold execTopk
  repeat' with_reducible first
    | assumption | intro _ | apply State.topkWork_keeps | apply State.formStep_keeps | apply KeepsO.next

theorem execSort_keeps {z : State} {b : Nat} {c : Check} {s : State} (hs : Keeps z s) : KeepsO z (execSort b c s) := by
  unfold execSort
  repeat' with_reducible first
    | assumption | intro _ | apply State.galleyWork_keeps | apply State.formStep_keeps | apply KeepsO.next

theorem execMerge_keeps {z : State} {b : Nat} {c : Check} {s : State} (hs : Keeps z s) : KeepsO z (execMerge b c s) := by
  unfold execMerge
  repeat' with_reducible first
    | assumption | intro _ | apply State.galleyWork_keeps | apply State.formStep_keeps | apply KeepsO.next

theorem execMatvec_keeps {z : State} {b : Nat} {c : Check} {s : State} (hs : Keeps z s) : KeepsO z (execMatvec b c s) := by
  unfold execMatvec
  repeat' with_reducible first
    | assumption | intro _ | apply State.platenWork_keeps | apply State.formStep_keeps | apply KeepsO.next

theorem execOuter_keeps {z : State} {b : Nat} {c : Check} {s : State} (hs : Keeps z s) : KeepsO z (execOuter b c s) := by
  unfold execOuter
  repeat' with_reducible first
    | assumption | intro _ | apply State.platenWork_keeps | apply State.formStep_keeps | apply KeepsO.next

theorem execDigestPkt_keeps {z : State} {b : Nat} {c : Check} {s : State} (hs : Keeps z s) : KeepsO z (execDigestPkt b c s) :=
    by
  unfold execDigestPkt
  repeat' with_reducible first
    | assumption | intro _ | apply State.proofWork_keeps | apply State.formStep_keeps | apply KeepsO.next

theorem execDigestTile_keeps {z : State} {b : Nat} {c : Check} {s : State} (hs : Keeps z s) : KeepsO z (execDigestTile b c s)
    := by
  unfold execDigestTile
  repeat' with_reducible first
    | assumption | intro _ | apply State.proofWork_keeps | apply State.formStep_keeps | apply KeepsO.next

theorem State.endStream_keeps {z s : State} {b : Nat} {i : Nat} {x : Stream} (hs : Keeps z s) : Keeps z
    (State.endStream s b i x) := by
  unfold State.endStream
  dsimp only
  repeat' with_reducible first
    | assumption | apply State.tmpBoundary_keeps | apply State.temperDone_keeps | apply State.finishStream_keeps
    | apply Keeps.ite

theorem execStreamEnd_keeps {z : State} {b : Nat} {i : Nat} {s : State} (hs : Keeps z s) : KeepsO z (execStreamEnd b i s) := by
  unfold execStreamEnd
  repeat' first
    | with_reducible first
      | assumption | apply State.endStream_keeps | apply KeepsO.next | apply Keeps.ite
    | split

theorem State.recompute_keeps {z s : State} {b : Nat} {i : Nat} {x : Stream} (hs : Keeps z s) : Keeps z
    (State.recompute s b i x) := by
  unfold State.recompute
  dsimp only
  repeat' first
    | with_reducible first
      | assumption | apply State.stationWork_keeps | apply State.onStream_keeps | apply State.bump_keeps | apply State.set_keeps
    | split | refine KeepsR.ofStop (by assumption) ?_ | refine KeepsR.ofOk (by assumption) ?_

theorem execTileRecomputation_keeps {z : State} {b : Nat} {i : Nat} {ok : Bool} {s : State} (hs : Keeps z s) : KeepsO z
    (execTileRecomputation b i ok s) := by
  unfold execTileRecomputation
  repeat' first
    | with_reducible first
      | assumption | apply State.recompute_keeps | apply State.checkFail_keeps | apply State.retireStart_keeps
      | apply KeepsO.next | apply Keeps.ite
    | split

theorem State.moveMeas_keeps {z s : State} {b : Nat} {k : Nat} (hs : Keeps z s) : Keeps z (State.moveMeas s b k) := by
  unfold State.moveMeas
  dsimp only
  repeat' first
    | with_reducible first
      | assumption
    | with_reducible apply Keeps.mk'

theorem State.copyRange_keeps {z s : State} {src dst n : Nat} (hs : Keeps z s) : Keeps z (s.copyRange src dst n) := by
  exact Keeps.mkMem hs fun c => Memory.wf_move src dst n c.1

theorem State.copyMem_keeps {z s : State} {b : Nat} {k : Nat} (hs : Keeps z s) : Keeps z (State.copyMem s b k) := by
  unfold State.copyMem
  dsimp only
  repeat' with_reducible first | assumption | apply State.copyRange_keeps

theorem State.copyBench_keeps {z s : State} {b : Nat} {k : Nat} (hs : Keeps z s) : Keeps z (State.copyBench s b k)
    := by
  unfold State.copyBench
  dsimp only
  repeat' first
    | with_reducible first
      | assumption
    | with_reducible apply Keeps.mk'

theorem State.abandonStreams_keeps {z s : State} {b : Nat} {k : Nat} (hs : Keeps z s) : Keeps z
    (State.abandonStreams s b k) := by
  unfold State.abandonStreams
  dsimp only
  repeat' first
    | with_reducible first
      | assumption | intro _ | apply State.latchStream_keeps | apply State.setStream_keeps | apply Keeps.foldl
    | split

theorem State.rebaseDescs_keeps {z s : State} {b : Nat} {k : Nat} (hs : Keeps z s) : Keeps z (State.rebaseDescs s b
    k) := by
  unfold State.rebaseDescs
  repeat' with_reducible first | assumption | intro _ | apply State.storeNat_keeps | apply Keeps.foldl

theorem State.rebase_keeps {z s : State} {b : Nat} {k : Nat} (hs : Keeps z s) : Keeps z (State.rebase s b k) := by
  unfold State.rebase
  dsimp only
  repeat' first
    | with_reducible first
      | assumption | apply State.rebaseDescs_keeps
    | with_reducible apply Keeps.mk'

theorem State.handover_keeps {z s : State} {b : Nat} {k : Nat} (hs : Keeps z s) : Keeps z (State.handover s b k) := by
  unfold State.handover
  dsimp only
  repeat' with_reducible first
    | assumption | apply State.rebase_keeps | apply State.abandonStreams_keeps | apply State.copyBench_keeps
    | apply State.copyMem_keeps | apply State.moveMeas_keeps | apply State.boundaries_keeps | apply State.slowSend_keeps
    | apply State.setAll_keeps | apply Keeps.ite

theorem State.handoverFailed_keeps {z s : State} {b : Nat} {k : Nat} (hs : Keeps z s) : Keeps z
    (State.handoverFailed s b k) := by
  unfold State.handoverFailed
  dsimp only
  repeat' with_reducible first
    | assumption | apply State.loseBench_keeps | apply State.slowSend_keeps | apply State.setAll_keeps

theorem State.waitingRetire_keeps {z s : State} {n : Nat} (hs : Keeps z s) : Keeps z (State.waitingRetire s n) := by
  unfold State.waitingRetire
  repeat' with_reducible first | assumption | intro _ | apply State.loseBench_keeps | apply Keeps.ite | apply Keeps.foldl

end Sys2Proof.Machine
end

