-- ==== Sys2Proof/Laws/KeepsSurvive.lean ====
section
/-! SUPPORT. Every operation keeps the queue and the canonical form: the weight service, resets, survival, commit, abort, delivery and scrubbing. -/

set_option maxRecDepth 4000

namespace Sys2Proof.Machine

open Sys2Proof

/-! ### Weights -/

theorem State.checkLayers_keeps {z s : State} (hs : Keeps z s) : Keeps z (State.checkLayers s) := by
  unfold State.checkLayers
  repeat' first
    | with_reducible first
      | assumption | intro _ | apply State.logE_keeps | apply Keeps.ite | apply Keeps.foldl
    | with_reducible apply Keeps.mk'

theorem State.sendReply_keeps {z s : State} {n : Nat} {q : FetchReq} {writes : List (Nat × List Byte)} {inc : Nat}
    {bench : Nat} (hs : Keeps z s) : Keeps z (State.sendReply s n q writes inc bench) := by
  unfold State.sendReply
  dsimp only
  repeat' first
    | with_reducible first
      | assumption | intro _ | apply State.dmaAcked_keeps | apply State.inject_keeps | apply Keeps.ite | apply Keeps.foldl
    | with_reducible apply Keeps.mk'

theorem State.refuseFetch_keeps {z s : State} {q : FetchReq} {status : Nat} (hs : Keeps z s) : Keeps z
    (State.refuseFetch s q status) := by
  unfold State.refuseFetch
  dsimp only
  repeat' with_reducible first
    | assumption | apply State.sendReply_keeps | apply State.logE_keeps | apply State.setAll_keeps | apply State.bump_keeps

theorem State.ranTokens_keeps {z s : State} {b : Nat} {i : Nat} {nin : Nat} {nout : Nat} (hs : Keeps z s) : Keeps z
    (State.ranTokens s b i nin nout) := by
  unfold State.ranTokens
  repeat' with_reducible first | assumption | apply State.bump_keeps

theorem State.ranStations_keeps {z s : State} {q : FetchReq} {b : Nat} {sh : Share} (hs : Keeps z s) : Keeps z
    (State.ranStations s q b sh) := by
  unfold State.ranStations
  dsimp only
  repeat' with_reducible first
    | assumption | apply State.ranTokens_keeps | apply State.countConv_keeps | apply State.bump_keeps | apply Keeps.ite

theorem State.serveBench_keeps {z s : State} {q : FetchReq} {j : Nat} {b : Nat} {sh : Share} (hs : Keeps z s) :
    Keeps z (State.serveBench s q j b sh) := by
  unfold State.serveBench
  dsimp only
  repeat' first
    | with_reducible first
      | assumption | apply State.ranStations_keeps | apply State.sendReply_keeps | apply State.stnUncorr_keeps
      | apply State.storeNat_keeps
    | split

theorem State.servePooled_keeps {z s : State} {q : FetchReq} {w : Nat} {j : Nat} {b : Nat} (hs : Keeps z s) : Keeps
    z (State.servePooled s q w j b) := by
  unfold State.servePooled
  dsimp only
  repeat' first
    | with_reducible first
      | assumption | intro _ | apply State.sendReply_keeps | apply State.stnUncorr_keeps | apply State.countIn_keeps
      | apply State.countConv_keeps | apply State.storeNat_keeps | apply Keeps.foldl
    | split

theorem State.serveFetch_keeps {z s : State} {q : FetchReq} (hs : Keeps z s) : Keeps z (State.serveFetch s q) := by
  unfold State.serveFetch
  dsimp only
  repeat' first
    | with_reducible first
      | assumption | intro _ | apply State.servePooled_keeps | apply State.serveBench_keeps | apply State.storeNat_keeps
      | apply State.bump_keeps | apply Keeps.ite | apply Keeps.foldl
    | split

theorem State.showWaiting_keeps {z s : State} (hs : Keeps z s) : Keeps z (State.showWaiting s) := by
  unfold State.showWaiting
  repeat' with_reducible first | assumption | apply State.set_keeps

theorem State.decideFetch_keeps {z s : State} {q : FetchReq} (hs : Keeps z s) : Keeps z (State.decideFetch s q) := by
  unfold State.decideFetch
  repeat' first
    | with_reducible first
      | assumption | apply State.showWaiting_keeps | apply State.serveFetch_keeps | apply State.refuseFetch_keeps
      | apply Keeps.ite
    | split | with_reducible apply Keeps.mk'

theorem State.serveHeld_keeps {z s : State} (hs : Keeps z s) : Keeps z (State.serveHeld s) := by
  unfold State.serveHeld
  dsimp only
  repeat' first
    | with_reducible first
      | assumption | intro _ | apply State.decideFetch_keeps | apply State.showWaiting_keeps | apply Keeps.foldl
    | with_reducible apply Keeps.mk'

theorem State.fetchBody_keeps {z s : State} {p : Nat} {pkt : Pkt} (hs : Keeps z s) : Keeps z (State.fetchBody s p
    pkt).1 := by
  unfold State.fetchBody
  dsimp only
  repeat' first
    | with_reducible first
      | assumption | apply State.decideFetch_keeps | apply State.logE_keeps | apply Keeps.ite
    | split | with_reducible apply Keeps.mk'

theorem execFetchWaitEnds_keeps {z : State} {idx : Nat} {s : State} (hs : Keeps z s) : KeepsO z (execFetchWaitEnds idx s) := by
  unfold execFetchWaitEnds
  repeat' first
    | with_reducible first
      | assumption | apply State.decideFetch_keeps | apply State.showWaiting_keeps | apply KeepsO.next | apply Keeps.ite
    | split | with_reducible apply Keeps.mk'

theorem State.refuseWaiting_keeps {z s : State} (hs : Keeps z s) : Keeps z (State.refuseWaiting s) := by
  unfold State.refuseWaiting
  dsimp only
  repeat' first
    | with_reducible first
      | assumption | intro _ | apply State.showWaiting_keeps | apply State.refuseFetch_keeps | apply Keeps.foldl
    | with_reducible apply Keeps.mk'

theorem State.missBody_keeps {z s : State} {p : Nat} {pkt : Pkt} (hs : Keeps z s) : Keeps z (State.missBody s p
    pkt).1 := by
  unfold State.missBody
  dsimp only
  repeat' first
    | with_reducible first
      | assumption | apply State.logE_keeps | apply State.storeNat_keeps | apply State.bump_keeps | apply Keeps.ite
    | split

/-! ### HostOps -/

theorem State.takeFlits_keeps {z s : State} {ch : Nat} {n : Nat} (hs : Keeps z s) : Keeps z (State.takeFlits s ch n)
    := by
  unfold State.takeFlits
  dsimp only
  repeat' first
    | with_reducible first
      | assumption
    | with_reducible apply Keeps.mk'

theorem State.latchArea_keeps {z s : State} {m : Nat} {e : Nat} (hs : Keeps z s) : Keeps z (State.latchArea s m e)
    := by
  unfold State.latchArea
  repeat' with_reducible first | assumption | apply State.storeNat_keeps | apply State.store_keeps

theorem State.complete_keeps {z s : State} {op : Nat} {tag : Nat} {status : Nat} {fault : Nat} {words : List Nat}
    (hs : Keeps z s) : Keeps z (State.complete s op tag status fault words) := by
  unfold State.complete
  dsimp only
  repeat' first
    | with_reducible first
      | assumption | apply State.latchArea_keeps | apply State.reply_keeps | apply State.setAll_keeps
    | with_reducible apply Keeps.mk'

theorem Answer.ok_keeps {z s : State} {words : List Nat} (hs : Keeps z s) : KeepsA z (Answer.ok s words) := by
  unfold Answer.ok
  repeat' with_reducible first | assumption | apply KeepsA.done

theorem Answer.err_keeps {z s : State} {status : Nat} (hs : Keeps z s) : KeepsA z (Answer.err s status) := by
  unfold Answer.err
  repeat' with_reducible first | assumption | apply KeepsA.done

theorem Answer.violation_keeps {z s : State} {op : Nat} {a : Nat} {words : List Nat} (hs : Keeps z s) : KeepsA z
    (Answer.violation s op a words) := by
  unfold Answer.violation
  repeat' with_reducible first | assumption | apply State.violation_keeps | apply KeepsA.done

theorem State.mailboxTake_keeps {z s : State} {m : Nat} (hs : Keeps z s) : Keeps z (State.mailboxTake s m) := by
  unfold State.mailboxTake
  dsimp only
  repeat' with_reducible first | assumption | apply State.latchArea_keeps | apply State.set_keeps | apply Keeps.ite

theorem State.settle_keeps {z : State} {op : Nat} {tag : Nat} {a : Answer} (ha : KeepsA z a) : Keeps z (State.settle op tag a)
    := by
  unfold State.settle
  repeat' first
    | with_reducible first
      | apply State.complete_keeps
    | split | exact KeepsA.ofDone rfl (by assumption) | exact KeepsA.ofLater rfl (by assumption)

theorem State.received_keeps {z s : State} {w : List W64} (hs : Keeps z s) : Keeps z (State.received s w) := by
  unfold State.received
  repeat' with_reducible first | assumption | apply State.takeFlits_keeps | apply State.bump_keeps

theorem State.mailbox_keeps {z s : State} {h : HostHdr} {w : List W64} {op : Nat} {acc : Accepted} {die : Bool}
    {long : Bool} {shape : Bool} {body : State → Answer} (hs : Keeps z s) (hbody : (∀ x00, Keeps z x00 → KeepsA z (body x00)))
    : Keeps z (State.mailbox s h w op acc die long shape body) := by
  unfold State.mailbox
  dsimp only
  repeat' first
    | with_reducible first
      | assumption | apply hbody | apply State.received_keeps | apply State.settle_keeps | apply State.mailboxTake_keeps
      | apply State.complete_keeps | apply State.reply_keeps | apply Keeps.ite
    | split

theorem State.direct_keeps {z s : State} {h : HostHdr} {w : List W64} {op : Nat} {shape : Bool} {body : State →
    State × Nat × List Nat} (hs : Keeps z s) (hbody : (∀ x00, Keeps z x00 → Keeps z (body x00).1)) : Keeps z (State.direct s h
    w op shape body) := by
  unfold State.direct
  dsimp only
  repeat' with_reducible first
    | assumption | apply hbody | apply State.received_keeps | apply State.reply_keeps | apply Keeps.ite

theorem State.longStart_keeps {z s : State} {h : HostHdr} {w : List W64} {op : Nat} {need : Option Nat} {arg : Nat}
    (hs : Keeps z s) : KeepsA z (State.longStart s h w op need arg) := by
  unfold State.longStart
  dsimp only
  repeat' first
    | with_reducible first
      | assumption | apply State.set_keeps | apply KeepsA.later
    | with_reducible apply Keeps.mk'

theorem State.longEnd_keeps {z s : State} {l : LongCmd} {status : Nat} {fault : Nat} {words : List Nat} (hs : Keeps
    z s) : Keeps z (State.longEnd s l status fault words) := by
  unfold State.longEnd
  dsimp only
  repeat' first
    | with_reducible first
      | assumption | apply State.complete_keeps | apply State.set_keeps
    | with_reducible apply Keeps.mk'

theorem State.settleRetires_keeps {z s : State} (hs : Keeps z s) : Keeps z (State.settleRetires s) := by
  unfold State.settleRetires
  repeat' with_reducible first | assumption | intro _ | apply State.longEnd_keeps | apply Keeps.foldl

theorem State.cutEnd_keeps {z s : State} {lost : Bool} (hs : Keeps z s) : Keeps z (State.cutEnd s lost) := by
  unfold State.cutEnd
  dsimp only
  repeat' first
    | with_reducible first
      | assumption | apply State.complete_keeps | apply State.set_keeps | apply Keeps.ite
    | split | with_reducible apply Keeps.mk'

/-! ### Reset -/

theorem State.dropWaits_keeps {z s : State} {b : Nat} (hs : Keeps z s) : Keeps z (State.dropWaits s b) := by
  unfold State.dropWaits
  dsimp only
  repeat' first
    | with_reducible first
      | assumption | intro _ | apply State.sigWaiter_keeps | apply Keeps.ite | apply Keeps.foldl
    | split

theorem State.benchReset_keeps {z s : State} {b : Nat} (hs : Keeps z s) : Keeps z (State.benchReset s b) := by
  unfold State.benchReset
  dsimp only
  repeat' first
    | with_reducible first
      | assumption | apply State.dropWaits_keeps | apply State.setAll_keeps
    | with_reducible apply Keeps.mkFilter

theorem State.takeSnapshot_keeps {z s : State} {b : Nat} (hs : Keeps z s) : Keeps z (s.takeSnapshot b) := by
  unfold State.takeSnapshot
  have h := State.store_keeps (a := snapBase b + 0x20000) (bs := s.queueTable b)
    (State.copyRange_keeps (src := benchBase b + 0x30000) (dst := snapBase b) (n := 0x20000) hs)
  refine ⟨h.queue, fun c => ⟨(h.canon c).1, fun e he => ?_⟩⟩
  rcases Tab.mem_put he with rfl | he
  · rfl
  · exact (hs.canon c).2 e he

theorem State.restoreStart_keeps {z s : State} {b : Nat} (hs : Keeps z s) : Keeps z (State.restoreStart s b) := by
  unfold State.restoreStart
  dsimp only
  repeat' first
    | with_reducible first
      | assumption | intro _ | apply State.copyRange_keeps | apply State.setQueueWord_keeps | apply State.set_keeps
      | apply Keeps.foldl
    | split

theorem State.runBench_keeps {z s : State} {b : Nat} (hs : Keeps z s) : Keeps z (State.runBench s b) := by
  unfold State.runBench
  repeat' with_reducible first | assumption | apply State.setAll_keeps

theorem State.reviveBench_keeps {z s : State} {b : Nat} (hs : Keeps z s) : Keeps z (State.reviveBench s b) := by
  unfold State.reviveBench
  dsimp only
  repeat' with_reducible first
    | assumption | apply State.runBench_keeps | apply State.restoreStart_keeps | apply State.benchReset_keeps
    | apply State.set_keeps | apply Keeps.ite

/-! ### Survive -/

theorem State.sendState_keeps {z s : State} {dst : Nat} {k : Bucket} (hs : Keeps z s) : Keeps z (State.sendState s
    dst k) := by
  unfold State.sendState
  repeat' with_reducible first | assumption | intro _ | apply State.sendBulk_keeps | apply Keeps.foldl

theorem State.refillEnds_keeps {z s : State} (hs : Keeps z s) : Keeps z (State.refillEnds s) := by
  unfold State.refillEnds
  dsimp only
  repeat' with_reducible first | assumption | apply State.setLinkMode_keeps | apply State.set_keeps | apply Keeps.ite

theorem State.abandonPiece_keeps {z s : State} {e : Nat × Nat} (hs : Keeps z s) : Keeps z (State.abandonPiece s e)
    := by
  unfold State.abandonPiece
  dsimp only
  repeat' first
    | with_reducible first
      | assumption | apply State.sendFill_keeps | apply State.setPiece_keeps | apply State.alert_keeps | apply State.set_keeps
      | apply Keeps.ite
    | with_reducible apply Keeps.mk'

theorem State.abandonPieces_keeps {z s : State} {p : FillState → Bool} (hs : Keeps z s) : Keeps z
    (State.abandonPieces s p) := by
  unfold State.abandonPieces
  repeat' with_reducible first | assumption | intro _ | apply State.abandonPiece_keeps | apply Keeps.foldl

theorem State.refillSweep_keeps {z s : State} (hs : Keeps z s) : Keeps z (State.refillSweep s) := by
  unfold State.refillSweep
  dsimp only
  repeat' first
    | with_reducible first
      | assumption | apply State.sendState_keeps | apply State.feed_keeps | apply State.sendFill_keeps
      | apply State.setPiece_keeps | apply State.setLinkMode_keeps | apply Keeps.ite
    | split | with_reducible apply Keeps.mk'

theorem execRefillSweeper_keeps {z s : State} (hs : Keeps z s) : KeepsO z (execRefillSweeper s) := by
  unfold execRefillSweeper
  repeat' with_reducible first | assumption | apply State.refillSweep_keeps | apply KeepsO.next | apply Keeps.ite

theorem State.digestBad_keeps {z s : State} {step : Nat} {details : List (Nat × Nat)} (hs : Keeps z s) : Keeps z
    (State.digestBad s step details) := by
  unfold State.digestBad
  repeat' with_reducible first | assumption | apply State.logE_keeps | apply State.setAll_keeps

theorem State.fillDigest_keeps {z s : State} {src : Nat} {bucket : Nat} {digest : Nat} (hs : Keeps z s) : Keeps z
    (State.fillDigest s src bucket digest) := by
  unfold State.fillDigest
  dsimp only
  repeat' first
    | with_reducible first
      | assumption | apply State.digestBad_keeps | apply State.abandonPiece_keeps | apply State.refillEnds_keeps
      | apply State.sendFill_keeps | apply State.setPiece_keeps | apply Keeps.ite
    | split | with_reducible apply Keeps.mk'

theorem State.fillIn_keeps {z s : State} {src : Nat} {phase : Nat} {bucket : Nat} {step : Nat} {digest : Nat} (hs :
    Keeps z s) : Keeps z (State.fillIn s src phase bucket step digest) := by
  unfold State.fillIn
  dsimp only
  repeat' first
    | with_reducible first
      | assumption | apply State.fillDigest_keeps | apply State.setPiece_keeps | apply State.setBk_keeps
    | split | with_reducible apply Keeps.mk'

theorem State.fillBody_keeps {z s : State} {pkt : Pkt} (hs : Keeps z s) : Keeps z (State.fillBody s pkt).1 := by
  unfold State.fillBody
  dsimp only
  repeat' first
    | with_reducible first
      | assumption | intro _ | apply State.fillIn_keeps | apply State.mgmtBody_keeps | apply State.bump_keeps
    | split

theorem State.fillBytes_keeps {z s : State} {a : Nat} {n : Nat} (hs : Keeps z s) : Keeps z (State.fillBytes s a n)
    := by
  unfold State.fillBytes
  dsimp only
  repeat' first
    | with_reducible first
      | assumption | apply State.sendFill_keeps | apply Keeps.ite
    | split | with_reducible apply Keeps.mk'

theorem execHeartbeatSend_keeps {z s : State} (hs : Keeps z s) : KeepsO z (execHeartbeatSend s) := by
  unfold execHeartbeatSend
  repeat' with_reducible first
    | assumption | intro _ | apply State.sendMsg_keeps | apply KeepsO.next | apply Keeps.ite | apply Keeps.foldl

theorem execHbMiss_keeps {z : State} {peer : Nat} {s : State} (hs : Keeps z s) : KeepsO z (execHbMiss peer s) := by
  unfold execHbMiss
  repeat' with_reducible first
    | assumption | apply State.logE_keeps | apply State.alert_keeps | apply State.set_keeps | apply KeepsO.next
    | apply Keeps.ite

theorem State.showImpEff_keeps {z s : State} (hs : Keeps z s) : Keeps z (State.showImpEff s) := by
  unfold State.showImpEff
  dsimp only
  repeat' with_reducible first | assumption | apply State.set_keeps

theorem State.pairMap_keeps {z s : State} {peer : Nat} (hs : Keeps z s) : Keeps z (State.pairMap s peer) := by
  unfold State.pairMap
  dsimp only
  repeat' with_reducible first | assumption | apply State.showPieces_keeps | apply State.store_keeps | apply State.set_keeps

theorem State.pairReply_keeps {z s : State} {status : Nat} (hs : Keeps z s) : Keeps z (State.pairReply s status) := by
  unfold State.pairReply
  repeat' first
    | with_reducible first
      | assumption | apply State.complete_keeps
    | split | with_reducible apply Keeps.mk'

theorem State.pairUp_keeps {z s : State} {peer : Nat} {override : Bool} {w : Nat} (hs : Keeps z s) : Keeps z
    (State.pairUp s peer override w) := by
  unfold State.pairUp
  dsimp only
  repeat' first
    | with_reducible first
      | assumption | apply State.pairReply_keeps | apply State.pairMap_keeps | apply State.showImpEff_keeps
      | apply State.setAll_keeps | apply State.set_keeps | apply Keeps.ite
    | with_reducible apply Keeps.mk'

theorem State.pairBody_keeps {z s : State} {pkt : Pkt} (hs : Keeps z s) : Keeps z (State.pairBody s pkt).1 := by
  unfold State.pairBody
  dsimp only
  repeat' first
    | with_reducible first
      | assumption | intro _ | apply State.pairUp_keeps | apply State.mgmtBody_keeps | apply Keeps.ite
    | split | with_reducible apply Keeps.mk'

theorem execPairTimeout_keeps {z s : State} (hs : Keeps z s) : KeepsO z (execPairTimeout s) := by
  unfold execPairTimeout
  repeat' with_reducible first | assumption | apply State.pairReply_keeps | apply KeepsO.next | apply Keeps.ite

theorem State.pairBegin_keeps {z s : State} {h : HostHdr} {peer : Nat} {override : Bool} (hs : Keeps z s) : Keeps z
    (State.pairBegin s h peer override) := by
  unfold State.pairBegin
  dsimp only
  repeat' first
    | with_reducible first
      | assumption | apply State.pairUp_keeps | apply State.sendMsg_keeps | apply State.set_keeps | apply Keeps.ite
    | split | with_reducible apply Keeps.mk'

theorem execStraggleUs_keeps {z : State} {bucket : Nat} {missing : List Nat} {s : State} (hs : Keeps z s) : KeepsO z
    (execStraggleUs bucket missing s) := by
  unfold execStraggleUs
  repeat' with_reducible first
    | assumption | intro _ | apply State.logE_keeps | apply State.alert_keeps | apply State.set_keeps | apply KeepsO.next
    | apply Keeps.ite | apply Keeps.foldl

/-! ### Flash -/

theorem State.impressStart_keeps {z s : State} {step : Nat} (hs : Keeps z s) : Keeps z (State.impressStart s step)
    := by
  unfold State.impressStart
  dsimp only
  repeat' first
    | with_reducible first
      | assumption | apply State.bump_keeps | apply State.set_keeps | apply Keeps.ite
    | with_reducible apply Keeps.mk'

theorem State.sendDigests_keeps {z s : State} {w : ImpWrite} (hs : Keeps z s) : Keeps z (State.sendDigests s w) := by
  unfold State.sendDigests
  dsimp only
  repeat' first
    | with_reducible first
      | assumption | intro _ | apply State.sendReplicaDigest_keeps | apply Keeps.foldl
    | with_reducible apply Keeps.mk'

theorem execSweeper_keeps {z s : State} (hs : Keeps z s) : KeepsO z (execSweeper s) := by
  unfold execSweeper
  repeat' first
    | with_reducible first
      | assumption | apply State.sendDigests_keeps | apply State.claim_keeps | apply KeepsO.next | apply Keeps.ite
    | split

theorem State.replicaMismatch_keeps {z s : State} {step : Nat} {bucket : Nat} (hs : Keeps z s) : Keeps z
    (State.replicaMismatch s step bucket) := by
  unfold State.replicaMismatch
  repeat' with_reducible first | assumption | apply State.digestBad_keeps | apply State.alert_keeps

theorem State.compareNow_keeps {z s : State} {w : ImpWrite} {bucket : Nat} {digest : Nat} (hs : Keeps z s) : Keeps z
    (State.compareNow s w bucket digest) := by
  unfold State.compareNow
  dsimp only
  repeat' first
    | with_reducible first
      | assumption | apply State.replicaMismatch_keeps | apply Keeps.ite
    | with_reducible apply Keeps.mk'

theorem State.compareStored_keeps {z s : State} {step : Nat} {bucket : Nat} {digest : Nat} (hs : Keeps z s) : Keeps
    z (State.compareStored s step bucket digest) := by
  unfold State.compareStored
  dsimp only
  repeat' first
    | with_reducible first
      | assumption | apply State.replicaMismatch_keeps | apply Keeps.ite
    | with_reducible apply Keeps.mk'

theorem State.replicaDigest_keeps {z s : State} {bucket : Nat} {step : Nat} {digest : Nat} (hs : Keeps z s) : Keeps
    z (State.replicaDigest s bucket step digest) := by
  unfold State.replicaDigest
  repeat' first
    | with_reducible first
      | assumption | apply State.compareStored_keeps | apply State.compareNow_keeps | apply Keeps.ite
    | split | with_reducible apply Keeps.mk'

theorem State.replicaBody_keeps {z s : State} {pkt : Pkt} (hs : Keeps z s) : Keeps z (State.replicaBody s pkt).1 := by
  unfold State.replicaBody
  dsimp only
  repeat' with_reducible first | assumption | intro _ | apply State.replicaDigest_keeps | apply State.mgmtBody_keeps

theorem State.impressEnd_keeps {z s : State} {w : ImpWrite} (hs : Keeps z s) : Keeps z (State.impressEnd s w) := by
  unfold State.impressEnd
  dsimp only
  repeat' first
    | with_reducible first
      | assumption | apply State.setAll_keeps | apply State.bump_keeps | apply Keeps.ite
    | with_reducible apply Keeps.mk'

theorem State.compareEarly_keeps {z s : State} {y1 : List (Nat × Nat)} (hs : Keeps z s) : Keeps z
    (State.compareEarly s y1) := by
  induction y1 generalizing s with
  | nil =>
    unfold State.compareEarly
    assumption
  | cons y l ih =>
    unfold State.compareEarly
    repeat' first
      | with_reducible first
        | assumption | apply ih | apply State.compareNow_keeps
      | split

theorem State.commitRecord_keeps {z s : State} {w : ImpWrite} (hs : Keeps z s) : Keeps z (State.commitRecord s w) :=
    by
  unfold State.commitRecord
  dsimp only
  repeat' first
    | with_reducible first
      | assumption | apply State.compareEarly_keeps | apply State.impressEnd_keeps | apply State.set_keeps | apply Keeps.ite
    | split

theorem execCommitRecord_keeps {z s : State} (hs : Keeps z s) : KeepsO z (execCommitRecord s) := by
  unfold execCommitRecord
  repeat' first
    | with_reducible first
      | assumption | apply State.commitRecord_keeps | apply KeepsO.next | apply Keeps.ite
    | split

theorem execFlashProgramFailure_keeps {z : State} {block : Nat} {s : State} (hs : Keeps z s) : KeepsO z
    (execFlashProgramFailure block s) := by
  unfold execFlashProgramFailure
  dsimp only
  repeat' first
    | with_reducible first
      | assumption | apply State.bump_keeps | apply State.set_keeps | apply KeepsO.next | apply Keeps.ite
    | with_reducible apply Keeps.mk'

/-! ### Commit -/

theorem State.underflow_keeps {z s : State} {e : Nat} {v : Nat} {target : Nat} (hs : Keeps z s) : Keeps z
    (State.underflow s e v target) := by
  unfold State.underflow
  dsimp only
  repeat' with_reducible first | assumption | apply State.countFault_keeps | apply State.sigFault_keeps | apply State.logE_keeps

theorem State.wordError_keeps {z s : State} {a : Nat} (hs : Keeps z s) : Keeps z (State.wordError s a) := by
  unfold State.wordError
  repeat' with_reducible first | assumption | apply State.stoneUncorr_keeps | apply State.logE_keeps | apply Keeps.ite

theorem State.checkWord_keeps {z s : State} {e : Nat} (hs : Keeps z s) : Keeps z (State.checkWord s e) := by
  unfold State.checkWord
  dsimp only
  repeat' first
    | with_reducible first
      | assumption | apply State.wordError_keeps | apply State.underflow_keeps | apply Keeps.ite
    | split

theorem State.freeResults_keeps {z s : State} (hs : Keeps z s) : Keeps z (State.freeResults s) := by
  unfold State.freeResults
  dsimp only
  repeat' with_reducible first | assumption | intro _ | apply State.storeNat_keeps | apply Keeps.foldl

theorem State.cursorsOn_keeps {z s : State} (hs : Keeps z s) : Keeps z (State.cursorsOn s) := by
  unfold State.cursorsOn
  dsimp only
  repeat' first
    | with_reducible first
      | assumption
    | with_reducible apply Keeps.mk'

theorem State.shiftNorm_keeps {z s : State} (hs : Keeps z s) : Keeps z (State.shiftNorm s) := by
  unfold State.shiftNorm
  dsimp only
  repeat' first
    | with_reducible first
      | assumption | apply State.setAll_keeps | apply State.bump_keeps | apply Keeps.ite
    | split | with_reducible apply Keeps.mk'

theorem State.commitStep_keeps {z s : State} (hs : Keeps z s) : Keeps z (State.commitStep s) := by
  unfold State.commitStep
  dsimp only
  repeat' first
    | with_reducible first
      | assumption | intro _ | apply State.shiftNorm_keeps | apply State.cursorsOn_keeps | apply State.freeResults_keeps
      | apply State.impressStart_keeps | apply State.abandonPieces_keeps | apply State.writeConstants_keeps
      | apply State.signal_keeps | apply State.bump_keeps | apply State.set_keeps | apply Keeps.foldl
    | with_reducible apply Keeps.mk'

theorem State.commitFails_keeps {z s : State} {v : Nat} (hs : Keeps z s) : Keeps z (State.commitFails s v) := by
  unfold State.commitFails
  repeat' first
    | with_reducible first
      | assumption | apply State.logE_keeps | apply State.set_keeps
    | with_reducible apply Keeps.mk'

theorem State.applyResult_keeps {z s : State} {i : Nat} {v : Nat} (hs : Keeps z s) : Keeps z (State.applyResult s i
    v) := by
  unfold State.applyResult
  dsimp only
  repeat' first
    | with_reducible first
      | assumption | apply State.commitFails_keeps | apply State.commitStep_keeps | apply Keeps.ite
    | with_reducible apply Keeps.mk'

theorem State.sendCommit_keeps {z s : State} {i : Nat} {dst : Nat} {v : Nat} (hs : Keeps z s) : Keeps z
    (State.sendCommit s i dst v) := by
  unfold State.sendCommit
  repeat' with_reducible first | assumption | apply State.send_keeps

theorem State.rootDecides_keeps {z s : State} {i : Nat} {v : Nat} (hs : Keeps z s) : Keeps z (State.rootDecides s i
    v) := by
  unfold State.rootDecides
  dsimp only
  repeat' with_reducible first | assumption | apply State.applyResult_keeps | apply State.multicast_keeps | apply Keeps.ite

theorem State.forwardVotes_keeps {z s : State} {i : Nat} (hs : Keeps z s) : Keeps z (State.forwardVotes s i) := by
  unfold State.forwardVotes
  dsimp only
  repeat' first
    | with_reducible first
      | assumption | apply State.rootDecides_keeps | apply State.sendCommit_keeps | apply Keeps.ite
    | split

theorem State.castVote_keeps {z s : State} {i : Nat} {v : Nat} (hs : Keeps z s) : Keeps z (State.castVote s i v) := by
  unfold State.castVote
  dsimp only
  repeat' first
    | with_reducible first
      | assumption | apply State.forwardVotes_keeps
    | with_reducible apply Keeps.mk'

theorem State.compareDigests_keeps {z s : State} (hs : Keeps z s) : Keeps z (State.compareDigests s) := by
  unfold State.compareDigests
  dsimp only
  repeat' with_reducible first | assumption | apply State.digestBad_keeps | apply State.alert_keeps | apply Keeps.ite

theorem State.voteCommit_keeps {z s : State} {i : Nat} (hs : Keeps z s) : Keeps z (State.voteCommit s i) := by
  unfold State.voteCommit
  dsimp only
  repeat' with_reducible first
    | assumption | intro _ | apply State.compareDigests_keeps | apply State.castVote_keeps | apply State.checkWord_keeps
    | apply State.setAll_keeps | apply Keeps.foldl

theorem State.voteNext_keeps {z s : State} (hs : Keeps z s) : Keeps z (State.voteNext s) := by
  unfold State.voteNext
  repeat' first
    | with_reducible first
      | assumption | apply State.voteCommit_keeps | apply State.castVote_keeps | apply Keeps.ite
    | split

theorem State.voteIn_keeps {z s : State} {src : Nat} {o : Nat} {v : Nat} (hs : Keeps z s) : Keeps z (State.voteIn s
    src o v) := by
  unfold State.voteIn
  dsimp only
  repeat' first
    | with_reducible first
      | assumption | apply State.forwardVotes_keeps | apply State.bump_keeps | apply Keeps.ite
    | with_reducible apply Keeps.mk'

theorem State.resultIn_keeps {z s : State} {i : Nat} {v : Nat} (hs : Keeps z s) : Keeps z (State.resultIn s i v) := by
  unfold State.resultIn
  repeat' with_reducible first | assumption | apply State.applyResult_keeps | apply State.bump_keeps | apply Keeps.ite

theorem State.commitBody_keeps {z s : State} {p : Nat} {pkt : Pkt} (hs : Keeps z s) : Keeps z (State.commitBody s p
    pkt).1 := by
  unfold State.commitBody
  dsimp only
  repeat' first
    | with_reducible first
      | assumption | apply State.resultIn_keeps | apply State.voteIn_keeps | apply State.logE_keeps
    | split

theorem execCommitTimeout_keeps {z s : State} (hs : Keeps z s) : KeepsO z (execCommitTimeout s) := by
  unfold execCommitTimeout
  repeat' with_reducible first
    | assumption | apply State.timeout_keeps | apply State.alert_keeps | apply KeepsO.next | apply Keeps.ite

theorem State.normKnown_keeps {z s : State} {n : Nat} (hs : Keeps z s) : Keeps z (State.normKnown s n) := by
  unfold State.normKnown
  dsimp only
  repeat' first
    | with_reducible first
      | assumption | intro _ | apply State.storeNat_keeps | apply State.bump_keeps | apply State.set_keeps | apply Keeps.ite
      | apply Keeps.foldl
    | with_reducible apply Keeps.mk'

theorem execClipFactorWrite_keeps {z : State} {norm : W32} {s : State} (hs : Keeps z s) : KeepsO z (execClipFactorWrite norm
    s) := by
  unfold execClipFactorWrite
  repeat' with_reducible first | assumption | apply State.normKnown_keeps | apply KeepsO.next | apply Keeps.ite

/-! ### Abort -/

theorem State.runTile_keeps {z s : State} {replay : Bool} {step : Nat} {k : Bucket} {g : Segment} {j : Nat} (hs :
    Keeps z s) : Keeps z (State.runTile s replay step k g j) := by
  unfold State.runTile
  dsimp only
  repeat' first
    | with_reducible first
      | assumption | apply State.tileWork_keeps
    | split | refine KeepsR.ofStop (by assumption) ?_ | refine KeepsR.ofOk (by assumption) ?_

theorem State.runTiles_keeps {z s : State} {replay : Bool} {step : Nat} {k : Bucket} (hs : Keeps z s) : Keeps z
    (State.runTiles s replay step k) := by
  unfold State.runTiles
  dsimp only
  repeat' with_reducible first | assumption | intro _ | apply State.runTile_keeps | apply Keeps.foldl

theorem State.finishForward_keeps {z s : State} {k : Bucket} (hs : Keeps z s) : Keeps z (State.finishForward s k) :=
    by
  unfold State.finishForward
  dsimp only
  repeat' with_reducible first | assumption | apply State.runTiles_keeps | apply State.setBk_keeps

theorem State.freeChans_keeps {z s : State} (hs : Keeps z s) : Keeps z (State.freeChans s) := by
  unfold State.freeChans
  dsimp only
  repeat' first
    | with_reducible first
      | assumption | intro _ | apply State.unstage_keeps | apply Keeps.foldl
    | with_reducible apply Keeps.mk'

theorem State.epochAbort_keeps {z s : State} (hs : Keeps z s) : Keeps z (State.epochAbort s) := by
  unfold State.epochAbort
  dsimp only
  repeat' first
    | with_reducible first
      | assumption | intro _ | apply State.freeChans_keeps | apply State.freeResults_keeps | apply State.dropAhead_keeps
      | apply State.grantEpoch_keeps | apply State.bump_keeps | apply Keeps.foldl
    | with_reducible apply Keeps.mk'

theorem State.abortPlan_keeps {z s : State} (hs : Keeps z s) : Keeps z (State.abortPlan s) := by
  unfold State.abortPlan
  dsimp only
  repeat' first
    | with_reducible first
      | assumption | intro _ | apply State.finishForward_keeps | apply Keeps.foldl
    | with_reducible apply Keeps.mk'

theorem State.abortHalt_keeps {z s : State} (hs : Keeps z s) : Keeps z (State.abortHalt s) := by
  unfold State.abortHalt
  dsimp only
  repeat' with_reducible first
    | assumption | intro _ | apply State.dropStream_keeps | apply State.haltBench_keeps | apply Keeps.foldl

theorem State.resetWord_keeps {z s : State} {u : Nat} {e : Nat} (hs : Keeps z s) : Keeps z (State.resetWord s u e)
    := by
  unfold State.resetWord
  dsimp only
  repeat' with_reducible first | assumption | apply State.storeNat_keeps | apply Keeps.ite

theorem State.resetBucket_keeps {z s : State} {u : Nat} {k : Bucket} (hs : Keeps z s) : Keeps z (State.resetBucket s
    u k) := by
  unfold State.resetBucket
  dsimp only
  repeat' with_reducible first | assumption | apply State.setBk_keeps | apply State.storeNat_keeps | apply Keeps.ite

theorem State.abortEnd_keeps {z s : State} {u : Nat} (hs : Keeps z s) : Keeps z (State.abortEnd s u) := by
  unfold State.abortEnd
  dsimp only
  repeat' first
    | with_reducible first
      | assumption | intro _ | apply State.resetBucket_keeps | apply State.resetWord_keeps | apply State.reviveBench_keeps
      | apply State.writeConstants_keeps | apply State.bump_keeps | apply Keeps.foldl
    | with_reducible apply Keeps.mk'

theorem State.abortReply_keeps {z s : State} (hs : Keeps z s) : Keeps z (State.abortReply s) := by
  unfold State.abortReply
  repeat' first
    | with_reducible first
      | assumption | apply State.complete_keeps
    | split | with_reducible apply Keeps.mk'

theorem State.abortNext_keeps {z s : State} (hs : Keeps z s) : Keeps z (State.abortNext s) := by
  unfold State.abortNext
  repeat' first
    | with_reducible first
      | assumption | apply State.abortReply_keeps | apply State.abortEnd_keeps | apply Keeps.ite
    | split

theorem State.finishReplays_keeps {z s : State} (hs : Keeps z s) : Keeps z (State.finishReplays s) := by
  unfold State.finishReplays
  dsimp only
  repeat' with_reducible first
    | assumption | intro _ | apply State.runTiles_keeps | apply State.setBk_keeps | apply Keeps.ite | apply Keeps.foldl

theorem State.dropPoisoned_keeps {z s : State} (hs : Keeps z s) : Keeps z (State.dropPoisoned s) := by
  unfold State.dropPoisoned
  dsimp only
  repeat' with_reducible first | assumption | intro _ | apply State.setPiece_keeps | apply Keeps.foldl

theorem State.abortRun_keeps {z s : State} (hs : Keeps z s) : Keeps z (State.abortRun s) := by
  unfold State.abortRun
  dsimp only
  repeat' first
    | with_reducible first
      | assumption | apply State.dropPoisoned_keeps | apply State.finishReplays_keeps | apply State.abortNext_keeps
      | apply State.abortHalt_keeps | apply State.abortPlan_keeps | apply State.abandonPieces_keeps
      | apply State.refuseWaiting_keeps | apply Keeps.ite
    | with_reducible apply Keeps.mk'

theorem State.sendReplica_keeps {z s : State} {k : Bucket} {whole : Bool} (hs : Keeps z s) : Keeps z
    (State.sendReplica s k whole) := by
  unfold State.sendReplica
  repeat' with_reducible first | assumption | intro _ | apply State.sendBulk_keeps | apply Keeps.foldl

theorem execRestoreFromReplica_keeps {z : State} {bucket : Nat} {s : State} {whole : optParam Bool false} (hs : Keeps z s) :
    KeepsO z (execRestoreFromReplica bucket s whole) := by
  unfold execRestoreFromReplica
  repeat' first
    | with_reducible first
      | assumption | apply State.sendReplica_keeps | apply State.abortNext_keeps | apply KeepsO.next | apply Keeps.ite
    | split | with_reducible apply Keeps.mk'

theorem State.adoptNow_keeps {z s : State} (hs : Keeps z s) : Keeps z (State.adoptNow s) := by
  unfold State.adoptNow
  repeat' first
    | with_reducible first
      | assumption | apply State.setAll_keeps | apply Keeps.ite
    | with_reducible apply Keeps.mk'

theorem State.abortAtStart_keeps {z s : State} (hs : Keeps z s) : Keeps z (State.abortAtStart s) := by
  unfold State.abortAtStart
  dsimp only
  repeat' first
    | with_reducible first
      | assumption | apply State.adoptNow_keeps | apply State.finishReplays_keeps | apply State.abortNext_keeps
      | apply State.abortHalt_keeps | apply State.abortPlan_keeps | apply State.abandonPieces_keeps
      | apply State.refuseWaiting_keeps | apply Keeps.ite
    | split | with_reducible apply Keeps.mk'

theorem State.moveSnap_keeps {z s : State} {b k : Nat} (hs : Keeps z s) : Keeps z (s.moveSnap b k) := by
  unfold State.moveSnap
  split
  · exact hs
  · rename_i x hx
    refine Keeps.foldl (fun _ _ => State.storeNat_keeps) ?_
    have h := State.copyRange_keeps (src := x.base) (dst := snapBase k) (n := 0x20200) hs
    refine Keeps.mkSnaps h (fun c => c.1) fun c e he => ?_
    rcases Tab.mem_put he with rfl | he
    · rfl
    · exact c.2 e (List.mem_filter.1 he).1

theorem execRetirementHandover_keeps {z : State} {b : Nat} {ok : Bool} {s : State} (hs : Keeps z s) : KeepsO z
    (execRetirementHandover b ok s) := by
  unfold execRetirementHandover
  dsimp only
  repeat' first
    | with_reducible first
      | assumption | apply State.moveSnap_keeps | apply State.abortRun_keeps | apply State.settleRetires_keeps
      | apply State.waitingRetire_keeps | apply State.handoverFailed_keeps | apply State.handover_keeps | apply KeepsO.next
      | apply Keeps.ite
    | split

/-! ### Deliver -/

theorem State.plainTok_keeps {z s : State} {key : Nat} {c : SliceChan} {pkt : Pkt} (hs : Keeps z s) : Keeps z
    (State.plainTok s key c pkt) := by
  unfold State.plainTok
  repeat' with_reducible first | assumption | apply State.pushChan_keeps

theorem State.redBad_keeps {z s : State} {p : Nat} {pkt : Pkt} (hs : Keeps z s) : Keeps z (State.redBad s p pkt) := by
  unfold State.redBad
  dsimp only
  repeat' with_reducible first | assumption | apply State.logE_keeps

theorem State.reductionToks_keeps {z s : State} {p : Nat} {key : Nat} {c : SliceChan} {pkt : Pkt} (hs : Keeps z s) :
    Keeps z (State.reductionToks s p key c pkt) := by
  unfold State.reductionToks
  dsimp only
  repeat' first
    | with_reducible first
      | assumption | intro _ | apply State.redBad_keeps | apply State.pushChan_keeps | apply Keeps.ite | apply Keeps.foldl
    | split

theorem State.globTok_keeps {z s : State} {p : Nat} {key : Nat} {c : SliceChan} {pkt : Pkt} (hs : Keeps z s) : Keeps
    z (State.globTok s p key c pkt) := by
  unfold State.globTok
  dsimp only
  repeat' first
    | with_reducible first
      | assumption | intro _ | apply State.redBad_keeps | apply State.globClear_keeps | apply State.globDone_keeps
      | apply State.globPut_keeps | apply State.pushChan_keeps | apply State.unstage_keeps | apply Keeps.ite | apply Keeps.foldl
    | with_reducible apply Keeps.mk'

theorem State.kind0Body_keeps {z s : State} {p : Nat} {pkt : Pkt} (hs : Keeps z s) : Keeps z (State.kind0Body s p
    pkt).1 := by
  unfold State.kind0Body
  dsimp only
  repeat' first
    | with_reducible first
      | assumption | apply State.globTok_keeps | apply State.reductionToks_keeps | apply State.plainTok_keeps
      | apply State.commitBody_keeps | apply State.fillBytes_keeps | apply State.fetchBody_keeps | apply State.writeBody_keeps
      | apply State.delivered_keeps | apply Keeps.ite
    | split

theorem State.manageBody_keeps {z s : State} {pkt : Pkt} (hs : Keeps z s) : Keeps z (State.manageBody s pkt).1 := by
  unfold State.manageBody
  repeat' first
    | with_reducible first
      | assumption | intro _ | apply State.replicaBody_keeps | apply State.pairBody_keeps | apply State.fillBody_keeps
      | apply State.raiseAlarm_keeps | apply State.slowBody_keeps | apply State.mgmtBody_keeps | apply Keeps.ofId
    | split

theorem State.body_keeps {z s : State} {p : Nat} {pkt : Pkt} (hs : Keeps z s) : Keeps z (State.body s p pkt).1 := by
  unfold State.body
  repeat' first
    | with_reducible first
      | assumption | apply State.manageBody_keeps | apply State.kind0Body_keeps | apply State.missBody_keeps
      | apply State.custodyBody_keeps | apply State.nackBody_keeps | apply State.ackBody_keeps | apply State.readBody_keeps
      | apply State.signalBody_keeps | apply State.writeBody_keeps
    | split

theorem State.use_keeps {z s : State} {p : Nat} {pkt : Pkt} (hs : Keeps z s) : Keeps z (State.use s p pkt).1 := by
  unfold State.use
  dsimp only
  repeat' first
    | with_reducible first
      | assumption | apply State.body_keeps | apply State.presentPkt_keeps
    | split

theorem State.turnEnds_keeps {z s : State} {p : Nat} {pkt : Pkt} (hs : Keeps z s) : Keeps z (State.turnEnds s p pkt)
    := by
  unfold State.turnEnds
  dsimp only
  repeat' first
    | with_reducible first
      | assumption | apply State.use_keeps | apply State.served_keeps | apply State.sendNack_keeps | apply State.sendAck_keeps
      | apply State.setSrc_keeps | apply State.returnCredit_keeps | apply State.onPort_keeps
    | split

theorem State.turnsAt_keeps {z s : State} {p : Nat} {y2 : Nat} (hs : Keeps z s) : Keeps z (State.turnsAt s p y2) := by
  induction y2 generalizing s p with
  | zero =>
    unfold State.turnsAt
    assumption
  | succ n ih =>
    unfold State.turnsAt
    repeat' first
      | with_reducible first
        | assumption | apply ih | apply State.turnEnds_keeps
      | split

theorem State.turns_keeps {z s : State} (hs : Keeps z s) : Keeps z (State.turns s) := by
  unfold State.turns
  repeat' with_reducible first | assumption | intro _ | apply State.turnsAt_keeps | apply Keeps.foldl

theorem execTransmit_keeps {z : State} {p : Nat} {s : State} (hs : Keeps z s) : KeepsO z (execTransmit p s) := by
  unfold execTransmit
  repeat' with_reducible first
    | assumption | apply State.turns_keeps | apply State.sendMark_keeps | apply State.grant_keeps | apply KeepsO.next
    | apply Keeps.ite

theorem State.local_keeps {z s : State} {p : Nat} {pkt : Pkt} {paid : Bool} (hs : Keeps z s) : Keeps z (State.local
    s p pkt paid) := by
  unfold State.local
  repeat' with_reducible first
    | assumption | intro _ | apply State.use_keeps | apply State.mirrorIn_keeps | apply State.inTurn_keeps
    | apply State.ingress_keeps | apply State.checked_keeps | apply Keeps.ite

theorem State.letIn_keeps {z s : State} {p : Nat} {pkt : Pkt} {paid : Bool} (hs : Keeps z s) : Keeps z (State.letIn
    s p pkt paid) := by
  unfold State.letIn
  dsimp only
  repeat' first
    | with_reducible first
      | assumption | apply State.local_keeps | apply State.turns_keeps | apply State.ackPasses_keeps
      | apply State.custodyTransit_keeps | apply State.transit_keeps | apply State.police_keeps | apply State.mirrorAt_keeps
      | apply State.returnCredit_keeps | apply State.logE_keeps | apply State.bump_keeps | apply Keeps.ite
    | split

theorem State.arrive_keeps {z s : State} {p : Nat} {pkt : Pkt} (hs : Keeps z s) : Keeps z (State.arrive s p pkt) := by
  unfold State.arrive
  dsimp only
  repeat' with_reducible first
    | assumption | apply State.letIn_keeps | apply State.countRx_keeps | apply State.capture_keeps | apply State.park_keeps
    | apply Keeps.ite

theorem State.letHeld_keeps {z s : State} {p : Nat} (hs : Keeps z s) : Keeps z (State.letHeld s p) := by
  unfold State.letHeld
  dsimp only
  repeat' with_reducible first | assumption | intro _ | apply State.letIn_keeps | apply State.onPort_keeps | apply Keeps.foldl

theorem State.letAllHeld_keeps {z s : State} (hs : Keeps z s) : Keeps z (State.letAllHeld s) := by
  unfold State.letAllHeld
  repeat' with_reducible first | assumption | intro _ | apply State.letHeld_keeps | apply Keeps.foldl

theorem State.arriveIf_keeps {z s : State} {p : Nat} {pkt : Pkt} {ok : Bool} (hs : Keeps z s) : Keeps z
    (State.arriveIf s p pkt ok) := by
  unfold State.arriveIf
  repeat' with_reducible first | assumption | apply State.arrive_keeps | apply Keeps.ite

theorem State.fifoSpills_keeps {z s : State} {p : Nat} (hs : Keeps z s) : Keeps z (State.fifoSpills s p) := by
  unfold State.fifoSpills
  repeat' with_reducible first | assumption | apply State.logE_keeps | apply Keeps.ite

theorem execWrite_keeps {z : State} {p : Nat} {pkt : Pkt} {s : State} {spill : optParam Bool false} (hs : Keeps z s) : KeepsO
    z (execWrite p pkt s spill) := by
  unfold execWrite
  repeat' with_reducible first
    | assumption | apply State.fifoSpills_keeps | apply State.arriveIf_keeps | apply KeepsO.next | apply Keeps.ite

theorem execReductionPacket_keeps {z : State} {p : Nat} {pkt : Pkt} {s : State} (hs : Keeps z s) : KeepsO z
    (execReductionPacket p pkt s) := by
  unfold execReductionPacket
  repeat' with_reducible first | assumption | apply State.arriveIf_keeps | apply KeepsO.next

theorem execSignal_keeps {z : State} {p : Nat} {pkt : Pkt} {s : State} (hs : Keeps z s) : KeepsO z (execSignal p pkt s) := by
  unfold execSignal
  repeat' with_reducible first | assumption | apply State.arriveIf_keeps | apply KeepsO.next

theorem execRead_keeps {z : State} {p : Nat} {pkt : Pkt} {s : State} (hs : Keeps z s) : KeepsO z (execRead p pkt s) := by
  unfold execRead
  repeat' with_reducible first | assumption | apply State.arriveIf_keeps | apply KeepsO.next

theorem execMissReport_keeps {z : State} {p : Nat} {pkt : Pkt} {s : State} (hs : Keeps z s) : KeepsO z (execMissReport p pkt
    s) := by
  unfold execMissReport
  repeat' with_reducible first | assumption | apply State.arriveIf_keeps | apply KeepsO.next

theorem execFetch_keeps {z : State} {p : Nat} {pkt : Pkt} {s : State} (hs : Keeps z s) : KeepsO z (execFetch p pkt s) := by
  unfold execFetch
  repeat' with_reducible first | assumption | apply State.arriveIf_keeps | apply KeepsO.next

theorem execReply_keeps {z : State} {p : Nat} {pkt : Pkt} {s : State} (hs : Keeps z s) : KeepsO z (execReply p pkt s) := by
  unfold execReply
  repeat' with_reducible first | assumption | apply State.arriveIf_keeps | apply KeepsO.next

theorem execAck_keeps {z : State} {p : Nat} {pkt : Pkt} {s : State} (hs : Keeps z s) : KeepsO z (execAck p pkt s) := by
  unfold execAck
  repeat' with_reducible first | assumption | apply State.arriveIf_keeps | apply KeepsO.next

theorem execNack_keeps {z : State} {p : Nat} {pkt : Pkt} {s : State} (hs : Keeps z s) : KeepsO z (execNack p pkt s) := by
  unfold execNack
  repeat' with_reducible first | assumption | apply State.arriveIf_keeps | apply KeepsO.next

theorem execCustody_keeps {z : State} {p : Nat} {pkt : Pkt} {s : State} (hs : Keeps z s) : KeepsO z (execCustody p pkt s) := by
  unfold execCustody
  repeat' with_reducible first | assumption | apply State.arriveIf_keeps | apply KeepsO.next

theorem execMirror_keeps {z : State} {p : Nat} {pkt : Pkt} {s : State} (hs : Keeps z s) : KeepsO z (execMirror p pkt s) := by
  unfold execMirror
  repeat' with_reducible first | assumption | apply State.arriveIf_keeps | apply KeepsO.next

theorem execTransit_keeps {z : State} {p : Nat} {pkt : Pkt} {s : State} {spill : optParam Bool false} (hs : Keeps z s) :
    KeepsO z (execTransit p pkt s spill) := by
  unfold execTransit
  repeat' with_reducible first
    | assumption | apply State.fifoSpills_keeps | apply State.arrive_keeps | apply KeepsO.next | apply Keeps.ite

theorem execSlowMark_keeps {z : State} {p : Nat} {pkt : Pkt} {s : State} (hs : Keeps z s) : KeepsO z (execSlowMark p pkt s) :=
    by
  unfold execSlowMark
  repeat' with_reducible first | assumption | apply State.arriveIf_keeps | apply KeepsO.next

theorem execHeartbeat_keeps {z : State} {p : Nat} {pkt : Pkt} {s : State} (hs : Keeps z s) : KeepsO z (execHeartbeat p pkt s)
    := by
  unfold execHeartbeat
  repeat' with_reducible first | assumption | apply State.arriveIf_keeps | apply KeepsO.next

theorem execRouteAlarm_keeps {z : State} {p : Nat} {pkt : Pkt} {s : State} (hs : Keeps z s) : KeepsO z (execRouteAlarm p pkt
    s) := by
  unfold execRouteAlarm
  repeat' with_reducible first | assumption | apply State.arriveIf_keeps | apply KeepsO.next

theorem execPair_keeps {z : State} {p : Nat} {pkt : Pkt} {s : State} (hs : Keeps z s) : KeepsO z (execPair p pkt s) := by
  unfold execPair
  repeat' with_reducible first | assumption | apply State.arriveIf_keeps | apply KeepsO.next

theorem execFill_keeps {z : State} {p : Nat} {pkt : Pkt} {s : State} (hs : Keeps z s) : KeepsO z (execFill p pkt s) := by
  unfold execFill
  repeat' with_reducible first | assumption | apply State.arriveIf_keeps | apply KeepsO.next

theorem execReplicaDigest_keeps {z : State} {p : Nat} {pkt : Pkt} {s : State} (hs : Keeps z s) : KeepsO z (execReplicaDigest p
    pkt s) := by
  unfold execReplicaDigest
  repeat' with_reducible first | assumption | apply State.arriveIf_keeps | apply KeepsO.next

theorem execCommitVote_keeps {z : State} {p : Nat} {pkt : Pkt} {s : State} (hs : Keeps z s) : KeepsO z (execCommitVote p pkt
    s) := by
  unfold execCommitVote
  repeat' with_reducible first | assumption | apply State.arriveIf_keeps | apply KeepsO.next

theorem execCommitResult_keeps {z : State} {p : Nat} {pkt : Pkt} {s : State} (hs : Keeps z s) : KeepsO z (execCommitResult p
    pkt s) := by
  unfold execCommitResult
  repeat' with_reducible first | assumption | apply State.arriveIf_keeps | apply KeepsO.next

theorem execVote_keeps {z s : State} (hs : Keeps z s) : KeepsO z (execVote s) := by
  unfold execVote
  repeat' with_reducible first | assumption | apply State.turns_keeps | apply State.voteNext_keeps | apply KeepsO.next

theorem State.carriedBlock_keeps {z s : State} {p : Nat} {blk : BitVec 256} (hs : Keeps z s) : Keeps z
    (State.carriedBlock s p blk) := by
  unfold State.carriedBlock
  repeat' first
    | with_reducible first
      | assumption | apply State.markBlock_keeps | apply State.keepaliveBlock_keeps | apply State.helloBlock_keeps
    | split

theorem execCarriedFrame_keeps {z : State} {p : Nat} {frame : List Byte} {s : State} (hs : Keeps z s) : KeepsO z
    (execCarriedFrame p frame s) := by
  unfold execCarriedFrame
  dsimp only
  repeat' first
    | with_reducible first
      | assumption | apply State.carriedBlock_keeps | apply State.arrive_keeps | apply State.bump_keeps | apply State.set_keeps
      | apply KeepsO.next | apply Keeps.ite
    | split

/-! ### Scrub -/

theorem State.spoilLine_keeps {z s : State} {l : Nat} (hs : Keeps z s) : Keeps z (State.spoilLine s l) := by
  unfold State.spoilLine
  dsimp only
  repeat' first
    | with_reducible first
      | assumption | apply State.fresh_keeps
    | with_reducible apply Keeps.mkWrite

theorem State.lineRead_keeps {z s : State} {a : Nat} {symbols : Nat} (hs : Keeps z s) : Keeps z (State.lineRead s a
    symbols) := by
  unfold State.lineRead
  dsimp only
  repeat' first
    | with_reducible first
      | assumption | apply State.spoilLine_keeps | apply State.lineUncorr_keeps | apply State.lineCorrected_keeps
      | apply State.fresh_keeps | apply Keeps.ite
    | split

theorem State.checkUncorr_keeps {z s : State} {a : Nat} (hs : Keeps z s) : Keeps z (State.checkUncorr s a) := by
  unfold State.checkUncorr
  dsimp only
  repeat' first
    | with_reducible first
      | assumption | apply State.lineUncorr_keeps
    | with_reducible apply Keeps.mk'

theorem State.checkRead_keeps {z s : State} {a : Nat} {symbols : Nat} (hs : Keeps z s) : Keeps z (State.checkRead s
    a symbols) := by
  unfold State.checkRead
  dsimp only
  repeat' first
    | with_reducible first
      | assumption | apply State.checkUncorr_keeps | apply State.lineCorrected_keeps | apply State.fresh_keeps | apply Keeps.ite
    | split

theorem execPatrolScrub_keeps {z : State} {addr : Nat} {check : Bool} {symbols : Nat} {s : State} (hs : Keeps z s) : KeepsO z
    (execPatrolScrub addr check symbols s) := by
  unfold execPatrolScrub
  repeat' with_reducible first
    | assumption | apply State.checkRead_keeps | apply State.lineRead_keeps | apply KeepsO.next | apply Keeps.ite

theorem State.stoneCorrected_keeps {z s : State} {a : Nat} (hs : Keeps z s) : Keeps z (State.stoneCorrected s a) := by
  unfold State.stoneCorrected
  repeat' with_reducible first | assumption | apply State.logE_keeps | apply State.bump_keeps

theorem State.stoneSpoiled_keeps {z s : State} {a : Nat} (hs : Keeps z s) : Keeps z (State.stoneSpoiled s a) := by
  unfold State.stoneSpoiled
  repeat' first
    | with_reducible first
      | assumption | apply State.stoneUncorr_keeps | apply Keeps.ite
    | with_reducible apply Keeps.mk'

theorem State.stoneRead_keeps {z s : State} {a : Nat} {bad : Nat} (hs : Keeps z s) : Keeps z (State.stoneRead s a
    bad) := by
  unfold State.stoneRead
  dsimp only
  repeat' first
    | with_reducible first
      | assumption | apply State.stoneSpoiled_keeps | apply State.stoneCorrected_keeps | apply State.stoneUncorr_keeps
      | apply State.fresh_keeps | apply Keeps.ite
    | split | with_reducible apply Keeps.mkWrite

theorem execStoneScrub_keeps {z : State} {addr : Nat} {badBits : Nat} {s : State} (hs : Keeps z s) : KeepsO z (execStoneScrub
    addr badBits s) := by
  unfold execStoneScrub
  repeat' with_reducible first | assumption | apply State.stoneRead_keeps | apply KeepsO.next | apply Keeps.ite

theorem execMigrationLineCopy_keeps {z : State} {n : Nat} {symbols : Nat} {s : State} (hs : Keeps z s) : KeepsO z
    (execMigrationLineCopy n symbols s) := by
  unfold execMigrationLineCopy
  dsimp only
  repeat' with_reducible first
    | assumption | apply State.lineRead_keeps | apply State.settleRetires_keeps | apply State.setAll_keeps
    | apply State.bump_keeps | apply KeepsO.next | apply Keeps.ite

theorem State.storeLife_keeps {z s : State} (hs : Keeps z s) : Keeps z (State.storeLife s) := by
  unfold State.storeLife
  repeat' first
    | with_reducible first
      | assumption
    | with_reducible apply Keeps.mk'

theorem execLifetimeRecordWrite_keeps {z s : State} (hs : Keeps z s) : KeepsO z (execLifetimeRecordWrite s) := by
  unfold execLifetimeRecordWrite
  repeat' with_reducible first
    | assumption | apply State.storeLife_keeps | apply State.bump_keeps | apply KeepsO.next | apply Keeps.ite

theorem State.ageMinute_keeps {z s : State} {r : Nat} {temp : Int} {mv : Nat} (hs : Keeps z s) : Keeps z
    (State.ageMinute s r temp mv) := by
  unfold State.ageMinute
  dsimp only
  repeat' first
    | with_reducible first
      | assumption | apply State.alert_keeps | apply State.set_keeps | apply Keeps.ite
    | split | with_reducible apply Keeps.mk'

theorem execAgeUpdate_keeps {z : State} {r : Nat} {meanTemp : Int} {meanMv : Nat} {s : State} (hs : Keeps z s) : KeepsO z
    (execAgeUpdate r meanTemp meanMv s) := by
  unfold execAgeUpdate
  repeat' with_reducible first | assumption | apply State.ageMinute_keeps | apply KeepsO.next | apply Keeps.ite

theorem execCalendarAdvance_keeps {z s : State} (hs : Keeps z s) : KeepsO z (execCalendarAdvance s) := by
  unfold execCalendarAdvance
  repeat' with_reducible first | assumption | apply State.bump_keeps | apply KeepsO.next | apply Keeps.ite

end Sys2Proof.Machine
end

