-- ==== Sys2Proof/Laws/KeepsHost.lean ====
section
/-! SUPPORT. Every operation keeps the queue and the canonical form: power, observation, registers, host commands and the Dreril Link. -/

set_option maxRecDepth 4000

namespace Sys2Proof.Machine

open Sys2Proof

/-! ### Power -/

theorem State.showPower_keeps {z s : State} (hs : Keeps z s) : Keeps z (State.showPower s) := by
  unfold State.showPower
  repeat' with_reducible first | assumption | apply State.set_keeps | apply Keeps.ite

theorem State.capRegion_keeps {z s : State} {r : Nat} (hs : Keeps z s) : Keeps z (State.capRegion s r) := by
  unfold State.capRegion
  dsimp only
  repeat' with_reducible first | assumption | apply State.setAll_keeps | apply State.set_keeps | apply Keeps.ite

theorem State.capAll_keeps {z s : State} (hs : Keeps z s) : Keeps z (State.capAll s) := by
  unfold State.capAll
  repeat' with_reducible first
    | assumption | intro _ | apply State.capRegion_keeps | apply State.showPower_keeps | apply Keeps.foldl

theorem State.powerStep_keeps {z s : State} (hs : Keeps z s) : Keeps z (State.powerStep s) := by
  unfold State.powerStep
  dsimp only
  repeat' first
    | with_reducible first
      | assumption | apply State.capAll_keeps | apply State.set_keeps | apply Keeps.ite
    | split | with_reducible apply Keeps.mk'

theorem execPowerThrottleStep_keeps {z s : State} (hs : Keeps z s) : KeepsO z (execPowerThrottleStep s) := by
  unfold execPowerThrottleStep
  repeat' with_reducible first | assumption | apply State.powerStep_keeps | apply KeepsO.next | apply Keeps.ite

theorem State.heatStep_keeps {z s : State} {r : Nat} (hs : Keeps z s) : Keeps z (State.heatStep s r) := by
  unfold State.heatStep
  dsimp only
  repeat' first
    | with_reducible first
      | assumption | apply State.capRegion_keeps | apply State.showPower_keeps
    | split | with_reducible apply Keeps.mk'

theorem execThermalThrottleStep_keeps {z : State} {r : Nat} {temp : Int} {s : State} (hs : Keeps z s) : KeepsO z
    (execThermalThrottleStep r temp s) := by
  unfold execThermalThrottleStep
  repeat' with_reducible first
    | assumption | apply State.heatStep_keeps | apply State.senseTemp_keeps | apply KeepsO.next | apply Keeps.ite

theorem State.showFault_keeps {z s : State} (hs : Keeps z s) : Keeps z (State.showFault s) := by
  unfold State.showFault
  repeat' with_reducible first | assumption | apply State.set_keeps

theorem State.endWaiting_keeps {z s : State} (hs : Keeps z s) : Keeps z (State.endWaiting s) := by
  unfold State.endWaiting
  dsimp only
  repeat' first
    | with_reducible first
      | assumption | intro _ | apply State.longEnd_keeps | apply State.complete_keeps | apply Keeps.foldl
    | split | with_reducible apply Keeps.mk'

theorem State.restBench_keeps {z s : State} {b : Nat} (hs : Keeps z s) : Keeps z (State.restBench s b) := by
  unfold State.restBench
  repeat' with_reducible first | assumption | apply State.set_keeps | apply Keeps.ite

theorem State.dropDies_keeps {z s : State} (hs : Keeps z s) : Keeps z s.dropDies := by
  unfold State.dropDies
  refine Keeps.foldl (fun _ _ => State.restBench_keeps) (Keeps.foldl (fun _ _ => State.set_keeps) (State.setAll_keeps ?_))
  exact Keeps.mkSnaps hs (fun c => Memory.wf_filter _ c.1) fun _ e he => absurd he List.not_mem_nil

theorem State.standby_keeps {z s : State} (hs : Keeps z s) : Keeps z (State.standby s) := by
  unfold State.standby
  repeat' with_reducible first | assumption | apply State.dropDies_keeps | apply State.endWaiting_keeps | apply State.set_keeps

theorem State.fallBack_keeps {z s : State} {cause : Nat} (hs : Keeps z s) : Keeps z (State.fallBack s cause) := by
  unfold State.fallBack
  repeat' with_reducible first | assumption | apply State.standby_keeps | apply State.showFault_keeps | apply State.set_keeps

theorem State.raiseRegion_keeps {z s : State} {r : Nat} (hs : Keeps z s) : Keeps z (State.raiseRegion s r) := by
  unfold State.raiseRegion
  dsimp only
  repeat' with_reducible first | assumption | apply State.applyCode_keeps | apply State.setAll_keeps | apply Keeps.ite

theorem State.copyFeat_keeps {z s : State} {b : Nat} (hs : Keeps z s) : Keeps z (State.copyFeat s b) := by
  unfold State.copyFeat
  repeat' with_reducible first | assumption | intro _ | apply State.set_keeps | apply Keeps.foldl

theorem State.enterActive_keeps {z s : State} (hs : Keeps z s) : Keeps z (State.enterActive s) := by
  unfold State.enterActive
  dsimp only
  repeat' with_reducible first
    | assumption | intro _ | apply State.copyFeat_keeps | apply State.raiseRegion_keeps | apply State.showPower_keeps
    | apply State.setAll_keeps | apply Keeps.foldl

theorem execPwrEnHigh_keeps {z : State} {ok : Bool} {s : State} (hs : Keeps z s) : KeepsO z (execPwrEnHigh ok s) := by
  unfold execPwrEnHigh
  dsimp only
  repeat' with_reducible first
    | assumption | apply State.enterActive_keeps | apply State.fallBack_keeps | apply State.set_keeps | apply KeepsO.next
    | apply Keeps.ite

theorem State.recordUptime_keeps {z s : State} (hs : Keeps z s) : Keeps z (State.recordUptime s) := by
  unfold State.recordUptime
  dsimp only
  repeat' with_reducible first | assumption | apply State.storeLife_keeps | apply State.fresh_keeps | apply State.bump_keeps

theorem execPwrEnLow_keeps {z s : State} (hs : Keeps z s) : KeepsO z (execPwrEnLow s) := by
  unfold execPwrEnLow
  dsimp only
  repeat' with_reducible first
    | assumption | apply State.recordUptime_keeps | apply State.standby_keeps | apply State.set_keeps | apply KeepsO.next
    | apply Keeps.ite

theorem State.bootReason_keeps {z s : State} {k : Nat} (hs : Keeps z s) : Keeps z (State.bootReason s k).2 := by
  unfold State.bootReason
  dsimp only
  repeat' first
    | with_reducible first
      | assumption | apply State.fresh_keeps
    | split

theorem State.authFail_keeps {z s : State} {type : Nat} {reason : Nat} (hs : Keeps z s) : Keeps z (State.authFail s
    type reason) := by
  unfold State.authFail
  repeat' with_reducible first | assumption | apply State.logE_keeps | apply State.bump_keeps | apply State.set_keeps

theorem State.bootFails_keeps {z s : State} {k : Nat} (hs : Keeps z s) : Keeps z (State.bootFails s k) := by
  unfold State.bootFails
  dsimp only
  repeat' with_reducible first | assumption | apply State.authFail_keeps | apply State.bootReason_keeps

theorem State.drerilUp_keeps {z s : State} (hs : Keeps z s) : Keeps z (State.drerilUp s) := by
  unfold State.drerilUp
  dsimp only
  repeat' first
    | with_reducible first
      | assumption | apply State.setAll_keeps
    | with_reducible apply Keeps.mk'

theorem State.boot_keeps {z s : State} (hs : Keeps z s) : Keeps z (State.boot s) := by
  unfold State.boot
  dsimp only
  repeat' with_reducible first
    | assumption | apply State.drerilUp_keeps | apply State.bootFails_keeps | apply State.showFault_keeps
    | apply State.showImpEff_keeps | apply State.setAll_keeps | apply State.bump_keeps | apply State.set_keeps | apply Keeps.ite

theorem State.resetAll_keeps {z s : State} {keep : Keep → Bool} (hs : Keeps z s) : Keeps z (s.resetAll keep) := by
  unfold State.resetAll
  exact Keeps.mkSnaps hs (fun _ => Memory.wf_nil) fun _ e he => absurd he List.not_mem_nil

theorem State.rest_keeps {z s : State} (hs : Keeps z s) : Keeps z (State.rest s) := by
  unfold State.rest
  repeat' with_reducible first | assumption | intro _ | apply State.restBench_keeps | apply State.set_keeps | apply Keeps.foldl

theorem State.powerOnReset_keeps {z s : State} (hs : Keeps z s) : Keeps z (State.powerOnReset s) := by
  unfold State.powerOnReset
  dsimp only
  repeat' first
    | with_reducible first
      | assumption | intro _ | apply State.rest_keeps | apply State.resetAll_keeps | apply State.set_keeps | apply Keeps.foldl
    | with_reducible apply Keeps.mk'

theorem State.warmReset_keeps {z s : State} (hs : Keeps z s) : Keeps z (State.warmReset s) := by
  unfold State.warmReset
  dsimp only
  repeat' first
    | with_reducible first
      | assumption | apply State.rest_keeps | apply State.resetAll_keeps | apply State.set_keeps
    | with_reducible apply Keeps.mk'

theorem State.powerOff_keeps {z s : State} (hs : Keeps z s) : Keeps z (State.powerOff s) := by
  unfold State.powerOff
  repeat' with_reducible first | assumption | apply State.powerOnReset_keeps | apply State.setAll_keeps

theorem execPowerOnReset_keeps {z : State} {vin : Nat} {s : State} (hs : Keeps z s) : KeepsO z (execPowerOnReset vin s) := by
  unfold execPowerOnReset
  dsimp only
  repeat' first
    | with_reducible first
      | assumption | apply State.powerOnReset_keeps | apply State.boot_keeps | apply State.set_keeps | apply KeepsO.next
      | apply Keeps.ite
    | with_reducible apply Keeps.mk'

theorem execWarmReset_keeps {z s : State} (hs : Keeps z s) : KeepsO z (execWarmReset s) := by
  unfold execWarmReset
  dsimp only
  repeat' with_reducible first
    | assumption | apply State.warmReset_keeps | apply State.set_keeps | apply KeepsO.next | apply Keeps.ite

theorem State.reboot_keeps {z s : State} (hs : Keeps z s) : Keeps z (State.reboot s) := by
  unfold State.reboot
  dsimp only
  repeat' with_reducible first | assumption | apply State.boot_keeps | apply State.enterActive_keeps | apply Keeps.ite

theorem execResetNHigh_keeps {z s : State} (hs : Keeps z s) : KeepsO z (execResetNHigh s) := by
  unfold execResetNHigh
  dsimp only
  repeat' first
    | with_reducible first
      | assumption | apply State.reboot_keeps | apply State.set_keeps | apply KeepsO.next | apply Keeps.ite
    | with_reducible apply Keeps.mk'

theorem execSupplyExcursion_keeps {z : State} {vin : Nat} {s : State} (hs : Keeps z s) : KeepsO z (execSupplyExcursion vin s)
    := by
  unfold execSupplyExcursion
  dsimp only
  repeat' first
    | with_reducible first
      | assumption | apply State.logE_keeps | apply State.alert_keeps | apply State.set_keeps | apply KeepsO.next
      | apply Keeps.ite
    | with_reducible apply Keeps.mk'

theorem State.inputLost_keeps {z s : State} {vin : Nat} (hs : Keeps z s) : Keeps z (State.inputLost s vin) := by
  unfold State.inputLost
  dsimp only
  repeat' first
    | with_reducible first
      | assumption | apply State.powerOff_keeps | apply State.set_keeps | apply Keeps.ite
    | with_reducible apply Keeps.mk'

theorem execOvervoltage_keeps {z : State} {vin : Nat} {s : State} (hs : Keeps z s) : KeepsO z (execOvervoltage vin s) := by
  unfold execOvervoltage
  repeat' with_reducible first
    | assumption | apply State.inputLost_keeps | apply State.fallBack_keeps | apply State.set_keeps | apply KeepsO.next
    | apply Keeps.ite

theorem execInputOff_keeps {z : State} {vin : Nat} {s : State} (hs : Keeps z s) : KeepsO z (execInputOff vin s) := by
  unfold execInputOff
  repeat' with_reducible first | assumption | apply State.inputLost_keeps | apply KeepsO.next | apply Keeps.ite

theorem execPowerMeasurement_keeps {z : State} {vin : Nat} {iin : Nat} {pin : Nat} {pinAvg : Nat} {s : State} (hs : Keeps z s)
    : KeepsO z (execPowerMeasurement vin iin pin pinAvg s) := by
  unfold execPowerMeasurement
  dsimp only
  repeat' first
    | with_reducible first
      | assumption | apply State.setAll_keeps | apply KeepsO.next | apply Keeps.ite
    | with_reducible apply Keeps.mk'

theorem State.coolDie_keeps {z s : State} {u : Nat} (hs : Keeps z s) : Keeps z (State.coolDie s u) := by
  unfold State.coolDie
  dsimp only
  repeat' first
    | with_reducible first
      | assumption | intro _ | apply State.capRegion_keeps | apply State.setAll_keeps | apply Keeps.ite | apply Keeps.foldl
    | split | with_reducible apply Keeps.mk'

theorem execThermN_keeps {z : State} {unit : Nat} {temp : Int} {s : State} (hs : Keeps z s) : KeepsO z (execThermN unit temp
    s) := by
  unfold execThermN
  dsimp only
  repeat' with_reducible first
    | assumption | apply State.coolDie_keeps | apply State.showPower_keeps | apply State.senseTemp_keeps
    | apply State.logE_keeps | apply State.set_keeps | apply KeepsO.next | apply Keeps.ite

theorem execThermNDeassert_keeps {z : State} {unit : Nat} {temp : Int} {s : State} (hs : Keeps z s) : KeepsO z
    (execThermNDeassert unit temp s) := by
  unfold execThermNDeassert
  repeat' with_reducible first | assumption | apply State.senseTemp_keeps | apply KeepsO.next | apply Keeps.ite

theorem execThermalTrip_keeps {z : State} {unit : Nat} {temp : Int} {s : State} (hs : Keeps z s) : KeepsO z (execThermalTrip
    unit temp s) := by
  unfold execThermalTrip
  repeat' with_reducible first
    | assumption | apply State.fallBack_keeps | apply State.senseTemp_keeps | apply State.logE_keeps | apply State.bump_keeps
    | apply State.set_keeps | apply KeepsO.next | apply Keeps.ite

theorem execCoolantHot_keeps {z : State} {inlet : Nat} {s : State} (hs : Keeps z s) : KeepsO z (execCoolantHot inlet s) := by
  unfold execCoolantHot
  repeat' with_reducible first
    | assumption | apply State.logE_keeps | apply State.alert_keeps | apply State.set_keeps | apply KeepsO.next
    | apply Keeps.ite

theorem State.tapLoad_keeps {z s : State} {ir : Nat} {drive : Bool} (hs : Keeps z s) : Keeps z (State.tapLoad s ir
    drive) := by
  unfold State.tapLoad
  repeat' first
    | with_reducible first
      | assumption | apply Keeps.ite
    | with_reducible apply Keeps.mk'

theorem execTrstN_keeps {z s : State} (hs : Keeps z s) : KeepsO z (execTrstN s) := by
  unfold execTrstN
  repeat' with_reducible first | assumption | apply State.tapLoad_keeps | apply KeepsO.next

theorem execExtest_keeps {z s : State} (hs : Keeps z s) : KeepsO z (execExtest s) := by
  unfold execExtest
  repeat' with_reducible first | assumption | apply State.tapLoad_keeps | apply KeepsO.next | apply Keeps.ite

theorem execIdcode_keeps {z s : State} (hs : Keeps z s) : KeepsO z (execIdcode s) := by
  unfold execIdcode
  repeat' with_reducible first | assumption | apply State.tapLoad_keeps | apply KeepsO.next

theorem execSamplePreload_keeps {z s : State} (hs : Keeps z s) : KeepsO z (execSamplePreload s) := by
  unfold execSamplePreload
  repeat' with_reducible first | assumption | apply State.tapLoad_keeps | apply KeepsO.next

theorem execBypass_keeps {z s : State} (hs : Keeps z s) : KeepsO z (execBypass s) := by
  unfold execBypass
  repeat' with_reducible first | assumption | apply State.tapLoad_keeps | apply KeepsO.next

theorem State.readField_keeps {z s : State} {f : Field} (hs : Keeps z s) : Keeps z (State.readField s f).2 := by
  unfold State.readField
  dsimp only
  repeat' first
    | with_reducible first
      | assumption | apply State.fresh_keeps
    | split

theorem State.readFields_keeps {z s : State} {y1 : List Field} (hs : Keeps z s) : Keeps z (State.readFields s y1).2
    := by
  induction y1 generalizing s with
  | nil =>
    unfold State.readFields
    dsimp only
    assumption
  | cons y l ih =>
    unfold State.readFields
    dsimp only
    repeat' with_reducible first | assumption | apply ih | apply State.readField_keeps

theorem execBlockWrite_keeps {z : State} {bytes : List Byte} {s : State} (hs : Keeps z s) : KeepsO z (execBlockWrite bytes s)
    := by
  unfold execBlockWrite
  repeat' first
    | with_reducible first
      | assumption | apply KeepsO.next | apply Keeps.ite
    | with_reducible apply Keeps.mk'

theorem State.smbWord_keeps {z s : State} {a : Nat} (hs : Keeps z s) : Keeps z (State.smbWord s a).2 := by
  unfold State.smbWord
  repeat' first
    | with_reducible first
      | assumption | apply State.readFields_keeps
    | split

theorem execBlockRead_keeps {z s : State} (hs : Keeps z s) : KeepsO z (execBlockRead s) := by
  unfold execBlockRead
  dsimp only
  repeat' first
    | with_reducible first
      | assumption | apply State.smbWord_keeps | apply KeepsO.next | apply Keeps.ite
    | with_reducible apply Keeps.mk'

/-! ### Narrow -/

theorem execNarrow_keeps {z : State} {p : Nat} {blk : BitVec 256} {mask : BitVec 8} {s : State} (hs : Keeps z s) : KeepsO z
    (execNarrow p blk mask s) := by
  unfold execNarrow
  repeat' with_reducible first
    | assumption | intro _ | apply State.settleRetires_keeps | apply State.narrowIn_keeps | apply State.blockIn_keeps
    | apply KeepsO.next | apply Keeps.ite

theorem State.narrowAck_keeps {z s : State} {p : Nat} {mask : Nat} (hs : Keeps z s) : Keeps z (State.narrowAck s p
    mask) := by
  unfold State.narrowAck
  repeat' first
    | with_reducible first
      | assumption | apply State.narrowTo_keeps | apply State.linkDown_keeps | apply Keeps.ite
    | split

theorem execNarrowAck_keeps {z : State} {p : Nat} {blk : BitVec 256} {mask : BitVec 8} {s : State} (hs : Keeps z s) : KeepsO z
    (execNarrowAck p blk mask s) := by
  unfold execNarrowAck
  repeat' with_reducible first
    | assumption | intro _ | apply State.narrowAck_keeps | apply State.settleRetires_keeps | apply State.blockIn_keeps
    | apply KeepsO.next

theorem execNarrowFailed_keeps {z : State} {p : Nat} {s : State} (hs : Keeps z s) : KeepsO z (execNarrowFailed p s) := by
  unfold execNarrowFailed
  repeat' with_reducible first
    | assumption | apply State.settleRetires_keeps | apply State.linkDown_keeps | apply KeepsO.next | apply Keeps.ite

theorem State.silent_keeps {z s : State} {p : Nat} (hs : Keeps z s) : Keeps z (State.silent s p) := by
  unfold State.silent
  repeat' with_reducible first | assumption | apply State.linkDown_keeps | apply State.linkEnds_keeps | apply Keeps.ite

theorem execPeerSilent_keeps {z : State} {p : Nat} {s : State} (hs : Keeps z s) : KeepsO z (execPeerSilent p s) := by
  unfold execPeerSilent
  repeat' with_reducible first
    | assumption | apply State.silent_keeps | apply State.settleRetires_keeps | apply KeepsO.next | apply Keeps.ite

theorem execHello_keeps {z : State} {p : Nat} {blk : BitVec 256} {s : State} (hs : Keeps z s) : KeepsO z (execHello p blk s)
    := by
  unfold execHello
  repeat' with_reducible first | assumption | apply State.settleRetires_keeps | apply State.helloBlock_keeps | apply KeepsO.next

theorem execRetryReq_keeps {z : State} {p : Nat} {blk : BitVec 256} {frame : Nat} {s : State} (hs : Keeps z s) : KeepsO z
    (execRetryReq p blk frame s) := by
  unfold execRetryReq
  repeat' with_reducible first
    | assumption | intro _ | apply State.settleRetires_keeps | apply State.retryFrame_keeps | apply State.blockIn_keeps
    | apply KeepsO.next | apply Keeps.ite

theorem execStopMark_keeps {z : State} {p : Nat} {blk : BitVec 256} {s : State} (hs : Keeps z s) : KeepsO z (execStopMark p
    blk s) := by
  unfold execStopMark
  repeat' with_reducible first | assumption | apply State.cutEnd_keeps | apply State.markBlock_keeps | apply KeepsO.next

theorem execCutLost_keeps {z : State} {p : Nat} {s : State} (hs : Keeps z s) : KeepsO z (execCutLost p s) := by
  unfold execCutLost
  repeat' with_reducible first
    | assumption | apply State.cutEnd_keeps | apply State.logE_keeps | apply State.set_keeps | apply KeepsO.next
    | apply Keeps.ite

/-! ### Observe -/

theorem execTraceRingWrite_keeps {z : State} {r : Nat} {s : State} (hs : Keeps z s) : KeepsO z (execTraceRingWrite r s) := by
  unfold execTraceRingWrite
  repeat' with_reducible first | assumption | apply State.traceDrain_keeps | apply KeepsO.next | apply Keeps.ite

theorem State.graphBegin_keeps {z s : State} (hs : Keeps z s) : Keeps z (State.graphBegin s) := by
  unfold State.graphBegin
  repeat' first
    | with_reducible first
      | assumption | apply State.set_keeps
    | with_reducible apply Keeps.mk'

theorem State.graphEnd_keeps {z s : State} {stamp : Nat} {first : List WaitSeen} (hs : Keeps z s) : Keeps z
    (State.graphEnd s stamp first) := by
  unfold State.graphEnd
  dsimp only
  repeat' first
    | with_reducible first
      | assumption | apply State.store_keeps | apply State.setAll_keeps
    | with_reducible apply Keeps.mk'

theorem execGraphSample_keeps {z s : State} (hs : Keeps z s) : KeepsO z (execGraphSample s) := by
  unfold execGraphSample
  repeat' first
    | with_reducible first
      | assumption | apply State.graphEnd_keeps | apply KeepsO.next | apply Keeps.ite
    | split

theorem State.hangGraph_keeps {z s : State} (hs : Keeps z s) : Keeps z (State.hangGraph s) := by
  unfold State.hangGraph
  repeat' first
    | with_reducible first
      | assumption | apply State.graphBegin_keeps | apply Keeps.ite
    | with_reducible apply Keeps.mk'

theorem execHangDetect_keeps {z : State} {b : Nat} {i : Nat} {s : State} (hs : Keeps z s) : KeepsO z (execHangDetect b i s) :=
    by
  unfold execHangDetect
  repeat' with_reducible first
    | assumption | apply State.hangGraph_keeps | apply State.alert_keeps | apply State.set_keeps | apply KeepsO.next
    | apply Keeps.ite

/-! ### Csr -/

theorem State.readMem_keeps {z s : State} {a : Nat} (hs : Keeps z s) : KeepsD z (State.readMem s a) := by
  unfold State.readMem
  repeat' first
    | with_reducible first
      | assumption | apply State.stoneUncorr_keeps | apply KeepsD.word | apply KeepsD.hw | apply Keeps.ite
    | split

theorem State.readAt_keeps {z s : State} {a : Nat} (hs : Keeps z s) : KeepsD z (State.readAt s a) := by
  unfold State.readAt
  dsimp only
  repeat' first
    | with_reducible first
      | assumption | apply State.readMem_keeps | apply State.readFields_keeps | apply KeepsD.word | apply KeepsD.refused
      | apply KeepsD.violation | apply KeepsD.ite
    | split

theorem State.readWords_keeps {z : State} {op : Nat} {y1 : Nat} {y2 : Nat} {y3 : List Nat} {y4 : State} (hy4 : Keeps z y4) :
    KeepsA z (State.readWords op y1 y2 y3 y4) := by
  induction y1 generalizing op y2 y3 y4 with
  | zero =>
    unfold State.readWords
    repeat' with_reducible first | assumption | apply Answer.ok_keeps
  | succ n ih =>
    unfold State.readWords
    repeat' first
      | with_reducible first
        | assumption | apply ih | apply State.readAt_keeps | apply Answer.violation_keeps | apply Answer.err_keeps
        | apply KeepsA.done
      | split | refine KeepsD.ofWord (by assumption) ?_ | refine KeepsD.ofHw (by assumption) ?_

theorem State.writeLpddr_keeps {z s : State} {a : Nat} {v : Nat} (hs : Keeps z s) : KeepsW z (State.writeLpddr s a
    v) := by
  unfold State.writeLpddr
  repeat' with_reducible first
    | assumption | apply State.put_keeps | apply KeepsW.ok | apply KeepsW.refused | apply KeepsW.violation | apply KeepsW.ite

theorem State.writeStone_keeps {z s : State} {a : Nat} {v : Nat} (hs : Keeps z s) : KeepsW z (State.writeStone s a
    v) := by
  unfold State.writeStone
  repeat' with_reducible first | assumption | apply State.put_keeps | apply KeepsW.ok | apply KeepsW.refused | apply KeepsW.ite

theorem State.writeBench_keeps {z s : State} {b : Nat} {off : Nat} {a : Nat} {v : Nat} (hs : Keeps z s) : KeepsW z
    (State.writeBench s b off a v) := by
  unfold State.writeBench
  repeat' with_reducible first
    | assumption | apply State.put_keeps | apply KeepsW.ok | apply KeepsW.refused | apply KeepsW.violation | apply KeepsW.ite

theorem State.setFields_keeps {z s : State} {fs : List Field} {v : Nat} (hs : Keeps z s) : Keeps z (State.setFields
    s fs v) := by
  unfold State.setFields
  repeat' first
    | with_reducible first
      | assumption | intro _ | apply State.set_keeps | apply Keeps.foldl
    | split

theorem State.faultAck_keeps {z s : State} (hs : Keeps z s) : Keeps z (State.faultAck s) := by
  unfold State.faultAck
  repeat' with_reducible first | assumption | apply State.showFault_keeps | apply State.set_keeps | apply Keeps.ite

theorem State.alarmClr_keeps {z s : State} (hs : Keeps z s) : Keeps z (State.alarmClr s) := by
  unfold State.alarmClr
  dsimp only
  repeat' first
    | with_reducible first
      | assumption | apply State.chooseRoute_keeps | apply State.setLinkMode_keeps | apply State.set_keeps | apply Keeps.ite
    | with_reducible apply Keeps.mk'

theorem State.unpin_keeps {z s : State} (hs : Keeps z s) : Keeps z (State.unpin s) := by
  unfold State.unpin
  dsimp only
  repeat' first
    | with_reducible first
      | assumption
    | with_reducible apply Keeps.mk'

theorem State.build_keeps {z s : State} (hs : Keeps z s) : Keeps z (State.build s) := by
  unfold State.build
  repeat' with_reducible first | assumption | apply State.graphBegin_keeps

theorem State.regionWritten_keeps {z s : State} {old : State} {r : Nat} (hs : Keeps z s) : Keeps z
    (State.regionWritten s old r) := by
  unfold State.regionWritten
  dsimp only
  repeat' with_reducible first
    | assumption | apply State.capRegion_keeps | apply State.showPower_keeps | apply State.applyCode_keeps
    | apply State.traceMargin_keeps | apply Keeps.ite

theorem State.policerWritten_keeps {z s : State} {old : State} {m : Nat} {i : Nat} (hs : Keeps z s) : Keeps z
    (State.policerWritten s old m i) := by
  unfold State.policerWritten
  repeat' with_reducible first | assumption | apply State.setBuckets_keeps | apply Keeps.ite

theorem State.wordEffect_keeps {z s : State} {old : State} {a : Nat} {v : Nat} (hs : Keeps z s) : Keeps z
    (State.wordEffect s old a v) := by
  unfold State.wordEffect
  repeat' first
    | with_reducible first
      | assumption | apply State.policerWritten_keeps | apply State.regionWritten_keeps | apply State.build_keeps
      | apply State.unpin_keeps | apply State.alarmClr_keeps | apply State.faultAck_keeps | apply State.showImpEff_keeps
      | apply State.benchReset_keeps | apply State.setLinkMode_keeps | apply State.set_keeps | apply Keeps.ite
    | split

theorem State.writeRegs_keeps {z s : State} {a : Nat} {v : Nat} {fs : List Field} (hs : Keeps z s) : KeepsW z
    (State.writeRegs s a v fs) := by
  unfold State.writeRegs
  repeat' first
    | with_reducible first
      | assumption | apply State.wordEffect_keeps | apply State.setFields_keeps | apply KeepsW.ok | apply KeepsW.refused
      | apply KeepsW.violation | apply KeepsW.ite
    | split

theorem State.writeAt_keeps {z s : State} {a : Nat} {v : Nat} (hs : Keeps z s) : KeepsW z (State.writeAt s a v) := by
  unfold State.writeAt
  repeat' first
    | with_reducible first
      | assumption | apply State.writeRegs_keeps | apply State.writeBench_keeps | apply State.writeStone_keeps
      | apply State.writeLpddr_keeps | apply KeepsW.ok | apply KeepsW.violation
    | split

theorem State.writeWords_keeps {z : State} {op : Nat} {y1 : Nat} {y2 : Nat} {y3 : List Nat} {y4 : State} (hy4 : Keeps z y4) :
    KeepsA z (State.writeWords op y1 y2 y3 y4) := by
  induction y3 generalizing op y1 y2 y4 with
  | nil =>
    unfold State.writeWords
    repeat' with_reducible first | assumption | apply Answer.ok_keeps
  | cons y l ih =>
    unfold State.writeWords
    repeat' first
      | with_reducible first
        | assumption | apply ih | apply State.writeAt_keeps | apply Answer.violation_keeps | apply KeepsA.done
      | split | refine KeepsW.ofOk (by assumption) ?_ | refine KeepsW.ofRefused (by assumption) ?_

theorem State.readCsr_keeps {z s : State} {h : HostHdr} {w : List W64} (hs : Keeps z s) : Keeps z (State.readCsr s h
    w) := by
  unfold State.readCsr
  dsimp only
  repeat' with_reducible first | assumption | intro _ | apply State.readWords_keeps | apply State.mailbox_keeps

theorem State.writeCsr_keeps {z s : State} {h : HostHdr} {w : List W64} (hs : Keeps z s) : Keeps z (State.writeCsr s
    h w) := by
  unfold State.writeCsr
  dsimp only
  repeat' with_reducible first | assumption | intro _ | apply State.writeWords_keeps | apply State.mailbox_keeps

theorem execReadCsr_keeps {z : State} {h : HostHdr} {w : List W64} {s : State} (hs : Keeps z s) : KeepsO z (execReadCsr h w s)
    := by
  unfold execReadCsr
  repeat' with_reducible first | assumption | apply State.readCsr_keeps | apply KeepsO.next | apply Keeps.ite

theorem execWriteCsr_keeps {z : State} {h : HostHdr} {w : List W64} {s : State} (hs : Keeps z s) : KeepsO z (execWriteCsr h w
    s) := by
  unfold execWriteCsr
  repeat' with_reducible first | assumption | apply State.writeCsr_keeps | apply KeepsO.next | apply Keeps.ite

theorem State.writeOne_keeps {z s : State} {h : HostHdr} {a : Nat} {v : Nat} (hs : Keeps z s) : Keeps z
    (State.writeOne s h a v) := by
  unfold State.writeOne
  repeat' with_reducible first | assumption | apply State.writeCsr_keeps | apply Keeps.ite

theorem execFreset_keeps {z : State} {h : HostHdr} {b : Nat} {s : State} (hs : Keeps z s) : KeepsO z (execFreset h b s) := by
  unfold execFreset
  repeat' with_reducible first | assumption | apply State.writeOne_keeps | apply KeepsO.next

theorem execFaultAck_keeps {z : State} {h : HostHdr} {s : State} (hs : Keeps z s) : KeepsO z (execFaultAck h s) := by
  unfold execFaultAck
  repeat' with_reducible first | assumption | apply State.writeOne_keeps | apply KeepsO.next

theorem execBuild_keeps {z : State} {h : HostHdr} {s : State} (hs : Keeps z s) : KeepsO z (execBuild h s) := by
  unfold execBuild
  repeat' with_reducible first | assumption | apply State.writeOne_keeps | apply KeepsO.next

theorem execAlarmClr_keeps {z : State} {h : HostHdr} {s : State} (hs : Keeps z s) : KeepsO z (execAlarmClr h s) := by
  unfold execAlarmClr
  repeat' with_reducible first | assumption | apply State.writeOne_keeps | apply KeepsO.next

theorem execExportReady_keeps {z : State} {h : HostHdr} {s : State} (hs : Keeps z s) : KeepsO z (execExportReady h s) := by
  unfold execExportReady
  repeat' with_reducible first | assumption | apply State.writeOne_keeps | apply KeepsO.next

theorem execCalendar_keeps {z : State} {h : HostHdr} {value : W64} {s : State} (hs : Keeps z s) : KeepsO z (execCalendar h
    value s) := by
  unfold execCalendar
  repeat' with_reducible first | assumption | apply State.writeOne_keeps | apply KeepsO.next

theorem execOwnerLock_keeps {z : State} {h : HostHdr} {s : State} (hs : Keeps z s) : KeepsO z (execOwnerLock h s) := by
  unfold execOwnerLock
  repeat' with_reducible first | assumption | apply State.writeOne_keeps | apply KeepsO.next

theorem execOvrEn_keeps {z : State} {h : HostHdr} {r : Nat} {value : W64} {s : State} (hs : Keeps z s) : KeepsO z (execOvrEn h
    r value s) := by
  unfold execOvrEn
  repeat' with_reducible first | assumption | apply State.writeOne_keeps | apply KeepsO.next

theorem execVset_keeps {z : State} {h : HostHdr} {r : Nat} {value : W64} {s : State} (hs : Keeps z s) : KeepsO z (execVset h r
    value s) := by
  unfold execVset
  repeat' with_reducible first | assumption | apply State.writeOne_keeps | apply KeepsO.next

/-! ### Control -/

theorem State.identify_keeps {z s : State} {h : HostHdr} {w : List W64} (hs : Keeps z s) : Keeps z (State.identify s
    h w) := by
  unfold State.identify
  repeat' with_reducible first | assumption | intro _ | apply State.direct_keeps

theorem execIdentify_keeps {z : State} {h : HostHdr} {w : List W64} {s : State} (hs : Keeps z s) : KeepsO z (execIdentify h w
    s) := by
  unfold execIdentify
  repeat' with_reducible first | assumption | apply State.identify_keeps | apply KeepsO.next | apply Keeps.ite

theorem State.getFeatures_keeps {z s : State} {h : HostHdr} {w : List W64} (hs : Keeps z s) : Keeps z
    (State.getFeatures s h w) := by
  unfold State.getFeatures
  repeat' with_reducible first | assumption | intro _ | apply State.direct_keeps

theorem execGetFeatures_keeps {z : State} {h : HostHdr} {w : List W64} {s : State} (hs : Keeps z s) : KeepsO z
    (execGetFeatures h w s) := by
  unfold execGetFeatures
  repeat' with_reducible first | assumption | apply State.getFeatures_keeps | apply KeepsO.next | apply Keeps.ite

theorem State.mailboxStatus_keeps {z s : State} {m : Nat} (hs : Keeps z s) : Keeps z (State.mailboxStatus s m).1 := by
  unfold State.mailboxStatus
  dsimp only
  repeat' first
    | with_reducible first
      | assumption | apply State.set_keeps
    | split

theorem State.getStatus_keeps {z s : State} {h : HostHdr} {w : List W64} (hs : Keeps z s) : Keeps z (State.getStatus
    s h w) := by
  unfold State.getStatus
  repeat' first
    | with_reducible first
      | assumption | intro _ | apply State.mailboxStatus_keeps | apply State.direct_keeps
    | split

theorem execGetStatus_keeps {z : State} {h : HostHdr} {w : List W64} {s : State} (hs : Keeps z s) : KeepsO z (execGetStatus h
    w s) := by
  unfold execGetStatus
  repeat' with_reducible first | assumption | apply State.getStatus_keeps | apply KeepsO.next | apply Keeps.ite

theorem execGetStatusMailbox_keeps {z : State} {h : HostHdr} {w : List W64} {s : State} (hs : Keeps z s) : KeepsO z
    (execGetStatusMailbox h w s) := by
  unfold execGetStatusMailbox
  repeat' with_reducible first | assumption | apply State.getStatus_keeps | apply KeepsO.next | apply Keeps.ite

theorem State.blockRecord_keeps {z s : State} {n : Nat} (hs : Keeps z s) : Keeps z (State.blockRecord s n).2 := by
  unfold State.blockRecord
  dsimp only
  repeat' with_reducible first | assumption | apply State.fresh_keeps

theorem State.blockRecords_keeps {z s : State} {first : Nat} {y2 : Nat} (hs : Keeps z s) : Keeps z
    (State.blockRecords s first y2).2 := by
  induction y2 generalizing s first with
  | zero =>
    unfold State.blockRecords
    dsimp only
    assumption
  | succ n ih =>
    unfold State.blockRecords
    dsimp only
    repeat' with_reducible first | assumption | apply ih | apply State.blockRecord_keeps

theorem State.cellsAt_keeps {z s : State} {l : List (Option Nat)} (hs : Keeps z s) : KeepsA z (State.cellsAt s l) :=
    by
  unfold State.cellsAt
  repeat' first
    | with_reducible first
      | assumption | apply Answer.err_keeps | apply Answer.ok_keeps | apply KeepsA.done | apply KeepsA.ite
    | split

theorem State.counters_keeps {z : State} {set : Nat} {first : Nat} {count : Nat} {s : State} (hs : Keeps z s) : KeepsA z
    (State.counters set first count s) := by
  unfold State.counters
  dsimp only
  repeat' first
    | with_reducible first
      | assumption | apply State.cellsAt_keeps | apply State.blockRecords_keeps | apply Answer.err_keeps | apply Answer.ok_keeps
      | apply KeepsA.ite
    | split

theorem State.getCounters_keeps {z s : State} {h : HostHdr} {w : List W64} (hs : Keeps z s) : Keeps z
    (State.getCounters s h w) := by
  unfold State.getCounters
  dsimp only
  repeat' with_reducible first | assumption | intro _ | apply State.counters_keeps | apply State.mailbox_keeps

theorem execGetCounters_keeps {z : State} {h : HostHdr} {w : List W64} {s : State} (hs : Keeps z s) : KeepsO z
    (execGetCounters h w s) := by
  unfold execGetCounters
  repeat' with_reducible first | assumption | apply State.getCounters_keeps | apply KeepsO.next | apply Keeps.ite

theorem State.logRead_keeps {z : State} {first : Nat} {count : Nat} {s : State} (hs : Keeps z s) : KeepsA z (State.logRead
    first count s) := by
  unfold State.logRead
  dsimp only
  repeat' with_reducible first | assumption | apply Answer.ok_keeps

theorem State.getLog_keeps {z s : State} {h : HostHdr} {w : List W64} (hs : Keeps z s) : Keeps z (State.getLog s h
    w) := by
  unfold State.getLog
  dsimp only
  repeat' with_reducible first | assumption | intro _ | apply State.logRead_keeps | apply State.mailbox_keeps

theorem execGetLog_keeps {z : State} {h : HostHdr} {w : List W64} {s : State} (hs : Keeps z s) : KeepsO z (execGetLog h w s)
    := by
  unfold execGetLog
  repeat' with_reducible first | assumption | apply State.getLog_keeps | apply KeepsO.next | apply Keeps.ite

theorem State.logDrop_keeps {z s : State} {n : Nat} (hs : Keeps z s) : Keeps z (State.logDrop s n) := by
  unfold State.logDrop
  dsimp only
  repeat' first
    | with_reducible first
      | assumption | apply State.set_keeps
    | with_reducible apply Keeps.mk'

theorem State.clearLog_keeps {z s : State} {h : HostHdr} {w : List W64} (hs : Keeps z s) : Keeps z (State.clearLog s
    h w) := by
  unfold State.clearLog
  repeat' with_reducible first
    | assumption | intro _ | apply State.logDrop_keeps | apply State.mailbox_keeps | apply Answer.ok_keeps

theorem execClearLog_keeps {z : State} {h : HostHdr} {w : List W64} {s : State} (hs : Keeps z s) : KeepsO z (execClearLog h w
    s) := by
  unfold execClearLog
  repeat' with_reducible first | assumption | apply State.clearLog_keeps | apply KeepsO.next | apply Keeps.ite

theorem State.setTime_keeps {z s : State} {h : HostHdr} {w : List W64} (hs : Keeps z s) : Keeps z (State.setTime s h
    w) := by
  unfold State.setTime
  repeat' with_reducible first
    | assumption | intro _ | apply State.mailbox_keeps | apply Answer.ok_keeps | apply State.set_keeps

theorem execSetTime_keeps {z : State} {h : HostHdr} {w : List W64} {s : State} (hs : Keeps z s) : KeepsO z (execSetTime h w s)
    := by
  unfold execSetTime
  repeat' with_reducible first | assumption | apply State.setTime_keeps | apply KeepsO.next | apply Keeps.ite

theorem State.marginSet_keeps {z : State} {v : Nat} {s : State} (hs : Keeps z s) : KeepsA z (State.marginSet v s) := by
  unfold State.marginSet
  repeat' first
    | with_reducible first
      | assumption | apply Answer.err_keeps | apply Answer.ok_keeps | apply State.applyCode_keeps | apply State.setAll_keeps
      | apply State.set_keeps | apply KeepsA.ite
    | split

theorem State.margin_keeps {z s : State} {h : HostHdr} {w : List W64} (hs : Keeps z s) : Keeps z (State.margin s h
    w) := by
  unfold State.margin
  repeat' with_reducible first | assumption | intro _ | apply State.marginSet_keeps | apply State.mailbox_keeps

theorem execMargin_keeps {z : State} {h : HostHdr} {w : List W64} {s : State} (hs : Keeps z s) : KeepsO z (execMargin h w s)
    := by
  unfold execMargin
  repeat' with_reducible first | assumption | apply State.margin_keeps | apply KeepsO.next | apply Keeps.ite

theorem State.setFailureDomain_keeps {z s : State} {h : HostHdr} {w : List W64} (hs : Keeps z s) : Keeps z
    (State.setFailureDomain s h w) := by
  unfold State.setFailureDomain
  repeat' with_reducible first
    | assumption | intro _ | apply State.mailbox_keeps | apply Answer.ok_keeps | apply State.set_keeps

theorem execSetFailureDomain_keeps {z : State} {h : HostHdr} {w : List W64} {s : State} (hs : Keeps z s) : KeepsO z
    (execSetFailureDomain h w s) := by
  unfold execSetFailureDomain
  repeat' with_reducible first | assumption | apply State.setFailureDomain_keeps | apply KeepsO.next | apply Keeps.ite

theorem State.pairStart_keeps {z : State} {h : HostHdr} {d : Nat} {override : Bool} {s : State} (hs : Keeps z s) : KeepsA z
    (State.pairStart h d override s) := by
  unfold State.pairStart
  dsimp only
  repeat' with_reducible first
    | assumption | apply State.pairBegin_keeps | apply Answer.err_keeps | apply KeepsA.later | apply KeepsA.ite

theorem State.adopt_keeps {z : State} {d : Nat} {s : State} (hs : Keeps z s) : KeepsA z (State.adopt d s) := by
  unfold State.adopt
  repeat' first
    | with_reducible first
      | assumption | apply Answer.err_keeps | apply Answer.ok_keeps | apply KeepsA.ite
    | with_reducible apply Keeps.mk'

theorem State.setPairing_keeps {z s : State} {h : HostHdr} {w : List W64} (hs : Keeps z s) : Keeps z
    (State.setPairing s h w) := by
  unfold State.setPairing
  dsimp only
  repeat' with_reducible first
    | assumption | intro _ | apply State.adopt_keeps | apply State.pairStart_keeps | apply State.mailbox_keeps
    | apply KeepsA.ite

theorem execSetPair_keeps {z : State} {h : HostHdr} {w : List W64} {s : State} (hs : Keeps z s) : KeepsO z (execSetPair h w s)
    := by
  unfold execSetPair
  repeat' with_reducible first | assumption | apply State.setPairing_keeps | apply KeepsO.next | apply Keeps.ite

theorem execSetPairAdopt_keeps {z : State} {h : HostHdr} {w : List W64} {s : State} (hs : Keeps z s) : KeepsO z
    (execSetPairAdopt h w s) := by
  unfold execSetPairAdopt
  repeat' with_reducible first | assumption | apply State.setPairing_keeps | apply KeepsO.next | apply Keeps.ite

theorem State.askSwap_keeps {z s : State} {temper : Bool} {b : Nat} (hs : Keeps z s) : Keeps z (State.askSwap s
    temper b) := by
  unfold State.askSwap
  dsimp only
  repeat' with_reducible first
    | assumption | apply State.tmpBoundary_keeps | apply State.swapCmp_keeps | apply State.waitDone_keeps
    | apply State.set_keeps | apply Keeps.ite

theorem State.swap_keeps {z : State} {temper : Bool} {mask : Nat} {s : State} (hs : Keeps z s) : KeepsA z (State.swap temper
    mask s) := by
  unfold State.swap
  dsimp only
  repeat' first
    | with_reducible first
      | assumption | intro _ | apply State.askSwap_keeps | apply Answer.err_keeps | apply Answer.ok_keeps | apply Keeps.foldl
    | split

theorem State.swapBank_keeps {z s : State} {h : HostHdr} {w : List W64} (hs : Keeps z s) : Keeps z (State.swapBank s
    h w) := by
  unfold State.swapBank
  repeat' with_reducible first | assumption | intro _ | apply State.swap_keeps | apply State.mailbox_keeps

theorem execSwapBank_keeps {z : State} {h : HostHdr} {w : List W64} {s : State} (hs : Keeps z s) : KeepsO z (execSwapBank h w
    s) := by
  unfold execSwapBank
  repeat' with_reducible first | assumption | apply State.swapBank_keeps | apply KeepsO.next | apply Keeps.ite

theorem State.retireLong_keeps {z s : State} {h : HostHdr} {w : List W64} {kind : Nat} {n : Nat} {f : State → State}
    (hs : Keeps z s) (hf : (∀ x00, Keeps z x00 → Keeps z (f x00))) : KeepsA z (State.retireLong s h w kind n f) := by
  unfold State.retireLong
  repeat' first
    | with_reducible first
      | assumption | apply hf | apply State.settleRetires_keeps | apply State.longStart_keeps | apply KeepsA.later
    | split | refine KeepsA.ofLater (by assumption) ?_

theorem State.retireBench_keeps {z : State} {h : HostHdr} {w : List W64} {b : Nat} {s : State} (hs : Keeps z s) : KeepsA z
    (State.retireBench h w b s) := by
  unfold State.retireBench
  repeat' with_reducible first
    | assumption | intro _ | apply State.retireLong_keeps | apply Answer.err_keeps | apply State.retireStart_keeps
    | apply State.setAll_keeps | apply KeepsA.ite

theorem State.retireChan_keeps {z : State} {h : HostHdr} {w : List W64} {c : Nat} {s : State} (hs : Keeps z s) : KeepsA z
    (State.retireChan h w c s) := by
  unfold State.retireChan
  dsimp only
  repeat' with_reducible first
    | assumption | intro _ | apply State.retireLong_keeps | apply Answer.err_keeps | apply State.retireChannel_keeps
    | apply KeepsA.ite

theorem State.retireLane_keeps {z : State} {h : HostHdr} {w : List W64} {l : Nat} {s : State} (hs : Keeps z s) : KeepsA z
    (State.retireLane h w l s) := by
  unfold State.retireLane
  repeat' with_reducible first
    | assumption | intro _ | apply State.retireLong_keeps | apply Answer.err_keeps | apply State.laneFails_keeps
    | apply State.set_keeps | apply KeepsA.ite

theorem State.retire_keeps {z s : State} {h : HostHdr} {w : List W64} (hs : Keeps z s) : Keeps z (State.retire s h
    w) := by
  unfold State.retire
  dsimp only
  repeat' first
    | with_reducible first
      | assumption | intro _ | apply State.retireLane_keeps | apply State.retireChan_keeps | apply State.retireBench_keeps
      | apply State.mailbox_keeps
    | split

theorem execRetireBench_keeps {z : State} {h : HostHdr} {w : List W64} {s : State} (hs : Keeps z s) : KeepsO z
    (execRetireBench h w s) := by
  unfold execRetireBench
  repeat' with_reducible first | assumption | apply State.retire_keeps | apply KeepsO.next | apply Keeps.ite

theorem execRetireChannel_keeps {z : State} {h : HostHdr} {w : List W64} {s : State} (hs : Keeps z s) : KeepsO z
    (execRetireChannel h w s) := by
  unfold execRetireChannel
  repeat' with_reducible first | assumption | apply State.retire_keeps | apply KeepsO.next | apply Keeps.ite

theorem execRetireLane_keeps {z : State} {h : HostHdr} {w : List W64} {s : State} (hs : Keeps z s) : KeepsO z (execRetireLane
    h w s) := by
  unfold execRetireLane
  repeat' with_reducible first | assumption | apply State.retire_keeps | apply KeepsO.next | apply Keeps.ite

theorem State.exportImp_keeps {z : State} {tag : Nat} {step : Nat} {s : State} (hs : Keeps z s) : KeepsA z (State.exportImp
    tag step s) := by
  unfold State.exportImp
  dsimp only
  repeat' first
    | with_reducible first
      | assumption | apply Answer.err_keeps | apply Answer.ok_keeps | apply State.bulkOut_keeps
    | split

theorem State.impressWork_keeps {z : State} {form : Nat} {tag : Nat} {step : Nat} {s : State} (hs : Keeps z s) : KeepsA z
    (State.impressWork form tag step s) := by
  unfold State.impressWork
  repeat' first
    | with_reducible first
      | assumption | apply State.exportImp_keeps | apply Answer.ok_keeps
    | split | with_reducible apply Keeps.mk'

theorem State.impressCmd_keeps {z s : State} {h : HostHdr} {w : List W64} (hs : Keeps z s) : Keeps z
    (State.impressCmd s h w) := by
  unfold State.impressCmd
  repeat' with_reducible first | assumption | intro _ | apply State.impressWork_keeps | apply State.mailbox_keeps

theorem execImpress_keeps {z : State} {h : HostHdr} {w : List W64} {s : State} (hs : Keeps z s) : KeepsO z (execImpress h w s)
    := by
  unfold execImpress
  repeat' with_reducible first | assumption | apply State.impressCmd_keeps | apply KeepsO.next | apply Keeps.ite

theorem execImpressExport_keeps {z : State} {h : HostHdr} {w : List W64} {s : State} (hs : Keeps z s) : KeepsO z
    (execImpressExport h w s) := by
  unfold execImpressExport
  repeat' with_reducible first | assumption | apply State.impressCmd_keeps | apply KeepsO.next | apply Keeps.ite

theorem execImpressList_keeps {z : State} {h : HostHdr} {w : List W64} {s : State} (hs : Keeps z s) : KeepsO z
    (execImpressList h w s) := by
  unfold execImpressList
  repeat' with_reducible first | assumption | apply State.impressCmd_keeps | apply KeepsO.next | apply Keeps.ite

/-! ### Start -/

theorem State.checkGroups_keeps {z s : State} (hs : Keeps z s) : Keeps z (State.checkGroups s) := by
  unfold State.checkGroups
  repeat' first
    | with_reducible first
      | assumption | intro _ | apply State.logE_keeps | apply Keeps.ite | apply Keeps.foldl
    | with_reducible apply Keeps.mk'

theorem State.checkParams_keeps {z s : State} (hs : Keeps z s) : Keeps z (State.checkParams s) := by
  unfold State.checkParams
  repeat' first
    | with_reducible first
      | assumption | intro _ | apply State.logE_keeps | apply State.set_keeps | apply Keeps.ite | apply Keeps.foldl
    | with_reducible apply Keeps.mk'

theorem State.dirWritten_keeps {z s : State} (hs : Keeps z s) : Keeps z (State.dirWritten s) := by
  unfold State.dirWritten
  dsimp only
  repeat' first
    | with_reducible first
      | assumption | intro _ | apply State.storeNat_keeps | apply Keeps.foldl
    | with_reducible apply Keeps.mk'

theorem State.rebuildPools_keeps {z s : State} (hs : Keeps z s) : Keeps z (State.rebuildPools s) := by
  unfold State.rebuildPools
  dsimp only
  repeat' first
    | with_reducible first
      | assumption | intro _ | apply State.poolRebuild_keeps | apply State.set_keeps | apply Keeps.foldl
    | with_reducible apply Keeps.mk'

theorem State.takeBuffers_keeps {z s : State} {m : Nat} {y2 : Nat} (hs : Keeps z s) : KeepsQ z (State.takeBuffers s
    m y2) := by
  induction y2 generalizing s m with
  | zero =>
    unfold State.takeBuffers
    repeat' with_reducible first | assumption | apply KeepsQ.some
  | succ n ih =>
    unfold State.takeBuffers
    repeat' first
      | with_reducible first
        | assumption | apply ih | apply State.bufAlloc_keeps | apply KeepsQ.none
      | split | refine Keeps.sndOf (by assumption) ?_

theorem State.reserve_keeps {z s : State} (hs : Keeps z s) : KeepsQ z (State.reserve s) := by
  unfold State.reserve
  repeat' with_reducible first | assumption | intro _ | apply State.takeBuffers_keeps | apply KeepsQ.foldlM

theorem State.unfill_keeps {z s : State} {all : Bool} (hs : Keeps z s) : Keeps z (State.unfill s all) := by
  unfold State.unfill
  dsimp only
  repeat' first
    | with_reducible first
      | assumption | intro _ | apply State.setPiece_keeps | apply State.showPieces_keeps | apply Keeps.foldl
    | with_reducible apply Keeps.mk'

theorem State.startFails_keeps {z s : State} {a : Option Nat} (hs : Keeps z s) : Keeps z (State.startFails s a).1 :=
    by
  unfold State.startFails
  dsimp only
  repeat' with_reducible first | assumption | intro _ | apply State.logE_keeps | apply Keeps.elim

theorem State.startChecks_keeps {z s : State} (hs : Keeps z s) : Keeps z (State.startChecks s).1 := by
  unfold State.startChecks
  split
  · exact hs
  split
  · exact hs
  split
  · exact State.startFails_keeps hs
  · have h : Keeps z s.checkLayers.checkParams := State.checkParams_keeps (State.checkLayers_keeps hs)
    generalize s.checkLayers.checkParams = t at h
    dsimp only
    cases t.topologyPos with
    | none => exact State.startFails_keeps h
    | some i =>
      dsimp only
      have h : Keeps z (t.set Coll.myPos i).checkGroups := State.checkGroups_keeps (State.set_keeps h)
      generalize (t.set Coll.myPos i).checkGroups = u at h
      cases u.collBad with
      | some a => exact State.startFails_keeps h
      | none =>
        dsimp only
        cases u.dirWritten.dirBad with
        | some a => exact State.startFails_keeps h
        | none =>
          dsimp only
          split
          · exact State.startFails_keeps h
          · have hr := State.reserve_keeps (State.rebuildPools_keeps h)
            revert hr
            cases u.rebuildPools.reserve with
            | none => exact fun _ => State.startFails_keeps h
            | some v =>
              intro hr
              dsimp only
              split
              · exact State.startFails_keeps h
              split
              · exact State.startFails_keeps h
              · exact KeepsQ.ofSome rfl hr

theorem State.startPort_keeps {z s : State} {p : Nat} (hs : Keeps z s) : Keeps z (State.startPort s p) := by
  unfold State.startPort
  dsimp only
  repeat' with_reducible first
    | assumption | apply State.trainStart_keeps | apply State.setLanes_keeps | apply State.setCtx_keeps
    | apply State.abortCuts_keeps | apply State.fitReplay_keeps | apply State.onPort_keeps | apply Keeps.ite

theorem State.healLanes_keeps {z s : State} (hs : Keeps z s) : Keeps z (State.healLanes s) := by
  unfold State.healLanes
  repeat' with_reducible first | assumption | intro _ | apply State.set_keeps | apply Keeps.ite | apply Keeps.foldl

theorem State.beginJob_keeps {z s : State} (hs : Keeps z s) : Keeps z (State.beginJob s) := by
  unfold State.beginJob
  dsimp only
  repeat' first
    | with_reducible first
      | assumption | apply State.setAll_keeps | apply Keeps.ite
    | with_reducible apply Keeps.mk'

theorem State.forgive_keeps {z s : State} (hs : Keeps z s) : Keeps z (State.forgive s) := by
  unfold State.forgive
  dsimp only
  repeat' first
    | with_reducible first
      | assumption
    | with_reducible apply Keeps.mk'

theorem State.freeBytes_keeps {z s : State} {a : Nat} {y2 : Nat} (hs : Keeps z s) : Keeps z (State.freeBytes s a y2)
    := by
  induction y2 generalizing s a with
  | zero =>
    unfold State.freeBytes
    assumption
  | succ n ih =>
    unfold State.freeBytes
    dsimp only
    repeat' with_reducible first | assumption | apply ih | apply State.store_keeps | apply State.fresh_keeps

theorem State.rewriteRow_keeps {z s : State} {k : Bucket} {i : Nat} {n : Nat} {b : Nat} {m : Nat} {l : Nat} (hs :
    Keeps z s) : Keeps z (State.rewriteRow s k i n b m l) := by
  unfold State.rewriteRow
  dsimp only
  repeat' first
    | with_reducible first
      | assumption | intro _ | apply State.freeBytes_keeps | apply State.countConv_keeps | apply State.put_keeps
      | apply Keeps.foldl
    | split

theorem State.rewritePlain_keeps {z s : State} {k : Bucket} {n : Nat} (hs : Keeps z s) : Keeps z (State.rewritePlain
    s k n) := by
  unfold State.rewritePlain
  dsimp only
  repeat' first
    | with_reducible first
      | assumption | intro _ | apply State.freeBytes_keeps | apply State.put_keeps | apply Keeps.foldl
    | split

theorem State.rewriteSlot_keeps {z s : State} {k : Bucket} (hs : Keeps z s) : Keeps z (State.rewriteSlot s k) := by
  unfold State.rewriteSlot
  dsimp only
  repeat' with_reducible first
    | assumption | intro _ | apply State.rewritePlain_keeps | apply State.rewriteRow_keeps | apply State.setBk_keeps
    | apply Keeps.ite | apply Keeps.foldl

theorem State.startBucket_keeps {z s : State} {changed : Bool} {k : Bucket} (hs : Keeps z s) : Keeps z
    (State.startBucket s changed k) := by
  unfold State.startBucket
  dsimp only
  repeat' with_reducible first | assumption | apply State.rewriteSlot_keeps | apply State.put_keeps | apply Keeps.ite

theorem State.startBuckets_keeps {z s : State} (hs : Keeps z s) : Keeps z (State.startBuckets s) := by
  unfold State.startBuckets
  dsimp only
  repeat' first
    | with_reducible first
      | assumption | intro _ | apply State.startBucket_keeps | apply Keeps.foldl
    | with_reducible apply Keeps.mk'

theorem State.revote_keeps {z s : State} (hs : Keeps z s) : Keeps z (State.revote s) := by
  unfold State.revote
  dsimp only
  repeat' first
    | with_reducible first
      | assumption | apply Keeps.ite
    | with_reducible apply Keeps.mk'

theorem State.startBench_keeps {z s : State} {b : Nat} (hs : Keeps z s) : Keeps z (State.startBench s b) := by
  unfold State.startBench
  repeat' with_reducible first
    | assumption | apply State.runBench_keeps | apply State.waitDone_keeps | apply State.setAll_keeps | apply State.set_keeps
    | apply Keeps.ite

theorem State.startBenches_keeps {z s : State} (hs : Keeps z s) : Keeps z (State.startBenches s) := by
  unfold State.startBenches
  dsimp only
  repeat' with_reducible first
    | assumption | intro _ | apply State.startBench_keeps | apply State.reviveBench_keeps | apply State.takeSnapshot_keeps
    | apply State.set_keeps | apply Keeps.ite | apply Keeps.foldl

theorem State.haltForAbort_keeps {z s : State} (hs : Keeps z s) : Keeps z (State.haltForAbort s) := by
  unfold State.haltForAbort
  repeat' with_reducible first | assumption | intro _ | apply State.set_keeps | apply Keeps.ite | apply Keeps.foldl

theorem State.startGo_keeps {z s : State} {old : Schedule} (hs : Keeps z s) : Keeps z (State.startGo s old) := by
  unfold State.startGo
  dsimp only
  repeat' first
    | with_reducible first
      | assumption | intro _ | apply State.haltForAbort_keeps | apply State.startBenches_keeps | apply State.revote_keeps
      | apply State.startBuckets_keeps | apply State.forgive_keeps | apply State.beginJob_keeps | apply State.healLanes_keeps
      | apply State.startPort_keeps | apply State.unfill_keeps | apply State.dirWritten_keeps | apply State.letAllHeld_keeps
      | apply State.turns_keeps | apply State.abortAtStart_keeps | apply State.dropPoisoned_keeps
      | apply State.settleRetires_keeps | apply State.serveHeld_keeps | apply State.writeConstants_keeps
      | apply State.grantEpoch_keeps | apply State.set_keeps | apply Keeps.ite | apply Keeps.foldl
    | with_reducible apply Keeps.mk'

theorem State.startDevice_keeps {z : State} {sched : Schedule} {s : State} (hs : Keeps z s) : Keeps z (State.startDevice sched
    s).1 := by
  unfold State.startDevice
  dsimp only
  repeat' first
    | with_reducible first
      | assumption | apply State.startGo_keeps | apply State.startChecks_keeps
    | split | dsimp only | with_reducible apply Keeps.mk'

theorem startAnswer_keeps {z : State} {r : State × Nat} (hr : Keeps z r.1) : KeepsA z (startAnswer r) := by
  unfold startAnswer
  repeat' with_reducible first | assumption | apply Answer.err_keeps | apply Answer.ok_keeps | apply KeepsA.ite

theorem State.startRoutes_keeps {z s : State} (hs : Keeps z s) : KeepsA z (State.startRoutes s) := by
  unfold State.startRoutes
  repeat' with_reducible first
    | assumption | apply State.letAllHeld_keeps | apply Answer.err_keeps | apply Answer.ok_keeps | apply State.set_keeps
    | apply KeepsA.ite

theorem State.startCmd_keeps {z s : State} {h : HostHdr} {w : List W64} {sched : Schedule} (hs : Keeps z s) : Keeps
    z (State.startCmd s h w sched) := by
  unfold State.startCmd
  repeat' with_reducible first
    | assumption | intro _ | apply State.startRoutes_keeps | apply startAnswer_keeps | apply State.startDevice_keeps
    | apply State.mailbox_keeps | apply KeepsA.ite

theorem execStart_keeps {z : State} {h : HostHdr} {w : List W64} {sched : Schedule} {s : State} (hs : Keeps z s) : KeepsO z
    (execStart h w sched s) := by
  unfold execStart
  repeat' with_reducible first | assumption | apply State.startCmd_keeps | apply KeepsO.next | apply Keeps.ite

theorem execStartRouting_keeps {z : State} {h : HostHdr} {w : List W64} {s : State} (hs : Keeps z s) : KeepsO z
    (execStartRouting h w s) := by
  unfold execStartRouting
  repeat' with_reducible first | assumption | apply State.startCmd_keeps | apply KeepsO.next | apply Keeps.ite

/-! ### Run -/

theorem State.suspendBench_keeps {z s : State} {b : Nat} (hs : Keeps z s) : Keeps z (State.suspendBench s b) := by
  unfold State.suspendBench
  dsimp only
  repeat' with_reducible first
    | assumption | apply State.tmpBoundary_keeps | apply State.swapCmp_keeps | apply State.waitDone_keeps
    | apply State.setAll_keeps | apply State.set_keeps | apply Keeps.ite

theorem State.suspendAll_keeps {z s : State} (hs : Keeps z s) : Keeps z (State.suspendAll s) := by
  unfold State.suspendAll
  repeat' with_reducible first | assumption | intro _ | apply State.suspendBench_keeps | apply Keeps.foldl

theorem State.stopDevice_keeps {z s : State} (hs : Keeps z s) : KeepsA z (State.stopDevice s) := by
  unfold State.stopDevice
  repeat' first
    | with_reducible first
      | assumption | apply State.suspendAll_keeps | apply Answer.err_keeps | apply Answer.ok_keeps | apply State.set_keeps
    | split

theorem State.stopRoutes_keeps {z s : State} (hs : Keeps z s) : KeepsA z (State.stopRoutes s) := by
  unfold State.stopRoutes
  repeat' with_reducible first
    | assumption | apply Answer.err_keeps | apply Answer.ok_keeps | apply State.set_keeps | apply KeepsA.ite

theorem State.stopCmd_keeps {z s : State} {h : HostHdr} {w : List W64} (hs : Keeps z s) : Keeps z (State.stopCmd s h
    w) := by
  unfold State.stopCmd
  repeat' with_reducible first
    | assumption | intro _ | apply State.stopRoutes_keeps | apply State.stopDevice_keeps | apply State.mailbox_keeps
    | apply KeepsA.ite

theorem execStop_keeps {z : State} {h : HostHdr} {w : List W64} {s : State} (hs : Keeps z s) : KeepsO z (execStop h w s) := by
  unfold execStop
  repeat' with_reducible first | assumption | apply State.stopCmd_keeps | apply KeepsO.next | apply Keeps.ite

theorem execStopRouting_keeps {z : State} {h : HostHdr} {w : List W64} {s : State} (hs : Keeps z s) : KeepsO z
    (execStopRouting h w s) := by
  unfold execStopRouting
  repeat' with_reducible first | assumption | apply State.stopCmd_keeps | apply KeepsO.next | apply Keeps.ite

theorem State.launchWork_keeps {z : State} {h : HostHdr} {c : Nat} {sched : Schedule} {s : State} (hs : Keeps z s) : KeepsA z
    (State.launchWork h c sched s) := by
  unfold State.launchWork
  repeat' first
    | with_reducible first
      | assumption | apply Answer.err_keeps | apply KeepsA.later | apply KeepsA.ite
    | with_reducible apply Keeps.mk'

theorem State.launchCmd_keeps {z s : State} {h : HostHdr} {w : List W64} {sched : Schedule} (hs : Keeps z s) : Keeps
    z (State.launchCmd s h w sched) := by
  unfold State.launchCmd
  repeat' with_reducible first | assumption | intro _ | apply State.launchWork_keeps | apply State.mailbox_keeps

theorem execLaunchAt_keeps {z : State} {h : HostHdr} {w : List W64} {sched : Schedule} {s : State} (hs : Keeps z s) : KeepsO z
    (execLaunchAt h w sched s) := by
  unfold execLaunchAt
  repeat' with_reducible first | assumption | apply State.launchCmd_keeps | apply KeepsO.next | apply Keeps.ite

theorem State.launchNow_keeps {z s : State} (hs : Keeps z s) : Keeps z (State.launchNow s) := by
  unfold State.launchNow
  dsimp only
  repeat' first
    | with_reducible first
      | assumption | apply startAnswer_keeps | apply State.startDevice_keeps | apply State.settle_keeps | apply Answer.err_keeps
      | apply KeepsA.ite | apply Keeps.ite
    | split | with_reducible apply Keeps.mk'

theorem execLaunchAtCount_keeps {z s : State} (hs : Keeps z s) : KeepsO z (execLaunchAtCount s) := by
  unfold execLaunchAtCount
  repeat' with_reducible first | assumption | apply State.launchNow_keeps | apply KeepsO.next | apply Keeps.ite

theorem State.globalWork_keeps {z : State} {h : HostHdr} {c : Nat} {s : State} (hs : Keeps z s) : KeepsA z (State.globalWork h
    c s) := by
  unfold State.globalWork
  repeat' first
    | with_reducible first
      | assumption | apply Answer.err_keeps | apply KeepsA.later | apply KeepsA.ite
    | with_reducible apply Keeps.mk'

theorem State.globalCmd_keeps {z s : State} {h : HostHdr} {w : List W64} (hs : Keeps z s) : Keeps z (State.globalCmd
    s h w) := by
  unfold State.globalCmd
  repeat' with_reducible first | assumption | intro _ | apply State.globalWork_keeps | apply State.mailbox_keeps

theorem execGlobalStop_keeps {z : State} {h : HostHdr} {w : List W64} {s : State} (hs : Keeps z s) : KeepsO z (execGlobalStop
    h w s) := by
  unfold execGlobalStop
  repeat' with_reducible first | assumption | apply State.globalCmd_keeps | apply KeepsO.next | apply Keeps.ite

theorem State.flushPort_keeps {z s : State} {e : Nat} {y2 : Nat} (hs : Keeps z s) : Keeps z (State.flushPort s e y2)
    := by
  induction y2 generalizing s e with
  | zero =>
    unfold State.flushPort
    assumption
  | succ n ih =>
    unfold State.flushPort
    repeat' first
      | with_reducible first
        | assumption | apply ih | apply State.transmitQ_keeps | apply State.onPort_keeps
      | split

theorem State.markPort_keeps {z s : State} {e : Nat} (hs : Keeps z s) : Keeps z (State.markPort s e) := by
  unfold State.markPort
  repeat' with_reducible first | assumption | apply State.flushPort_keeps | apply State.sendMark_keeps | apply Keeps.ite

theorem State.cutNow_keeps {z s : State} (hs : Keeps z s) : Keeps z (State.cutNow s) := by
  unfold State.cutNow
  dsimp only
  repeat' first
    | with_reducible first
      | assumption | intro _ | apply State.markPort_keeps | apply State.suspendAll_keeps | apply State.cutEnd_keeps
      | apply State.cutCheck_keeps | apply State.set_keeps | apply Keeps.foldl
    | with_reducible apply Keeps.mk'

theorem execGlobalStopCount_keeps {z s : State} (hs : Keeps z s) : KeepsO z (execGlobalStopCount s) := by
  unfold execGlobalStopCount
  repeat' first
    | with_reducible first
      | assumption | apply State.cutNow_keeps | apply KeepsO.next | apply Keeps.ite
    | split

theorem State.abortWork_keeps {z : State} {h : HostHdr} {u : Nat} {s : State} (hs : Keeps z s) : KeepsA z (State.abortWork h u
    s) := by
  unfold State.abortWork
  dsimp only
  repeat' first
    | with_reducible first
      | assumption | apply State.turns_keeps | apply State.abortRun_keeps | apply State.epochAbort_keeps
      | apply Answer.err_keeps | apply Answer.ok_keeps | apply KeepsA.later | apply KeepsA.ite
    | with_reducible apply Keeps.mk'

theorem State.commitWork_keeps {z : State} {u : Nat} {s : State} (hs : Keeps z s) : KeepsA z (State.commitWork u s) := by
  unfold State.commitWork
  repeat' with_reducible first
    | assumption | apply State.turns_keeps | apply State.commitStep_keeps | apply Answer.err_keeps | apply Answer.ok_keeps
    | apply KeepsA.ite

theorem State.abortStepCmd_keeps {z s : State} {h : HostHdr} {w : List W64} (hs : Keeps z s) : Keeps z
    (State.abortStepCmd s h w) := by
  unfold State.abortStepCmd
  repeat' first
    | with_reducible first
      | assumption | intro _ | apply State.commitWork_keeps | apply State.abortWork_keeps | apply State.mailbox_keeps
    | split

theorem execAbortStep_keeps {z : State} {h : HostHdr} {w : List W64} {s : State} (hs : Keeps z s) : KeepsO z (execAbortStep h
    w s) := by
  unfold execAbortStep
  repeat' with_reducible first | assumption | apply State.abortStepCmd_keeps | apply KeepsO.next | apply Keeps.ite

theorem execAbortStepCommit_keeps {z : State} {h : HostHdr} {w : List W64} {s : State} (hs : Keeps z s) : KeepsO z
    (execAbortStepCommit h w s) := by
  unfold execAbortStepCommit
  repeat' with_reducible first | assumption | apply State.abortStepCmd_keeps | apply KeepsO.next | apply Keeps.ite

theorem State.restoreSeg_keeps {z s : State} {i : Impression} {k : Bucket} {g : Segment} (hs : Keeps z s) : Keeps z
    (State.restoreSeg s i k g) := by
  unfold State.restoreSeg
  repeat' first
    | with_reducible first
      | assumption | apply State.store_keeps
    | split

theorem State.restoreBucket_keeps {z s : State} {i : Impression} {k : Bucket} (hs : Keeps z s) : Keeps z
    (State.restoreBucket s i k) := by
  unfold State.restoreBucket
  dsimp only
  repeat' with_reducible first
    | assumption | intro _ | apply State.restoreSeg_keeps | apply State.setBk_keeps | apply Keeps.ite | apply Keeps.foldl

theorem State.restoreNow_keeps {z s : State} {i : Impression} {sched : Schedule} (hs : Keeps z s) : Keeps z
    (State.restoreNow s i sched) := by
  unfold State.restoreNow
  dsimp only
  repeat' first
    | with_reducible first
      | assumption | intro _ | apply State.restoreBucket_keeps | apply State.unfill_keeps | apply State.freeChans_keeps
      | apply State.dropAhead_keeps | apply State.setAll_keeps | apply Keeps.foldl
    | with_reducible apply Keeps.mk'

theorem State.restoreChecked_keeps {z s : State} {force : Bool} {step : Nat} {i : Option Impression} {sched :
    Schedule} (hs : Keeps z s) : KeepsA z (State.restoreChecked s force step i sched) := by
  unfold State.restoreChecked
  repeat' first
    | with_reducible first
      | assumption | apply State.restoreNow_keeps | apply Answer.err_keeps | apply Answer.ok_keeps | apply KeepsA.ite
    | split

theorem State.restoreWork_keeps {z : State} {h : HostHdr} {w : List W64} {sched : Schedule} {s : State} (hs : Keeps z s) :
    KeepsA z (State.restoreWork h w sched s) := by
  unfold State.restoreWork
  repeat' first
    | with_reducible first
      | assumption | apply State.restoreChecked_keeps | apply State.longStart_keeps | apply Answer.err_keeps | apply KeepsA.ite
    | with_reducible apply Keeps.mk'

theorem State.restoreBulk_keeps {z : State} {l : LongCmd} {s : State} (hs : Keeps z s) : KeepsA z (State.restoreBulk l s) := by
  unfold State.restoreBulk
  repeat' with_reducible first | assumption | apply State.restoreChecked_keeps | apply Answer.err_keeps | apply KeepsA.ite

theorem State.restoreCmd_keeps {z s : State} {h : HostHdr} {w : List W64} {sched : Schedule} (hs : Keeps z s) :
    Keeps z (State.restoreCmd s h w sched) := by
  unfold State.restoreCmd
  repeat' with_reducible first | assumption | intro _ | apply State.restoreWork_keeps | apply State.mailbox_keeps

theorem execRestore_keeps {z : State} {h : HostHdr} {w : List W64} {sched : Schedule} {s : State} (hs : Keeps z s) : KeepsO z
    (execRestore h w sched s) := by
  unfold execRestore
  repeat' with_reducible first | assumption | apply State.restoreCmd_keeps | apply KeepsO.next | apply Keeps.ite

/-! ### Images -/

theorem State.verified_keeps {z s : State} {type : Nat} {i : List Byte} {body : State → Answer} (hs : Keeps z s)
    (hbody : (∀ x00, Keeps z x00 → KeepsA z (body x00))) : KeepsA z (State.verified s type i body) := by
  unfold State.verified
  repeat' first
    | with_reducible first
      | assumption | apply hbody | apply State.authFail_keeps | apply Answer.err_keeps
    | split

theorem State.loadBank_keeps {z s : State} {temper : Bool} {i : List Byte} {b : Nat} (hs : Keeps z s) : Keeps z
    (State.loadBank s temper i b) := by
  unfold State.loadBank
  dsimp only
  repeat' first
    | with_reducible first
      | assumption | apply State.store_keeps | apply State.setAll_keeps | apply Keeps.ite
    | split | with_reducible apply Keeps.mk'

theorem State.loadBanks_keeps {z : State} {temper : Bool} {mask : Nat} {i : List Byte} {s : State} (hs : Keeps z s) : KeepsA z
    (State.loadBanks temper mask i s) := by
  unfold State.loadBanks
  repeat' first
    | with_reducible first
      | assumption | intro _ | apply State.loadBank_keeps | apply State.verified_keeps | apply Answer.err_keeps
      | apply Answer.ok_keeps | apply KeepsA.ite | apply Keeps.foldl
    | split

theorem State.jobRecords_keeps {z : State} {m : Nat} {s : State} {at0 : Nat} {bs : List Byte} {y4 : Nat} (hs : Keeps z s) :
    KeepsA z (State.jobRecords m s at0 bs y4) := by
  induction y4 generalizing m s at0 bs with
  | zero =>
    unfold State.jobRecords
    repeat' with_reducible first | assumption | apply Answer.ok_keeps
  | succ n ih =>
    unfold State.jobRecords
    dsimp only
    repeat' first
      | with_reducible first
        | assumption | apply ih | apply Answer.violation_keeps | apply Answer.err_keeps | apply Answer.ok_keeps
        | apply State.logE_keeps | apply State.store_keeps | apply KeepsA.done | apply KeepsA.ite
      | split

theorem State.loadJob_keeps {z : State} {i : List Byte} {s : State} (hs : Keeps z s) : KeepsA z (State.loadJob i s) := by
  unfold State.loadJob
  repeat' first
    | with_reducible first
      | assumption | intro _ | apply State.jobRecords_keeps | apply State.verified_keeps | apply Answer.err_keeps
      | apply KeepsA.ite
    | with_reducible apply Keeps.mk'

theorem State.loadBulk_keeps {z : State} {l : LongCmd} {s : State} (hs : Keeps z s) : KeepsA z (State.loadBulk l s) := by
  unfold State.loadBulk
  repeat' first
    | with_reducible first
      | assumption | apply State.loadJob_keeps | apply State.loadBanks_keeps
    | split

theorem State.loadWork_keeps {z : State} {h : HostHdr} {w : List W64} {s : State} (hs : Keeps z s) : KeepsA z (State.loadWork
    h w s) := by
  unfold State.loadWork
  repeat' first
    | with_reducible first
      | assumption | apply State.longStart_keeps | apply Answer.err_keeps | apply KeepsA.ite
    | split

theorem State.loadImage_keeps {z s : State} {h : HostHdr} {w : List W64} (hs : Keeps z s) : Keeps z (State.loadImage
    s h w) := by
  unfold State.loadImage
  repeat' with_reducible first | assumption | intro _ | apply State.loadWork_keeps | apply State.mailbox_keeps

theorem execLoadImage_keeps {z : State} {h : HostHdr} {w : List W64} {s : State} (hs : Keeps z s) : KeepsO z (execLoadImage h
    w s) := by
  unfold execLoadImage
  repeat' with_reducible first | assumption | apply State.loadImage_keeps | apply KeepsO.next | apply Keeps.ite

theorem State.showRouteSet_keeps {z s : State} {k : Nat} {valid : Bool} {av : List Nat} (hs : Keeps z s) : Keeps z
    (State.showRouteSet s k valid av) := by
  unfold State.showRouteSet
  dsimp only
  repeat' with_reducible first | assumption | apply State.setAll_keeps

theorem State.clearRoutes_keeps {z s : State} {k : Nat} (hs : Keeps z s) : Keeps z (State.clearRoutes s k) := by
  unfold State.clearRoutes
  repeat' first
    | with_reducible first
      | assumption | apply State.showRouteSet_keeps | apply State.chooseRoute_keeps
    | with_reducible apply Keeps.mk'

theorem State.routesBulk_keeps {z : State} {l : LongCmd} {s : State} (hs : Keeps z s) : KeepsA z (State.routesBulk l s) := by
  unfold State.routesBulk
  dsimp only
  repeat' first
    | with_reducible first
      | assumption | intro _ | apply State.showRouteSet_keeps | apply State.verified_keeps | apply Answer.err_keeps
      | apply Answer.ok_keeps | apply State.chooseRoute_keeps | apply KeepsA.ite
    | split | with_reducible apply Keeps.mk'

theorem State.routesWork_keeps {z : State} {h : HostHdr} {w : List W64} {s : State} (hs : Keeps z s) : KeepsA z
    (State.routesWork h w s) := by
  unfold State.routesWork
  repeat' with_reducible first
    | assumption | apply State.clearRoutes_keeps | apply State.longStart_keeps | apply Answer.ok_keeps | apply KeepsA.ite

theorem State.setRoutes_keeps {z s : State} {h : HostHdr} {w : List W64} (hs : Keeps z s) : Keeps z (State.setRoutes
    s h w) := by
  unfold State.setRoutes
  repeat' with_reducible first | assumption | intro _ | apply State.routesWork_keeps | apply State.mailbox_keeps

theorem execSetRoutes_keeps {z : State} {h : HostHdr} {w : List W64} {s : State} (hs : Keeps z s) : KeepsO z (execSetRoutes h
    w s) := by
  unfold execSetRoutes
  repeat' with_reducible first | assumption | apply State.setRoutes_keeps | apply KeepsO.next | apply Keeps.ite

theorem State.updateBulk_keeps {z : State} {l : LongCmd} {s : State} (hs : Keeps z s) : KeepsA z (State.updateBulk l s) := by
  unfold State.updateBulk
  dsimp only
  repeat' first
    | with_reducible first
      | assumption | intro _ | apply State.verified_keeps | apply Answer.ok_keeps | apply State.setAll_keeps
    | with_reducible apply Keeps.mk'

theorem State.updateFw_keeps {z s : State} {h : HostHdr} {w : List W64} (hs : Keeps z s) : Keeps z (State.updateFw s
    h w) := by
  unfold State.updateFw
  repeat' with_reducible first | assumption | intro _ | apply State.longStart_keeps | apply State.mailbox_keeps

theorem execUpdateFw_keeps {z : State} {h : HostHdr} {w : List W64} {s : State} (hs : Keeps z s) : KeepsO z (execUpdateFw h w
    s) := by
  unfold execUpdateFw
  repeat' with_reducible first | assumption | apply State.updateFw_keeps | apply KeepsO.next | apply Keeps.ite

theorem State.activate_keeps {z s : State} {k : Nat} (hs : Keeps z s) : Keeps z (State.activate s k) := by
  unfold State.activate
  dsimp only
  repeat' first
    | with_reducible first
      | assumption | intro _ | apply State.copyFeat_keeps | apply State.setAll_keeps | apply State.bump_keeps
      | apply Keeps.foldl
    | split | with_reducible apply Keeps.mk'

theorem State.activateWork_keeps {z : State} {k : Nat} {s : State} (hs : Keeps z s) : KeepsA z (State.activateWork k s) := by
  unfold State.activateWork
  repeat' first
    | with_reducible first
      | assumption | apply State.activate_keeps | apply State.reboot_keeps | apply State.authFail_keeps | apply Answer.err_keeps
      | apply Answer.ok_keeps | apply State.set_keeps | apply KeepsA.ite
    | split

theorem State.activateFw_keeps {z s : State} {h : HostHdr} {w : List W64} (hs : Keeps z s) : Keeps z
    (State.activateFw s h w) := by
  unfold State.activateFw
  repeat' with_reducible first | assumption | intro _ | apply State.activateWork_keeps | apply State.mailbox_keeps

theorem execActivateFw_keeps {z : State} {h : HostHdr} {w : List W64} {s : State} (hs : Keeps z s) : KeepsO z (execActivateFw
    h w s) := by
  unfold execActivateFw
  repeat' with_reducible first | assumption | apply State.activateFw_keeps | apply KeepsO.next | apply Keeps.ite

theorem State.confirm_keeps {z s : State} (hs : Keeps z s) : Keeps z (State.confirm s) := by
  unfold State.confirm
  dsimp only
  repeat' first
    | with_reducible first
      | assumption | apply State.setAll_keeps | apply State.set_keeps
    | split

theorem execConfirmation_keeps {z s : State} (hs : Keeps z s) : KeepsO z (execConfirmation s) := by
  unfold execConfirmation
  repeat' with_reducible first | assumption | apply State.confirm_keeps | apply KeepsO.next | apply Keeps.ite

theorem State.revertFw_keeps {z s : State} (hs : Keeps z s) : Keeps z (State.revertFw s) := by
  unfold State.revertFw
  repeat' with_reducible first | assumption | apply State.alert_keeps | apply State.setAll_keeps

theorem execWatchdogExpiry_keeps {z s : State} (hs : Keeps z s) : KeepsO z (execWatchdogExpiry s) := by
  unfold execWatchdogExpiry
  repeat' with_reducible first
    | assumption | apply State.revertFw_keeps | apply State.reboot_keeps | apply State.warmReset_keeps
    | apply State.setAll_keeps | apply KeepsO.next | apply Keeps.ite

theorem State.slotMeas_keeps {z s : State} {k : Nat} (hs : Keeps z s) : Keeps z (State.slotMeas s k).2 := by
  unfold State.slotMeas
  dsimp only
  repeat' first
    | with_reducible first
      | assumption | apply State.fresh_keeps
    | split

theorem State.slotEntry_keeps {z s : State} {k : Nat} (hs : Keeps z s) : Keeps z (State.slotEntry s k).2 := by
  unfold State.slotEntry
  dsimp only
  repeat' first
    | with_reducible first
      | assumption | apply State.slotMeas_keeps
    | split

theorem State.measEntries_keeps {z s : State} (hs : Keeps z s) : Keeps z (State.measEntries s).2 := by
  unfold State.measEntries
  dsimp only
  repeat' with_reducible first | assumption | apply State.slotEntry_keeps

theorem State.report_keeps {z s : State} {nonce : Nat} (hs : Keeps z s) : Keeps z (State.report s nonce).2 := by
  unfold State.report
  dsimp only
  repeat' with_reducible first | assumption | apply State.measEntries_keeps

theorem State.attestWork_keeps {z : State} {tag : Nat} {w : List W64} {s : State} (hs : Keeps z s) : KeepsA z
    (State.attestWork tag w s) := by
  unfold State.attestWork
  dsimp only
  repeat' with_reducible first | assumption | apply State.report_keeps | apply Answer.ok_keeps | apply State.bulkOut_keeps

theorem State.attest_keeps {z s : State} {h : HostHdr} {w : List W64} (hs : Keeps z s) : Keeps z (State.attest s h
    w) := by
  unfold State.attest
  repeat' with_reducible first | assumption | intro _ | apply State.attestWork_keeps | apply State.mailbox_keeps

theorem execAttest_keeps {z : State} {h : HostHdr} {w : List W64} {s : State} (hs : Keeps z s) : KeepsO z (execAttest h w s)
    := by
  unfold execAttest
  repeat' with_reducible first | assumption | apply State.attest_keeps | apply KeepsO.next | apply Keeps.ite

theorem State.bulkDone_keeps {z s : State} {l : LongCmd} (hs : Keeps z s) : KeepsA z (State.bulkDone s l) := by
  unfold State.bulkDone
  repeat' first
    | with_reducible first
      | assumption | apply State.updateBulk_keeps | apply State.routesBulk_keeps | apply State.loadBulk_keeps
      | apply State.restoreBulk_keeps
    | split

theorem State.longSettle_keeps {z s : State} {l : LongCmd} (hs : Keeps z s) : Keeps z (State.longSettle s l) := by
  unfold State.longSettle
  repeat' first
    | with_reducible first
      | assumption | apply State.bulkDone_keeps | apply State.longEnd_keeps
    | split | refine KeepsA.ofDone (by assumption) ?_ | refine KeepsA.ofLater (by assumption) ?_

theorem State.bulkIn_keeps {z s : State} {l : LongCmd} {need : Nat} {off : Nat} {last : Bool} {data : List Byte} (hs
    : Keeps z s) : Keeps z (State.bulkIn s l need off last data) := by
  unfold State.bulkIn
  dsimp only
  repeat' first
    | with_reducible first
      | assumption | apply State.longSettle_keeps | apply State.longEnd_keeps | apply Keeps.ite
    | with_reducible apply Keeps.mk'

theorem State.bulkPacket_keeps {z s : State} {h : Nat} {data : List Byte} (hs : Keeps z s) : Keeps z
    (State.bulkPacket s h data) := by
  unfold State.bulkPacket
  dsimp only
  repeat' first
    | with_reducible first
      | assumption | apply State.bulkIn_keeps | apply State.takeFlits_keeps | apply State.logE_keeps | apply State.bump_keeps
      | apply Keeps.ite
    | split

theorem execBulkPacket_keeps {z : State} {hdr : BitVec 128} {data : List Byte} {s : State} (hs : Keeps z s) : KeepsO z
    (execBulkPacket hdr data s) := by
  unfold execBulkPacket
  repeat' with_reducible first | assumption | apply State.bulkPacket_keeps | apply KeepsO.next | apply Keeps.ite

/-! ### Link -/

theorem State.resendFlits_keeps {z s : State} (hs : Keeps z s) : Keeps z (State.resendFlits s) := by
  unfold State.resendFlits
  repeat' first
    | with_reducible first
      | assumption | apply State.bump_keeps
    | with_reducible apply Keeps.mk'

theorem State.controlFlit_keeps {z s : State} {f : Nat} (hs : Keeps z s) : Keeps z (State.controlFlit s f) := by
  unfold State.controlFlit
  dsimp only
  repeat' first
    | with_reducible first
      | assumption | apply State.resendFlits_keeps | apply State.drainDreril_keeps | apply State.logE_keeps | apply Keeps.ite
    | split | dsimp only | with_reducible apply Keeps.mk'

theorem execLinkControlFlit_keeps {z : State} {flit : BitVec 256} {s : State} (hs : Keeps z s) : KeepsO z (execLinkControlFlit
    flit s) := by
  unfold execLinkControlFlit
  repeat' with_reducible first | assumption | apply State.controlFlit_keeps | apply KeepsO.next | apply Keeps.ite

theorem execLinkControlFlitSend_keeps {z s : State} (hs : Keeps z s) : KeepsO z (execLinkControlFlitSend s) := by
  unfold execLinkControlFlitSend
  repeat' first
    | with_reducible first
      | assumption | apply KeepsO.next | apply Keeps.ite
    | with_reducible apply Keeps.mk'

theorem execDrerilCodewordUncorr_keeps {z s : State} (hs : Keeps z s) : KeepsO z (execDrerilCodewordUncorr s) := by
  unfold execDrerilCodewordUncorr
  dsimp only
  repeat' first
    | with_reducible first
      | assumption | apply State.bump_keeps | apply KeepsO.next | apply Keeps.ite
    | with_reducible apply Keeps.mk'

theorem State.drerilDown_keeps {z s : State} (hs : Keeps z s) : Keeps z (State.drerilDown s) := by
  unfold State.drerilDown
  repeat' with_reducible first | assumption | apply State.logE_keeps | apply State.setAll_keeps

theorem execDrerilLinkDown_keeps {z s : State} (hs : Keeps z s) : KeepsO z (execDrerilLinkDown s) := by
  unfold execDrerilLinkDown
  repeat' with_reducible first | assumption | apply State.drerilDown_keeps | apply KeepsO.next | apply Keeps.ite

theorem State.retrained_keeps {z s : State} (hs : Keeps z s) : Keeps z (State.retrained s) := by
  unfold State.retrained
  repeat' with_reducible first
    | assumption | apply State.resendFlits_keeps | apply State.drerilUp_keeps | apply State.drainDreril_keeps
    | apply State.bump_keeps

theorem execRetrain_keeps {z s : State} (hs : Keeps z s) : KeepsO z (execRetrain s) := by
  unfold execRetrain
  repeat' with_reducible first | assumption | apply State.retrained_keeps | apply KeepsO.next | apply Keeps.ite

end Sys2Proof.Machine
end

