-- ==== Sys2Proof/Laws/Log.lean ====
section
/-! SUPPORT. What a trace record, an entry of the error log and an alert do to the registers. -/

namespace Sys2Proof.Machine

open Sys2Proof Safety

/-- The fields that trace records write (R441, R443). -/
def traceFields : List Field := [Obs.traceFull, Obs.traceDrops, Obs.traceNext]

/-- The fields that a log entry of a class and a unit writes besides those of its trace record (R436, R437). -/
def logFields (cls : Nat) (u : LogUnit) : List Field :=
  [Elog.next, Elog.oldest, Elog.logLost, Elog.logEvt, Elog.classCount cls] ++ u.errors.toList ++ traceFields

theorem State.traceRing_get (s : State) (rec : Nat) {f : Field} (h : ∀ g ∈ traceFields, f.key ≠ g.key) :
    (s.traceRing rec).get f = s.get f := by
  have h1 := h Obs.traceFull (by simp [traceFields])
  have h2 := h Obs.traceDrops (by simp [traceFields])
  have h3 := h Obs.traceNext (by simp [traceFields])
  unfold State.traceRing
  dsimp only
  split
  · rw [State.get_bump_ne _ _ h2, State.get_set_ne _ _ h1]
  · split
    · rw [State.get_bump_ne _ _ h3]
    · rw [State.get_bump_ne _ _ h3, State.get_store]

theorem State.traceDrain_get (s : State) (r : Nat) {f : Field} (h : ∀ g ∈ traceFields, f.key ≠ g.key) :
    (s.traceDrain r).get f = s.get f := by
  unfold State.traceDrain
  split
  · rfl
  · exact State.traceRing_get _ _ h

/-- A trace record leaves every register but those of the trace block. -/
theorem State.trace_get (s : State) (r kind : Nat) (l : List (Nat × Nat)) {f : Field} (h : ∀ g ∈ traceFields, f.key ≠ g.key) :
    (s.trace r kind l).get f = s.get f := by
  unfold State.trace
  split
  · dsimp only
    split
    · rfl
    · split
      · exact State.traceDrain_get s r h
      · exact State.get_bump_ne _ _ (h Obs.traceDrops (by simp [traceFields]))
  · rfl

theorem State.logCount_get (s : State) (cls : Nat) {f : Field}
    (h : ∀ g ∈ [Elog.next, Elog.oldest, Elog.logLost, Elog.logEvt, Elog.classCount cls], f.key ≠ g.key) :
    (s.logCount cls).get f = s.get f := by
  simp only [List.mem_cons, List.not_mem_nil, or_false, forall_eq_or_imp, forall_eq] at h
  obtain ⟨h1, h2, h3, h4, h5⟩ := h
  unfold State.logCount
  dsimp only
  rw [State.get_bump_ne _ _ h5, State.get_set_ne _ _ h4]
  split
  · rw [State.get_bump_ne _ _ h3, State.get_set_ne _ _ h2, State.get_set_ne _ _ h1]
  · rw [State.get_set_ne _ _ h1]

/-- A log entry leaves every register but those it counts in. -/
theorem State.log1_get (s : State) (cls : Nat) (u : LogUnit) (a d : Nat) {f : Field} (h : ∀ g ∈ logFields cls u, f.key ≠ g.key) :
    (s.log1 cls u a d).get f = s.get f := by
  have ht : ∀ g ∈ traceFields, f.key ≠ g.key := fun g hg => h g (List.mem_append_right _ hg)
  have hc : ∀ t : State, (t.logCount cls).get f = t.get f := fun t =>
    State.logCount_get t cls fun g hg => h g (List.mem_append_left _ (List.mem_append_left _ hg))
  have hb : ∀ (t : State) (g : Field), u.errors = some g → (t.bump g 1).get f = t.get f := fun t g hg =>
    State.get_bump_ne _ _ (h g (by simp [logFields, hg]))
  unfold State.log1
  dsimp only
  cases hu : u.errors with
  | none => cases u.region with
    | none => exact hc _
    | some r => exact (State.trace_get _ _ _ _ ht).trans (hc _)
  | some g => cases u.region with
    | none => exact (hb _ g hu).trans (hc _)
    | some r => exact (State.trace_get _ _ _ _ ht).trans ((hb _ g hu).trans (hc _))

theorem State.logE_get (s : State) (cls : Nat) (u : LogUnit) (a : Nat) (l : List (Nat × Nat)) {f : Field}
    (h : ∀ g ∈ logFields cls u, f.key ≠ g.key) : (s.logE cls u a l).get f = s.get f := State.log1_get s cls u a _ h

theorem State.traceRing_log (s : State) (rec : Nat) : (s.traceRing rec).log = s.log := by
  unfold State.traceRing
  dsimp only
  split
  · simp only [State.bump_log, State.set_log]
  · split <;> simp only [State.bump_log, State.store_log]

theorem State.traceDrain_log (s : State) (r : Nat) : (s.traceDrain r).log = s.log := by
  unfold State.traceDrain
  split
  · rfl
  · exact State.traceRing_log _ _

theorem State.trace_log (s : State) (r kind : Nat) (l : List (Nat × Nat)) : (s.trace r kind l).log = s.log := by
  unfold State.trace
  split
  · dsimp only
    split
    · rfl
    · split
      · exact State.traceDrain_log s r
      · rfl
  · rfl

theorem State.logCount_log (s : State) (cls : Nat) : (s.logCount cls).log = s.log := by
  unfold State.logCount
  dsimp only
  split <;> simp only [State.bump_log, State.set_log]

/-- The entry that a log entry's number names afterwards (R432, R436). -/
theorem State.log1_entry (s : State) (cls : Nat) (u : LogUnit) (a d : Nat) :
    (s.log1 cls u a d).log = Tab.put s.log (s.get Elog.next % 65536)
      ⟨s.now, s.get Elog.next, cls, u.utype, u.num, twos 12 (s.sensors u).1, (s.sensors u).2 % 2 ^ 16, a % 2 ^ 48, d % 2 ^ 60⟩ := by
  unfold State.log1
  dsimp only
  cases u.errors with
  | none => cases u.region with
    | none => exact State.logCount_log _ _
    | some r => exact (State.trace_log _ _ _ _).trans (State.logCount_log _ _)
  | some g => cases u.region with
    | none => exact (State.bump_log _ _ _).trans (State.logCount_log _ _)
    | some r => exact (State.trace_log _ _ _ _).trans ((State.bump_log _ _ _).trans (State.logCount_log _ _))

theorem State.alert_get (s : State) {f : Field} (h : ∀ g ∈ [Side.alertPend, Side.alertCount, Side.alertOut], f.key ≠ g.key) :
    s.alert.get f = s.get f := by
  simp only [List.mem_cons, List.not_mem_nil, or_false, forall_eq_or_imp, forall_eq] at h
  rw [State.alert, State.get_set_ne _ _ h.2.2, State.get_bump_ne _ _ h.2.1, State.get_set_ne _ _ h.1]

end Sys2Proof.Machine
end

