-- ==== Sys2Proof/Laws/Mailbox.lean ====
section
/-! SUPPORT. What the shared path of the mailbox commands does (R396, R401). -/

namespace Sys2Proof.Machine

open Sys2Proof Safety

/-- A command that its mailbox takes writes that mailbox's state, MB_OVERWRITE_EVT and CMDS alone (R401). -/
theorem taken_get (s : State) (h : HostHdr) (w : List W64) (f : Field) (h1 : f.key ≠ (Mb.mbState (h.tag.toNat % 32)).key)
    (h2 : f.key ≠ Cmd.mbOverwriteEvt.key) (h3 : f.key ≠ Cmd.cmds.key) : (taken s h w).get f = s.get f := by
  unfold taken State.mailboxTake
  have hl (x : State) (m e : Nat) : (x.latchArea m e).get f = x.get f := rfl
  simp only [hl]
  rw [State.get_set_ne _ _ h1]
  split
  · rw [State.get_set_ne _ _ h2]; exact State.get_bump_ne _ _ h3
  · exact State.get_bump_ne _ _ h3
/-- What holds of every mailbox holds of the one that a tag names. -/
theorem mailbox_of_tag (P : Nat → Prop) [DecidablePred P] (h : ∀ q, q < 32 → P q) (n : Nat) : P (n % 32) := h _ (Nat.mod_lt _ (by decide))
/-- The shared path of every mailbox command (R396): the three refusals and the acceptance, each with its result. -/
theorem mailbox_cases (s : State) (h : HostHdr) (w : List W64) (op : Nat) (acc : Accepted) (die long shape : Bool) (body : State → Answer) :
    let m : Call := ⟨h, w, op, acc, die, long, shape⟩
    let r := s.received w
    (headerOk h w = false → s.mailbox h w op acc die long shape body = (r.reply ⟨op, h.tag.toNat, stBadParam, 0, []⟩)) ∧
    (headerOk h w = true → s.get (Mb.mbState (h.tag.toNat % 32)) = 1 → s.mailbox h w op acc die long shape body = (r.reply ⟨op, h.tag.toNat, stBusy, 0, []⟩)) ∧
    (∀ st, headerOk h w = true → s.get (Mb.mbState (h.tag.toNat % 32)) ≠ 1 → refusal s m = some st →
       s.mailbox h w op acc die long shape body = (taken s h w).complete op h.tag.toNat st 0 []) ∧
    (headerOk h w = true → s.get (Mb.mbState (h.tag.toNat % 32)) ≠ 1 → refusal s m = none →
       s.mailbox h w op acc die long shape body = State.settle op h.tag.toNat (body (taken s h w))) := by
  intro m r
  have hr : r.get (Mb.mbState (h.tag.toNat % 32)) = s.get (Mb.mbState (h.tag.toNat % 32)) :=
    State.get_bump_ne _ _ (mailbox_of_tag (fun n => (Mb.mbState n).key ≠ Cmd.cmds.key) (by decide) _)
  have kg (f : Field) (hh : ∀ n, n < 32 → f.key ≠ (Mb.mbState n).key)
    (h2 : f.key ≠ Cmd.mbOverwriteEvt.key) (h3 : f.key ≠ Cmd.cmds.key) : (taken s h w).get f = s.get f := taken_get _ _ _ _ (mailbox_of_tag _ hh _) h2 h3
  have e1 := kg Sec.bootRecovery (by decide) (by decide) (by decide)
  have e2 := kg Cmd.runState (by decide) (by decide) (by decide)
  have e3 := kg Cmd.routingStopped (by decide) (by decide) (by decide)
  have e4 := kg Cmd.powerState (by decide) (by decide) (by decide)
  have e5 := kg Cmd.longActive (by decide) (by decide) (by decide)
  have e6 := kg Side.resetNIn (by decide) (by decide) (by decide)
  have ha : (taken s h w).allow acc die long = s.allow acc die long := by simp [State.allow, e2, State.flag, e3, State.active, e4, e5, e6]
  have hb : (taken s h w).recovering op = s.recovering op := by simp only [State.recovering, State.flag, e1]
  refine ⟨fun h1 => ?_, fun h1 h2 => ?_, fun st h1 h2 h3 => ?_, fun h1 h2 h3 => ?_⟩
  · simp [State.mailbox, h1, r]
  · rw [← hr] at h2
    simp [State.mailbox, h1]; simp only [r] at h2; simp [h2, r]
  · rw [← hr] at h2; simp only [r] at h2
    simp [State.mailbox, h1, h2]
    change (match (if (taken s h w).recovering op = true then some stNotReady else (taken s h w).allow acc die long) with | some st => _ | none => _) = _
    rw [ha, hb]
    simp only [refusal, m] at h3
    cases hq : s.recovering op
    · cases hq2 : s.allow acc die long <;> simp_all [taken]
    · simp_all [taken]
  · rw [← hr] at h2; simp only [r] at h2
    simp [State.mailbox, h1, h2]
    change (match (if (taken s h w).recovering op = true then some stNotReady else (taken s h w).allow acc die long) with | some st => _ | none => _) = _
    rw [ha, hb]
    simp only [refusal, m] at h3
    cases hq : s.recovering op
    · cases hq2 : s.allow acc die long <;> simp_all [taken]
    · simp_all

end Sys2Proof.Machine
end

