-- ==== Sys2Proof/Tests/Slice0.lean ====
section
/-! SUPPORT. Tests: the well-formedness smoke, witnesses for the hypotheses of the statements, and worked cases of the manual. -/

set_option maxRecDepth 100000

namespace Sys2Proof.Tests

open Sys2Proof Sys2Proof.Machine Sys2Proof.Safety

/-! ### Small states -/

/-- ACTIVE and stopped. -/
def on : State := State.reset.set Cmd.powerState 2

/-- ACTIVE and running. -/
def going : State := on.set Cmd.runState 2

/-- Bench 0 executes. -/
def bench : State := going.set (Ben.state 0) 1

/-- A state with fields set. -/
def State.plus (s : State) (l : List (Machine.Field × Nat)) : State := s.setAll l

/-- A host command's header with TAG 3. -/
def hd (form len : Nat) : HostHdr := ⟨1, 0, 3, BitVec.ofNat 12 len, BitVec.ofNat 4 form, 0⟩

/-- A valid descriptor of one row of n elements of a format at an address of LPDDR5X (space 0) or stone (space 1). -/
def descW (space fmt base n : Nat) : Nat := 1 + space * 16 + 128 + fmt * 256 + 2 ^ 13 + base * 2 ^ 16 + n * 2 ^ 192

/-- A descriptor in bench 0's table. -/
def withDesc (s : State) (h w : Nat) : State := s.store (descAddr 0 h) (leBytes 64 w)

/-! ### Compositor -/

/-- Bench 0 with a general register set. -/
def benchG (r v : Nat) : State := bench.set (Cmp.gr 0 r) v

theorem ready_bench : ready bench 0 := by unfold ready; decide

theorem witness_AluImmediateWritesRd : ready bench 0 := ready_bench

theorem witness_AluRegisterWritesRd : ready (benchG 31 0xFFFFFFFF) 0 := by unfold ready; decide

theorem witness_BranchesAndJumpsSetThePc : ready bench 0 ∧ (bench.g 0 0 + (0xFFFC : BitVec 16).signExtend 32).toNat % 4 = 0 ∧
    (bench.g 0 0 + (0xFFFD : BitVec 16).signExtend 32).toNat % 4 ≠ 0 := ⟨ready_bench, by decide⟩

theorem witness_LocalAddressesFollowTheTable :
    (0xFFFD % 4 ≠ 0) ∧ (0xFFF8 % 8 = 0 ∧ 0xFFF8 < 0x10000) ∧ (0x10000 % 8 = 0 ∧ 0x1FFFC % 4 = 0 ∧ 0x1FFFC < 0x20000) ∧
    (0x20000 % 8 = 0 ∧ 0x201FC % 4 = 0 ∧ 0x201FC < 0x20200) ∧ (0x20200 < 0x1000000 ∧ 0xFFFFFF < 0x1000000) ∧
    (0x1000000 % 8 = 0 ∧ 0x1DFFFFC % 4 = 0 ∧ 0x1DFFFFC < 0x1E00000) ∧ 0x1FFFFFF < 0x2000000 ∧
    (0x2000000 % 8 = 0 ∧ 0x29FFFF8 % 8 = 0 ∧ 0x29FFFF8 < 0x2A00000) ∧ 0x2A00000 ≤ 0xFFFFFFFF := by decide

theorem witness_LoadsReadLocalMemory :
    ready bench 0 ∧ bench.localAt 0 0 4 = .memory (dmemAddr 0 0) ∧ bench.readErr (dmemAddr 0 0) 4 = none ∧
    bench.localAt 0 0xFFF8 8 = .memory (dmemAddr 0 0xFFF8) ∧ bench.readErr (dmemAddr 0 0xFFF8) 8 = none ∧
    (ready (benchG 1 0x20000) 0 ∧ (benchG 1 0x20000).localAt 0 (((benchG 1 0x20000).g 0 1).toNat) 8 = .queue 0 0) ∧
    bench.localAt 0 0xFFFD 4 = .fault ∧ bench.localAt 0 0xFFFC 8 = .fault := by unfold ready; decide

theorem witness_LoadsReadLocalMemory_bad :
    let s : State := { bench with badWords := [dmemAddr 0 0] }
    ready s 0 ∧ s.localAt 0 4 4 = .memory (dmemAddr 0 4) ∧ s.readErr (dmemAddr 0 4) 4 = some (dmemAddr 0 0) ∧
    s.readErr (dmemAddr 0 0) 8 = some (dmemAddr 0 0) := by unfold ready; decide

/-- Bench 0 with a handle of one signal word in the shared area, registered in the directory of its die. -/
def sigBench : State :=
  let a := stoneBase 0 + 0x5600000
  ((withDesc bench 0 (descW 1 0 a 1)).store (dirBase 0) (leBytes 6 a ++ [0x01])).set (Cmp.gr 0 2) 0x2000000

theorem witness_StoresWriteTheirBytesOnly :
    ready bench 0 ∧ bench.localAt 0 0 4 = .memory (dmemAddr 0 0) ∧ bench.storeErr (dmemAddr 0 0) 4 = none ∧
    bench.localAt 0 0x1FFF8 8 = .memory (descAddr 0 0 + 0xFFF8) ∧
    ({ bench with badWords := [dmemAddr 0 0] } : State).storeErr (dmemAddr 0 4) 4 = some (dmemAddr 0 0) ∧
    bench.localAt 0 0x2000000 4 = .shared (stoneBase 0 + 0x5600000) ∧ bench.namesWord 0 (stoneBase 0 + 0x5600000) = false ∧
    ready sigBench 0 ∧ sigBench.namesWord 0 (stoneBase 0 + 0x5600000) = true ∧
    sigBench.storeErr (stoneBase 0 + 0x5600000) 4 = none ∧ bench.queueBound 0 63 = false ∧ bench.localAt 0 0x201F8 8 = .queue 63 0 ∧
    bench.localAt 0 0x20200 4 = .fault := by unfold ready; decide

theorem witness_BoundaryAndStatusInstructions :
    ready bench 0 ∧ bench.flag (Cmp.swapPending 0) = false ∧ ready (bench.set (Cmp.swapPending 0) 1) 0 ∧
    (bench.set (Cmp.swapPending 0) 1).flag (Cmp.swapPending 0) = true ∧ bench.statusWord 0 12 = some 0 ∧ 12 < (13 : BitVec 5).toNat ∧
    bench.allIdle 0 = true ∧ (bench.set (Stn.state 0 9) 1).allIdle 0 = false ∧ ready (bench.set (Stn.state 0 9) 1) 0 := by unfold ready; decide

theorem witness_SignalInstructions :
    ready sigBench 0 ∧ (∃ a e, sigBench.sigRef 0 0 0 = .word a e) ∧ sigBench.gPair 0 0 ≤ sigBench.rdNat (stoneBase 0 + 0x5600000) 8 ∧
    sigBench.rdNat (stoneBase 0 + 0x5600000) 8 < sigBench.gPair 0 2 ∧ (∃ t, bench.sigRef 0 0 0 = .fault t) :=
  ⟨by unfold ready; decide, ⟨_, _, rfl⟩, by decide, by decide, ⟨_, rfl⟩⟩

theorem witness_SignalInstructions_adds :
    (∃ t, sigBench.sigAdd (stoneBase 0 + 0x5600000) 0 ⟨sigBench.get Fab.deviceId, sigBench.logical 0⟩ = .added t) ∧
    (∃ t, sigBench.sigAdd (stoneBase 0 + 0x5600000) 1 ⟨sigBench.get Fab.deviceId, sigBench.logical 0⟩ = .overflow t) :=
  ⟨⟨_, rfl⟩, ⟨_, rfl⟩⟩

/-- Bench 0 with monitor slot 0 armed on a word, fired or not. -/
def monBench (threshold : Nat) : State :=
  sigBench.setComp 0 { sigBench.comp 0 with mons := [(0, ⟨stoneBase 0 + 0x5600000, 0, 0, threshold, true, false⟩)] }

theorem witness_SignalInstructions_mwait :
    (∀ e ∈ (((monBench 0).refreshMons 0).comp 0).mons, e.2.armed = true → bitAt 1 e.1 = true → e.2.fired = true) ∧
    (∃ e ∈ (((monBench 1).refreshMons 0).comp 0).mons, e.2.armed = true ∧ bitAt 1 e.1 = true ∧ e.2.fired = false) := by decide

theorem witness_SignalAddsStayWithinTheTarget :
    let a := stoneBase 0 + 0x5600000
    sigBench.dirFind a = some (dirBase 0) ∧ sigBench.readErr a 8 = none ∧ a + 8 ≤ dirBase 0 ∧
    sigBench.rdNat a 8 + 0 ≤ sigBench.sigTarget (dirBase 0) (sigBench.step + sigBench.sigLead (dirBase 0)) ∧
    sigBench.sigTarget (dirBase 0) (sigBench.step + sigBench.sigLead (dirBase 0)) < sigBench.rdNat a 8 + 1 := by decide

theorem witness_ByteCountsAndIllegalInstructions :
    let s := (withDesc bench 0 (descW 0 1 0 32)).set (Cmp.gr 0 3) 1
    ∃ d, ready s 0 ∧ s.readErr (descAddr 0 0) 64 = none ∧ s.desc 0 0 = some d ∧ d.space ≤ 1 ∧ d.base % 32 = 0 ∧ 0 < (s.g 0 3).toNat ∧ (s.g 0 3).toNat ≤ d.size ∧
      s.ramOk d.base (s.g 0 3).toNat = true ∧ s.readErr d.base (s.g 0 3).toNat = none ∧ legalWord 0xFFFFFFFF = false ∧
      legalWord 0x04A00040 = true :=
  ⟨Desc.ofWord (descAddr 0 0) (descW 0 1 0 32), by unfold ready; decide⟩

/-- A record that launches DIGEST_TILE on Proof from one tile to queue 0 (R167). -/
def recW : Nat := 1 + 9 * 16 + 256 + 2 ^ 16 + 2 ^ 20 + (2 + 2 ^ 24) * 2 ^ 256 + (1 + 2 ^ 24) * (2 ^ 256) ^ 3

/-- Bench 0 with that record in its data memory. -/
def proofBench : State :=
  ((withDesc bench 0 (descW 0 0 0 1024)).store (dmemAddr 0 0) (leBytes 128 recW)).setAll
    [(Cmp.queueBase 0 0, 0), (Cmp.queueSlots 0 0, 1), (Cmp.queueSlotb 0 0, 1)]

theorem witness_StreamLaunchAndWaits :
    let s := proofBench
    let w := s.rdNat (dmemAddr 0 0) 128
    let x := s.launchOf 0 0 w
    ready s 0 ∧ s.readErr (dmemAddr 0 0) 128 = none ∧ s.strmErr 0 w = none ∧ firstBad (s.recChecks 0 0 w) = none ∧ x.stn < 10 ∧
    x.stn ≠ 2 ∧ s.get (Stn.state 0 x.stn) = 0 ∧ s.stream 0 x.stn = none ∧ s.sideHeld 0 x = false ∧ s.overlaps 0 x (s.matrixRange 0) = none ∧
    firstBad (s.stationChecks 0 x) = none ∧ (s.recColls 0 w).all (fun c => (s.benchTurn 0 c).1) = true := by unfold ready; decide

/-- Bench 0 with that record's stream running, or waiting. -/
def digesting (n : Nat) : State := { proofBench with streams := [(9, proofBench.launchOf 0 0 recW)] }.set (Stn.state 0 9) n

theorem witness_StreamLaunchAndWaits_waits :
    bench.get (Stn.state 0 9) = 0 ∧ bench.allIdle 0 = true ∧ (digesting 1).executes 0 = true ∧
    (digesting 1).readErr ((digesting 1).fetchAddr 0) 4 = none ∧ (digesting 1).get (Stn.state 0 9) ≠ 0 ∧ 9 < (15 : BitVec 5).toNat ∧
    (bench.wait 0 (.swait 9) 2 9 0 0 0).benchRuns 0 = true ∧ ((bench.wait 0 (.swait 9) 2 9 0 0 0).comp 0).waiting = some (.swait 9) ∧
    (digesting 2).stream 0 9 = some (proofBench.launchOf 0 0 recW) ∧ (digesting 2).get (Stn.state 0 9) = 2 ∧
    (digesting 2).benchRuns 0 = true := by decide

/-! ### Stations -/

/-- A descriptor word of rows of n elements of a format, each row stride bytes after the one before. -/
def tensorW (fmt base n rows stride : Nat) : Nat :=
  1 + 128 + fmt * 256 + 2 * 2 ^ 13 + base * 2 ^ 16 + n * 2 ^ 192 + rows * 2 ^ 256 + stride * (2 ^ 140) ^ 2

/-- A stream of a form on station i as it stands after a launch. -/
def stn (i form : Nat) (p : List Nat) (ins outs : List Binding) (descs : Tab Nat) : Stream :=
  { form := form, numMode := false, desc := false, recAddr := 0, p0 := nth 0 p 0, p1 := nth 0 p 1, p2 := nth 0 p 2, p3 := nth 0 p 3
    ins := ins, outs := outs, descs := descs, loop := none, sigEn := false, sigAddr := 0, sigInc := 0, inPos := ins.map fun _ => 0
    outPos := outs.map fun _ => 0, fold := [], foldNeg := [], units := 0, tokensIn := 0, tokensOut := 0, recomputes := 0, streamNo := 1
    startStamp := 0, startEvent := 0, startStep := 0, startCnt := [], waitSince := 0, failedDst := false, bank := 0, stn := i }

/-- Bench 0 with that stream running, and queue 0 of four slots of 4,096 bytes. -/
def worksOn (s : State) (x : Stream) : State :=
  { s with streams := [(x.stn, x)] }.setAll [(Stn.state 0 x.stn, 1), (Cmp.queueSlots 0 0, 4), (Cmp.queueSlotb 0 0, 128)]

/-- The check of `works`. -/
def worksB (s : State) (b i kind form : Nat) (x : Stream) : Bool :=
  s.stream b i == some x && decide (b < 40) && decide (i < 10) && kindCode i == kind && x.form == form && s.benchRuns b &&
    !s.flag (Stn.recomputing b i) && !x.crossed && s.get (Stn.state b i) == 1 && !s.slotWaits b i

theorem works_of_worksB {s : State} {b i kind form : Nat} {x : Stream} (h : worksB s b i kind form x = true) : works s b i kind form x := by
  simpa [worksB, works, and_assoc] using h

/-- The check of `permitted`. -/
def permittedB (s : State) (b i a n : Nat) (sc : Bool) : Bool := s.mayWrite b i a n sc && (s.storeErr a n).isNone

theorem permitted_of_permittedB {s : State} {b i a n : Nat} {sc : Bool} (h : permittedB s b i a n sc = true) : permitted s b i a n sc := by
  simpa [permittedB, permitted] using h

/-- The check of `storable`. -/
def storableB (s : State) (b i a n : Nat) : Bool :=
  permittedB s b i a n false && (List.range 8).all fun k => decide (a + n ≤ dirBase k ∨ dirBase k + 0x80000 ≤ a)

theorem storable_of_storableB {s : State} {b i a n : Nat} (h : storableB s b i a n = true) : storable s b i a n := by
  simp only [storableB, Bool.and_eq_true, List.all_eq_true, List.mem_range, decide_eq_true_eq] at h
  exact ⟨permitted_of_permittedB h.1, h.2⟩

/-- The check of `takesOut`. -/
def takesB (s : State) (b i : Nat) (x : Stream) (p : Nat) (t : Tok) (addr : Option Int) : Bool :=
  s.space b x p &&
    (((outPort x p).kind == 1 && t.fmt == exactFmt) ||
     ((outPort x p).kind == 1 && t.fmt != exactFmt && decide (t.bytes.length ≤ 32 * s.get (Cmp.queueSlotb b (outPort x p).id)) &&
        (outAddr s b x p t.count addr).any fun a => permittedB s b i a t.bytes.length false) ||
     ((outPort x p).kind == 2 && t.fmt != exactFmt && (x.descOf b (outPort x p).id).any fun d => d.space != 3 &&
        (outAddr s b x p t.count addr).any fun a => permittedB s b i a t.bytes.length (x.form == 0)))

theorem takesOut_of_takesB {s : State} {b i : Nat} {x : Stream} {p : Nat} {t : Tok} {addr : Option Int}
    (h : takesB s b i x p t addr = true) : takesOut s b i x p t addr := by
  simp only [takesB, Bool.and_eq_true, Bool.or_eq_true, beq_iff_eq, bne_iff_ne, decide_eq_true_eq, Option.any_eq_true] at h
  obtain ⟨h0, (⟨h1, h2⟩ | ⟨⟨⟨h1, h2⟩, h3⟩, a, h4, h5⟩) | ⟨⟨h1, h2⟩, d, h3, h4, a, h5, h6⟩⟩ := h
  · exact ⟨h0, .inl ⟨h1, h2⟩⟩
  · exact ⟨h0, .inr (.inl ⟨h1, h2, h3, a, h4, permitted_of_permittedB h5⟩)⟩
  · exact ⟨h0, .inr (.inr ⟨h1, h2, d, a, h3, h4, h5, permitted_of_permittedB h6⟩)⟩

/-- A schedule without a bucket completes none. -/
theorem notLast_of_none {s : State} {k n : Nat} (h : s.bucket k = none) : notLast s k n := by
  intro x hx; rw [h] at hx; cases hx

/-- A stream of a form with nothing bound. -/
def streamOf (i form : Nat) : Stream := stn i form [] [⟨1, 1, 1⟩] [] []

/-- Bench 0 with a stream running on station i. -/
def withStream (i form : Nat) : State := worksOn bench (streamOf i form)

theorem witness_StationFormsWork :
    (List.range 8).all (fun f => worksB (withStream 0 f) 0 0 1 f (streamOf 0 f) && worksB (withStream 1 f) 0 1 1 f (streamOf 1 f)) = true ∧
    [(2, 2, 0), (2, 2, 1), (3, 3, 0), (3, 3, 1), (4, 3, 2), (5, 4, 0), (5, 4, 1), (5, 4, 2), (5, 4, 3), (6, 5, 0), (6, 5, 1), (7, 6, 0),
      (7, 6, 1), (8, 7, 0), (8, 7, 1), (9, 8, 0), (9, 8, 1)].all
      (fun (e : Nat × Nat × Nat) => worksB (withStream e.1 e.2.2) 0 e.1 e.2.1 e.2.2 (streamOf e.1 e.2.2)) = true := by decide

theorem witness_StationFormsWork_outcomes :
    (∃ u, (withStream 0 4).lineSumWork 0 0 false (streamOf 0 4) = .wait ∨ (withStream 0 4).lineSumWork 0 0 false (streamOf 0 4) = .ok u) ∧
    (withStream 0 0).scaleWork 0 0 (streamOf 0 0) = .wait := ⟨⟨bench, .inl rfl⟩, rfl⟩

/-- Tensors in LPDDR5X: 1 and 2 of four rows, 3 and 5 of indices, 4 and 6 of one row. -/
def tensors : Tab Nat :=
  [(1, tensorW 0 0x10000 8 4 32), (2, tensorW 0 0x20000 8 4 32), (3, tensorW 12 0x30000 2 1 0), (4, tensorW 0 0x40000 4 1 0),
    (5, tensorW 12 0x50000 4 1 0), (6, tensorW 0 0x60000 2 1 0)]

/-- Their contents: an element of row 0, the indices 3 and 1, keys. -/
def loaded : State :=
  ((bench.store 0x10000 (leBytes 4 0x3F800000)).store 0x30000 (leBytes 4 3 ++ leBytes 4 1)).store 0x40000
    (leBytes 4 0x3F800000 ++ leBytes 4 0x40400000)

/-- The tokens of a collection. -/
def toksOf : Got → List Tok
  | .toks l => l
  | _ => []

/-- The token of a peek. -/
def tokOf : Peek → Tok
  | .tok t => t
  | _ => noTok

/-- A descriptor of the table above. -/
def tensor (h : Nat) : Desc := Desc.ofWord (descAddr 0 h) (Tab.get tensors 0 h)

theorem witness_StationFormsWork_gather :
    let x := stn 5 0 [1] [⟨2, 3, 1⟩] [⟨1, 0, 1⟩] tensors
    let s := worksOn loaded x
    let d := tensor 1
    let per := s.formeSlot 0 x / d.rowLen
    let ts := toksOf (s.collectUntil 0 5 x (fun t => t.fmt == 12) (·.count) 0 (1 * per - 0) (1 - 0) 0 [])
    let row := toksOf (s.readRows 0 5 d (((ts.map tokIdx).flatten.drop 0).take per) [] 0)
    worksB s 0 5 4 0 x = true ∧ x.descOf 0 x.p0 = some d ∧ 0 < d.rowLen ∧ d.rowLen ≤ s.formeSlot 0 x ∧ 0 < (outPort x 0).count ∧
    s.collectUntil 0 5 x (fun t => t.fmt == 12) (·.count) 0 (1 * per - 0) (1 - 0) 0 [] = .toks ts ∧ 0 < (ts.map (·.count)).sum ∧
    (ts.map (·.count)).sum ≤ maxIndices ∧ s.readRows 0 5 d (((ts.map tokIdx).flatten.drop 0).take per) [] 0 = .toks [nth noTok row 0] ∧
    takesB s 0 5 x 0 (nth noTok row 0) none = true := by decide

theorem witness_StationFormsWork_permute :
    let x := stn 5 2 [1, 5] [] [⟨1, 0, 1⟩] tensors
    let s := worksOn loaded x
    let d := tensor 1
    let t := tensor 5
    let places := (List.range (min (s.formeSlot 0 x / d.rowLen) (t.size - 0))).map fun q =>
      let e := t.elemPlace (0 + q); t.deviceAddr 0 (e.1 + (4 * e.2 : Nat))
    let row := toksOf (s.readRows 0 5 d (places.map fun a => s.rdNat a 4) [] 0)
    worksB s 0 5 4 2 x = true ∧ x.descOf 0 x.p0 = some d ∧ x.descOf 0 x.p1 = some t ∧ 0 < d.rowLen ∧ d.rowLen ≤ s.formeSlot 0 x ∧
    0 < (outPort x 0).count ∧ places.length = 4 ∧ (∀ a ∈ places, s.mayRead 0 t a 4 = true ∧ s.readErr a 4 = none) ∧
    s.readRows 0 5 d (places.map fun a => s.rdNat a 4) [] 0 = .toks [nth noTok row 0] ∧ takesB s 0 5 x 0 (nth noTok row 0) none = true := by
  decide

theorem witness_StationFormsWork_strided :
    let x := stn 5 3 [1] [] [⟨2, 2, 4⟩] tensors
    let s := worksOn loaded x
    let t := tokOf (s.peekTensor 0 5 15 0 { x with loop := none } (tensor 1))
    worksB s 0 5 4 3 x = true ∧ x.descOf 0 x.p0 = some (tensor 1) ∧ 0 < (outPort x 0).count ∧
    s.peekTensor 0 5 15 0 { x with loop := none } (tensor 1) = .tok t ∧ takesB s 0 5 x 0 t none = true := by decide

theorem witness_StationFormsWork_scatter :
    let x := stn 5 1 [2] [⟨2, 3, 1⟩, ⟨2, 1, 4⟩] [] tensors
    let s := worksOn loaded x
    let d := tensor 2
    let t := tokOf (s.peek 0 5 0 0 x)
    let rs := toksOf (s.collectUntil 0 5 x (fun _ => true) (·.bytes.length) 1 (0 + d.rowLen) (4 - 0) 0 [])
    worksB s 0 5 4 1 x = true ∧ x.descOf 0 x.p0 = some d ∧ s.peek 0 5 0 0 x = .tok t ∧ t.fmt = 12 ∧ t.count ≠ 0 ∧
    nth skipIdx (tokIdx t) 0 = 3 ∧ 3 < d.rows ∧
    s.collectUntil 0 5 x (fun _ => true) (·.bytes.length) 1 (0 + d.rowLen) (4 - 0) 0 [] = .toks rs ∧
    (((rs.map (·.bytes)).flatten.drop 0).take d.rowLen).length = d.rowLen ∧
    permittedB s 0 5 (d.deviceAddr 0 (d.base + d.rowOff 3)) d.rowLen false = true ∧
    (let u := worksOn (loaded.store 0x30000 (leBytes 4 skipIdx)) x
     worksB u 0 5 4 1 x = true ∧ nth skipIdx (tokIdx (tokOf (u.peek 0 5 0 0 x))) 0 = skipIdx) := by decide

theorem witness_StreamLaunchAndWaits_goes :
    let x := stn 5 1 [2] [⟨2, 3, 1⟩, ⟨2, 1, 4⟩] [] tensors
    let s := (worksOn (loaded.store 0x30000 (leBytes 4 skipIdx)) x).set (Stn.state 0 5) 2
    s.benchRuns 0 = true ∧ s.stream 0 5 = some x ∧ s.get (Stn.state 0 5) = 2 ∧ s.stationWork 0 5 x.form x ≠ .wait :=
  ⟨by decide, by decide, by decide, fun h => by cases h⟩

theorem witness_StationFormsWork_select :
    let x := stn 6 0 [0, 12] [⟨2, 4, 1⟩] [⟨1, 0, 1⟩] tensors
    let y := stn 6 0 [2, 12] [⟨2, 4, 1⟩] [⟨1, 0, 1⟩] tensors
    let s := worksOn loaded x
    let u := worksOn loaded y
    let ts := toksOf (s.nextKeys 0 6 x)
    let t := nth noTok ts 0
    let m := ((selectBits x (tokCodes [t]) []).zip (List.range 4)).map fun e => if e.1 then 2 ^ e.2 else 0
    worksB s 0 6 5 0 x = true ∧ x.hasInput = true ∧ s.nextKeys 0 6 x = .toks ts ∧ constFits x t.fmt = true ∧ x.ins.length ≠ 2 ∧
    s.masks 0 x = true ∧ takesB s 0 6 x 0 { fmt := 9, count := ceilDiv t.count 8, bytes := leBytes (ceilDiv t.count 8) m.sum } none = true ∧
    worksB u 0 6 5 0 y = true ∧ y.hasInput = true ∧ u.nextKeys 0 6 y = .toks ts ∧ u.masks 0 y = false := by decide

theorem witness_StationFormsWork_lists :
    let kept := [4, 1, keptOf 3 (0, 0)]
    let x : Stream := { stn 6 0 [2, 12] [⟨2, 4, 1⟩] [⟨1, 0, 1⟩] tensors with inPos := [1], fold := kept }
    let y : Stream := { stn 6 1 [2] [⟨2, 4, 1⟩] [⟨1, 0, 1⟩] tensors with inPos := [1], fold := kept }
    let z : Stream := stn 6 1 [2] [⟨2, 4, 1⟩] [⟨1, 0, 1⟩] tensors
    let tok := listTok [3] 2 0
    worksB (worksOn loaded x) 0 6 5 0 x = true ∧ x.hasInput = false ∧ (worksOn loaded x).masks 0 x = false ∧ 0 < (outPort x 0).count ∧
    takesB (worksOn loaded x) 0 6 x 0 tok none = true ∧ worksB (worksOn loaded y) 0 6 5 1 y = true ∧ y.hasInput = false ∧
    takesB (worksOn loaded y) 0 6 y 0 tok none = true ∧ worksB (worksOn loaded z) 0 6 5 1 z = true ∧ z.hasInput = true ∧
    (worksOn loaded z).nextKeys 0 6 z = .toks (toksOf ((worksOn loaded z).nextKeys 0 6 z)) ∧ 0 + 4 ≤ maxIndices := by decide

theorem keptIndices_one : keptIndices [keptOf 3 (0, 0)] = [3] := by simp [keptIndices, keptOf, keptIdx]

/-- A Galley stream of one key, sorted or merged. -/
def oneKey (form : Nat) : Stream := stn 7 form [] [⟨2, 7, 1⟩] [⟨1, 0, 1⟩] [(7, tensorW 0 0x40000 1 1 0)]

theorem witness_StationFormsWork_sort (form : Nat) (hf : form < 2) :
    let x := oneKey form
    let s := worksOn loaded x
    ∃ k, worksB s 0 7 6 form x = true ∧ x.nextOut = some 0 ∧ s.galleyRuns 0 7 x (payBytes x != 0) x.keyPorts [] 0 = (none, [[k]], 0) ∧
      unsortedAt x.desc [k] = none ∧ galleyCount x 0 1 0 = (outPort x 0).count ∧ takesB s 0 7 x 0 (keyTok [k] 0) none = true := by
  match form, hf with
  | 0, _ => exact ⟨_, by decide, rfl, rfl, rfl, by decide, by decide⟩
  | 1, _ => exact ⟨_, by decide, rfl, rfl, rfl, by decide, by decide⟩

theorem witness_StationFormsWork_matvec :
    let x := stn 8 0 [6] [⟨2, 6, 1⟩] [⟨1, 0, 1⟩] tensors
    let s := worksOn loaded x
    let d := tensor 6
    let ts := toksOf (s.collectAll 0 8 x (fun t => isPlatenFmt t.fmt) 0)
    let v := (ts.map fun t => tileVals t.fmt t.count t.bytes).flatten
    worksB s 0 8 7 0 x = true ∧ x.descOf 0 x.p0 = some d ∧ 0 < (outPort x 0).count ∧
    s.collectAll 0 8 x (fun t => isPlatenFmt t.fmt) 0 = .toks ts ∧ v.length = d.row ∧
    s.mayRead 0 d (d.deviceAddr 0 (d.base + d.rowOff 0)) d.rowLen = true ∧ s.readErr (d.deviceAddr 0 (d.base + d.rowOff 0)) d.rowLen = none ∧
    takesB s 0 8 x 0 { fmt := exactFmt, count := 1, bytes := exactBytes (exactOf (dotVals (s.matrixRow 0 d 0) v).1) } none = true := by decide

theorem witness_StationFormsWork_outer :
    let x := stn 8 1 [] [⟨2, 4, 1⟩, ⟨2, 6, 1⟩] [⟨1, 0, 4⟩] tensors
    let s := worksOn loaded x
    let ts := toksOf (s.collectAll 0 8 x (fun t => isPlatenFmt t.fmt) 0)
    let us := toksOf (s.collectAll 0 8 x (fun t => isPlatenFmt t.fmt) 1)
    let r := (ts.map fun t => tileVals t.fmt t.count t.bytes).flatten
    let c := (us.map fun t => tileVals t.fmt t.count t.bytes).flatten
    worksB s 0 8 7 1 x = true ∧ s.collectAll 0 8 x (fun t => isPlatenFmt t.fmt) 0 = .toks ts ∧
    s.collectAll 0 8 x (fun t => isPlatenFmt t.fmt) 1 = .toks us ∧ (outPort x 0).count = r.length * ceilDiv c.length 1024 ∧ r.length = 4 ∧
    c.length = 2 ∧ takesB s 0 8 x 0 { fmt := exactFmt, count := 2, bytes := [] } none = true := by decide

theorem witness_StationFormsWork_digest :
    [(0, 4), (0, 1), (1, 4), (1, 1)].all (fun (e : Nat × Nat) =>
      let x := stn 9 e.1 [] [⟨2, 1, e.2⟩] [⟨1, 0, 1⟩] tensors
      let s := worksOn loaded x
      let t := tokOf (s.peek 0 9 0 0 x)
      worksB s 0 9 8 e.1 x && s.peek 0 9 0 0 x == .tok t && t.piece == 0 &&
        (1 < e.2 || takesB s 0 9 x 0 { fmt := 9, count := 16, bytes := List.replicate 16 0 } none)) = true := by decide

/-- Tensors of reductions: 1 a SCALE packet, 2 and 6 records, 3 a global result of one block, 4 and 5 tiles of 32 elements. -/
def redTensors : Tab Nat :=
  [(1, tensorW 16 0x10000 1 1 0), (2, tensorW 13 0x20000 32 1 0), (3, tensorW 9 0x30000 1 1 0), (4, tensorW 0 0x40000 32 1 0),
    (5, tensorW 0 0x50000 32 1 0), (6, tensorW 15 0x60000 32 1 0)]

/-- A record of block 0 of bucket 7, of the sum lane or of the special lane. -/
def record7 (lane : Nat) : Tok :=
  let p : Part := if lane = 1 then { sums := 5 :: List.replicate 31 0, nzm := 1, scale := 0x7F, contrib := 2 }
    else { sums := List.replicate 32 0, nzm := 0, scale := 0xFF, fmax := 1, posInf := 1, contrib := 2 }
  let fmt := if lane = 1 then 13 else 15
  recordTok { phase := lane, fmt := fmt, bucket := 7, first := 0, contrib := 2 } (p.record lane fmt) 0

/-- Bench 0 with those tensors, the global scale of block 0 as the lane has it. -/
def reducing (lane : Nat) : State :=
  let s := ((bench.store 0x10000 (scalePayload 7 0 3 [(0x7F, 0, 0)])).store 0x20000 (record7 1).bytes).store 0x60000 (record7 2).bytes
  if lane = 1 then (s.store 0x30000 [0x7F]).store 0x30010 (leBytes 8 (2 ^ 63))
  else ((s.store 0x30000 [0xFF]).store 0x30008 (leBytes 8 (1 + 2 ^ 32))).store 0x30010 (leBytes 8 (2 ^ 63) ++ leBytes 8 (1 + 2 ^ 32))

/-- A descriptor of that table. -/
def redTensor (h : Nat) : Desc := Desc.ofWord (descAddr 0 h) (Tab.get redTensors 0 h)

theorem witness_ReductionFormsComplete_scale :
    let x := stn 0 0 [0, 7] [⟨2, 1, 1⟩, ⟨2, 1, 1⟩] [⟨1, 0, 1⟩] redTensors
    let s := worksOn (reducing 1) x
    let ts := toksOf (s.collectScale 0 0 x (List.range x.ins.length) [])
    worksB s 0 0 1 0 x = true ∧ (outPort x 0).kind ≠ 2 ∧ s.collectScale 0 0 x (List.range x.ins.length) [] = .toks ts ∧ ts.length = 2 ∧
    (∀ u ∈ ts, u.bad = false ∧ scaleSound u.bytes = true ∧ (RedHdr.ofBytes u.bytes).bucket = x.p1 ∧ (RedHdr.ofBytes u.bytes).first = 0 ∧
      (RedHdr.ofBytes u.bytes).blocks = 1) ∧
    takesB s 0 0 x 0 { fmt := 0x10, count := 1, bytes := scalePayload 7 0 6 (joinScale ts) } none = true := by decide

theorem witness_ReductionFormsComplete_sum :
    [1, 2].all (fun lane =>
      let x := stn 0 lane [15, 7, 0, 3] [⟨2, if lane = 1 then 2 else 6, 1⟩] [⟨1, 0, 1⟩] redTensors
      let s := worksOn (reducing lane) x
      let d := redTensor 3
      let base := d.deviceAddr 0 d.base
      let ok (f : Nat) : Bool := if lane = 2 then f == 0 || f == 15 else isMaxFmt f || isGrid f
      let ts := toksOf (s.collectRec 0 0 x lane 0 ok (List.range x.ins.length) [])
      let p := (s.sumTokens 0 0 lane 0 (s.globByte base 0) (if lane = 2 then s.globF base d.size 0 else 0) ts).2
      worksB s 0 0 1 lane x && x.descOf 0 x.p3 == some d && s.globComplete base d.size && s.globErr base d.size == none &&
        s.laneBlock base d.size lane x.p2 0 == some 0 && s.collectRec 0 0 x lane 0 ok (List.range x.ins.length) [] == .toks ts &&
        ts.all (fun t => !s.misplaced base d.size lane x.p1 0 t) && p.contrib == 2 && decide (2 ≤ contribLimit lane 15) &&
        takesB s 0 0 x 0 (recordTok { phase := lane, fmt := 15, bucket := 7, first := 0, contrib := 2 } (p.record lane 15) 0) none) = true := by
  decide

theorem witness_ReductionFormsComplete_norm :
    let x := stn 0 3 [15, 7, 0, 0] [⟨2, 2, 1⟩] [⟨1, 0, 1⟩] redTensors
    let y : Stream := { x with inPos := [1], fold := [77] }
    let z : Stream := { y with p0 := 0 }
    let s := worksOn (reducing 1) x
    let t := tokOf (s.peekNext 0 0 0 x)
    worksB s 0 0 1 3 x = true ∧ x.openPort = some 0 ∧ s.peekNext 0 0 0 x = .tok t ∧ takesRecord isGrid t = true ∧ (normToken t).isSome = true ∧
    worksB (worksOn bench y) 0 0 1 3 y = true ∧ y.openPort = none ∧ y.p0 % 32 ≠ 0 ∧
    takesB (worksOn bench y) 0 0 y 0 (recordTok { phase := 3, fmt := 15, bucket := 7, first := 0, contrib := 1 } (leBytes 104 77) 0) none = true ∧
    worksB (worksOn bench z) 0 0 1 3 z = true ∧ z.openPort = none ∧ z.p0 % 32 = 0 ∧
    takesB (worksOn bench z) 0 0 z 0 { fmt := exactFmt, count := 1, bytes := exactBytes 77 } none = true := by decide

theorem witness_ReductionFormsComplete_lines :
    [4, 5].all (fun form =>
      let x := stn 0 form [32] [⟨2, 4, 1⟩] [⟨1, 0, 1⟩] redTensors
      let y : Stream := { x with inPos := [1], fold := [1, 99] }
      let s := worksOn bench x
      let t := tokOf (s.peek 0 0 0 0 x)
      worksB s 0 0 1 form x && x.openPort == some 0 && s.peek 0 0 0 0 x == .tok t && t.piece == 0 && isMaxFmt t.fmt &&
        worksB (worksOn bench y) 0 0 1 form y && y.openPort == none &&
        takesB (worksOn bench y) 0 0 y 0 { fmt := exactFmt, count := 1, bytes := exactBytes 99 } none) = true := by decide

theorem witness_ReductionFormsComplete_max :
    [6, 7].all (fun form => [⟨1, 0, 1⟩, ⟨2, 5, 1⟩].all fun (o : Binding) =>
      let x := stn 0 form [0, 7] [⟨2, 4, 1⟩, ⟨2, 4, 1⟩] [o] redTensors
      let s := worksOn bench x
      let ok (u : Tok) : Bool := u.bad || (isMaxFmt u.fmt && (x.p0 % 32 == 0 || u.fmt == x.p0 % 32))
      let ts := toksOf (s.collect 0 0 x ok ((List.range x.ins.length).map fun p => (p, nth 0 x.inPos p)) [])
      worksB s 0 0 1 form x && x.ins.all (fun v => v.kind != 3) &&
        s.collect 0 0 x ok ((List.range x.ins.length).map fun p => (p, nth 0 x.inPos p)) [] == .toks ts && ts.length == 2 &&
        ts.all (fun u => u.count == 32) && s.bucket x.p1 == none &&
        takesB s 0 0 x 0 { fmt := 0, count := 32, bytes := List.replicate 128 0, contrib := 2 } none) = true := by decide

/-- A bucket of one state tile of group 0. -/
def bucketU : Bucket := ⟨0, true, 1, 32, [⟨0, 0x100000, 6144, 1, 0, 0, 0, 0, 1, 0⟩], 0, 0, 0, 0, 0, 0, 0, 0⟩

theorem witness_ReductionFormsComplete_update :
    [0, 1].all (fun form =>
      let x : Stream :=
        { stn 2 form [0, 8, 0] [⟨2, 9, 1⟩] [] [(8, tensorW 3 0x100000 1024 1 0), (9, tensorW 0 0x40000 1024 1 0)] with startStep := form }
      let s : State := { worksOn bench x with sched := { buckets := [bucketU] }, buckets := [(0, { gradStep := some 0 })] }
      let d := Desc.ofWord (descAddr 0 8) (tensorW 3 0x100000 1024 1 0)
      let t := tokOf (s.peek 0 2 0 0 x)
      let r := s.beginUpdate bucketU 0 (form == 1)
      let pl := r.tilePlan (form == 1) 0 x.group bucketU (nth ⟨0, 0, 0, 0, 0, 0, 0, 0, 0, 0⟩ bucketU.segments 0) 0 0
      worksB s 0 2 2 form x && s.target' x == some (bucketU, nth ⟨0, 0, 0, 0, 0, 0, 0, 0, 0, 0⟩ bucketU.segments 0) && x.descOf 0 x.p1 == some d &&
        bits (s.rdNat (s.scAddr x.group 0) 32) 224 32 == 0 && !(s.bk 0).countBad && !(s.bk 0).heldBad && (s.bk 0).gradStep == some 0 &&
        s.get Upd.clipMode != 1 && s.peek 0 2 0 0 x == .tok t && t.fmt == 0 && t.piece == 0 &&
        !bitAt (s.uprogHdr 0 x.bank (bits x.p0 0 8)) 38 && (r.tileReads 0 x 0x100000 pl).all (fun e => r.readErr e.1 e.2 == none) &&
        pl.mask == 0) = true := by decide

theorem witness_ReductionFormsComplete_convert :
    let x (o : Binding) : Stream := { stn 3 0 [0] [⟨2, 4, 1⟩] [o] redTensors with dstFmt := 0, pset := 1 }
    let s (o : Binding) : State := worksOn bench (x o)
    let t := tokOf ((s ⟨1, 0, 1⟩).peek 0 3 0 0 (x ⟨1, 0, 1⟩))
    let u := tokOf ((s ⟨2, 5, 1⟩).peek 0 3 0 0 (x ⟨2, 5, 1⟩))
    let tok : Tok := { fmt := 0, count := 32, bytes := List.replicate 128 0 }
    worksB (s ⟨1, 0, 1⟩) 0 3 3 0 (x ⟨1, 0, 1⟩) = true ∧ (s ⟨1, 0, 1⟩).peek 0 3 0 0 (x ⟨1, 0, 1⟩) = .tok t ∧
    (t.fmt ≤ 12 ∧ t.piece = 0 ∧ t.count ≠ 0 ∧ t.mask = 0) ∧ (x ⟨1, 0, 1⟩).portDesc 0 (outPort (x ⟨1, 0, 1⟩) 0) = none ∧
    takesB (s ⟨1, 0, 1⟩) 0 3 (x ⟨1, 0, 1⟩) 0 tok none = true ∧ worksB (s ⟨2, 5, 1⟩) 0 3 3 0 (x ⟨2, 5, 1⟩) = true ∧
    (s ⟨2, 5, 1⟩).peek 0 3 0 0 (x ⟨2, 5, 1⟩) = .tok u ∧ (u.fmt ≤ 12 ∧ u.piece = 0 ∧ u.count ≠ 0 ∧ u.mask = 0) ∧
    (x ⟨2, 5, 1⟩).portDesc 0 (outPort (x ⟨2, 5, 1⟩) 0) = some (redTensor 5) ∧ (s ⟨2, 5, 1⟩).rowSetOf 0 5 0 = none ∧
    takesB (s ⟨2, 5, 1⟩) 0 3 (x ⟨2, 5, 1⟩) 0 tok none = true := by decide

theorem witness_ReductionFormsComplete_finish :
    [⟨1, 0, 1⟩, ⟨2, 5, 1⟩].all (fun (o : Binding) =>
      let x : Stream := { stn 3 1 [0] [⟨2, 2, 1⟩] [o] redTensors with dstFmt := 0 }
      let s := worksOn (reducing 1) x
      let t := nth noTok (toksOf (s.nextRec 0 3 0 x fun _ => true)) 0
      worksB s 0 3 3 1 x && s.space 0 x 0 && s.nextRec 0 3 0 x (fun _ => true) == .toks [t] && t.count == 1 && isGrid t.fmt &&
        (finishRecord t).isSome && (finishRecord t).all (fun e => e.1.bucket == 7 && e.1.first == 0) && s.bucket 7 == none &&
        (if o.kind = 1 then takesB s 0 3 x 0 { fmt := 0, count := 32, bytes := List.replicate 128 0 } none
          else (redTensor 5).elem0 == 0 && (redTensor 5).size == 32 &&
            ((redTensor 5).blockWrites 0 32 (List.replicate 128 0)).all fun e => storableB s 0 3 e.1.toNat e.2.length)) = true := by decide

theorem witness_ReductionFormsComplete_zfill :
    let x : Stream := { stn 3 2 [0, 3, 0, 1] [] [⟨2, 5, 1⟩] redTensors with dstFmt := 0 }
    let s := worksOn (reducing 1) x
    let g := redTensor 3
    worksB s 0 3 3 2 x = true ∧ x.descOf 0 x.p1 = some g ∧ x.portDesc 0 (outPort x 0) = some (redTensor 5) ∧
    s.globComplete (g.deviceAddr 0 g.base) g.size = true ∧ s.globErr (g.deviceAddr 0 g.base) g.size = none ∧ s.bucket (redTensor 5).bucket = none ∧
    (redTensor 5).elem0 / 32 ≤ 0 ∧ 32 * (0 - (redTensor 5).elem0 / 32) + 32 ≤ (redTensor 5).size ∧
    ((redTensor 5).blockWrites 0 32 (List.replicate 128 0)).all (fun e => storableB s 0 3 e.1.toNat e.2.length) = true := by decide

/-! ### The queue and the machine as a whole -/

theorem witness_StepRunsTheFrontCommand : ({ State.reset with pending := [.fence 0] } : State).pending = [.fence 0] := rfl

theorem witness_AnEmptyQueueTicks :
    State.reset.pending = [] ∧ State.reset.get Cmd.powerState ≠ 0 ∧ State.reset.time.hold = 0 ∧
    0 < ({ State.reset with time := { State.reset.time with hold := 1 } } : State).time.hold ∧
    (State.reset.set Cmd.powerState 0).get Cmd.powerState = 0 ∧ Obs.hangUs.key ≠ Tb.count.key ∧ Obs.hangUs.key ≠ Pwr.throttleNs.key := by decide

theorem witness_StepsKeepCanonicalMemory : canonical State.reset ∧ ∃ t, step State.reset = .next t := ⟨⟨rfl, by simp [State.reset]⟩, ⟨_, rfl⟩⟩

/-! ### Host commands -/

/-- Whether a mailbox command is accepted by checks 1 to 5 (R396). -/
def okCmd (c : Instr) (s : State) : Bool :=
  match callOf c with
  | some m => s.alive && headerOk m.hdr m.words && s.get (Mb.mbState (m.hdr.tag.toNat % 32)) != 1 && (refusal s m).isNone
  | none => false

theorem admitted_of_okCmd {c : Instr} {s : State} (h : okCmd c s = true) : admitted c s := by
  unfold okCmd at h
  split at h
  · next m hm =>
    simp only [Bool.and_eq_true, bne_iff_ne, Option.isNone_iff_eq_none] at h
    exact ⟨m, hm, h.1.1.1, h.1.1.2, h.1.2, h.2⟩
  · cases h

/-- The off module, held in reset. -/
def held : State := State.reset.set Side.resetNIn 0

theorem witness_MailboxCommandsAreCheckedInOrder :
    ∃ m, callOf (.setTime (hd 0 8) [5]) = some m ∧ held.alive = false ∧ State.reset.alive = true ∧
      headerOk (hd 0 16) [5] = false ∧ headerOk (hd 0 8) [5] = true ∧ (State.reset.set (Mb.mbState 3) 1).get (Mb.mbState 3) = 1 ∧
      State.reset.get (Mb.mbState 3) ≠ 1 ∧ refusal going m = some stStopReq ∧ going.alive = true :=
  ⟨_, rfl, by decide⟩

theorem witness_MailboxesKeepTheReply :
    (State.reset.set (Mb.mbState 3) 2).get (Mb.mbState ((hd 0 8).tag.toNat % 32)) = 2 ∧ Cmd.runState.key ≠ (Mb.mbState 3).key ∧
    Cmd.runState.key ≠ Cmd.mbOverwriteEvt.key ∧ Cmd.runState.key ≠ Cmd.cmds.key ∧ ¬ (latchAddr 3 0 ≤ 0 ∧ 0 < latchAddr 3 274) := by decide

theorem witness_DirectCommandsReply :
    directOk State.reset (hd 0 0) [] 0x01 ∧ directOk State.reset (hd 0 0) [] 0x02 ∧ directOk State.reset (hd 0 0) [] 0x03 ∧
    directOk State.reset (hd 1 8) [31] 0x03 ∧ param [31] 0 < 32 ∧ (State.reset.set (Mb.mbState 31) 2).get (Mb.mbState 31) = 2 ∧
    (State.reset.set (Mb.mbState 31) 3).get (Mb.mbState 31) = 3 ∧ State.reset.get (Mb.mbState 31) ≤ 1 := by
  unfold directOk; decide

/-- The words of a READ_CSR or WRITE_CSR of one register word. -/
def csrWords (a : Nat) (l : List Nat) : List W64 := BitVec.ofNat 64 (a + 2 ^ 48) :: l.map (BitVec.ofNat 64)

theorem witness_CsrAccessesGoWordByWord :
    admitted (.readCsr (hd 0 8) (csrWords 0x3F0000010008 [])) State.reset ∧
    (∃ x u, (taken State.reset (hd 0 8) (csrWords 0x3F0000010008 [])).readAt 0x3F0000010008 = .word x u) ∧
    (taken State.reset (hd 0 8) (csrWords 0x3F0000010000 [])).readAt 0x3F0000011FF8 = .violation ∧
    admitted (.writeCsr (hd 0 16) (csrWords 0x3F00000C0010 [0])) State.reset ∧
    (∃ u, (taken State.reset (hd 0 16) (csrWords 0x3F0000040020 [7])).writeAt 0x3F0000040020 7 = .ok u) ∧
    (∃ u st, (taken State.reset (hd 0 16) (csrWords 0x3F00000C0010 [0])).writeAt 0x3F00000C0010 0 = .refused u st) :=
  ⟨admitted_of_okCmd (by decide), ⟨_, _, rfl⟩, rfl,
    admitted_of_okCmd (by decide), ⟨_, rfl⟩, ⟨_, _, rfl⟩⟩

theorem witness_SingleWritesTakeEffect :
    let go (s : State) (a x : Nat) : Bool := okCmd (.writeCsr (hd 0 16) (csrWords a [x])) s
    go on (benchBase 39 + 0x10) 1 = true ∧ (on.get (Ben.state 39) = 4 ∧ on.get (Ben.state 38) = 0) ∧ go on (benchBase 38 + 0x10) 1 = true ∧
    go (State.reset.set Side.faultCause 4) 0x3F00000B0020 0x10 = true ∧ (State.reset.set Side.faultCause 5).causeEnded = true ∧
    go State.reset 0x3F000D000048 (1 + State.reset.get Obs.hangUs * 2 ^ 32) = true ∧ State.reset.get Obs.building = 0 ∧
    State.reset.get Obs.hangUs < 2 ^ 32 ∧ go State.reset 0x3F00000A0058 0x8000000 = true ∧
    go (State.reset.set Surv.exportReady 1) 0x3F00000A0068 0x20 = true ∧ go State.reset 0x3F0000040020 0 = true ∧
    go State.reset 0x3F0000040008 0x200 = true ∧ go on (rgnBase 71 + 0x10) 0x1FFF = true ∧
    on.get (Rgn.floor 71) ≤ 0x1FFF / 2 ^ 8 % 2 ^ 4 ∧ go on (rgnBase 0 + 8) 850 = true ∧ on.get (Ben.state 0) ≠ 3 := by decide

theorem witness_SettingCommandsChangeOneSetting :
    okCmd (.setTime (hd 0 8) [5]) State.reset = true ∧ okCmd (.setFailureDomain (hd 0 8) [5]) State.reset = true ∧
    okCmd (.margin (hd 0 8) [0x17273]) on = true ∧ rgnType 63 = 0x17273 % 2 ^ 4 ∧ rgnNumber 63 = 0x17273 / 2 ^ 4 % 2 ^ 8 - 24 ∧
    okCmd (.margin (hd 0 8) [0x10271]) on = true ∧ rgnType 39 = 0x10271 % 2 ^ 4 ∧ rgnNumber 39 = 0x10271 / 2 ^ 4 % 2 ^ 8 ∧ 0x10271 / 2 ^ 16 = 1 ∧
    on.get (Rgn.floor 39) ≤ 0x10271 / 2 ^ 12 % 2 ^ 4 ∧ 0x10271 / 2 ^ 12 % 2 ^ 4 < (on.set (Rgn.floor 39) 1).get (Rgn.floor 39) ∧
    0x271 / 2 ^ 16 = 0 ∧ okCmd (.margin (hd 0 8) [0xFFF]) on = true ∧
    (∀ r, r < 72 → ¬ (rgnType r = 0xFFF % 2 ^ 4 ∧ rgnNumber r = 0xFFF / 2 ^ 4 % 2 ^ 8)) ∧
    okCmd (.impress (hd 0 0) []) State.reset = true ∧ okCmd (.clearLog (hd 0 8) [0]) State.reset = true := by decide

theorem witness_ReadingCommandsAnswer :
    okCmd (.getCounters (hd 0 8) [BitVec.ofNat 64 (5312 * 2 ^ 4 + 128 * 2 ^ 36)]) on = true ∧ 5312 + 128 ≤ 5440 ∧
    okCmd (.getCounters (hd 0 8) [BitVec.ofNat 64 (5313 * 2 ^ 4 + 128 * 2 ^ 36)]) on = true ∧ 5440 < 5313 + 128 ∧
    okCmd (.getLog (hd 0 8) [BitVec.ofNat 64 (2 ^ 32)]) State.reset = true ∧ okCmd (.impressList (hd 2 0) []) State.reset = true ∧
    okCmd (.attest (hd 0 32) [0, 0, 0, 0]) State.reset = true := by decide

theorem witness_PairingCommandsBegin :
    okCmd (.setPair (hd 0 8) [0xFFFFF]) on = true ∧ (0xFFFFF : W64).toNat = on.me ∧ okCmd (.setPair (hd 1 8) [7]) (on.set Imp.impN 3) = true ∧
    (on.set Imp.impN 3).get Imp.impN % 2 = 1 ∧ 1 < (on.set Imp.impN 3).get Imp.impN ∧
    okCmd (.setPair (hd 0 8) [7]) { on with pairCmd := some (hd 0 8) } = true ∧ okCmd (.setPair (hd 0 8) [7]) on = true ∧ 7 ≠ on.me ∧
    on.pairCmd = none ∧ on.pairPeer = none ∧ okCmd (.setPairAdopt (hd 2 8) [7]) on = true ∧ on.adoptable 7 = [] := by decide

/-- A running bench with a program in its shadow bank. -/
def shadowed : State := bench.set (Cmp.shadowValid 0) 1

/-- A long command that takes its image over the bulk channel. -/
def loading : State := { State.reset with longs := [⟨0x61, hd 0 8, [64], some 64, [], 0⟩] }

/-- The header of a bulk packet with TAG 3, an offset and a length. -/
def bulkHdr (offset len : Nat) : BitVec 128 := BitVec.ofNat 128 (1 + 3 * 2 ^ 16 + offset * 2 ^ 32 + len * 2 ^ 80)

theorem witness_ImagesComeOverTheBulkChannel :
    okCmd (.swapBank (hd 0 8) [1]) (on.set (Ben.lvalid 0) 0) = true ∧ (on.set (Ben.lvalid 0) 0).benchesOf 1 = none ∧ okCmd (.swapBank (hd 0 8) [1]) shadowed = true ∧
    shadowed.physOf 0 = some 0 ∧ shadowed.get (Ben.state 0) = 1 ∧ shadowed.flag (Cmp.swapPending 0) = false ∧
    shadowed.flag (Cmp.shadowValid 0) = true ∧ bench.flag (Cmp.shadowValid 0) = false ∧ okCmd (.swapBank (hd 0 8) [1]) bench = true ∧
    okCmd (.loadImage (hd 2 16) [0, 8]) on = true ∧ bulkSound (bulkHdr 0 8).toNat (List.replicate 8 0) = true ∧
    State.reset.longs = [] ∧ loading.alive = true ∧ (bulkHdr 0 8).toNat / 2 ^ 16 % 2 ^ 16 = (hd 0 8).tag.toNat ∧
    (bulkHdr 0 8).toNat / 2 ^ 93 % 2 = 0 ∧ (bulkHdr 0 8).toNat / 2 ^ 32 % 2 ^ 48 = 0 ∧ (bulkHdr 8 8).toNat / 2 ^ 32 % 2 ^ 48 ≠ 0 ∧
    bulkSound (bulkHdr 8 8).toNat (List.replicate 8 0) = true := by decide

/-- A schedule that gives nothing. -/
def noSched : Schedule := {}

/-- A stopped time master whose topology, group and one commit collective pass the checks of START. -/
def job : State :=
  ((((on.setAll [(Tb.master, 1), (Fab.deviceId, 5), (Coll.naxes, 1), (Coll.size 0, 1), (Coll.topoBase, 0), (Coll.grpBase, 0x1000),
    (Coll.grpCount, 1), (Coll.collBase, 0x2000), (Coll.ncoll, 1)]).store 0 (leBytes 4 (5 + 2 ^ 20))).store 0x1000 (leBytes 32 1)).store 0x2000
      (leBytes 32 (1 + 8 * 16)))

theorem witness_StopAndStartChangeTheRunState :
    okCmd (.stop (hd 0 0) []) State.reset = true ∧ State.reset.get Cmd.runState = 0 ∧ okCmd (.stop (hd 0 0) []) bench = true ∧
    bench.get Cmd.runState = 2 ∧ okCmd (.stop (hd 0 0) []) (on.set Cmd.runState 3) = true ∧ okCmd (.stopRouting (hd 1 0) []) on = true ∧
    okCmd (.stopRouting (hd 1 0) []) (on.set Cmd.routingStopped 1) = true ∧ okCmd (.startRouting (hd 1 0) []) on = true ∧
    okCmd (.startRouting (hd 1 0) []) (on.set Cmd.routingStopped 1) = true ∧ on.loading = false ∧
    okCmd (.start (hd 0 0) [] noSched) on = true ∧ (State.startChecks { on with sched := noSched }).2 ≠ stOk ∧
    okCmd (.start (hd 0 0) [] noSched) job = true ∧ (State.startChecks { job with sched := noSched }).2 = stOk := by decide

/-- The timebase locked. -/
def locked (s : State) : State := s.set Tb.tbLock 1

theorem witness_LaunchesWaitForTheirCount :
    okCmd (.launchAt (hd 0 8) [50000] noSched) on = true ∧ on.flag Tb.tbLock = false ∧ (locked on).flag Tb.tbLock = true ∧
    okCmd (.launchAt (hd 0 8) [49999] noSched) (locked on) = true ∧ ¬ ((locked on).now + 50000 ≤ 49999) ∧
    okCmd (.launchAt (hd 0 8) [60000000000] noSched) (locked on) = true ∧ (60000000000 : W64).toNat ≤ (locked on).now + 60000000000 ∧
    (locked on).launch = none ∧
    (let s : State := { job with launch := some (1, hd 0 8, noSched) }
     s.active = true ∧ s.now < 1 ∧ (s.set Tb.count 1).now = 1 ∧ s.get Cmd.runState = 0 ∧ (s.set Cmd.runState 2).get Cmd.runState ≠ 0) := by
  decide

theorem witness_GlobalStopNeedsTheTimebase :
    okCmd (.globalStop (hd 0 8) [50000]) going = true ∧ going.flag Tb.tbLock = false ∧ (locked going).flag Tb.tbLock = true ∧
    okCmd (.globalStop (hd 0 8) [60000000001]) (locked going) = true ∧ ¬ ((60000000001 : W64).toNat ≤ (locked going).now + 60000000000) ∧
    okCmd (.globalStop (hd 0 8) [60000000000]) { locked going with stopAt := some (5, hd 0 8) } = true ∧
    okCmd (.globalStop (hd 0 8) [60000000000]) (locked going) = true ∧ (locked going).stopAt = none := by decide

theorem witness_TheCutStopsTheDevice :
    (let s : State := { bench with stopAt := some (0, hd 0 8) }
     s.active = true ∧ 0 ≤ s.now ∧ s.cut = false ∧ 0 ∈ s.liveBenches ∧ s.get (Ben.state 0) = 1) ∧
    ({ bench with stopAt := some (0, hd 0 8), cut := true } : State).cut = true ∧
    ({ bench with stopAt := some (1, hd 0 8) } : State).now < 1 ∧
    (let s : State := { (on.setAll [(Cmd.runState, 3), (Oct.ctxEn 0 0, 1)]) with stopAt := some (0, hd 0 8), cut := true }
     s.active = true ∧ s.get Cmd.runState = 3 ∧ s.ctxOn 0 = true ∧ s.carried 0 = false ∧ s.endpointLink 0 = false ∧
       (s.port 0).markSeen = false) := by decide

theorem witness_AbortStepNamesTheStep :
    okCmd (.abortStep (hd 0 8) [4]) { on with step := 5 } = true ∧ okCmd (.abortStep (hd 0 8) [6]) { going with step := 5 } = true ∧
    okCmd (.abortStep (hd 0 8) [5]) { going with step := 5, aborting := some 5 } = true ∧
    okCmd (.abortStep (hd 0 8) [5]) { on with step := 5, abortDue := some 5 } = true ∧
    okCmd (.abortStep (hd 0 8) [5]) { on with step := 5 } = true ∧ okCmd (.abortStep (hd 0 8) [5]) { going with step := 5 } = true ∧
    going.aborting = none ∧ going.abortDue = none ∧ going.get Cmd.runState = 2 ∧ on.get Cmd.runState = 0 ∧
    (let s : State := { on.setAll [(Surv.lastVoteStep, 5), (Surv.lastVoteOk, 1)] with step := 5 }
     okCmd (.abortStepCommit (hd 1 8) [5]) s = true ∧ s.step = 5 ∧ s.get Surv.lastVoteStep = 5 ∧ s.flag Surv.lastVoteOk = true) ∧
    okCmd (.abortStepCommit (hd 1 8) [4]) { on with step := 5 } = true ∧ okCmd (.abortStepCommit (hd 1 8) [5]) { on with step := 5 } = true ∧
    on.flag Surv.lastVoteOk = false := by decide

/-- An impression of step 7. -/
def imp7 (suspect pinned : Bool) (config : Nat) : Impression :=
  { step := 7, epoch := 3, norm := 0, correlated := false, partner := 0, config := config, segs := [], suspect := suspect, pinned := pinned }

theorem witness_RestorePutsBackAnImpression :
    let s (i : Impression) : State := { on with imps := [i] }
    let c := (taken on (hd 0 8) [7]).configDigest
    okCmd (.restore (hd 0 8) [7] noSched) (s (imp7 false false c)) = true ∧
    (taken (s (imp7 false false c)) (hd 0 8) [7]).configDigest = c ∧ okCmd (.restore (hd 2 8) [7] noSched) (s (imp7 true false c)) = true ∧
    okCmd (.restore (hd 0 8) [7] noSched) (s (imp7 true false c)) = true ∧ okCmd (.restore (hd 0 8) [7] noSched) on = true ∧
    okCmd (.restore (hd 0 8) [7] noSched) { on with impWrite := some ⟨imp7 false false c, [], [], [], [], false, [], false⟩ } = true ∧
    okCmd (.restore (hd 1 16) [7, 64] noSched) on = true ∧ on.impWrite = none := by decide

theorem witness_RetireNamesAUnit :
    okCmd (.retireBench (hd 0 8) [BitVec.ofNat 64 (40 * 2 ^ 16)]) on = true ∧ okCmd (.retireBench (hd 0 8) [BitVec.ofNat 64 (39 * 2 ^ 16)]) on = true ∧
    (on.set (Ben.state 39) 5).get (Ben.state 39) = 5 ∧ okCmd (.retireBench (hd 0 8) [BitVec.ofNat 64 (39 * 2 ^ 16)]) (on.set (Ben.state 39) 5) = true ∧
    okCmd (.retireBench (hd 0 8) [0]) on = true ∧ on.get (Ben.state 0) ≤ 2 ∧
    okCmd (.retireChannel (hd 0 8) [BitVec.ofNat 64 (384 * 2 ^ 16 + 1)]) on = true ∧
    okCmd (.retireChannel (hd 0 8) [BitVec.ofNat 64 (383 * 2 ^ 16 + 1)]) on = true ∧ on.get (Mc.retCh 7) = 63 ∧ on.flag (Mc.spareEn 7) = true ∧
    (on.set (Mc.retCh 7) 47).get (Mc.retCh (383 / 48)) = 383 % 48 ∧
    okCmd (.retireChannel (hd 0 8) [BitVec.ofNat 64 (383 * 2 ^ 16 + 1)]) (on.set (Mc.retCh 7) 47) = true ∧
    okCmd (.retireLane (hd 0 8) [BitVec.ofNat 64 (511 * 2 ^ 16 + 2)]) on = true ∧ on.flag (Oct.laneRetired 63 7) = false ∧
    okCmd (.retireLane (hd 0 8) [BitVec.ofNat 64 (511 * 2 ^ 16 + 2)]) (on.set (Oct.laneRetired 63 7) 1) = true := by decide

/-- A module that runs from slot B and still holds the image that it came with in slot A. -/
def twoSlots : State := { State.reset with fwSlots := [(1, ⟨[], ⟨2, 0, 0⟩, 1, 4, 0⟩)] }.setAll [(Sec.slotBValid, 1), (Sec.activeSlot, 1)]

theorem witness_FirmwareAndRoutesChange :
    okCmd (.setRoutes (hd 0 16) [7, 0]) State.reset = true ∧ (7 : W64).toNat / 4 % 2 = 1 ∧ okCmd (.setRoutes (hd 0 16) [3, 64]) State.reset = true ∧
    okCmd (.updateFw (hd 0 8) [64]) State.reset = true ∧ okCmd (.activateFw (hd 0 8) [0]) State.reset = true ∧
    State.reset.get Sec.activeSlot = 0 ∧ okCmd (.activateFw (hd 0 8) [1]) State.reset = true ∧ State.reset.flag (slotValid 1) = false ∧
    okCmd (.activateFw (hd 0 8) [0]) twoSlots = true ∧ twoSlots.get Sec.activeSlot ≠ 0 ∧ twoSlots.flag (slotValid 0) = true ∧
    twoSlots.longs = [] ∧ twoSlots.flag Sec.confirmPending = false ∧ (taken twoSlots (hd 0 8) [0]).activateFault 0 = none ∧
    okCmd (.activateFw (hd 0 8) [0]) (twoSlots.set Sec.confirmPending 1) = true ∧
    (twoSlots.set Sec.confirmPending 1).flag Sec.confirmPending = true ∧ (Tab.find twoSlots.fwSlots 1).isSome = true ∧ twoSlots.alive = true ∧
    (let s : State := { State.reset with imps := [imp7 false true 0] }
     okCmd (.impressExport (hd 1 8) [7]) s = true) := by decide

/-! ### Benches, regions and the timebase -/

/-- A stream whose tokens have crossed. -/
def doneStream (i form : Nat) : Stream := stn i form [] [] [] []

/-- Bench 0 with such a stream on station i. -/
def crossedStream (i form : Nat) : State := worksOn bench (doneStream i form)

theorem witness_StreamsEndAndBenchesHandOver :
    (crossedStream 9 1).benchRuns 0 = true ∧ (crossedStream 9 1).flag (Stn.recomputing 0 9) = false ∧
    (crossedStream 9 1).stream 0 9 = some (doneStream 9 1) ∧
    (crossedStream 9 1).streamDone 0 9 (doneStream 9 1) = true ∧ (streamOf 9 1).sigEn = false ∧
    (withStream 9 1).streamDone 0 9 (streamOf 9 1) = false ∧ ((withStream 0 1).set (Stn.recomputing 0 0) 1).flag (Stn.recomputing 0 0) = true ∧
    ((withStream 0 1).set (Stn.recomputing 0 0) 1).benchRuns 0 = true ∧
    ((withStream 0 1).set (Stn.recomputing 0 0) 1).stream 0 0 = some (streamOf 0 1) := by decide

theorem witness_StreamsEndAndBenchesHandOver_spare :
    let s := on.set (Ben.state 35) 3
    s.alive = true ∧ s.get (Ben.state 35) = 3 ∧ s.spareOf (35 / 5) = some 39 ∧ s.aborting = none ∧ s.longs = [] ∧
    (∀ j, j < 5 → 5 * (35 / 5) + j ≠ 35 → s.get (Ben.state (5 * (35 / 5) + j)) ≠ 3) := by decide

theorem witness_MarginsFallAfterThirtyQuietDays :
    let s : State := { State.reset.set (Rgn.code 71 7) 5 with elapsed := 30 * 24 * 3600 * 10 ^ 9 }
    s.alive = true ∧ Tab.get (s.rgn 71).trigger 0 7 + 30 * 24 * 3600 * 10 ^ 9 ≤ s.elapsed ∧ 4 < s.get (Rgn.code 71 7) ∧
    s.get (Rgn.floor 71) < s.get (Rgn.code 71 7) ∧ ¬ Tab.get (State.reset.rgn 71).trigger 0 7 + 30 * 24 * 3600 * 10 ^ 9 ≤ State.reset.elapsed ∧
    State.reset.get (Rgn.code 0 0) ≤ 4 ∧ (s.set (Rgn.floor 71) 5).get (Rgn.code 71 7) ≤ (s.set (Rgn.floor 71) 5).get (Rgn.floor 71) := by decide

theorem witness_RegionEventsShowInTheRegisters :
    on.active = true ∧ (on.set (Rgn.state 71) 0).get (Rgn.state 71) = 0 ∧ (on.set (Rgn.slewing 71) 1).flag (Rgn.slewing 71) = true ∧
    ((on.set (Rgn.state 71) 0).rgn 71).capSub ≠ 65535 ∧ (on.flag (Ben.lvalid 0) = true ∧ on.get (Ben.state 0) ≠ 3) ∧ on.slowNow 0 ≠ 1 ∧
    on.slowNow 71 ≠ 1 ∧ (going.set (Ben.state 0) 3).get (Ben.state 0) = 3 ∧ (going.set (Ben.state 0) 3).running = true := by decide

/-- ACTIVE, with a native port p up. -/
def up (p : Nat) : State := on.setAll [(Oct.ctxEn (p / 8) (p % 8), 1), (Oct.ctxState (p / 8) (p % 8), 3)]

/-- The module with timebase marks. -/
def marks (x : TimeMarks) : State := { State.reset.set Tb.count 20000 with time := x, elapsed := 20000 }

theorem witness_TheTimebaseFollowsItsSource :
    (up 0).active = true ∧ (up 0).flag Tb.master = false ∧ (up 0).portUp ((up 0).get Tb.tbSrc) = true ∧ (up 0).carried ((up 0).get Tb.tbSrc) = false ∧
    (marks { due := -1 }).alive = true ∧ (marks { due := -1 }).time.due < 0 ∧ 0 < (marks { due := 1 }).time.due ∧
    (marks { lastSlew := 10000 }).time.lastSlew + 10000 ≤ (marks {}).elapsed ∧
    (marks { lastSlew := 10001 }).elapsed < (marks { lastSlew := 10001 }).time.lastSlew + 10000 ∧ (marks {}).time.due = 0 ∧
    (State.reset.set Tb.master 1).flag Tb.master = true ∧ State.reset.now % 1000000000 = 0 ∧ (marks {}).now % 1000000000 ≠ 0 := by decide

/-! ### Ports and link control blocks -/

/-- A control block of a type with an empty body (R316), and one with a bad CRC. -/
def block (type : Nat) : BitVec 256 := BitVec.ofNat 256 (blockOf type 0)

/-- Port p is a carried port in the HELLO exchange. -/
def tunnel (p : Nat) : State := (up p).set (Oct.ctxCarried (p / 8) (p % 8)) 1

theorem witness_ControlBlocksAreChecked :
    State.reset.active = false ∧ on.ctxState 511 < 2 ∧ (up 504).active = true ∧ 2 ≤ (up 504).ctxState 504 ∧ (up 504).carried 504 = false ∧
    blockOk 3 (block 9) = false ∧ blockOk 9 0 = false ∧ 2 ≤ (tunnel 0).ctxState 0 ∧ (tunnel 0).carried 0 = true ∧ (tunnel 0).ctxUsed 0 = true ∧
    (tunnel 0).dropReason 0 [] = some 1 := by decide

/-- A HELLO of a peer that agrees with port p of a state. -/
def helloOf (s : State) (p : Nat) : BitVec 256 := BitVec.ofNat 256 (blockOf 1 (s.helloBody p 0 + 2 ^ 42))

theorem witness_SoundBlocksAreUsed :
    blockOk 2 (block 2) = true ∧ blockOk 3 (block 3) = true ∧ blockOk 4 (block 4) = true ∧ blockOk 9 (block 9) = true ∧
    blockOk 5 (block 5) = true ∧ blockOk 7 (block 7) = true ∧ blockOk 8 (block 8) = true ∧ (up 0).ctxState 0 = 3 ∧ 0 = (up 0).get Tb.tbSrc ∧
    (up 0).longs = [] ∧ laneGroup (0xFF &&& (up 0).healthy 0) = some (1, 0) ∧ laneGroup 0x80 = some (1, 7) ∧
    ((up 0).set (Oct.ctxState 0 0) 4).ctxState 0 = 4 := by decide

theorem witness_SoundBlocksAreUsed_hello :
    let s := (up 0).set (Oct.ctxState 0 0) 2
    let h := helloOf s 0
    s.ctxState 0 = 2 ∧ blockOk 1 h = true ∧ helloSound h.toNat = true ∧ s.helloFault 0 h.toNat = none ∧
    h.toNat / 2 ^ 160 % 2 ^ 64 = 0 ∧ (let k : BitVec 256 := BitVec.ofNat 256 (blockOf 1 (s.helloBody 0 0))
      blockOk 1 k = true ∧ helloSound k.toNat = true ∧ s.helloFault 0 k.toNat = some 8) := by decide

theorem witness_SoundBlocksAreUsed_retry :
    let s : State := { (up 0).set Fab.linkMode 1 with wire := [(0, 4), (0, 5)], ports := [(0, { modes := [1] })] }
    blockOk 6 (block 6) = true ∧ s.siteNative 0 = true ∧ s.portUp 0 = true ∧ s.frameSent 0 0 = some 5 ∧
    Tab.get (s.port 0).retries 0 0 < s.get Fab.lrWin := by decide

/-- Port p in a stage of its bring-up. -/
def stage (p n : Nat) : State := (up p).set (Oct.ctxState (p / 8) (p % 8)) n

theorem witness_PortEventsMoveTheLink :
    (stage 504 1).active = true ∧ (stage 504 1).ctxState 504 = 1 ∧ (stage 504 2).ctxState 504 ≠ 1 ∧ ((stage 504 2).port 504).hello = none ∧
    (({ stage 504 2 with ports := [(504, { hello := some 1 })] } : State).port 504).hello ≠ none ∧
    (stage 504 2).healthy 504 = 2 ^ (stage 504 2).cfgWidth 504 - 1 ∧ (up 504).portUp 504 = true ∧ (stage 504 0).ctxOn 504 = true ∧
    (stage 504 0).ctxState 504 = 0 ∧ (stage 504 4).ctxState 504 = 4 ∧ on.get (Oct.failThresh 63) < on.get (Oct.failThresh 63) + 1 ∧
    ((up 504).set Fab.linkMode 0).retryOn 504 = false := by decide

/-! ### Packets -/

/-- A packet to device 5 from device 7. -/
def pk (kind vc rh off seq : Nat) (payload : List Byte) : Pkt :=
  ({ vc := vc, kind := kind, dst := 5, rhandle := rh, offset := off, payload := payload } : Draft).pkt 7 1 seq 0

/-- Port 0 up on device 5. -/
def five : State := (up 0).set Fab.deviceId 5

theorem witness_PacketsArriveByTheirClass :
    five.forMe (pk 0 3 0 0 0 []) = true ∧ pktMirror (pktPut (pk 0 3 0 0 0 []) 203 1 1) = true ∧ pktMirror (pk 0 3 0 0 0 []) = false ∧
    five.active = true ∧ five.portUp 0 = true ∧ on.portUp 0 = false ∧ (List.range 16).all (fun k => pktKind (pk k 4 0 0 0 []) == k) = true ∧ pktRh (pk 2 1 0xFF01 0 0 []) = 0xFF01 ∧ pktRh (pk 2 1 0xFF00 0 0 []) ≠ 0xFF01 ∧
    (List.range 7).all (fun k => mgmtType (pk 6 4 0 0 0 [BitVec.ofNat 8 (1 + 16 * k)]) == k) = true ∧
    (let s := job
     let v := pk 0 0 0 0 0 (leBytes 32 (1 + 16))
     let r := pk 0 0 0 0 0 (leBytes 32 (1 + 32))
     s.forMe v = true ∧ s.isCommit v = true ∧ isResult v = false ∧ s.isCommit r = true ∧ isResult r = true) ∧
    (let w := pk 0 0 0xFF10 0 0 []
     five.isCommit w = false ∧ pktVc w = 0 ∧ pktRh w = 0xFF10) ∧
    (five.isCommit (pk 0 3 0 0 0 []) = false ∧ five.isReduction 0 (pk 0 3 0 0 0 []) = false ∧ pktVc (pk 0 3 0 0 0 []) ≠ 0) := by decide

theorem witness_PacketsArriveByTheirClass_reduction :
    let s : State := { five with sched := { noSched with chans := [(0, ⟨true, 0, 0, 0, 0, 0, 0, 0, 9, 0, 0, none⟩)] } }
    s.forMe (pk 0 0 9 0 0 []) = true ∧ s.isCommit (pk 0 0 9 0 0 []) = false ∧ s.isReduction 0 (pk 0 0 9 0 0 []) = true := by decide

/-- The cut, with port 0's stop mark sent. -/
def cutting (x : Port) : State := { five.set (Fab.capMib 0) 1 with cut := true, ports := [(0, x)] }

theorem witness_ArrivalsAreCapturedHeldOrLetIn :
    let k := pk 0 3 0 0 0 []
    let c := cutting { markSent := true }
    let o := pktPut k 16 20 6
    five.active = true ∧ five.portUp 0 = true ∧ c.active = true ∧ c.portUp 0 = true ∧ c.admits 0 k = true ∧ c.capturing 0 = true ∧ pktVc k ≠ 2 ∧
    (c.port 0).parked = [] ∧ c.captureFits 0 k = true ∧ c.longHaul 0 = false ∧ (c.set (Fab.capMib 0) 0).captureFits 0 k = false ∧
    (c.set (Fab.capMib 0) 0).admits 0 k = true ∧ five.capturing 0 = false ∧ five.admits 0 k = true ∧
    (five.set Cmd.routingStopped 1).flag Cmd.routingStopped = true ∧ (five.set Cmd.routingStopped 1).admits 0 k = true ∧
    (five.set Cmd.routingStopped 1).capturing 0 = false ∧ five.flag Cmd.routingStopped = false ∧ on.portUp 511 = false ∧
    (five.setAll [(Fab.lhEn 0, 1), (Fab.winMib 0, 0)]).admits 0 k = false ∧ hdrOk (pk 0 1 0 0 0 []) = false ∧ five.forMe o = false ∧
    pktHops (pktPut k 216 8 0) = 0 ∧ pktHops o ≠ 0 ∧ pktMcast o = false ∧ (five.takeCustody 0 o).2 = true ∧
    (let g := pktPut o 200 1 1
     pktMcast g = true ∧ pktHops g ≠ 0 ∧ (five.takeCustody 0 g).2 = true) := by decide

/-- Port 0 is a long-haul port that has taken custody of SEQ 0 from device 7 to device 5. -/
def farPort : State := (five.set (Fab.lhEn 0) 1).setSrc (custKey 0 7 5) { cum := 0, got := [0] }

theorem witness_ArrivalsAreCapturedHeldOrLetIn_custody :
    (farPort.takeCustody 0 (pk 0 3 0 0 0 [])).2 = false ∧ pktHops (pk 0 3 0 0 0 []) ≠ 0 := by decide

theorem witness_DestinationsCheckCrcAndSequence :
    let x : SrcState := { cum := 2 ^ 32 - 1, got := [1] }
    (∀ g ∈ x.got, g < 2 ^ 32 ∧ x.classify g = .duplicate) ∧ x.classify 4094 = .accepted ∧ x.classify 4095 = .beyond ∧
    x.classify (2 ^ 32 - 2) = .duplicate ∧ x.classify 1 = .duplicate ∧ five.longHaul 0 = false ∧
    ({ held := [3] } : SrcState).classify 3 = .duplicate ∧
    pktCrcOk { (pk 0 3 0 0 0 []) with crc := 0 } = false ∧ pktCrcOk (pk 0 3 0 0 0 []) = true ∧ kindAcked (pktKind (pk 0 3 0 0 0 [])) = true ∧
    pktCrcOk (pk 4 2 0 0 0 []) = true ∧ kindAcked (pktKind (pk 4 2 0 0 0 [])) = false ∧
    (five.src (pktSrc (pk 0 3 0 0 0 []))).classify (pktSeq (pk 0 3 0 0 0 [])) = .accepted := by decide

/-- Region 0 of 64 bytes at 0x10000, which every plane may write. -/
def region0 : State :=
  (five.setAll [(Fab.rtCount, 1), (Fab.rtBase, 0x4000)]).store 0x4000 (leBytes 16 (0x10000 + 2 ^ 48 * 15 + 64 * 2 ^ 64))

theorem witness_PacketBodiesFollowTheirKind :
    five.regionAddr 0 0 0 (·.wUnsched) = none ∧ region0.regionAddr 0 60 4 (·.wUnsched) = some (0x10000 + 60) ∧
    region0.regionAddr 0 61 4 (·.wUnsched) = none ∧ region0.ramOk (0x10000 + 60) 4 = true ∧ region0.storeErr (0x10000 + 60) 4 = none ∧
    (let a := pk 1 4 0xFF20 0x8000 0 (leBytes 16 0)
     pktKind a = 1 ∧ pktRh a = 0xFF20 ∧ a.payload.length = 16 ∧ leNat a.payload / 2 ^ 70 = 0) ∧
    (let a := pk 1 4 0xFEFF 0 0 (leBytes 16 0)
     pktRh a < 0xFF00 ∧ five.regionAddr (pktRh a) (pktOffset a) 8 (fun _ => true) = none ∧ a.payload.length = 16 ∧
       leNat a.payload / 2 ^ 70 = 0) ∧ (0xFF00 ≤ pktRh (pk 1 4 0xFF21 0 0 (leBytes 16 0)) ∧ pktRh (pk 1 4 0xFF21 0 0 (leBytes 16 0)) ≠ 0xFF20) ∧
    region0.flag Obs.traceStall = false ∧
    (let a := pk 4 2 0 0 0 (leBytes 24 (7 + 3 * 2 ^ 32))
     pktKind a = 4 ∧ ackOk a false = true ∧ (five.dst (leNat a.payload % 2 ^ 20)).waiting = [] ∧ (five.dst 7).flights = []) := by decide

/-- A signal word in LPDDR5X, registered in the directory of its die. -/
def farWord : State := five.store (dirBase 0) (leBytes 6 0x8000 ++ [0x01])

theorem witness_PacketBodiesFollowTheirKind_add :
    let a := pk 1 4 0xFF20 0x8000 0 (leBytes 16 0)
    ∃ t, farWord.sigAdd (pktOffset a) (leNat a.payload % 2 ^ 64) ⟨pktSrc a, leNat a.payload / 2 ^ 64 % 2 ^ 6⟩ = .added t := ⟨_, rfl⟩

/-- The same word in a region. -/
def regionWord : State := region0.store (dirBase 0) (leBytes 6 0x10008 ++ [0x01])

theorem witness_PacketBodiesFollowTheirKind_region :
    let a := pk 1 4 0 8 0 (leBytes 16 0)
    pktRh a < 0xFF00 ∧ regionWord.regionAddr (pktRh a) (pktOffset a) 8 (fun _ => true) = some 0x10008 ∧
    ∃ t, regionWord.sigAdd 0x10008 (leNat a.payload % 2 ^ 64) ⟨pktSrc a, leNat a.payload / 2 ^ 64 % 2 ^ 6⟩ = .added t :=
  ⟨by decide, by decide, ⟨_, rfl⟩⟩

theorem witness_MirrorCopiesKeepNoState :
    let m := pktSeal (pktPut (pk 0 3 0 60 0 [1, 2, 3, 4]) 203 1 1)
    pktMirror m = true ∧ pktCrcOk m = true ∧ region0.regionAddr (pktRh m) (pktOffset m) (pktLength m) (·.wUnsched) = some (0x10000 + 60) ∧
    region0.ramOk (0x10000 + 60) m.payload.length = true ∧ region0.storeErr (0x10000 + 60) m.payload.length = none ∧
    five.regionAddr (pktRh m) (pktOffset m) (pktLength m) (·.wUnsched) = none := by decide

/-- A copy kept for resend. -/
def flight (tries : Nat) (custody : Bool) : Flight := ⟨pk 0 3 0 0 9 [], tries, 20, none, custody, none, none⟩

/-- Device 5 with that copy on its way to device 7. -/
def flying (tries : Nat) (custody : Bool) : State := { five with dsts := [(7, { flights := [flight tries custody] })] }

theorem witness_TransportTimersAct :
    (flying 0 false).active = true ∧ (flying 0 false).cut = false ∧ ((flying 0 false).dst 7).flights = [flight 0 false] ∧
    pktSeq (flight 0 false).pkt = (9 : W32).toNat ∧ (flight ((flying 0 false).get Fab.resendMax) false).tries ≤ (flying 0 false).get Fab.resendMax ∧
    (flying 0 false).get Fab.resendMax < (flight 256 false).tries ∧ (flight 256 false).owner = none ∧ (five.src 7).got = [] ∧ (five.src 7).held = [] ∧
    five.get Fab.deviceId = 5 ∧
    flight 0 true ∈ ((flying 0 true).dst 7).flights ∧
    ((five.set (Pool.closed 3 7) 1).flag (Pool.closed 3 7) = true ∧ five.flag (Pool.closed 3 7) = false) ∧
    (let q : Queued := { pkt := pk 0 0 0 0 0 [] }
     let s : State := { five with ports := [(0, { queues := [(0, [q])], ordCredits := [(0, 9000)] })] }
     s.portUp 0 = true ∧ s.vc0Turn 0 = true ∧ s.headOf 0 0 = some q) ∧ on.portUp 511 = false := by decide

/-- A copy in the window of long-haul port 0. -/
def copy (tries : Nat) : Copy := { pkt := pk 0 3 0 0 9 [], tries := tries, timer := 20 }

theorem witness_TransportTimersAct_segment :
    let s (tries : Nat) : State := { five with ports := [(0, { window := [copy tries] })] }
    (s 1).cut = false ∧ (some 7).getD ((s 1).get Fab.deviceId) ≠ (s 1).get Fab.deviceId ∧ (s 1).ports = [(0, { window := [copy 1] })] ∧ (copy 1).isOf 7 5 (9 : W32).toNat = true ∧
    (copy 1).tries ≤ (s 1).get Fab.resendMax ∧ (s 1).portUp 0 = true ∧ (s 256).get Fab.resendMax < (copy 256).tries ∧
    ((s 1).set (Oct.ctxState 0 0) 0).portUp 0 = false := by decide

theorem witness_TransportTimersAct_gap : (({ five with srcs := [(7, { got := [1] })] } : State).src 7).gaps = [(0, 1)] := by
  have h : ({ five with srcs := [(7, { got := [1] })] } : State).src 7 = { got := [1] } := by decide
  rw [h]
  simp [SrcState.gaps]

/-- A bucket of one block that the device owns. -/
def bucket0 : Bucket := ⟨0, true, 1, 1, [], 0, 0, 0, 0, 0, 0, 0, 0⟩

theorem witness_TransportTimersAct_fetch :
    let q : FetchReq := { src := 7, ord := 0, head := 0, parts := [(0, [])] }
    let k : Bucket := { bucket0 with updWord := 64 }
    let s : State := { going.store 64 (leBytes 8 1) with fetches := [q], sched := { noSched with buckets := [k] } }
    s.running = true ∧ s.fetches[0]? = some q ∧ q.whole = true ∧
    fqStep q.head + 1 ≤ s.updValue (lyBucket (s.layer (fqLayer q.head))) := by decide

/-! ### Commit and survival -/

/-- The running job with a tree for its commit, or for a barrier. -/
def voting (kind : Nat) : State :=
  { (job.set Cmd.runState 2).store 0x2000 (leBytes 32 (1 + kind * 16)) with sched := { noSched with trees := [(0, ⟨[], none, [5], 0⟩)] } }

theorem witness_VotesAndCommits :
    (voting 7).active = true ∧ (voting 7).running = true ∧ (voting 7).nextVote = some 0 ∧ (voting 7).mayVote 0 = true ∧
    (voting 7).collKind 0 = 7 ∧ (voting 8).nextVote = some 0 ∧ (voting 8).mayVote 0 = true ∧ (voting 8).collKind 0 = 8 ∧ going.nextVote = none ∧
    (withStream 9 1).running = true ∧ ({ going with commit := { own := [(0, 1)] } } : State).commit.own ≠ [] ∧ ({ voting 7 with sched := { trees := [(0, ⟨[], some 6, [5, 6], 0⟩)] } } : State).isRoot 0 = false ∧
    ({ voting 7 with sched := { trees := [(0, ⟨[6], none, [5, 6], 0⟩)] } } : State).commit.votes = [] ∧ (voting 7).isRoot 0 = true ∧
    ((voting 7).tree 0).children = [] ∧ (voting 7).voters 0 = 1 ∧ going.sched.norms = [] ∧
    ({ going with sched := { norms := [(0, 64)] } } : State).globalNorm ≠ 5 ∧ going.commit.own = [] ∧
    going.commit.failed = false ∧ (going.set Upd.clipMode 1).get Upd.clipMode ≠ 0 ∧ going.normNow = none ∧
    (let s : State := { going with sched := { noSched with buckets := [bucket0] }, restoring := [0, 1] }
     s.bucket 0 = some bucket0 ∧ bucket0.owned = true ∧ 0 ∈ s.restoring ∧ (∃ j ∈ s.restoring, j ≠ 0) ∧ 0 ∉ going.restoring) ∧
    going.sched.commitWords = [] ∧ going.sched.buckets = [] ∧ going.get Upd.gtCount = 0 := by decide

theorem witness_VotesAndCommits_late :
    let s : State := { voting 8 with sched := { (voting 8).sched with buckets := [bucket0] } }
    s.nextVote = some 0 ∧ s.mayVote 0 = false := by decide

/-- A device paired with device 9. -/
def paired : State := going.setAll [(Surv.pairState, 2), (Surv.partner, 9)]

theorem witness_SurvivalTimersReport :
    paired.active = true ∧ paired.running = true ∧ paired.peers = [9] ∧ on.running = false ∧ 9 ∈ paired.peers ∧ 8 ∉ paired.peers ∧
    ({ on with pairCmd := some (hd 0 8) } : State).pairCmd = some (hd 0 8) ∧ on.pairCmd = none ∧ 1 ≤ ({ going with step := 1 } : State).step ∧
    (going.owned.filter fun e => pmState e.2 == 1).length < going.get Surv.fillPar ∧
    (going.set Surv.straggleUs 5).get Surv.straggleUs ≠ 0 := by decide

/-! ### Memory, flash and lifetime -/

theorem witness_ScrubbingFindsErrors :
    on.active = true ∧ isLpddr 0x14FFFFFFFFF = true ∧ (on.set (Mc.spareEn 7) 0).inSpare 0x14FFFFFFFFF = false ∧
    (on.set (Mc.spareEn 7) 0).get (Mc.retCh (0x14FFFFFFFFF / 0x2A00000000)) ≠ (on.set (Mc.spareEn 7) 0).chanAt 0x14FFFFFFFFF % 48 ∧
    on.inSpare 64 = false ∧ on.get (Mc.retCh (64 / 0x2A00000000)) ≠ on.chanAt 64 % 48 ∧ (64 / 64 * 64 ∉ on.poison) ∧
    64 / 64 * 64 ∈ ({ on with poison := [64] } : State).poison ∧ isStone 0x20002FFFFFFF = true ∧ (0x20002FFFFFFF / 8 * 8 ∉ on.badWords) ∧
    (on.set (Mc.migrating 7) 1).flag (Mc.migrating 7) = true ∧ on.longs = [] ∧ on.get (Mc.migPtr 7) + 1 < chanLines ∧
    (on.set (Mc.migPtr 7) (chanLines - 1)).get (Mc.migPtr 7) + 1 = chanLines := by decide

theorem witness_FlashKeepsImpressions :
    let w : ImpWrite := ⟨imp7 false false 0, [(0, 0)], [], [], [], false, [], false⟩
    let s : State := { going with impWrite := some w, sched := { noSched with buckets := [bucket0] }, buckets := [(0, { updated := some 7 })] }
    (s.active = true ∧ s.running = true ∧ (s.impPlan w).find? (s.sweepable w.imp.step) = some bucket0) ∧ going.impWrite = none ∧
    (let u : State := { going with impWrite := some w }
     u.impPlan w = [] ∧ w.early = [] ∧ u.get Surv.sharedM = 0) ∧ Tab.get going.flash (0, 0, false) 5 = (0, 0, false) ∧
    Tab.get ({ going with flash := [(5, (1, 1, true))] } : State).flash (0, 0, false) 5 = (1, 1, true) := by decide

theorem witness_LifetimeRecordsAdvance :
    let s : State := { State.reset.set (Sec.age 84) 61361 with ageFrac := [(84, 60 * 2 ^ 32 - 1)] }
    s.alive = true ∧ s.get (Sec.age 84) < 61362 ∧
    61362 ≤ s.get (Sec.age 84) + (Tab.get s.ageFrac 0 84 + ageFactor 1250 750) / (60 * 2 ^ 32) ∧
    (State.reset.set Sec.calValid 1).flag Sec.calValid = true ∧ State.reset.flag Sec.calValid = false := by decide

/-! ### Power, resets and the sideband -/

theorem witness_TheInputDecidesThePowerState :
    State.reset.alive = true ∧ (34000 ≤ 34000 ∧ 34000 < 36000) ∧ (44000 < 46000 ∧ 46000 ≤ 46000) ∧ State.reset.excursion = false ∧
    (46000 < 50000 ∧ 50000 ≤ 50000) ∧ State.reset.get Cmd.powerState ≠ 0 ∧ 33999 < 34000 ∧ 50000 < 60001 := by
  decide

theorem witness_ResetsAndPowerEnable :
    State.reset.slotBoots (State.reset.get Sec.activeSlot) = true ∧ (State.reset.set Cmd.powerState 0).get Cmd.powerState = 0 ∧
    (State.reset.set Cmd.powerState 0).slotBoots ((State.reset.set Cmd.powerState 0).get Sec.activeSlot) = true ∧ State.reset.alive = true ∧
    State.reset.flag Side.resetNIn = true ∧ held.flag Side.resetNIn = false ∧ held.flag Side.pwrEnIn = false ∧ held.get Cmd.powerState = 1 ∧
    held.slotBoots (held.get Sec.activeSlot) = true ∧ State.reset.flag Sec.bootRecovery = false ∧ on.active = true ∧
    State.reset.active = false ∧ on.slotBoots (on.get Sec.activeSlot) = true := by decide

theorem witness_PowerAndHeatAreThrottled :
    on.active = true ∧ 97 * (on.set Pwr.pinAvg 2000).get Pwr.pLimit < 100 * (on.set Pwr.pinAvg 2000).get Pwr.pinAvg ∧
    100 * on.get Pwr.pinAvg < 85 * on.get Pwr.pLimit ∧ on.lowPower = false ∧
    (let s := on.setAll [(Pwr.pLimit, 1300), (Pwr.pinAvg, 1200)]
     85 * s.get Pwr.pLimit ≤ 100 * s.get Pwr.pinAvg ∧ 100 * s.get Pwr.pinAvg ≤ 97 * s.get Pwr.pLimit) ∧
    10 * (on.get Pwr.tThrottle : Int) ≤ 32767 ∧ State.reset.alive = true ∧ (∀ u, u < 85 → u ≠ 71 → State.reset.sensorTemp u < 1030) := by decide

theorem witness_TheTapAndTheSmbusAnswer :
    State.reset.get Cmd.powerState ≠ 0 ∧ held.flag Side.resetNIn = false ∧ State.reset.flag Side.resetNIn = true ∧ State.reset.alive = true ∧
    (List.replicate 6 (0 : Byte)).length = 6 ∧ State.reset.smbAddr % 8 = 0 ∧
    (∀ k, k < 8 → State.reset.smbAddr + k < 0x3F00000B0000 ∨ 0x3F00000D0000 ≤ State.reset.smbAddr + k) ∧
    (∃ fs, locate 0x3F00000B0000 = .regs fs) := ⟨by decide, by decide, by decide, by decide, by decide, by decide, by decide, ⟨_, rfl⟩⟩

/-! ### Observation and the Dreril Link -/

theorem witness_ObservationReports :
    on.active = true ∧ Tab.get ({ on with traceFifo := [(71, [5])] } : State).traceFifo [] 71 = [5] ∧ Tab.get on.traceFifo [] 71 = [] ∧
    on.get Obs.hangUs ≠ 0 ∧ (on.set (Stn.state 39 15) 2).get (Stn.state 39 15) = 2 ∧ on.get (Stn.state 39 15) ≠ 2 ∧
    ({ on with graph := some (0, []) } : State).graph = some (0, []) ∧ on.graph = none ∧ on.alive = true := by decide

theorem witness_TheDrerilLinkRecovers :
    State.reset.alive = true ∧ (State.reset.set Dl.linkState 2).get Dl.linkState = 2 ∧ flitSound 0 = false ∧ flitSound 3 = true ∧
    (State.reset.set Dl.linkState 2).dreril.outQ = [] ∧ 3 / 2 ^ 28 % 2 = 0 ∧ State.reset.get Dl.linkState ≠ 2 := by decide

/-! ### Well-formedness refuses (one ill-formed term for each check) -/

/-- A packet whose payload is longer than a header can count. -/
def long : Pkt := pk 0 0 0 0 0 (List.replicate 8193 0)

theorem test_wf_length : (([.identify (hd 0 16) [], .getFeatures (hd 0 16) [], .getStatus (hd 0 16) [], .getStatusMailbox (hd 0 16) [],
    .readCsr (hd 0 16) [], .writeCsr (hd 0 16) [], .loadImage (hd 0 16) [], .swapBank (hd 0 16) [], .stop (hd 0 16) [],
    .stopRouting (hd 0 16) [], .startRouting (hd 0 16) [], .setRoutes (hd 0 16) [], .abortStep (hd 0 16) [],
    .abortStepCommit (hd 0 16) [], .globalStop (hd 0 16) [], .setPair (hd 0 16) [], .setPairAdopt (hd 0 16) [],
    .setFailureDomain (hd 0 16) [], .impress (hd 0 16) [], .impressExport (hd 0 16) [], .impressList (hd 0 16) [],
    .retireBench (hd 0 16) [], .retireChannel (hd 0 16) [], .retireLane (hd 0 16) [], .margin (hd 0 16) [], .getCounters (hd 0 16) [],
    .getLog (hd 0 16) [], .clearLog (hd 0 16) [], .setTime (hd 0 16) [], .attest (hd 0 16) [], .updateFw (hd 0 16) [],
    .activateFw (hd 0 16) [], .start (hd 0 16) [] noSched, .launchAt (hd 0 16) [] noSched] : List Instr).all fun i => !i.wf) = true := by decide

theorem test_wf_bench_of_an_instruction : (([.addi 40 0 0 0, .andi 40 0 0 0, .ori 40 0 0 0, .xori 40 0 0 0, .slti 40 0 0 0,
    .sltiu 40 0 0 0, .slli 40 0 0 0, .srli 40 0 0 0, .srai 40 0 0 0, .lw 40 0 0 0 .pass, .sw 40 0 0 0, .ld 40 0 0 0 .pass, .sd 40 0 0 0,
    .beq 40 0 0 0, .bne 40 0 0 0, .blt 40 0 0 0, .bge 40 0 0 0, .bltu 40 0 0 0, .bgeu 40 0 0 0, .jalr 40 0 0 0, .add 40 0 0 0,
    .sub 40 0 0 0, .and 40 0 0 0, .or 40 0 0 0, .xor 40 0 0 0, .sll 40 0 0 0, .srl 40 0 0 0, .sra 40 0 0 0, .slt 40 0 0 0,
    .sltu 40 0 0 0, .mul 40 0 0 0, .mulhu 40 0 0 0, .mulh 40 0 0 0, .sigrd 40 0 0 0, .sigadd 40 0 0 0, .sigwait 40 0 0 0,
    .bcnt 40 0 0 0, .lui 40 0 0, .strm 40 0 0, .featq 40 0 0, .csrr 40 0 0, .jal 40 0, .swait 40 0, .mwait 40 0, .bndry 40 0,
    .illegalInstruction 40 0 .pass, .fence 40, .endB 40, .sigmon 40 0 0 0 0] : List Instr).all fun i => !i.wf) = true := by decide

theorem test_wf_bench_of_a_stream : (([.scale 40 0 .pass, .sum 40 0 .pass, .sumsp 40 0 .pass, .norm 40 0 .pass, .rowsum 40 0 .pass,
    .colsum 40 0 .pass, .max 40 0 .pass, .min 40 0 .pass, .convert 40 3 .pass, .finish 40 3 .pass, .zfill 40 3 .pass, .gather 40 .pass,
    .scatter 40 .pass, .permute 40 .pass, .strided 40 .pass, .select 40 .pass, .topk 40 .pass, .sort 40 .pass, .merge 40 .pass,
    .matvec 40 .pass, .outer 40 .pass, .digestPkt 40 .pass, .digestTile 40 .pass, .update 40 .pass, .replay 40 .pass, .streamEnd 40 0,
    .tileRecomputation 40 0 true, .hangDetect 40 0] : List Instr).all fun i => !i.wf) = true := by decide

theorem test_wf_station_of_a_stream : (([.scale 0 3 .pass, .sum 0 3 .pass, .sumsp 0 3 .pass, .norm 0 3 .pass, .rowsum 0 3 .pass,
    .colsum 0 3 .pass, .max 0 3 .pass, .min 0 3 .pass, .convert 0 0 .pass, .finish 0 0 .pass, .zfill 0 0 .pass, .streamEnd 0 10,
    .tileRecomputation 0 10 true, .hangDetect 0 10, .waitEnds (.compositor 40), .waitEnds (.station 40 0), .waitEnds (.station 0 10)] : List Instr).all fun i => !i.wf) = true := by decide

theorem test_wf_region : (([.ovrEn (hd 0 0) 72 0, .vset (hd 0 0) 72 0, .canaryCapture 72 true, .marginLower 72 0, .marginLower 0 8,
    .bandChange 72 0, .slowMarkSend 72, .slowMarkExpiry 0 72, .thermalThrottleStep 72 0, .ageUpdate 85 0 0, .thermN 85 0,
    .thermalTrip 85 0, .traceRingWrite 72, .slewingEnd 72, .thermNDeassert 85 0, .freset (hd 0 0) 40] : List Instr).all fun i => !i.wf) = true := by decide

theorem test_wf_port_of_a_packet : (([.slowMark 512 (pk 0 0 0 0 0 []), .write 512 (pk 0 0 0 0 0 []),
    .reductionPacket 512 (pk 0 0 0 0 0 []), .signal 512 (pk 0 0 0 0 0 []), .read 512 (pk 0 0 0 0 0 []),
    .missReport 512 (pk 0 0 0 0 0 []), .fetch 512 (pk 0 0 0 0 0 []), .reply 512 (pk 0 0 0 0 0 []), .ack 512 (pk 0 0 0 0 0 []),
    .nack 512 (pk 0 0 0 0 0 []), .custody 512 (pk 0 0 0 0 0 []), .mirror 512 (pk 0 0 0 0 0 []), .transit 512 (pk 0 0 0 0 0 []),
    .commitVote 512 (pk 0 0 0 0 0 []), .commitResult 512 (pk 0 0 0 0 0 []), .heartbeat 512 (pk 0 0 0 0 0 []),
    .pair 512 (pk 0 0 0 0 0 []), .fill 512 (pk 0 0 0 0 0 []), .replicaDigest 512 (pk 0 0 0 0 0 []), .routeAlarm 512 (pk 0 0 0 0 0 [])] : List Instr).all fun i => !i.wf) = true := by decide

theorem test_wf_payload_of_a_packet : (([.slowMark 0 long, .write 0 long, .reductionPacket 0 long, .signal 0 long, .read 0 long,
    .missReport 0 long, .fetch 0 long, .reply 0 long, .ack 0 long, .nack 0 long, .custody 0 long, .mirror 0 long, .transit 0 long,
    .commitVote 0 long, .commitResult 0 long, .heartbeat 0 long, .pair 0 long, .fill 0 long, .replicaDigest 0 long, .routeAlarm 0 long] : List Instr).all fun i => !i.wf) = true := by decide

theorem test_wf_port : (([.timeReq 512 0 0, .timeResp 512 0 0 0, .transmit 512, .shareInterval 512, .credit 512 0 [] [],
    .retryReq 512 0 0, .stopMark 512 0, .cutLost 512, .hello 512 0, .helloSend 512, .keepalive 512 0, .keepaliveSend 512,
    .peerSilent 512, .linkTraining 512 .ok, .bringUpRetry 512, .laneFail 512, .failThresh 512 0, .narrow 512 0 0, .narrowAck 512 0 0,
    .narrowFailed 512, .carriedFrame 512 [], .uncorrectableCodeword 512 true] : List Instr).all fun i => !i.wf) = true := by decide

theorem test_wf_device_and_die : (([.slowMarkExpiry (2 ^ 20) 0, .resend (2 ^ 20) 0, .resend 0 0 (some (2 ^ 20)), .gapNack (2 ^ 20), .delivTo (2 ^ 20) 0,
    .hbMiss (2 ^ 20), .poolRebuild 4 0, .poolRebuild 0 8, .sample 4] : List Instr).all fun i => !i.wf) = true := by decide
theorem test_no_word_spells_a_command : decodeTableWord 32 0x04A00040 = none ∧ (on.withFetchWord 32 0x04A00040) = on := by decide

/-! ### Worked cases of the manual -/

/-- The three encodings below R162. -/
theorem test_encodings : encI 0x01 5 0 0x40 = 0x04A00040 ∧ encI 0x26 8 9 0x0C = 0x9909000C ∧ encI 0x19 3 0 0xFFFB = 0x6460FFFB := by decide

/-- The module's device-local address of R336: channel 29 of die 2. -/
theorem test_line_map : on.chanAt 0x005400001F40 = 48 * 2 + 29 := by decide

/-- Where channel line 2 goes with channel 29 retired (R343): channel 34 of the spare region. -/
theorem test_spare_line : spareLine 2 29 = spareFirst + 2 ∧ spareLine 2 29 % 48 = 34 := by decide

/-- The bands of R39: a region in band 1 moves up at 52.0 C and down below 38.0 C. -/
theorem test_bands : bandStep 1 519 = 1 ∧ bandStep 1 520 = 2 ∧ bandStep 1 380 = 1 ∧ bandStep 1 379 = 0 := by decide

/-- The three packets of R300. -/
theorem test_policer : policeColour false false 0 8232000 ⟨12000000, 16384000, 0⟩ = (0, ⟨3768000, 16384000, 0⟩) ∧
    policeColour false false 0 8232000 ⟨3868000, 16384000, 0⟩ = (1, ⟨3868000, 8152000, 0⟩) ∧
    policeColour false false 0 8232000 ⟨3968000, 8152000, 0⟩ = (2, ⟨3968000, 8152000, 0⟩) := by decide

/-- The interpolated ETA below R207. -/
theorem test_curve : interpolate 0x00000000 0x3A800000 1000 4096 = 0x397A0000 := by decide

/-- The three contributions worked below R114 and their sum rounded to FP32. -/
theorem test_grid : (gridOf (quantum 0x7F) (fp32.decode 0x3F800000)).1 = 0x8000000000 ∧ (gridOf (quantum 0x7F) (fp32.decode 0x33800000)).1 = 0x8000 ∧
    (fp32.encode .rne (.fin false 0x8000010000 (quantum 0x7F))).code = 0x3F800001 := by decide

/-- Subnormals on the grid (worked below R114): kept under S = 0x01, flushed under S = 0x30. -/
theorem test_grid_subnormal : (gridOf (quantum 0x01) (fp32.decode 0x00000003)).1 = 0x30000 ∧ (gridOf (quantum 0x01) (fp32.decode 0x80000001)).1 = -0x10000 ∧
    (fp32.encode .rne (.fin false 0x20000 (quantum 0x01))).code = 2 ∧ (gridOf (quantum 0x30) (fp32.decode 0x80000001)).2 = [1, 2] := by decide

/-- The master weight of R70: 1 + 2^-23 + 2^-24 rounds to the even fraction. -/
theorem test_master_weight : (fp32.encode .rne (lm48.decode 0x3F8000018000)).code = 0x3F800002 ∧
    (lm48.encode .rne (.fin false (2 ^ 35 - 1) (-35))).code = 0x3F7FFFFFFFE0 := by decide

/-- The MX8-E4M3 block below R74. -/
theorem test_mx_block :
    let vs := ([0x404C0000, 0xBD480000, 0x38D80000, 0x35800000] ++ List.replicate 28 0).map fun c => (fp32.decode c, Round.rne)
    (mxEncode 4 vs).1 = 0x78 ∧ ((mxEncode 4 vs).2.take 5).map (·.code) = [0x7D, 0xCC, 0x07, 0x00, 0x00] := by decide

/-- The SR case below R86: r = 0x2F1C0A35 rounds 1 + 2^-9 up in BF16, r = 0xC3A0117E down. -/
theorem test_stochastic : (bf16.encode (.sr 0x2F1C0A35) (.fin false 513 (-9))).code = 0x3F81 ∧
    (bf16.encode (.sr 0xC3A0117E) (.fin false 513 (-9))).code = 0x3F80 := by decide

/-- 1,000 hours at 70 C and 0.75 V, and at 85 C and 0.65 V (R428). -/
theorem test_instruction_words : instrOf 0 0x04A00040 = some (.addi 0 5 0 0x40) ∧ instrOf 0 (encR 5 1 2 1).toNat = some (.sub 0 5 1 2) ∧ instrOf 0 (encI 0x17 0 0 0).toNat = none := by
  decide

theorem test_adamw_length : adamWElem.length = 20 := by decide

theorem test_ageing : ageFactor 700 750 * 1000 / 2 ^ 32 = 353 ∧ ageFactor 850 650 * 1000 / 2 ^ 32 = 250 := by decide

end Sys2Proof.Tests
end

section
/-! SUPPORT. What reset leaves, and what the resets and the power enable do (R9, R333, R456-R461). -/

namespace Sys2Proof.Machine

open Sys2Proof Safety

/-! ### Frames of register writes -/

theorem Safety.onlyFields_foldl {α : Type} {g : State → α → State} {l : List α} {fs : List Field} (s : State)
    (h : ∀ t, ∀ x ∈ l, onlyFields t (g t x) fs) : onlyFields s (l.foldl g s) fs :=
  List.foldlRecOn l g (Safety.onlyFields_refl s fs) fun t ht x hx => Safety.onlyFields_trans ht (h t x hx)

theorem Safety.onlyFields_setAll (s : State) {l : List (Field × Nat)} {fs : List Field} (h : ∀ e ∈ l, e.1 ∈ fs) :
    onlyFields s (s.setAll l) fs :=
  Safety.onlyFields_foldl s fun t e he => Safety.onlyFields_set t _ (h e he)

/-! ### Hub registers and the registers of the dies (R406) -/

theorem rgnBase_inDies : ∀ r < 72, 0x3F0001000000 ≤ rgnBase r ∧ rgnBase r + 0x1000 ≤ 0x3F000D000000 := by decide

/-- A field of a region's control block lies in the dies. -/
theorem inDies_of_rgn {r : Nat} (hr : r < 72) {f : Field} (h0 : rgnBase r ≤ f.addr) (h1 : f.addr < rgnBase r + 0x1000) (hl : f.lo < 64) :
    inDies f.key = true := by
  have := rgnBase_inDies r hr
  refine decide_eq_true ?_
  simp only [Field.key]
  omega

/-- A field of a bench's block lies in the dies. -/
theorem inDies_of_bench {b : Nat} (hb : b < 40) {f : Field} (h0 : benchBase b ≤ f.addr) (h1 : f.addr < benchBase b + 0x100000)
    (hl : f.lo < 64) : inDies f.key = true := by
  refine decide_eq_true ?_
  simp only [Field.key, benchBase, forgeBase] at h0 h1 ⊢
  omega

/-- A register outside the dies is none of theirs. -/
theorem key_ne_of_inDies {f g : Field} (hf : inDies f.key = false) (hg : inDies g.key = true) : f.key ≠ g.key :=
  fun h => by simp [h, hg] at hf

/-- The registers that come to rest when the dies go off: the rails' readings and the benches' states. -/
def restFields : List Field := (List.range 72).map Rgn.vread ++ (List.range 40).map Ben.state

theorem inDies_of_mem_restFields {f : Field} (h : f ∈ restFields) : inDies f.key = true := by
  simp only [restFields, List.mem_append, List.mem_map, List.mem_range] at h
  obtain ⟨r, hr, rfl⟩ | ⟨b, hb, rfl⟩ := h
  · exact inDies_of_rgn hr (by simp [Rgn.vread]) (by simp [Rgn.vread]) (by simp [Rgn.vread])
  · exact inDies_of_bench hb (by simp [Ben.state]) (by simp [Ben.state]) (by simp [Ben.state])

theorem State.restBench_only (s : State) {b : Nat} (hb : b < 40) : onlyFields s (s.restBench b) restFields := by
  unfold State.restBench
  split
  · exact Safety.onlyFields_set s _ (List.mem_append_right _ (List.mem_map_of_mem (List.mem_range.2 hb)))
  · exact Safety.onlyFields_refl ..

/-- Rails off and benches at rest: nothing else changes. -/
theorem State.rest_only (s : State) : onlyFields s s.rest restFields := by
  refine Safety.onlyFields_trans (Safety.onlyFields_foldl s fun t r hr => ?_)
    (Safety.onlyFields_foldl _ fun t b hb => t.restBench_only (List.mem_range.1 hb))
  exact Safety.onlyFields_set t _ (List.mem_append_left _ (List.mem_map_of_mem hr))

theorem State.rest_get (s : State) {f : Field} (hf : inDies f.key = false) : s.rest.get f = s.get f :=
  s.rest_only.2 f fun _ hg => key_ne_of_inDies hf (inDies_of_mem_restFields hg)

/-! ### What a reset keeps (R9, R426, R460) -/

/-- A reset keeps a register or returns it to its reset value, by how the register is kept. -/
theorem State.resetAll_get (s : State) (keep : Keep → Bool) (f : Field) :
    (s.resetAll keep).get f = if keep (keepOf f.key) then s.get f else f.reset :=
  Tab.get_filter s.csr f.reset (fun k => keep (keepOf k)) f.key

theorem State.get_ageFrac (s : State) (x : Tab Nat) (f : Field) : State.get { s with ageFrac := x } f = s.get f := rfl

theorem State.get_log (s : State) (x : Tab LogEntry) (f : Field) : State.get { s with log := x } f = s.get f := rfl

theorem State.set_ageFrac_only (s : State) {f : Field} {l : List Field} (x : Tab Nat) {v : Nat} (h : f ∈ l) :
    onlyFields { s with ageFrac := x } { s.set f v with ageFrac := x } l :=
  Safety.onlyFields_set { s with ageFrac := x } v h

/-- The lifetime registers that a power-on reset reads back from flash. -/
def storedFields : List Field := Sec.powerOnS :: (List.range 85).map Sec.age

theorem State.powerOnReset_only (s : State) :
    onlyFields { (s.resetAll (· == Keep.life)).rest with ageFrac := [] } s.powerOnReset storedFields := by
  unfold State.powerOnReset
  refine Safety.onlyFields_trans ?_ (Safety.onlyFields_foldl _ fun t r hr => ?_)
  · exact State.set_ageFrac_only _ _ (List.mem_cons_self ..)
  · exact Safety.onlyFields_set t _ (List.mem_cons_of_mem _ (List.mem_map_of_mem hr))

/-- A power-on reset keeps the lifetime registers and returns every other hub register to its reset value. -/
theorem State.powerOnReset_get (s : State) {f : Field} (hf : inDies f.key = false) (hs : ∀ g ∈ storedFields, f.key ≠ g.key) :
    s.powerOnReset.get f = if keepOf f.key == Keep.life then s.get f else f.reset := by
  rw [s.powerOnReset_only.2 f hs, State.get_ageFrac, State.rest_get _ hf, State.resetAll_get]

/-- What a power-on reset leaves beside registers. -/
theorem State.powerOnReset_eq (s : State) :
    s.powerOnReset = { s.resetAll (· == Keep.life) with ageFrac := [], csr := s.powerOnReset.csr } := by
  have h := s.powerOnReset_only.1
  rwa [(State.rest_only _).1] at h

theorem State.warmReset_only (s : State) :
    onlyFields { (s.resetAll (· != Keep.none)).rest with log := s.log } s.warmReset [Sec.confirmPending] :=
  Safety.onlyFields_set _ _ (List.mem_singleton_self _)

/-- A warm reset keeps the registers kept over it and returns every other hub register to its reset value. -/
theorem State.warmReset_get (s : State) {f : Field} (hf : inDies f.key = false) (hc : f.key ≠ Sec.confirmPending.key) :
    s.warmReset.get f = if keepOf f.key != Keep.none then s.get f else f.reset := by
  rw [s.warmReset_only.2 f (by simpa using hc), State.get_log, State.rest_get _ hf, State.resetAll_get]

/-- What a warm reset leaves beside registers. -/
theorem State.warmReset_eq (s : State) :
    s.warmReset = { s.resetAll (· != Keep.none) with log := s.log, csr := s.warmReset.csr } := by
  have h := s.warmReset_only.1
  rwa [(State.rest_only _).1] at h

/-! ### The boot (R420) -/

/-- The registers that the boot's choice of a slot reads. -/
def slotFields : List Field := [Sec.activeSlot, Sec.slotAValid, Sec.slotBValid, Sec.keyRevoked, Sec.svnFloor]

/-- Whether the active slot boots depends on the slots and their registers alone. -/
theorem State.slotBoots_congr {s t : State} (hf : ∀ f ∈ slotFields, t.get f = s.get f) (hw : t.fwSlots = s.fwSlots) :
    t.slotBoots (t.get Sec.activeSlot) = s.slotBoots (s.get Sec.activeSlot) := by
  simp only [slotFields, List.mem_cons, List.not_mem_nil, or_false, forall_eq_or_imp, forall_eq] at hf
  obtain ⟨hact, ha, hb, hk, hv⟩ := hf
  have hflag : ∀ k : Nat, t.flag (if k = 0 then Sec.slotAValid else Sec.slotBValid) =
      s.flag (if k = 0 then Sec.slotAValid else Sec.slotBValid) := by
    intro k
    split <;> simp only [State.flag, ha, hb]
  simp only [State.slotBoots, hact, hflag, hw, hk, hv]

/-- The registers that a boot from the active slot writes. -/
def bootFields : List Field :=
  [Sec.mono, Cmd.powerState, Side.faultOut, Side.alertOut, Imp.impEff, Dl.linkState, Dl.laneLock]

/-- The hub's part of a boot from the active slot: MONO counts, the hub is in STANDBY and its outputs follow. -/
def State.bootHub (s : State) : State :=
  (((s.bump Sec.mono 1).set Cmd.powerState 1).showFault.set Side.alertOut ((s.bump Sec.mono 1).get Side.alertPend)).showImpEff

/-- A boot whose active slot passes is the hub's part, and the Dreril Link comes up. -/
theorem State.boot_of_slotBoots {s : State} (h : s.slotBoots (s.get Sec.activeSlot) = true) : s.boot = s.bootHub.drerilUp := by
  have h' : (s.bump Sec.mono 1).slotBoots ((s.bump Sec.mono 1).get Sec.activeSlot) = true :=
    (State.slotBoots_congr (fun f hf => State.get_bump_ne s 1 ((by decide : ∀ f ∈ slotFields, f.key ≠ Sec.mono.key) f hf)) rfl).trans h
  simp only [State.boot, h', if_true, State.bootHub]

theorem State.bootHub_only (s : State) : onlyFields s s.bootHub bootFields :=
  Safety.onlyFields_trans (Safety.onlyFields_trans (Safety.onlyFields_trans (Safety.onlyFields_trans
    (Safety.onlyFields_bump s 1 (by simp [bootFields])) (Safety.onlyFields_set _ 1 (by simp [bootFields])))
    (Safety.onlyFields_set _ _ (by simp [bootFields]))) (Safety.onlyFields_set _ _ (by simp [bootFields])))
    (Safety.onlyFields_set _ _ (by simp [bootFields]))

theorem State.bootHub_powerState (s : State) : s.bootHub.get Cmd.powerState = 1 := by
  rw [State.bootHub, State.showImpEff, State.get_set_ne _ _ (by decide), State.get_set_ne _ _ (by decide), State.showFault,
    State.get_set_ne _ _ (by decide), State.get_set_same]
  rfl

theorem State.bootHub_mono (s : State) : s.bootHub.get Sec.mono = (s.get Sec.mono + 1) % 2 ^ 64 := by
  rw [State.bootHub, State.showImpEff, State.get_set_ne _ _ (by decide), State.get_set_ne _ _ (by decide), State.showFault,
    State.get_set_ne _ _ (by decide), State.get_set_ne _ _ (by decide), State.get_bump_same]
  rfl

theorem State.drerilUp_get (s : State) {f : Field} (h : ∀ g ∈ [Dl.linkState, Dl.laneLock], f.key ≠ g.key) :
    s.drerilUp.get f = s.get f :=
  (Safety.onlyFields_setAll _ (by simp)).2 f h

theorem State.boot_get {s : State} (h : s.slotBoots (s.get Sec.activeSlot) = true) {f : Field} (hf : ∀ g ∈ bootFields, f.key ≠ g.key) :
    s.boot.get f = s.get f := by
  rw [State.boot_of_slotBoots h, State.drerilUp_get _ fun g hg => hf g (by simp_all [bootFields]), s.bootHub_only.2 f hf]

/-- A boot leaves everything but registers and the Dreril Link. -/
theorem State.boot_eq {s : State} (h : s.slotBoots (s.get Sec.activeSlot) = true) :
    s.boot = { s with csr := s.boot.csr, dreril := s.boot.dreril } := by
  obtain ⟨c, hc⟩ : ∃ c, s.bootHub = { s with csr := c } := ⟨_, s.bootHub_only.1⟩
  rw [State.boot_of_slotBoots h, hc]
  rfl

theorem State.boot_powerState {s : State} (h : s.slotBoots (s.get Sec.activeSlot) = true) : s.boot.get Cmd.powerState = 1 := by
  rw [State.boot_of_slotBoots h, State.drerilUp_get _ (by decide), State.bootHub_powerState]

theorem State.boot_mono {s : State} (h : s.slotBoots (s.get Sec.activeSlot) = true) :
    s.boot.get Sec.mono = (s.get Sec.mono + 1) % 2 ^ 64 := by
  rw [State.boot_of_slotBoots h, State.drerilUp_get _ (by decide), State.bootHub_mono]

/-! ### The dies go off (R333, R456) -/

/-- The hub registers that the dies' going off writes. -/
def dropFields : List Field := [Cmd.runState, Cmd.routingStopped, Imp.writingStep, Side.pwrgdOut, Ws.waiting]

theorem State.dropDies_streams (s : State) : s.dropDies.streams = [] := congrArg State.streams (State.rest_only _).1

theorem State.dropDies_ports (s : State) : s.dropDies.ports = [] := congrArg State.ports (State.rest_only _).1

/-- Of memory the latch and graph areas of the observation range alone are left. -/
theorem State.dropDies_mem (s : State) : s.dropDies.mem = s.mem.filter fun c => decide (0x3F000D000000 ≤ c.1) :=
  congrArg State.mem (State.rest_only _).1

/-- The dies' going off keeps every hub register but those it writes. -/
theorem State.dropDies_get (s : State) {f : Field} (hf : inDies f.key = false) (hd : ∀ g ∈ dropFields, f.key ≠ g.key) :
    s.dropDies.get f = s.get f := by
  refine (State.rest_get _ hf).trans ((State.get_setAll_ne _ _ ?_).trans ?_)
  · simpa [dropFields] using hd
  · refine (Tab.get_filter s.csr f.reset (fun k => !inDies k || keepOf k != Keep.none) f.key).trans ?_
    simp only [hf, Bool.not_false, Bool.true_or, if_true]
    rfl

theorem State.dropDies_runState (s : State) : s.dropDies.get Cmd.runState = 0 := by
  refine (State.rest_get _ (by decide)).trans ?_
  simp only [State.setAll, List.foldl_cons, List.foldl_nil]
  rw [State.get_set_ne _ _ (by decide), State.get_set_ne _ _ (by decide), State.get_set_ne _ _ (by decide),
    State.get_set_ne _ _ (by decide), State.get_set_same]
  rfl

theorem State.dropDies_pwrgdOut (s : State) : s.dropDies.get Side.pwrgdOut = 0 := by
  refine (State.rest_get _ (by decide)).trans ?_
  simp only [State.setAll, List.foldl_cons, List.foldl_nil]
  rw [State.get_set_ne _ _ (by decide), State.get_set_same]
  rfl

/-! ### Commands that wait end with the dies (R403) -/

theorem State.sendFlit_get (s : State) (ch : Nat) (f : Field) : (s.sendFlit ch).get f = s.get f := by
  unfold State.sendFlit
  split
  · rfl
  · split <;> rfl

theorem State.sendFlits_get (s : State) (ch n : Nat) (f : Field) : (s.sendFlits ch n).get f = s.get f := by
  induction n generalizing s with
  | zero => rfl
  | succ n ih => exact (ih _).trans (State.sendFlit_get s ch f)

theorem State.drainDreril_get (s : State) (f : Field) : s.drainDreril.get f = s.get f :=
  (State.sendFlits_get _ 2 _ f).trans (State.sendFlits_get s 1 _ f)

/-- A reply writes NOT_OK and HW_FAULT_EVT alone (R409). -/
theorem State.reply_get (s : State) (r : Reply) {f : Field} (h : ∀ g ∈ [Cmd.notOk, Cmd.hwFaultEvt], f.key ≠ g.key) :
    (s.reply r).get f = s.get f := by
  have hn : f.key ≠ Cmd.notOk.key := h _ (by simp)
  have hw : f.key ≠ Cmd.hwFaultEvt.key := h _ (by simp)
  refine (State.drainDreril_get _ f).trans ?_
  change State.get (if r.status = stHwFault then _ else _) f = _
  split <;> split <;> simp only [State.get_set_ne _ _ hw, State.get_bump_ne _ _ hn]

/-- The completion of a command writes its mailbox and what its reply counts. -/
theorem State.complete_get (s : State) (op tag status fault : Nat) (words : List Nat) {f : Field}
    (h : ∀ g ∈ [Mb.completion (tag % 32), Mb.mbState (tag % 32), Cmd.notOk, Cmd.hwFaultEvt], f.key ≠ g.key) :
    (s.complete op tag status fault words).get f = s.get f := by
  simp only [List.mem_cons, List.not_mem_nil, or_false, forall_eq_or_imp, forall_eq] at h
  obtain ⟨hc, hm, hn, hw⟩ := h
  refine (State.reply_get _ _ (by simp [hn, hw])).trans ((State.get_setAll_ne _ _ (by simp [hc, hm])).trans rfl)

/-- A hub register above the mailbox blocks (R407). -/
abbrev aboveMailboxes (f : Field) : Prop := 64 * 0x3F0000030000 ≤ f.key

theorem State.complete_get_above (s : State) (op tag status fault : Nat) (words : List Nat) {f : Field} (h : aboveMailboxes f) :
    (s.complete op tag status fault words).get f = s.get f := by
  have ht := Nat.mod_lt tag (show 32 > 0 by decide)
  refine State.complete_get s op tag status fault words ?_
  simp only [aboveMailboxes] at h
  simp only [List.mem_cons, List.not_mem_nil, or_false, forall_eq_or_imp, forall_eq]
  refine ⟨?_, ?_, ?_, ?_⟩ <;> simp only [Field.key, Mb.completion, Mb.mbState, Cmd.notOk, Cmd.hwFaultEvt] at h ⊢ <;> omega

theorem State.longEnd_get (s : State) (l : LongCmd) (status fault : Nat) (words : List Nat) {f : Field} (h : aboveMailboxes f) :
    (s.longEnd l status fault words).get f = s.get f := by
  refine (State.complete_get_above _ _ _ _ _ _ h).trans ((State.get_set_ne _ _ ?_).trans rfl)
  simp only [aboveMailboxes, Field.key, Cmd.longActive] at h ⊢
  omega

/-- The command of an opcode that waits, if one does, ends with NOT_READY. -/
def State.endOne (s : State) (op : Nat) (h : Option HostHdr) : State :=
  match h with
  | some k => s.complete op k.tag.toNat stNotReady 0 []
  | none => s

theorem State.endOne_get (s : State) (op : Nat) (k : Option HostHdr) {f : Field} (h : aboveMailboxes f) :
    (s.endOne op k).get f = s.get f := by
  cases k with
  | none => rfl
  | some k => exact State.complete_get_above s op k.tag.toNat stNotReady 0 [] h

/-- The end of what waits writes mailboxes and counts alone. -/
theorem State.endWaiting_get (s : State) {f : Field} (h : aboveMailboxes f) : s.endWaiting.get f = s.get f := by
  unfold State.endWaiting
  refine List.foldlRecOn (motive := fun t => t.get f = s.get f) _ _ ?_ fun t ht l _ => (State.longEnd_get t l _ _ _ h).trans ht
  refine (State.endOne_get _ 0x30 s.pairCmd h).trans ?_
  refine (State.endOne_get _ 0x22 s.abortCmd h).trans ?_
  refine (State.endOne_get _ 0x23 (s.stopAt.map (·.2)) h).trans ?_
  exact (State.endOne_get _ 0x21 (s.launch.map (·.2.1)) h).trans rfl

/-! ### STANDBY (R456) -/

theorem State.standby_powerState (s : State) : s.standby.get Cmd.powerState = 1 := State.get_set_same ..

theorem State.standby_runState (s : State) : s.standby.get Cmd.runState = 0 := by
  rw [State.standby, State.get_set_ne _ _ (by decide), State.dropDies_runState]

theorem State.standby_pwrgdOut (s : State) : s.standby.get Side.pwrgdOut = 0 := by
  rw [State.standby, State.get_set_ne _ _ (by decide), State.dropDies_pwrgdOut]

theorem State.standby_streams (s : State) : s.standby.streams = [] := by
  rw [State.standby, State.set_streams, State.dropDies_streams]

theorem State.standby_ports (s : State) : s.standby.ports = [] := by
  rw [State.standby, State.set_ports, State.dropDies_ports]

/-- In STANDBY no byte of the dies' memories is listed (R333, R456). -/
theorem State.standby_mem (s : State) : ∀ c ∈ s.standby.mem, 0x3F000D000000 ≤ c.1 := by
  intro c hc
  rw [State.standby, State.set_mem, State.dropDies_mem, List.mem_filter, decide_eq_true_eq] at hc
  exact hc.2

/-- The fall to STANDBY leaves the hub's registers above the mailboxes, but for those that the dies' going off writes. -/
theorem State.standby_get (s : State) {f : Field} (hm : aboveMailboxes f) (hf : inDies f.key = false)
    (hd : ∀ g ∈ dropFields, f.key ≠ g.key) : s.standby.get f = s.get f := by
  have hp : f.key ≠ Cmd.powerState.key := by
    simp only [aboveMailboxes, Field.key, Cmd.powerState] at hm ⊢
    omega
  rw [State.standby, State.get_set_ne _ _ hp, State.dropDies_get _ hf hd, State.endWaiting_get _ hm]

theorem State.fallBack_powerState (s : State) (cause : Nat) : (s.fallBack cause).get Cmd.powerState = 1 := by
  rw [State.fallBack, State.showFault, State.get_set_ne _ _ (by decide), State.get_set_ne _ _ (by decide), State.standby_powerState]

theorem State.fallBack_faultCause (s : State) (cause : Nat) : (s.fallBack cause).get Side.faultCause = cause % 16 := by
  rw [State.fallBack, State.showFault, State.get_set_ne _ _ (by decide), State.get_set_same]
  rfl

theorem State.recordUptime_get (s : State) {f : Field} (h : f.key ≠ Sec.powerOnS.key) : s.recordUptime.get f = s.get f :=
  (State.get_bump_ne (s.fresh).2 _ h).trans rfl

/-! ### The entry to ACTIVE (R458) -/

/-- A hub register that the bring-up of the dies leaves: it lies in no die and is none of the trace block. -/
def besideDies (f : Field) : Prop := inDies f.key = false ∧ ∀ g ∈ traceFields, f.key ≠ g.key

theorem State.applyCode_get (s : State) {r : Nat} (hr : r < 72) {f : Field} (h : besideDies f) : (s.applyCode r).get f = s.get f := by
  obtain ⟨hf, ht⟩ := h
  unfold State.applyCode
  dsimp only
  split
  · rfl
  · refine (State.trace_get _ _ _ _ ht).trans (State.get_set_ne _ _ (key_ne_of_inDies hf ?_))
    exact inDies_of_rgn hr (by simp [Rgn.applied]) (by simp [Rgn.applied]) (by simp [Rgn.applied])

theorem State.raiseRegion_get (s : State) {r : Nat} (hr : r < 72) {f : Field} (h : besideDies f) :
    (s.raiseRegion r).get f = s.get f := by
  have hne : ∀ g ∈ [Rgn.vread r, Rgn.state r, Rgn.band r], f.key ≠ g.key := fun g hg => by
    refine key_ne_of_inDies h.1 (inDies_of_rgn hr ?_ ?_ ?_) <;> revert g <;> simp [Rgn.vread, Rgn.state, Rgn.band]
  unfold State.raiseRegion
  dsimp only
  split
  · rfl
  · exact (State.applyCode_get _ hr h).trans (State.get_setAll_ne _ _ (by simpa using hne))

theorem State.copyFeat_get (s : State) {b : Nat} (hb : b < 40) {f : Field} (h : besideDies f) : (s.copyFeat b).get f = s.get f := by
  refine List.foldlRecOn (motive := fun t => t.get f = s.get f) _ _ rfl fun (t : State) ht n hn => (State.get_set_ne _ _ ?_).trans ht
  have hn := List.mem_range.1 hn
  refine key_ne_of_inDies h.1 (inDies_of_bench hb ?_ ?_ ?_) <;> simp [Cmp.feat, stnBase] <;> omega

theorem State.showPower_get (s : State) {f : Field} (h : f.key ≠ Cmd.powerState.key) : s.showPower.get f = s.get f := by
  unfold State.showPower
  split
  · rfl
  · exact State.get_set_ne _ _ h

/-- With the dies on, POWER_STATE shows ACTIVE or THROTTLED (R463). -/
theorem State.showPower_on (s : State) (h : 2 ≤ s.get Cmd.powerState) : 2 ≤ s.showPower.get Cmd.powerState := by
  unfold State.showPower
  rw [if_neg (by omega), State.get_set_same]
  split <;> decide

/-- The state with the dies up, before the hub shows it. -/
def State.diesUp (s : State) : State :=
  (List.range 40).foldl State.copyFeat ((List.range 72).foldl State.raiseRegion s)

theorem State.enterActive_eq (s : State) : s.enterActive = (s.diesUp.setAll [(Cmd.powerState, 2), (Side.pwrgdOut, 1)]).showPower := rfl

theorem State.diesUp_get (s : State) {f : Field} (h : besideDies f) : s.diesUp.get f = s.get f := by
  unfold State.diesUp
  refine List.foldlRecOn (motive := fun t => t.get f = s.get f) _ _ ?_ fun t ht b hb =>
    (State.copyFeat_get t (List.mem_range.1 hb) h).trans ht
  exact List.foldlRecOn (motive := fun t => t.get f = s.get f) _ _ rfl fun t ht r hr =>
    (State.raiseRegion_get t (List.mem_range.1 hr) h).trans ht

/-- The entry to ACTIVE leaves the hub's registers, but for POWER_STATE, PWRGD and those of the trace block. -/
theorem State.enterActive_get (s : State) {f : Field} (h : besideDies f) (hp : f.key ≠ Cmd.powerState.key) (hg : f.key ≠ Side.pwrgdOut.key) :
    s.enterActive.get f = s.get f := by
  rw [State.enterActive_eq, State.showPower_get _ hp, State.get_setAll_ne _ _ (by simp [hp, hg]), State.diesUp_get _ h]

theorem State.enterActive_powerState (s : State) : 2 ≤ s.enterActive.get Cmd.powerState := by
  rw [State.enterActive_eq]
  refine State.showPower_on _ ?_
  simp only [State.setAll, List.foldl_cons, List.foldl_nil]
  rw [State.get_set_ne _ _ (by decide), State.get_set_same]
  decide

theorem State.enterActive_pwrgdOut (s : State) : s.enterActive.get Side.pwrgdOut = 1 := by
  rw [State.enterActive_eq, State.showPower_get _ (by decide)]
  exact State.get_set_same ..

/-! ### Power-on (R457) -/

theorem slotFields_kept : ∀ f ∈ slotFields, keepOf f.key = Keep.life ∧ inDies f.key = false ∧ f.key < Sec.powerOnS.key := by decide

/-- The lifetime registers that are read back lie from POWER_ON_S on. -/
theorem key_ne_of_mem_storedFields {f g : Field} (hf : f.key < Sec.powerOnS.key) (hg : g ∈ storedFields) : f.key ≠ g.key := by
  simp only [storedFields, List.mem_cons, List.mem_map] at hg
  obtain rfl | ⟨r, -, rfl⟩ := hg
  · exact hf.ne
  · simp only [Field.key, Sec.powerOnS, Sec.age] at hf ⊢
    omega

theorem State.powerOnReset_fwSlots (s : State) : s.powerOnReset.fwSlots = s.fwSlots := by
  rw [s.powerOnReset_eq]
  rfl

/-- The choice of a slot is the same after a power-on reset: it rests on lifetime records (R426). -/
theorem State.powerOnReset_slotBoots (s : State) :
    s.powerOnReset.slotBoots (s.powerOnReset.get Sec.activeSlot) = s.slotBoots (s.get Sec.activeSlot) := by
  refine State.slotBoots_congr (fun f hf => ?_) s.powerOnReset_fwSlots
  obtain ⟨hk, hd, hlt⟩ := slotFields_kept f hf
  rw [State.powerOnReset_get s hd fun g hg => key_ne_of_mem_storedFields hlt hg, hk]
  rfl

theorem State.powerOnReset_runState (s : State) : s.powerOnReset.get Cmd.runState = 0 := by
  rw [State.powerOnReset_get s (by decide) fun g hg => key_ne_of_mem_storedFields (by decide) hg]
  exact if_neg (by decide)

/-- Nothing stands in the hub's memories, its log or in flight. -/
def State.idle (s : State) : Prop := s.mem = [] ∧ s.streams = [] ∧ s.dsts = [] ∧ s.log = []

theorem State.powerOnReset_idle (s : State) : s.powerOnReset.idle := by
  rw [s.powerOnReset_eq]
  exact ⟨rfl, rfl, rfl, rfl⟩

/-- The TAP reset and VIN measured: what a power-on does before the boot. -/
def State.measured (s : State) (vin : Nat) : State := { s with tapIr := 1, tapDrive := false }.set Pwr.vin vin

theorem State.measured_get (s : State) (vin : Nat) {f : Field} (h : f.key ≠ Pwr.vin.key) : (s.measured vin).get f = s.get f :=
  (State.get_set_ne _ _ h).trans rfl

theorem State.measured_idle (s : State) (vin : Nat) : (s.measured vin).idle ↔ s.idle := Iff.rfl

theorem State.measured_slotBoots (s : State) (vin : Nat) :
    (s.measured vin).slotBoots ((s.measured vin).get Sec.activeSlot) = s.slotBoots (s.get Sec.activeSlot) :=
  State.slotBoots_congr (fun f hf => s.measured_get vin ((by decide : ∀ f ∈ slotFields, f.key ≠ Pwr.vin.key) f hf)) rfl

/-- POWER_ON_RESET boots, or with RESET_N low waits for it in STANDBY (R457, R461). -/
theorem exec_powerOnReset {s : State} {vin : Nat} (hp : s.get Cmd.powerState = 0) (h0 : 35000 < vin) (h1 : vin ≤ 50000) :
    exec (.powerOnReset vin) s =
      .next (if s.flag Side.resetNIn then (s.powerOnReset.measured vin).boot else (s.powerOnReset.measured vin).set Cmd.powerState 1) :=
  congrArg Host.Outcome.next (if_pos ⟨hp, h0, h1⟩)

/-- Whether it boots or waits, power-on ends in STANDBY, stopped, with the hub's memories empty (R9, R457). -/
theorem powerOnReset_standby {s : State} {vin : Nat} (hb : s.slotBoots (s.get Sec.activeSlot) = true) (hp : s.get Cmd.powerState = 0)
    (h0 : 35000 < vin) (h1 : vin ≤ 50000) :
    ∃ t, exec (.powerOnReset vin) s = .next t ∧ t.get Cmd.powerState = 1 ∧ t.get Cmd.runState = 0 ∧ t.mem = [] ∧ t.streams = [] ∧
      t.dsts = [] ∧ t.log = [] ∧ t.get Pwr.vin = vin := by
  have hrun : (s.powerOnReset.measured vin).get Cmd.runState = 0 := (State.measured_get _ vin (by decide)).trans s.powerOnReset_runState
  have hslot := (s.powerOnReset.measured_slotBoots vin).trans (s.powerOnReset_slotBoots.trans hb)
  have hvin : (s.powerOnReset.measured vin).get Pwr.vin = vin :=
    (State.get_set_same ..).trans (Nat.mod_eq_of_lt (by simp only [Pwr.vin]; omega))
  have hidle : (s.powerOnReset.measured vin).idle := (State.measured_idle _ vin).2 s.powerOnReset_idle
  obtain ⟨hmem, hstreams, hdsts, hlog⟩ := hidle
  rw [exec_powerOnReset hp h0 h1]
  generalize s.powerOnReset.measured vin = u at *
  refine ⟨_, rfl, ?_⟩
  split
  case isTrue =>
    have heq := State.boot_eq hslot
    exact ⟨State.boot_powerState hslot, (State.boot_get hslot (by decide)).trans hrun, (congrArg State.mem heq).trans hmem,
      (congrArg State.streams heq).trans hstreams, (congrArg State.dsts heq).trans hdsts, (congrArg State.log heq).trans hlog,
      (State.boot_get hslot (by decide)).trans hvin⟩
  case isFalse =>
    exact ⟨State.get_set_same .., (State.get_set_ne _ _ (by decide)).trans hrun, hmem, hstreams, hdsts, hlog,
      (State.get_set_ne _ _ (by decide)).trans hvin⟩

/-! ### RESET_N (R460, R461) -/

theorem State.alive_iff (s : State) : s.alive = true ↔ s.get Cmd.powerState ≠ 0 ∧ s.flag Side.resetNIn = true := by
  simp [State.alive]

theorem State.active_iff (s : State) : s.active = true ↔ 2 ≤ s.get Cmd.powerState ∧ s.flag Side.resetNIn = true := by
  simp [State.active]

/-- WARM_RESET of a module that is up is the warm reset, held by RESET_N (R460, R461). -/
theorem exec_warmReset {s : State} (h : s.alive = true) :
    exec .warmReset s = .next ((s.warmReset.set Cmd.powerState 1).set Side.resetNIn 0) := by
  obtain ⟨hp, hr⟩ := s.alive_iff.1 h
  exact congrArg (fun t => Host.Outcome.next (State.set t Side.resetNIn 0)) (if_neg (by simp [hp, hr]))

/-- A warm reset keeps a hub register that it need not write, if the register is kept over it at all. -/
theorem State.warmReset_keeps_register (s : State) {f : Field} (hf : inDies f.key = false) (hc : f.key ≠ Sec.confirmPending.key)
    (hk : (keepOf f.key != Keep.none) = true) : s.warmReset.get f = s.get f :=
  (State.warmReset_get s hf hc).trans (if_pos hk)

theorem State.warmReset_mem (s : State) : s.warmReset.mem = [] := by
  rw [s.warmReset_eq]
  rfl

theorem State.warmReset_streams (s : State) : s.warmReset.streams = [] := by
  rw [s.warmReset_eq]
  rfl

theorem State.warmReset_log (s : State) : s.warmReset.log = s.log := by
  rw [s.warmReset_eq]

/-- A warm reset keeps the error log, MONO and the calendar, and loses memory and streams (R9, R426, R436). -/
theorem warmReset_keeps_records {s : State} (h : s.alive = true) :
    ∃ t, exec .warmReset s = .next t ∧ t.get Side.resetNIn = 0 ∧ t.alive = false ∧ t.mem = [] ∧ t.log = s.log ∧ t.streams = [] ∧
      t.get Sec.mono = s.get Sec.mono ∧ t.get Sec.calendar = s.get Sec.calendar := by
  have hmem := s.warmReset_mem
  have hstreams := s.warmReset_streams
  have hlog := s.warmReset_log
  have hmono : s.warmReset.get Sec.mono = s.get Sec.mono := s.warmReset_keeps_register (by decide) (by decide) (by decide)
  have hcal : s.warmReset.get Sec.calendar = s.get Sec.calendar := s.warmReset_keeps_register (by decide) (by decide) (by decide)
  rw [exec_warmReset h]
  generalize s.warmReset = u at *
  have hlow : ((u.set Cmd.powerState 1).set Side.resetNIn 0).get Side.resetNIn = 0 := State.get_set_same ..
  refine ⟨_, rfl, hlow, ?_, hmem, hlog, hstreams, ?_, ?_⟩
  · simp [State.alive, State.flag, hlow]
  · rw [State.get_set_ne _ _ (by decide), State.get_set_ne _ _ (by decide), hmono]
  · rw [State.get_set_ne _ _ (by decide), State.get_set_ne _ _ (by decide), hcal]

/-- With RESET_N high already nothing happens. -/
theorem exec_resetNHigh_of_high {s : State} (h : s.flag Side.resetNIn = true) : exec .resetNHigh s = .next s :=
  congrArg Host.Outcome.next (if_pos h)

/-- The state that a warm reset's boot starts from: RESET_N is high, EXTEST acts as BYPASS (R461, R467). -/
def State.released (s : State) : State := { s.set Side.resetNIn 1 with tapDrive := false }

theorem State.released_get (s : State) {f : Field} (h : f.key ≠ Side.resetNIn.key) : s.released.get f = s.get f :=
  State.get_set_ne s 1 h

theorem State.released_flag (s : State) : s.released.flag Side.resetNIn = true := by
  have h : s.released.get Side.resetNIn = 1 := State.get_set_same s Side.resetNIn 1
  simp [State.flag, h]

theorem State.released_slotBoots (s : State) :
    s.released.slotBoots (s.released.get Sec.activeSlot) = s.slotBoots (s.get Sec.activeSlot) :=
  State.slotBoots_congr (fun f hf => s.released_get ((by decide : ∀ f ∈ slotFields, f.key ≠ Side.resetNIn.key) f hf)) rfl

/-- RESET_N_HIGH with PWR_EN low boots into STANDBY, and MONO counts the boot (R420, R460). -/
theorem resetNHigh_boots {s : State} (hb : s.slotBoots (s.get Sec.activeSlot) = true) (hp : s.get Cmd.powerState = 1)
    (hr : s.flag Side.resetNIn = false) (he : s.flag Side.pwrEnIn = false) :
    ∃ t, exec .resetNHigh s = .next t ∧ t.get Cmd.powerState = 1 ∧ t.alive = true ∧ t.get Sec.mono = (s.get Sec.mono + 1) % 2 ^ 64 := by
  have hslot := s.released_slotBoots.trans hb
  have hpwr : s.released.boot.flag Side.pwrEnIn = false := by
    rw [State.flag, State.boot_get hslot (by decide), State.released_get _ (by decide)]
    exact he
  have hup : s.released.boot.flag Side.resetNIn = true := by
    rw [State.flag, State.boot_get hslot (by decide)]
    exact s.released_flag
  have hexec : exec .resetNHigh s = .next s.released.boot := by
    have hreboot : s.released.reboot = s.released.boot := by simp only [State.reboot, hpwr, Bool.false_and, Bool.false_eq_true, if_false]
    change Host.Outcome.next (if s.flag Side.resetNIn = true then s else if s.get Cmd.powerState = 0 then _ else s.released.reboot) = _
    rw [hr, hp, hreboot]
    rfl
  refine ⟨_, hexec, State.boot_powerState hslot, ?_, ?_⟩
  · exact (State.alive_iff _).2 ⟨by simp [State.boot_powerState hslot], hup⟩
  · rw [State.boot_mono hslot, State.released_get _ (by decide)]

/-! ### PWR_EN (R458, R459, R469) -/

/-- PWR_EN_HIGH in STANDBY, with no boot recovery, enters ACTIVE or falls back. -/
theorem exec_pwrEnHigh {s : State} (ha : s.alive = true) (hp : s.get Cmd.powerState = 1) (hb : s.flag Sec.bootRecovery = false) (ok : Bool) :
    exec (.pwrEnHigh ok) s = .next (if ok then (s.set Side.pwrEnIn 1).enterActive else (s.set Side.pwrEnIn 1).fallBack 4) :=
  congrArg Host.Outcome.next (if_pos (by simp [ha, hp, hb]))

theorem pwrEnHigh_enters {s : State} (ha : s.alive = true) (hp : s.get Cmd.powerState = 1) (hb : s.flag Sec.bootRecovery = false) :
    ∃ t, exec (.pwrEnHigh true) s = .next t ∧ t.active = true ∧ t.get Side.pwrgdOut = 1 ∧ t.get Side.pwrEnIn = 1 := by
  have hr := (s.alive_iff.1 ha).2
  rw [exec_pwrEnHigh ha hp hb true, if_pos rfl]
  refine ⟨_, rfl, (State.active_iff _).2 ⟨State.enterActive_powerState _, ?_⟩, State.enterActive_pwrgdOut _, ?_⟩
  · rw [State.flag, State.enterActive_get _ ⟨by decide, by decide⟩ (by decide) (by decide), State.get_set_ne _ _ (by decide)]
    exact hr
  · rw [State.enterActive_get _ ⟨by decide, by decide⟩ (by decide) (by decide), State.get_set_same]
    rfl

theorem pwrEnHigh_falls_back {s : State} (ha : s.alive = true) (hp : s.get Cmd.powerState = 1) (hb : s.flag Sec.bootRecovery = false) :
    ∃ t, exec (.pwrEnHigh false) s = .next t ∧ t.get Cmd.powerState = 1 ∧ t.get Side.faultCause = 4 :=
  ⟨_, exec_pwrEnHigh ha hp hb false, State.fallBack_powerState _ 4, State.fallBack_faultCause _ 4⟩

theorem exec_pwrEnLow_active {s : State} (h : s.active = true) :
    exec .pwrEnLow s = .next (s.set Side.pwrEnIn 0).recordUptime.standby := congrArg Host.Outcome.next (if_pos h)

theorem exec_pwrEnLow_inactive {s : State} (h : s.active = false) : exec .pwrEnLow s = .next (s.set Side.pwrEnIn 0) :=
  congrArg Host.Outcome.next (if_neg (by simp [h]))

/-- In STANDBY of a module that was up the device is stopped, its streams and ports and the dies' memory are gone (R333, R456). -/
theorem pwrEnLow_drops_dies {s : State} (h : s.active = true) :
    ∃ t, exec .pwrEnLow s = .next t ∧ t.get Cmd.powerState = 1 ∧ t.get Side.pwrgdOut = 0 ∧ t.get Side.pwrEnIn = 0 ∧
      t.get Cmd.runState = 0 ∧ t.streams = [] ∧ t.ports = [] ∧ ∀ c ∈ t.mem, 0x3F000D000000 ≤ c.1 := by
  refine ⟨_, exec_pwrEnLow_active h, State.standby_powerState _, State.standby_pwrgdOut _, ?_, State.standby_runState _,
    State.standby_streams _, State.standby_ports _, State.standby_mem _⟩
  rw [State.standby_get _ (by decide) (by decide) (by decide), State.recordUptime_get _ (by decide), State.get_set_same]
  rfl

end Sys2Proof.Machine

open Sys2Proof Sys2Proof.Machine Sys2Proof.Safety

/-- Settles O18: reset lists no byte of memory and no start snapshot. -/
theorem resetIsCanonical : Obligations.ResetIsCanonical :=
  ⟨Memory.wf_nil, fun _ he => absurd he List.not_mem_nil⟩

/-- Settles O19: reset lists no register, so that each reads as its reset value. -/
theorem resetLeavesTheDeviceStopped : Obligations.ResetLeavesTheDeviceStopped := by
  refine ⟨fun _ => rfl, rfl, rfl, rfl, rfl, rfl, rfl, rfl, rfl, rfl, rfl, rfl, rfl, fun b _ => ?_⟩
  have hspare : b % 5 < 4 ↔ b % 5 ≠ 4 := by omega
  change (if b % 5 < 4 then 0 else 4) = if b % 5 = 4 then 4 else 0
  simp only [hspare, ne_eq, ite_not]

/-- Settles O56: each command by its equation, from what a reset keeps, what a boot from a slot that passes writes, and what the
dies' coming up and going off leave. -/
theorem resetsAndPowerEnable : Obligations.ResetsAndPowerEnable := fun _ _ hslot =>
  ⟨powerOnReset_standby hslot, warmReset_keeps_records, exec_resetNHigh_of_high, resetNHigh_boots hslot,
    fun halive hstandby hboot => ⟨pwrEnHigh_enters halive hstandby hboot, pwrEnHigh_falls_back halive hstandby hboot⟩,
    pwrEnLow_drops_dies, exec_pwrEnLow_inactive⟩

end

section
/-! SUPPORT. The tick of an empty queue: what it advances and what it leaves (R54, R59, R437). -/

namespace Sys2Proof.Machine

open Sys2Proof Safety

/-! ### The tick (R54, R59, R437) -/

/-- The counters of elapsed time that a tick advances (R437, R471). -/
def tickFields : List Field :=
  [Tb.count, Pwr.throttleNs] ++ ((List.range 40).map Aoc.activeNs ++ (List.range 40).map Aoc.stallNs)

theorem benchNs_mem_tickFields {b : Nat} (hb : b < 40) : Aoc.activeNs b ∈ tickFields ∧ Aoc.stallNs b ∈ tickFields := by
  have hb := List.mem_range.2 hb
  simp only [tickFields, List.mem_append]
  exact ⟨.inr (.inl (List.mem_map_of_mem hb)), .inr (.inr (List.mem_map_of_mem hb))⟩

/-- The bench counters lie away from the global count and the throttle counter. -/
theorem benchNs_key_ne (b : Nat) :
    Tb.count.key ≠ (Aoc.activeNs b).key ∧ Tb.count.key ≠ (Aoc.stallNs b).key ∧
    Pwr.throttleNs.key ≠ (Aoc.activeNs b).key ∧ Pwr.throttleNs.key ≠ (Aoc.stallNs b).key := by
  simp only [Field.key, Tb.count, Pwr.throttleNs, Aoc.activeNs, Aoc.stallNs]
  omega

theorem State.tickBench_only (s : State) (b : Nat) : onlyFields s (s.tickBench b) [Aoc.activeNs b, Aoc.stallNs b] := by
  unfold State.tickBench
  split
  · exact Safety.onlyFields_bump s 1 (by simp)
  · split
    · exact Safety.onlyFields_bump s 1 (by simp)
    · exact Safety.onlyFields_refl ..

/-- A tick's part in the benches: their two counters of time. -/
def State.tickBenches (s : State) : State := (List.range 40).foldl State.tickBench s

theorem State.tickBenches_only (s : State) :
    onlyFields s s.tickBenches ((List.range 40).map Aoc.activeNs ++ (List.range 40).map Aoc.stallNs) :=
  Safety.onlyFields_foldl s fun t b hb => Safety.onlyFields_mono (t.tickBench_only b) fun f hf => by
    simp only [List.mem_cons, List.not_mem_nil, or_false] at hf
    obtain rfl | rfl := hf
    · exact List.mem_append_left _ (List.mem_map_of_mem hb)
    · exact List.mem_append_right _ (List.mem_map_of_mem hb)

theorem State.tickBenches_get (s : State) {f : Field}
    (h : ∀ b, b < 40 → f.key ≠ (Aoc.activeNs b).key ∧ f.key ≠ (Aoc.stallNs b).key) : s.tickBenches.get f = s.get f :=
  s.tickBenches_only.2 f fun g hg => by
    simp only [List.mem_append, List.mem_map, List.mem_range] at hg
    obtain ⟨b, hb, rfl⟩ | ⟨b, hb, rfl⟩ := hg
    · exact (h b hb).1
    · exact (h b hb).2

/-- A held count stays; the hold is one tick shorter (R59). -/
theorem State.countTick_held {s : State} (h : 0 < s.time.hold) :
    s.countTick = { s with time := { s.time with hold := s.time.hold - 1 } } := if_pos (by omega)

/-- A count that is not held advances by 1 ns; PPS_OUT may fall (R54, R56). -/
theorem State.countTick_free {s : State} (h : s.time.hold = 0) :
    ∃ x, s.countTick = { s.bump Tb.count 1 with time := x } := by
  unfold State.countTick
  rw [if_neg (by simp [h])]
  dsimp only
  split
  · exact ⟨_, rfl⟩
  · exact ⟨_, rfl⟩

theorem State.countTick_only (s : State) : onlyFields { s with time := s.countTick.time } s.countTick [Tb.count] := by
  obtain h | h := Nat.eq_zero_or_pos s.time.hold
  · obtain ⟨x, hx⟩ := State.countTick_free h
    rw [hx]
    exact Safety.onlyFields_bump { s with time := x } 1 (List.mem_singleton_self _)
  · rw [State.countTick_held h]
    exact Safety.onlyFields_refl ..

/-- The hub's part of a tick: the count, powered time, and in THROTTLED its counter (R471). -/
def State.tickHub (s : State) : State :=
  let t := { s.countTick with elapsed := s.elapsed + 1 }
  if t.get Cmd.powerState = 3 then t.bump Pwr.throttleNs 1 else t

theorem State.tick_eq (s : State) : tick s = if s.get Cmd.powerState = 0 then s
    else if s.tickHub.get Cmd.powerState = 1 then s.tickHub else s.tickHub.tickBenches := rfl

/-- A state with powered time one tick on, its marks those after the tick: what a tick leaves beside registers. -/
def State.ticked (s : State) : State := { s with time := s.countTick.time, elapsed := s.elapsed + 1 }

theorem State.tickHub_count_only (s : State) :
    onlyFields s.ticked { s.countTick with elapsed := s.elapsed + 1 } [Tb.count] := by
  obtain ⟨heq, hget⟩ := s.countTick_only
  refine ⟨?_, hget⟩
  rw [heq]
  rfl

theorem State.tickHub_only (s : State) : onlyFields s.ticked s.tickHub [Tb.count, Pwr.throttleNs] := by
  refine Safety.onlyFields_trans (Safety.onlyFields_mono s.tickHub_count_only (by simp)) ?_
  unfold State.tickHub
  dsimp only
  split
  · exact Safety.onlyFields_bump _ 1 (by simp)
  · exact Safety.onlyFields_refl ..

/-- A tick of a powered hub writes the counters of elapsed time alone. -/
theorem State.tick_only {s : State} (h : s.get Cmd.powerState ≠ 0) : onlyFields s.ticked (tick s) tickFields := by
  have hhub : onlyFields s.ticked s.tickHub tickFields :=
    Safety.onlyFields_mono s.tickHub_only fun f hf => List.mem_append_left _ hf
  rw [State.tick_eq, if_neg h]
  split
  · exact hhub
  · exact Safety.onlyFields_trans hhub (Safety.onlyFields_mono (State.tickBenches_only _) fun f hf => List.mem_append_right _ hf)

/-- A counter that is none of the benches' stands after a tick as the hub's part leaves it. -/
theorem State.tick_get_hub {s : State} (h : s.get Cmd.powerState ≠ 0) {f : Field}
    (hf : ∀ b, b < 40 → f.key ≠ (Aoc.activeNs b).key ∧ f.key ≠ (Aoc.stallNs b).key) : (tick s).get f = s.tickHub.get f := by
  rw [State.tick_eq, if_neg h]
  split
  · rfl
  · exact State.tickBenches_get _ hf

theorem State.tickHub_now (s : State) : s.tickHub.now = s.countTick.now := by
  unfold State.tickHub
  dsimp only
  split
  · exact State.get_bump_ne _ _ (by decide)
  · rfl

theorem State.tick_now {s : State} (h : s.get Cmd.powerState ≠ 0) : (tick s).now = s.countTick.now :=
  (State.tick_get_hub h fun b _ => ⟨(benchNs_key_ne b).1, (benchNs_key_ne b).2.1⟩).trans s.tickHub_now

/-- Outside THROTTLED a tick leaves THROTTLE_NS (R471). -/
theorem State.tick_throttleNs {s : State} (h : s.get Cmd.powerState ≠ 3) : (tick s).get Pwr.throttleNs = s.get Pwr.throttleNs := by
  by_cases h0 : s.get Cmd.powerState = 0
  · rw [State.tick_eq, if_pos h0]
  · have hp : State.get { s.countTick with elapsed := s.elapsed + 1 } Cmd.powerState ≠ 3 := by
      rw [s.tickHub_count_only.2 _ (by decide)]
      exact h
    rw [State.tick_get_hub h0 fun b _ => ⟨(benchNs_key_ne b).2.2.1, (benchNs_key_ne b).2.2.2⟩, State.tickHub, if_neg hp,
      s.tickHub_count_only.2 _ (by decide)]
    rfl

theorem step_of_empty {s : State} (h : s.pending = []) : step s = .next (tick s) := by
  unfold step
  rw [h]

end Sys2Proof.Machine

open Sys2Proof Sys2Proof.Machine Sys2Proof.Safety

/-- Settles O15: off, a tick is nothing; powered, it writes the counters of elapsed time alone, and the count by its hold. -/
theorem anEmptyQueueTicks : Obligations.AnEmptyQueueTicks := by
  intro s hs
  refine ⟨tick s, step_of_empty hs, ?_⟩
  by_cases h0 : s.get Cmd.powerState = 0
  case pos =>
    have htick : tick s = s := by rw [State.tick_eq, if_pos h0]
    rw [htick]
    exact ⟨rfl, fun _ _ _ _ => rfl, fun h => absurd h0 h, fun h => absurd h0 h, fun h => absurd h0 h, fun _ => rfl, fun _ => rfl⟩
  case neg =>
    obtain ⟨heq, hget⟩ := State.tick_only h0
    have htime : (tick s).time = s.countTick.time := (congrArg State.time heq).trans rfl
    refine ⟨?_, fun f hc ht hb => (hget f ?_).trans rfl, fun _ hh => ?_, fun _ hh => ⟨?_, ?_⟩, fun _ => (congrArg State.elapsed heq).trans rfl,
      fun h => absurd h h0, State.tick_throttleNs⟩
    · rw [heq]
      rfl
    · simp only [tickFields, List.mem_append, List.mem_cons, List.not_mem_nil, or_false, List.mem_map, List.mem_range]
      rintro g ((rfl | rfl) | ⟨b, hb', rfl⟩ | ⟨b, hb', rfl⟩)
      exacts [hc, ht, (hb b hb').1, (hb b hb').2]
    · obtain ⟨x, hx⟩ := State.countTick_free hh
      rw [State.tick_now h0, hx]
      exact State.get_bump_same ..
    · rw [State.tick_now h0, State.countTick_held hh]
      rfl
    · rw [htime, State.countTick_held hh]
end

section
/-! SUPPORT. The work of a mailbox command whose checks pass, and the host commands that change one setting (R54, R61, R396, R398). -/

namespace Sys2Proof.Machine

open Sys2Proof Safety

/-! ### A mailbox command whose checks pass (R396, R401) -/

/-- An admitted command has the shape that check 5 asks for. -/
theorem shape_of_admitted {c : Instr} {s : State} (ha : admitted c s) {h : HostHdr} {w : List W64} {op : Nat} {acc : Accepted}
    {die long shape : Bool} (hc : callOf c = some ⟨h, w, op, acc, die, long, shape⟩) : shape = true := by
  obtain ⟨m, hm, -, -, -, href⟩ := ha
  obtain rfl := Option.some.inj (hc.symm.trans hm)
  unfold refusal at href
  split at href
  · cases href
  · split at href
    · cases href
    · simpa using href

/-- An admitted command's own work decides its outcome. -/
theorem exec_of_admitted {c : Instr} {s : State} (ha : admitted c s) {h : HostHdr} {w : List W64} {op : Nat} {acc : Accepted}
    {die long shape : Bool} {body : State → Answer} (hc : callOf c = some ⟨h, w, op, acc, die, long, shape⟩)
    (he : exec c s = .next (if s.alive then s.mailbox h w op acc die long shape body else s)) :
    exec c s = .next (State.settle op h.tag.toNat (body (taken s h w))) := by
  obtain ⟨m, hm, halive, hhdr, hfree, href⟩ := ha
  obtain rfl := Option.some.inj (hc.symm.trans hm)
  rw [he, if_pos halive]
  exact congrArg _ ((mailbox_cases s h w op acc die long shape body).2.2.2 hhdr hfree href)

/-- A refusal by the command's own work completes with its status. -/
theorem next_settle_err (op : Nat) (h : HostHdr) (t : State) (st : Nat) :
    Host.Outcome.next (State.settle op h.tag.toNat (.err t st)) = completes t op h st [] := rfl

/-- Work that is done completes with OK and its result words. -/
theorem next_settle_ok (op : Nat) (h : HostHdr) (t : State) (ws : List Nat) :
    Host.Outcome.next (State.settle op h.tag.toNat (.ok t ws)) = completes t op h stOk ws := rfl

/-- A part of the state that register writes, the latch area and the Dreril Link's counts leave, a mailbox's taking of a command leaves
(R388, R401, R440). -/
theorem taken_part {α : Type} (p : State → α) (hset : ∀ t f v, p (State.set t f v) = p t)
    (hlatch : ∀ t m e, p (State.latchArea t m e) = p t) (hflits : ∀ t ch n, p (State.takeFlits t ch n) = p t)
    (s : State) (h : HostHdr) (w : List W64) : p (taken s h w) = p s := by
  have hr : p (s.received w) = p s := (hset ..).trans (hflits ..)
  unfold taken State.mailboxTake
  dsimp only
  rw [hlatch, hset]
  split
  · exact (hset ..).trans hr
  · exact hr

theorem taken_launch (s : State) (h : HostHdr) (w : List W64) : (taken s h w).launch = s.launch :=
  taken_part State.launch (fun _ _ _ => rfl) (fun _ _ _ => rfl) (fun _ _ _ => rfl) s h w

theorem taken_log (s : State) (h : HostHdr) (w : List W64) : (taken s h w).log = s.log :=
  taken_part State.log (fun _ _ _ => rfl) (fun _ _ _ => rfl) (fun _ _ _ => rfl) s h w

/-- A hub register above the mailbox blocks, or one of the dies, is not touched as a mailbox takes a command (R401, R407). -/
theorem taken_get_above (s : State) (h : HostHdr) (w : List W64) {f : Field} (hf : aboveMailboxes f) :
    (taken s h w).get f = s.get f := by
  have hm := Nat.mod_lt h.tag.toNat (show 32 > 0 by decide)
  simp only [aboveMailboxes] at hf
  refine taken_get s h w f ?_ ?_ ?_ <;> simp only [Field.key, Mb.mbState, Cmd.mbOverwriteEvt, Cmd.cmds] at hf ⊢ <;> omega

theorem taken_now (s : State) (h : HostHdr) (w : List W64) : (taken s h w).now = s.now := taken_get_above s h w (by decide)

/-! ### LAUNCH_AT (R61) -/

theorem State.launchWork_unlocked {s : State} (h : HostHdr) (c : Nat) (sched : Schedule) (hl : s.flag Tb.tbLock = false) :
    State.launchWork h c sched s = .err s stNotReady := by simp [State.launchWork, hl]

theorem State.launchWork_refused {s : State} (h : HostHdr) {c : Nat} (sched : Schedule) (hl : s.flag Tb.tbLock = true)
    (hc : s.countOk c = false) : State.launchWork h c sched s = .err s stBadParam := by simp [State.launchWork, hl, hc]

theorem State.launchWork_waits {s : State} (h : HostHdr) {c : Nat} (sched : Schedule) (hl : s.flag Tb.tbLock = true)
    (hc : s.countOk c = true) (hn : s.launch = none) : State.launchWork h c sched s = .later { s with launch := some (c, h, sched) } := by
  simp [State.launchWork, hl, hc, hn]

/-- An admitted LAUNCH_AT: unlocked, out of its range, or waiting. -/
theorem exec_launchAt_of_admitted {s : State} {h : HostHdr} {w : List W64} {sched : Schedule} (ha : admitted (.launchAt h w sched) s) :
    let t := taken s h w
    (s.flag Tb.tbLock = false → exec (.launchAt h w sched) s = completes t 0x21 h stNotReady []) ∧
    (s.flag Tb.tbLock = true → ¬ (s.now + 50000 ≤ param w 0 ∧ param w 0 ≤ s.now + 60000000000) →
      exec (.launchAt h w sched) s = completes t 0x21 h stBadParam []) ∧
    (s.flag Tb.tbLock = true → s.now + 50000 ≤ param w 0 → param w 0 ≤ s.now + 60000000000 → s.launch = none →
      exec (.launchAt h w sched) s = .next { t with launch := some (param w 0, h, sched) }) := by
  intro t
  have hexec := exec_of_admitted ha rfl (body := State.launchWork h (param w 0) sched) rfl
  have hlock : t.flag Tb.tbLock = s.flag Tb.tbLock := congrArg (· != 0) (taken_get_above s h w (by decide))
  have hcount : t.countOk (param w 0) = decide (s.now + 50000 ≤ param w 0 ∧ param w 0 ≤ s.now + 60000000000) := by
    rw [State.countOk, taken_now]
  have hlaunch : t.launch = s.launch := taken_launch s h w
  rw [hexec]
  refine ⟨fun h0 => ?_, fun h1 hc => ?_, fun h1 hlo hhi hn => ?_⟩
  · rw [State.launchWork_unlocked _ _ _ (hlock.trans h0), next_settle_err]
  · rw [State.launchWork_refused _ _ (hlock.trans h1) (hcount.trans (decide_eq_false hc)), next_settle_err]
  · rw [State.launchWork_waits _ _ (hlock.trans h1) (hcount.trans (decide_eq_true ⟨hlo, hhi⟩)) (hlaunch.trans hn)]
    rfl

/-- The count before the one that LAUNCH_AT named changes nothing. -/
theorem exec_launchAtCount_early {s : State} {c : Nat} {h : HostHdr} {sched : Schedule} (ha : s.active = true)
    (hl : s.launch = some (c, h, sched)) (hc : s.now < c) : exec .launchAtCount s = .next s := by
  change Host.Outcome.next (if s.active = true then s.launchNow else s) = _
  rw [if_pos ha, State.launchNow, hl]
  exact congrArg _ (if_pos hc)

/-- At its count a launch is answered by the start of a stopped device, or refused (log entry 26). -/
theorem exec_launchAtCount_due {s : State} {c : Nat} {h : HostHdr} {sched : Schedule} (ha : s.active = true)
    (hl : s.launch = some (c, h, sched)) (hc : c ≤ s.now) :
    exec .launchAtCount s = .next (State.settle 0x21 h.tag.toNat
      (if s.get Cmd.runState ≠ 0 then .err { s with launch := none } stStopReq
       else startAnswer (State.startDevice sched { s with launch := none }))) := by
  change Host.Outcome.next (if s.active = true then s.launchNow else s) = _
  rw [if_pos ha, State.launchNow, hl]
  exact congrArg _ (if_neg (by omega))

/-- The reply of a start's answer: EPOCH, or the status that refuses it. -/
theorem settle_startAnswer (op : Nat) (h : HostHdr) (r : State × Nat) :
    Host.Outcome.next (State.settle op h.tag.toNat (startAnswer r)) =
      if r.2 = stOk then completes r.1 op h stOk [r.1.get Coll.epoch] else completes r.1 op h r.2 [] := by
  unfold startAnswer
  split
  · exact next_settle_ok ..
  · exact next_settle_err ..

/-! ### MARGIN (R45) -/

/-- A region is known by its type and number (R34, R46). -/
theorem region_unique : ∀ r < 72, ∀ q < 72, rgnType r = rgnType q → rgnNumber r = rgnNumber q → r = q := by decide

/-- The region that W0 of MARGIN names. -/
def marginRegion (v : Nat) : Option Nat := (List.range 72).find? fun r => rgnType r == bits v 0 4 && rgnNumber r == bits v 4 8

theorem marginRegion_eq_some {v r : Nat} (hr : r < 72) (ht : rgnType r = v % 2 ^ 4) (hn : rgnNumber r = v / 2 ^ 4 % 2 ^ 8) :
    marginRegion v = some r := by
  have hnamed : (rgnType r == bits v 0 4 && rgnNumber r == bits v 4 8) = true := by simp [ht, hn, bits]
  cases hq : marginRegion v with
  | none => exact absurd hnamed (List.find?_eq_none.1 hq r (List.mem_range.2 hr))
  | some q =>
    have hq72 := List.mem_range.1 (List.mem_of_find?_eq_some hq)
    have hq' := List.find?_some hq
    simp only [bits, pow_zero, Nat.div_one, Bool.and_eq_true, beq_iff_eq] at hq'
    rw [region_unique q hq72 r hr (hq'.1.trans ht.symm) (hq'.2.trans hn.symm)]

theorem marginRegion_eq_none {v : Nat} (h : ∀ r, r < 72 → ¬ (rgnType r = v % 2 ^ 4 ∧ rgnNumber r = v / 2 ^ 4 % 2 ^ 8)) :
    marginRegion v = none :=
  List.find?_eq_none.2 fun r hr => by simpa [bits] using h r (List.mem_range.1 hr)

/-- The work of MARGIN, by the region that it names and OVR_EN. -/
theorem State.marginSet_eq (v : Nat) (s : State) : State.marginSet v s =
    match marginRegion v with
    | none => .err s stBadParam
    | some r =>
      if bitAt v 16 then
        if bits v 12 4 < s.get (Rgn.floor r) then .err s stBadParam
        else .ok ((s.setAll [(Rgn.override r, bits v 12 4), (Rgn.ovrEn r, 1)]).applyCode r) []
      else .ok ((s.set (Rgn.ovrEn r) 0).applyCode r) [] := rfl

theorem aboveMailboxes_floor {r : Nat} (hr : r < 72) : aboveMailboxes (Rgn.floor r) := by
  have := (rgnBase_inDies r hr).1
  simp only [aboveMailboxes, Field.key, Rgn.floor]
  omega

/-- An admitted MARGIN that names a region: the override off, on with a code from the floor up, or refused below it. -/
theorem exec_margin_of_region {s : State} {h : HostHdr} {w : List W64} (ha : admitted (.margin h w) s) {r : Nat} (hr : r < 72)
    (ht : rgnType r = param w 0 % 2 ^ 4) (hn : rgnNumber r = param w 0 / 2 ^ 4 % 2 ^ 8) :
    let t := taken s h w
    let v := param w 0
    let code := v / 2 ^ 12 % 2 ^ 4
    (v / 2 ^ 16 = 0 → exec (.margin h w) s = completes ((t.set (Rgn.ovrEn r) 0).applyCode r) 0x49 h stOk []) ∧
    (v / 2 ^ 16 = 1 → s.get (Rgn.floor r) ≤ code →
      exec (.margin h w) s = completes ((t.setAll [(Rgn.override r, code), (Rgn.ovrEn r, 1)]).applyCode r) 0x49 h stOk []) ∧
    (v / 2 ^ 16 = 1 → code < s.get (Rgn.floor r) → exec (.margin h w) s = completes t 0x49 h stBadParam []) := by
  intro t v code
  have hfloor : t.get (Rgn.floor r) = s.get (Rgn.floor r) := taken_get_above s h w (aboveMailboxes_floor hr)
  have hcode : bits v 12 4 = code := rfl
  have hon : ∀ n, v / 2 ^ 16 = n → bitAt v 16 = (n % 2 == 1) := fun n hv => by rw [bitAt, hv]
  rw [exec_of_admitted ha rfl (body := State.marginSet v) rfl, State.marginSet_eq, marginRegion_eq_some hr ht hn]
  simp only [hcode, hfloor, t]
  refine ⟨fun h0 => ?_, fun h1 hle => ?_, fun h1 hlt => ?_⟩
  · rw [if_neg (by simp [hon 0 h0]), next_settle_ok]
  · rw [if_pos (by simp [hon 1 h1]), if_neg (Nat.not_lt.2 hle), next_settle_ok]
  · rw [if_pos (by simp [hon 1 h1]), if_pos hlt, next_settle_err]

theorem exec_margin_of_no_region {s : State} {h : HostHdr} {w : List W64} (ha : admitted (.margin h w) s)
    (hn : ∀ r, r < 72 → ¬ (rgnType r = param w 0 % 2 ^ 4 ∧ rgnNumber r = param w 0 / 2 ^ 4 % 2 ^ 8)) :
    exec (.margin h w) s = completes (taken s h w) 0x49 h stBadParam [] := by
  rw [exec_of_admitted ha rfl (body := State.marginSet (param w 0)) rfl, State.marginSet_eq, marginRegion_eq_none hn, next_settle_err]

/-! ### CLEAR_LOG (R398) -/

/-- CLEAR_LOG's removal moves OLDEST alone among the registers. -/
theorem State.logDrop_get (s : State) (n : Nat) {f : Field} (h : f.key ≠ Elog.oldest.key) : (s.logDrop n).get f = s.get f :=
  (State.get_set_ne _ _ h).trans rfl

theorem State.logDrop_oldest (s : State) (n : Nat) : (s.logDrop n).get Elog.oldest = (s.get Elog.oldest + n) % 2 ^ 32 :=
  State.get_set_same ..

/-- What is left are entries held before, at least n numbers above the oldest. -/
theorem State.mem_logDrop {s : State} {n : Nat} {e : Nat × LogEntry} (h : e ∈ (s.logDrop n).log) :
    e ∈ s.log ∧ n ≤ (e.2.number + 2 ^ 32 - s.get Elog.oldest) % 2 ^ 32 := by
  obtain ⟨hm, hn⟩ := List.mem_filter.1 h
  exact ⟨hm, by simpa using hn⟩

/-- An admitted CLEAR_LOG removes as many entries as LAST lies above OLDEST, and no more than the log holds. -/
theorem exec_clearLog_of_admitted {s : State} {h : HostHdr} {w : List W64} (ha : admitted (.clearLog h w) s) :
    let t := taken s h w
    let d := (param w 0 + 2 ^ 32 - s.get Elog.oldest) % 2 ^ 32
    let held := (s.get Elog.next + 2 ^ 32 - s.get Elog.oldest) % 2 ^ 32
    let n := if 2 ^ 31 ≤ d then 0 else min (d + 1) held
    ∃ u, exec (.clearLog h w) s = completes u 0x52 h stOk [n] ∧ u.get Elog.oldest = (s.get Elog.oldest + n) % 2 ^ 32 ∧
      (∀ f : Field, f.key ≠ Elog.oldest.key → u.get f = t.get f) ∧
      ∀ e ∈ u.log, e ∈ s.log ∧ n ≤ (e.2.number + 2 ^ 32 - s.get Elog.oldest) % 2 ^ 32 := by
  intro t d held n
  have hold : t.get Elog.oldest = s.get Elog.oldest := taken_get_above s h w (by decide)
  have hnext : t.get Elog.next = s.get Elog.next := taken_get_above s h w (by decide)
  have hcount : t.clearCount (param w 0) = n := by rw [State.clearCount, State.logHeld, hold, hnext]
  refine ⟨t.logDrop n, ?_, ?_, fun f hf => t.logDrop_get n hf, fun e he => ?_⟩
  · rw [exec_of_admitted ha rfl (body := fun t => .ok (t.logDrop (t.clearCount (param w 0))) [t.clearCount (param w 0)]) rfl,
      hcount, next_settle_ok]
  · rw [State.logDrop_oldest, hold]
  · obtain ⟨hm, hn⟩ := State.mem_logDrop he
    rw [taken_log] at hm
    rw [hold] at hn
    exact ⟨hm, hn⟩

end Sys2Proof.Machine

open Sys2Proof Sys2Proof.Machine Sys2Proof.Safety

/-- Settles O25: each command's own work on the state that its mailbox has taken. -/
theorem settingCommandsChangeOneSetting : Obligations.SettingCommandsChangeOneSetting := by
  intro s h w t v
  refine ⟨fun ha => ?_, fun ha => ?_, fun ha r hr ht hn => exec_margin_of_region ha hr ht hn, exec_margin_of_no_region,
    fun ha hf => ?_, exec_clearLog_of_admitted⟩
  · exact (exec_of_admitted ha rfl (body := fun t => .ok (t.set Tb.count v) []) rfl).trans (next_settle_ok ..)
  · exact (exec_of_admitted ha rfl (body := fun t => .ok (t.set Surv.fdTag v) []) rfl).trans (next_settle_ok ..)
  · rw [exec_of_admitted ha rfl (body := State.impressWork h.form.toNat h.tag.toNat v) rfl, hf]
    exact next_settle_ok ..

/-- Settles O30: the command's work after the shared checks, and what the count finds of it. -/
theorem launchesWaitForTheirCount : Obligations.LaunchesWaitForTheirCount := by
  intro s h w sched c t
  refine ⟨exec_launchAt_of_admitted, fun ha hl => ⟨exec_launchAtCount_early ha hl, fun hc hr => ?_, fun hc hr => ?_⟩⟩
  · rw [exec_launchAtCount_due ha hl hc, if_pos hr, next_settle_err]
  · rw [exec_launchAtCount_due ha hl hc, if_neg (not_not.2 hr)]
    exact settle_startAnswer 0x21 h _
end

section
/-! SUPPORT. Region events: the margin map's lowering, and the temperature that a region's sixteen bits hold (R39, R44). -/

namespace Sys2Proof.Machine

open Sys2Proof Safety

/-- No register of the dies is one of the trace block's. -/
theorem ne_traceFields_of_inDies {f : Field} (h : inDies f.key = true) : ∀ g ∈ traceFields, f.key ≠ g.key := by
  have hg : ∀ g ∈ traceFields, inDies g.key = false := by decide
  exact fun g hm => (key_ne_of_inDies (hg g hm) h).symm

/-- The applied code's taking effect writes APPLIED and, where it is traced, the trace block alone (R40, R442). -/
theorem State.applyCode_get_ne (s : State) {r : Nat} {f : Field} (hne : f.key ≠ (Rgn.applied r).key)
    (ht : ∀ g ∈ traceFields, f.key ≠ g.key) : (s.applyCode r).get f = s.get f := by
  unfold State.applyCode
  dsimp only
  split
  · rfl
  · exact (State.trace_get _ _ _ _ ht).trans (State.get_set_ne _ _ hne)

/-! ### MARGIN_LOWER (R44) -/

/-- Thirty days of powered time without a trigger in a band (R44; log entry 9). -/
def State.quiet (s : State) (r band : Nat) : Prop := Tab.get (s.rgn r).trigger 0 band + 30 * day ≤ s.elapsed

theorem inDies_code {r band : Nat} (hr : r < 72) (hb : band < 8) : inDies (Rgn.code r band).key = true :=
  inDies_of_rgn hr (by simp [Rgn.code]) (by simp [Rgn.code]) (by simp only [Rgn.code]; omega)

theorem code_key_ne_applied {r band : Nat} (hb : band < 8) : (Rgn.code r band).key ≠ (Rgn.applied r).key := by
  simp only [Field.key, Rgn.code, Rgn.applied]
  omega

/-- Quiet for 30 days, a map entry above 4 and the floor falls by one. -/
theorem exec_marginLower_of_quiet {s : State} {r band : Nat} (hr : r < 72) (hb : band < 8) (ha : s.alive = true) (hq : s.quiet r band)
    (h4 : 4 < s.get (Rgn.code r band)) (hf : s.get (Rgn.floor r) < s.get (Rgn.code r band)) :
    ∃ t, exec (.marginLower r band) s = .next t ∧ t.get (Rgn.code r band) = (s.get (Rgn.code r band) - 1) % 2 ^ 4 := by
  have hmax : max 4 (s.get (Rgn.floor r)) < s.get (Rgn.code r band) := max_lt h4 hf
  refine ⟨_, congrArg Host.Outcome.next (if_pos (by simp [ha, hmax, show _ ≤ s.elapsed from hq])), ?_⟩
  rw [State.applyCode_get_ne _ (code_key_ne_applied hb) (ne_traceFields_of_inDies (inDies_code hr hb))]
  exact State.get_set_same ..

/-- At any other time nothing changes. -/
theorem exec_marginLower_of_not {s : State} {r band : Nat}
    (h : ¬ s.quiet r band ∨ s.get (Rgn.code r band) ≤ 4 ∨ s.get (Rgn.code r band) ≤ s.get (Rgn.floor r)) :
    exec (.marginLower r band) s = .next s := by
  refine congrArg Host.Outcome.next (if_neg ?_)
  simp only [State.quiet] at h
  simp only [Bool.and_eq_true, decide_eq_true_eq]
  omega

/-! ### BAND_CHANGE (R39) -/

/-- A temperature acts through the sixteen bits of TEMP alone. -/
theorem State.senseTemp_congr (s : State) {r : Nat} (hr : r < 72) {t u : Int} (h : twos 16 t = twos 16 u) :
    s.senseTemp r t = s.senseTemp r u := by
  have hreg : s.regionTemp r t = s.regionTemp r u := by rw [State.regionTemp, State.regionTemp, h]
  simp only [State.senseTemp, hr, if_true, hreg]

theorem exec_bandChange_congr (s : State) {r : Nat} (hr : r < 72) {t u : Int} (h : twos 16 t = twos 16 u) :
    exec (.bandChange r t) s = exec (.bandChange r u) s := by
  change Host.Outcome.next (if s.active = true then s.senseTemp r t else s) = .next (if s.active = true then s.senseTemp r u else s)
  rw [s.senseTemp_congr hr h]

end Sys2Proof.Machine

open Sys2Proof Sys2Proof.Machine Sys2Proof.Safety

/-- Settles O38: the guard of MARGIN_LOWER is its three conditions, and the applied code is another field than the map's entries. -/
theorem marginsFallAfterThirtyQuietDays : Obligations.MarginsFallAfterThirtyQuietDays := by
  intro s r band hr hb ha quiet code
  have hquiet : quiet ↔ s.quiet r band := by simp only [quiet, State.quiet, day]; norm_num
  rw [hquiet]
  exact ⟨exec_marginLower_of_quiet hr hb ha, exec_marginLower_of_not⟩

/-- Refutes O39: its clause of BAND_CHANGE takes the band of any integer, where a region reads the sixteen bits that TEMP holds. On an active
module whose region 0 is in band 0, a reading of 65536 (in 0.1 C) acts as one of 0 does: the same state cannot have both bands, 7 and 0. -/
theorem not_regionEventsShowInTheRegisters : ¬ Obligations.RegionEventsShowInTheRegisters := by
  intro h
  have hactive : (State.reset.set Cmd.powerState 2).active = true := by decide
  obtain ⟨-, -, -, -, ⟨t, ht, -, hhot⟩, -⟩ := h (State.reset.set Cmd.powerState 2) 0 0 65536 (by decide) hactive
  obtain ⟨-, -, -, -, ⟨u, hu, -, hcold⟩, -⟩ := h (State.reset.set Cmd.powerState 2) 0 0 0 (by decide) hactive
  have hsame := exec_bandChange_congr (State.reset.set Cmd.powerState 2) (r := 0) (by decide) (t := 65536) (u := 0) (by decide)
  rw [ht, hu] at hsame
  obtain rfl : t = u := Host.Outcome.next.inj hsame
  have hbands : bandStep ((State.reset.set Cmd.powerState 2).get (Rgn.band 0)) 65536 % 2 ^ 3 ≠
      bandStep ((State.reset.set Cmd.powerState 2).get (Rgn.band 0)) 0 % 2 ^ 3 := by decide
  exact hbands (hhot.symm.trans hcold)
end

section
/-! SUPPORT. The timebase: what slews, lost marks, references and pulses change (R54-R60). -/

namespace Sys2Proof.Machine

open Sys2Proof Safety

/-! ### Blocks sent (R57, R316) -/

/-- What a link control block's sending leaves: everything but the wire, its port and the counter of free values. -/
theorem State.sendOpenBlock_sent (s : State) (p type : Nat) :
    ∃ n x c, s.sendOpenBlock p type = { s with wire := s.wire ++ [(p, n)], ports := x, freeCtr := c } := by
  unfold State.sendOpenBlock State.sendBlock
  dsimp only
  split <;> exact ⟨_, _, _, rfl⟩

theorem exec_timeMarkSend {s : State} (ha : s.active = true) (hm : s.flag Tb.master = false) (hu : s.portUp (s.get Tb.tbSrc) = true)
    (hc : s.carried (s.get Tb.tbSrc) = false) :
    ∃ t blk, exec .timeMarkSend s = .next t ∧ t.time.t1 = some s.now ∧ t.wire = s.wire ++ [(s.get Tb.tbSrc, blk)] := by
  obtain ⟨n, x, c, hsent⟩ := (s.setTimeMarks { s.time with t1 := some s.now }).sendOpenBlock_sent (s.get Tb.tbSrc) 3
  refine ⟨_, n, congrArg Host.Outcome.next (if_pos (by simp [ha, hm, hu, hc])), ?_, ?_⟩ <;> rw [hsent] <;> rfl

/-! ### Slews (R59) -/

/-- Whether a tick may be inserted or held now. -/
def State.slewDue (s : State) : Bool := s.alive && s.time.due != 0 && decide (s.time.lastSlew + 10000 ≤ s.elapsed)

theorem exec_slew (s : State) : exec .slew s = .next (
    if s.slewDue = false then s
    else if s.time.due < 0 then (s.stepCount 1).setTimeMarks { (s.stepCount 1).time with lastSlew := s.elapsed }
    else s.setTimeMarks { s.time with hold := s.time.hold + 1, lastSlew := s.elapsed, due := s.time.due - 1 }) := by
  refine congrArg Host.Outcome.next (if_congr ?_ rfl rfl)
  simp only [State.slewDue, Bool.or_eq_true, Bool.not_eq_true', beq_iff_eq, decide_eq_true_eq, Bool.and_eq_false_iff, bne_eq_false_iff_eq,
    decide_eq_false_iff_not, Nat.not_le]

theorem exec_slew_of_not {s : State} (h : s.elapsed < s.time.lastSlew + 10000 ∨ s.time.due = 0) : exec .slew s = .next s := by
  rw [exec_slew, if_pos]
  simp only [State.slewDue, Bool.and_eq_false_iff, bne_eq_false_iff_eq, decide_eq_false_iff_not, Nat.not_le]
  exact h.elim .inr fun hd => .inl (.inr hd)

theorem State.slewDue_of {s : State} (ha : s.alive = true) (hd : s.time.due ≠ 0) (hl : s.time.lastSlew + 10000 ≤ s.elapsed) :
    s.slewDue = true := by simp [State.slewDue, ha, hd, hl]

/-- Behind its source, the device inserts one tick. -/
theorem exec_slew_behind {s : State} (ha : s.alive = true) (hd : s.time.due < 0) (hl : s.time.lastSlew + 10000 ≤ s.elapsed) :
    ∃ t, exec .slew s = .next t ∧ t.now = (s.now + 1) % 2 ^ 64 ∧ t.time.hold = s.time.hold ∧ t.time.lastSlew = s.elapsed ∧
      t.time.due = s.time.due + 1 := by
  rw [exec_slew, if_neg (by simp [State.slewDue_of ha hd.ne hl]), if_pos hd]
  exact ⟨_, rfl, State.get_set_same .., rfl, rfl, rfl⟩

/-- Ahead of it, the device holds one. -/
theorem exec_slew_ahead {s : State} (ha : s.alive = true) (hd : 0 < s.time.due) (hl : s.time.lastSlew + 10000 ≤ s.elapsed) :
    ∃ t, exec .slew s = .next t ∧ t.csr = s.csr ∧ t.time.hold = s.time.hold + 1 ∧ t.time.lastSlew = s.elapsed ∧
      t.time.due = s.time.due - 1 := by
  rw [exec_slew, if_neg (by simp [State.slewDue_of ha hd.ne' hl]), if_neg hd.le.not_gt]
  exact ⟨_, rfl, rfl, rfl, rfl, rfl⟩

/-! ### Lock and reference (R55, R60) -/

theorem exec_tbLockTimeout {s : State} (ha : s.alive = true) (hm : s.flag Tb.master = false) :
    ∃ t, exec .tbLockTimeout s = .next t ∧ t.get Tb.tbLock = 0 ∧ t.time.good = 0 ∧
      ∀ f : Field, f.key ≠ Tb.tbLock.key → t.get f = s.get f :=
  ⟨_, congrArg Host.Outcome.next (if_pos (by simp [ha, hm])), State.get_set_same s Tb.tbLock 0, rfl, fun _ hf => State.get_set_ne s 0 hf⟩

/-- REF_LOST, the holdover and ALERT_N: what a lost reference does on every device. -/
def State.holdover (s : State) : State := ((s.set Tb.refLost 1).setTimeMarks { s.time with noRef := true }).alert

theorem State.holdover_get (s : State) {f : Field} (h : ∀ g ∈ [Tb.refLost, Side.alertPend, Side.alertCount, Side.alertOut], f.key ≠ g.key) :
    s.holdover.get f = s.get f := by
  rw [List.forall_mem_cons] at h
  obtain ⟨hr, ha⟩ := h
  rw [State.holdover, State.alert_get _ ha, State.get_setTimeMarks, State.get_set_ne _ _ hr]

theorem State.holdover_refLost (s : State) : s.holdover.get Tb.refLost = 1 := by
  rw [State.holdover, State.alert_get _ (by decide), State.get_setTimeMarks, State.get_set_same]
  rfl

theorem State.alert_alertPend (s : State) : s.alert.get Side.alertPend = 1 := by
  rw [State.alert, State.get_set_ne _ _ (by decide), State.get_bump_ne _ _ (by decide), State.get_set_same]
  rfl

theorem exec_refLost {s : State} (ha : s.alive = true) :
    exec .refLost s = .next (if s.flag Tb.master then s.holdover.set Tb.tbLock 0 else s.holdover) := by
  have hm : s.holdover.flag Tb.master = s.flag Tb.master := congrArg (· != 0) (s.holdover_get (by decide))
  rw [← hm]
  exact congrArg Host.Outcome.next (if_pos ha)

/-- A lost reference (R55): only a time master loses its lock by it (R60). -/
theorem refLost_holds_over {s : State} (ha : s.alive = true) :
    ∃ t, exec .refLost s = .next t ∧ t.get Tb.refLost = 1 ∧ t.time.noRef = true ∧ t.get Side.alertPend = 1 ∧
      (s.flag Tb.master = true → t.get Tb.tbLock = 0) ∧ (s.flag Tb.master = false → t.get Tb.tbLock = s.get Tb.tbLock) := by
  have hpend : s.holdover.get Side.alertPend = 1 := State.alert_alertPend _
  have hlock : s.holdover.get Tb.tbLock = s.get Tb.tbLock := s.holdover_get (by decide)
  refine ⟨_, exec_refLost ha, ?_⟩
  cases hm : s.flag Tb.master with
  | true =>
    refine ⟨?_, rfl, ?_, fun _ => State.get_set_same .., nofun⟩
    · exact (State.get_set_ne _ _ (by decide)).trans s.holdover_refLost
    · exact (State.get_set_ne _ _ (by decide)).trans hpend
  | false => exact ⟨s.holdover_refLost, rfl, hpend, nofun, fun _ => hlock⟩

theorem exec_referencePresent {s : State} (ha : s.alive = true) :
    ∃ t, exec .referencePresent s = .next t ∧ t.time.noRef = false ∧
      (s.flag Tb.master = true → t.get Tb.tbLock = 1) ∧ (s.flag Tb.master = false → t.csr = s.csr) := by
  refine ⟨_, congrArg Host.Outcome.next (if_pos ha), ?_⟩
  have hm : (s.setTimeMarks { s.time with noRef := false }).flag Tb.master = s.flag Tb.master := rfl
  dsimp only
  rw [hm]
  cases hm' : s.flag Tb.master with
  | true => exact ⟨rfl, fun _ => State.get_set_same .., nofun⟩
  | false => exact ⟨rfl, nofun, fun _ => rfl⟩

/-! ### PPS (R56) -/

theorem State.filterOffset_get (s : State) (half : Int) {f : Field} (h : f.key ≠ Tb.offset.key) :
    (s.filterOffset half).get f = s.get f := by
  unfold State.filterOffset State.roundFree
  dsimp only
  split
  · exact State.get_set_ne _ _ h
  · split <;> exact State.get_set_ne _ _ h

theorem State.coarse_get (s : State) {f : Field} (h : ∀ g ∈ [Tb.count, Tb.tbLock, Tb.ahead], f.key ≠ g.key) :
    s.coarse.get f = s.get f := by
  rw [List.forall_mem_cons] at h
  obtain ⟨hc, hl⟩ := h
  unfold State.coarse
  dsimp only
  split
  · rfl
  · split
    · exact State.get_bump_ne _ _ hc
    · exact State.get_setAll_ne _ _ (by simpa using hl)

/-- A pulse's level shows on every device; the count moves by it on a time master with PPS_EN alone. -/
theorem exec_ppsIn {s : State} (ha : s.alive = true) :
    ∃ t, exec .ppsIn s = .next t ∧ t.get Side.ppsInLvl = 1 ∧
      (s.flag Tb.master = false ∨ s.flag Tb.ppsEn = false → t.now = s.now ∧ t.time = s.time) := by
  refine ⟨_, congrArg Host.Outcome.next (if_pos ha), ?_⟩
  have hlevel : (s.set Side.ppsInLvl 1).get Side.ppsInLvl = 1 := State.get_set_same ..
  have hflag : ∀ f : Field, f.key ≠ Side.ppsInLvl.key → (s.set Side.ppsInLvl 1).flag f = s.flag f := fun f hf =>
    congrArg (· != 0) (State.get_set_ne s 1 hf)
  dsimp only
  rw [hflag _ (by decide), hflag _ (by decide)]
  split
  next hon =>
    rw [State.coarse_get _ (by decide), State.filterOffset_get _ _ (by decide)]
    exact ⟨hlevel, fun hoff => by simp_all⟩
  next => exact ⟨hlevel, fun _ => ⟨State.get_set_ne s 1 (by decide), rfl⟩⟩

theorem exec_ppsOut_at {s : State} (ha : s.alive = true) (hn : s.now % 1000000000 = 0) :
    exec .ppsOut s = .next { s with time := { s.time with ppsOut := true } } :=
  congrArg Host.Outcome.next (if_pos (by simp [ha, hn]))

theorem exec_ppsOut_off {s : State} (hn : s.now % 1000000000 ≠ 0) : exec .ppsOut s = .next s :=
  congrArg Host.Outcome.next (if_neg (by simp [hn]))

end Sys2Proof.Machine

open Sys2Proof Sys2Proof.Machine Sys2Proof.Safety

/-- Settles O40: one equation or frame per event of the timebase. -/
theorem theTimebaseFollowsItsSource : Obligations.TheTimebaseFollowsItsSource := fun _ =>
  ⟨exec_timeMarkSend, exec_slew_behind, exec_slew_ahead, exec_slew_of_not, exec_tbLockTimeout, refLost_holds_over, exec_referencePresent,
    exec_ppsIn, exec_ppsOut_at, exec_ppsOut_off⟩
end

section
/-! SUPPORT. What a packet on its way out leaves: the alarm list, the long commands, an abort in progress, and the identity registers of the
benches (R143, R150, R381). -/

namespace Sys2Proof.Machine

open Sys2Proof Safety

/-! ### The registers meant -/

/-- ALARMS, and the first block of a bench's registers: its identity, STATE and CAUSE (R143, R380, R406). -/
def calmKey (k : Nat) : Bool :=
  k == Surv.alarms.key ||
    decide (64 * 0x3F0001000000 ≤ k ∧ k < 64 * 0x3F0009000000 ∧ k / 64 % 0x1000000 < 0x500000 ∧ k / 64 % 0x100000 < 0x1000)

theorem calmKey_eq_false {k : Nat} (h : k ≠ 64 * 0x3F00000A0058 + 3)
    (hb : 64 * 0x3F0001000000 ≤ k → k < 64 * 0x3F0009000000 → 0x500000 ≤ k / 64 % 0x1000000 ∨ 0x1000 ≤ k / 64 % 0x100000) :
    calmKey k = false := by
  have ha : k ≠ Surv.alarms.key := h
  rw [calmKey, beq_eq_false_iff_ne.2 ha, Bool.false_or, decide_eq_false_iff_not]
  rintro ⟨h0, h1, h2, h3⟩
  exact (hb h0 h1).elim (by omega) (by omega)

theorem ne_of_calmKey {f g : Field} (hf : calmKey f.key = true) (hg : calmKey g.key = false) : f.key ≠ g.key :=
  fun h => by rw [h, hg] at hf; cases hf

/-- Registers of the port dies, of the observation range and of the log lie above those. -/
theorem calmKey_of_high {g : Field} (h : 0x3F0009000000 ≤ g.addr) : calmKey g.key = false :=
  calmKey_eq_false (by simp only [Field.key]; omega) (by simp only [Field.key]; omega)

/-- Registers of a forge die outside the benches' first blocks. -/
theorem calmKey_of_forge {g : Field} (h : 0x3F0001000000 ≤ g.addr) (hl : g.lo < 64)
    (ho : 0x500000 ≤ g.addr % 0x1000000 ∨ 0x1000 ≤ g.addr % 0x100000) : calmKey g.key = false := by
  have haddr : g.key / 64 = g.addr := by simp only [Field.key]; omega
  exact calmKey_eq_false (by simp only [Field.key]; omega) fun _ _ => by rwa [haddr]

/-- A region's control block is none of them. -/
theorem calmKey_of_rgn {r : Nat} (hr : r < 72) {g : Field} (h0 : rgnBase r ≤ g.addr) (h1 : g.addr < rgnBase r + 0x1000) (hl : g.lo < 64) :
    calmKey g.key = false := by
  have hoff : ∀ r < 72, rgnBase r % 0x1000 = 0 ∧ 0x3F0001000000 ≤ rgnBase r ∧
      (0x500000 ≤ rgnBase r % 0x1000000 ∨ 0x1000 ≤ rgnBase r % 0x100000) := by decide
  obtain ⟨halign, hlow, hblock⟩ := hoff r hr
  exact calmKey_of_forge (by omega) hl (by omega)

/-- The registers that a buffer's taking and giving back write (R294, R295). -/
def poolFields (m i : Nat) : List Field :=
  [Pool.head m i, Pool.free m i, Pool.lowWater m i, Pool.closed m i, Pool.fallbacks m i, Pool.badPool m, Pool.badOp m, Pool.badPtr m,
    Pool.poolEvt m, Pool.poolPointers m]

theorem calmKey_of_pool (m i : Nat) : ∀ g ∈ poolFields m i, calmKey g.key = false := by
  have haddr : ∀ g ∈ poolFields m i, 0x3F0009000000 ≤ g.addr := by
    simp only [poolFields, List.forall_mem_cons, List.not_mem_nil, false_imp_iff, implies_true, and_true, Pool.head, Pool.free, Pool.lowWater,
      Pool.closed, Pool.fallbacks, Pool.badPool, Pool.badOp, Pool.badPtr, Pool.poolEvt, Pool.poolPointers, portDieBase]
    omega
  exact fun g hg => calmKey_of_high (haddr g hg)

/-- The registers of a slice's staging stone (R310). -/
def sliceFields (n : Nat) : List Field := [Sl.stagingUsed n, Sl.stagingMax n]

theorem calmKey_of_slice (n : Nat) : ∀ g ∈ sliceFields n, calmKey g.key = false := by
  simp only [sliceFields, List.forall_mem_cons, List.not_mem_nil, false_imp_iff, implies_true, and_true]
  refine ⟨calmKey_of_forge ?_ ?_ (.inl ?_), calmKey_of_forge ?_ ?_ (.inl ?_)⟩ <;>
    simp only [Sl.stagingUsed, Sl.stagingMax, forgeBase] <;> omega

/-- The error counters of the units lie in the observation range (R437). -/
theorem calmKey_of_errors {u : LogUnit} {g : Field} (h : u.errors = some g) : calmKey g.key = false := by
  cases u <;> simp only [LogUnit.errors, reduceCtorEq, Option.some.injEq] at h <;> subst h <;> refine calmKey_of_high ?_ <;>
    simp only [Aoc.benchErrors, Aoc.portErrors, Aoc.chanErrors, Aoc.ringErrors] <;> omega

/-! ### The frame -/

/-- From z, the state t has the same alarm list, long commands and abort in progress, and the same registers of those meant. -/
structure Calm (z t : State) : Prop where
  longs : t.longs = z.longs
  aborting : t.aborting = z.aborting
  alarms : t.alarms = z.alarms
  get : ∀ f : Field, calmKey f.key = true → t.get f = z.get f

namespace Calm

variable {z s t : State}

theorem refl (z : State) : Calm z z := ⟨rfl, rfl, rfl, fun _ _ => rfl⟩

/-- A change of none of those parts and of no register. -/
theorem other (h : Calm z s) (hl : t.longs = s.longs) (ha : t.aborting = s.aborting) (hm : t.alarms = s.alarms) (hc : t.csr = s.csr) :
    Calm z t :=
  ⟨hl.trans h.longs, ha.trans h.aborting, hm.trans h.alarms, fun f hf => (congrArg (Tab.get · f.reset f.key) hc).trans (h.get f hf)⟩

theorem set (h : Calm z s) {g : Field} (v : Nat) (hg : calmKey g.key = false) : Calm z (s.set g v) :=
  ⟨h.longs, h.aborting, h.alarms, fun f hf => (State.get_set_ne s v (ne_of_calmKey hf hg)).trans (h.get f hf)⟩

theorem bump (h : Calm z s) {g : Field} (n : Nat) (hg : calmKey g.key = false) : Calm z (s.bump g n) := h.set _ hg

theorem foldl {α : Type} {f : State → α → State} {l : List α} (h : Calm z s) (hf : ∀ t, ∀ x ∈ l, Calm z t → Calm z (f t x)) :
    Calm z (l.foldl f s) :=
  List.foldlRecOn l f h fun t ht x hx => hf t x hx ht

theorem setAll (h : Calm z s) {l : List (Field × Nat)} (hl : ∀ g ∈ l.map Prod.fst, calmKey g.key = false) : Calm z (s.setAll l) :=
  h.foldl fun _ e he ht => ht.set e.2 (hl e.1 (List.mem_map_of_mem he))

theorem ite {c : Prop} [Decidable c] (hs : Calm z s) (ht : Calm z t) : Calm z (if c then s else t) := by
  split
  · exact hs
  · exact ht

/-! ### Records, log entries and alerts -/

theorem store (h : Calm z s) (a : Nat) (bs : List Byte) : Calm z (s.store a bs) := h.other rfl rfl rfl rfl

theorem traceRing (h : Calm z s) (rec : Nat) : Calm z (s.traceRing rec) := by
  unfold State.traceRing
  dsimp only
  split
  · exact (h.set 1 (by decide)).bump 1 (by decide)
  · split
    · exact h.bump 1 (by decide)
    · exact (h.store _ _).bump 1 (by decide)

theorem traceDrain (h : Calm z s) (r : Nat) : Calm z (s.traceDrain r) := by
  unfold State.traceDrain
  split
  · exact h
  · exact traceRing (by exact h.other rfl rfl rfl rfl) _

theorem trace (h : Calm z s) (r kind : Nat) (l : List (Nat × Nat)) : Calm z (s.trace r kind l) := by
  unfold State.trace
  split
  · dsimp only
    split
    · exact h.other rfl rfl rfl rfl
    · split
      · exact (h.traceDrain r).other rfl rfl rfl rfl
      · exact h.bump 1 (by decide)
  · exact h

theorem logCount (h : Calm z s) (cls : Nat) : Calm z (s.logCount cls) := by
  have hcls : calmKey (Elog.classCount cls).key = false := calmKey_of_high (by simp only [Elog.classCount]; omega)
  have hnext : Calm z (s.set Elog.next (s.get Elog.next + 1)) := h.set _ (by decide)
  refine ((Calm.ite ?_ hnext).set 1 (by decide)).bump 1 hcls
  exact (hnext.set _ (by decide)).bump 1 (by decide)

theorem log1 (h : Calm z s) (cls : Nat) (u : LogUnit) (a d : Nat) : Calm z (s.log1 cls u a d) := by
  unfold State.log1
  dsimp only
  have hc : ∀ x, Calm z (State.logCount { s with log := x } cls) := fun x => logCount (by exact h.other rfl rfl rfl rfl) cls
  cases hu : u.errors with
  | none => cases u.region with
    | none => exact hc _
    | some r => exact (hc _).trace _ _ _
  | some g => cases u.region with
    | none => exact (hc _).bump 1 (calmKey_of_errors hu)
    | some r => exact ((hc _).bump 1 (calmKey_of_errors hu)).trace _ _ _

theorem logE (h : Calm z s) (cls : Nat) (u : LogUnit) (a : Nat) (l : List (Nat × Nat)) : Calm z (s.logE cls u a l) := h.log1 _ _ _ _

theorem alert (h : Calm z s) : Calm z s.alert := ((h.set 1 (by decide)).bump 1 (by decide)).set 1 (by decide)

/-! ### Ports, blocks and buffers -/

theorem onPort (h : Calm z s) (p : Nat) (f : Port → Port) : Calm z (s.onPort p f) := h.other rfl rfl rfl rfl

theorem emit (h : Calm z s) (p n : Nat) : Calm z (s.emit p n) := h.other rfl rfl rfl rfl

theorem sendOpenBlock (h : Calm z s) (p type : Nat) : Calm z (s.sendOpenBlock p type) := by
  unfold State.sendOpenBlock State.sendBlock
  dsimp only
  exact Calm.ite (h.other rfl rfl rfl rfl) (h.other rfl rfl rfl rfl)

theorem poolBad (h : Calm z s) (m i off op : Nat) : Calm z (s.poolBad m i off op) := by
  have hp := calmKey_of_pool m i
  exact ((h.logE _ _ _ _).setAll fun g hg => hp g (by simp [poolFields] at hg ⊢; tauto)).bump 1 (hp _ (by simp [poolFields]))

theorem poolTake (h : Calm z s) (m i : Nat) : Calm z (s.poolTake m i).2 := by
  have hp := calmKey_of_pool m i
  unfold State.poolTake
  dsimp only
  split
  · exact h
  · split
    · exact setAll (by exact h.other rfl rfl rfl rfl) fun g hg => hp g (by simp [poolFields] at hg ⊢; tauto)
    · exact (h.poolBad _ _ _ _).setAll fun g hg => hp g (by simp [poolFields] at hg ⊢; tauto)

theorem poolAlloc (h : Calm z s) (m i : Nat) (fallback : Bool) (k : Nat) : Calm z (s.poolAlloc m i fallback k).2 := by
  induction k generalizing s i fallback with
  | zero => exact h
  | succ k ih =>
    have ht := h.poolTake m i
    unfold State.poolAlloc
    split
    next off t htake =>
      rw [htake] at ht
      exact Calm.ite (ht.bump 1 (calmKey_of_pool m i _ (by simp [poolFields]))) ht
    next t htake =>
      rw [htake] at ht
      exact ih ht _ _

theorem bufAlloc (h : Calm z s) (m n : Nat) : Calm z (s.bufAlloc m n).2 := h.poolAlloc _ _ _ _

theorem poolFree (h : Calm z s) (m i off : Nat) : Calm z (s.poolFree m i off) := by
  unfold State.poolFree
  refine Calm.ite (setAll (by exact h.other rfl rfl rfl rfl) fun g hg => calmKey_of_pool m i g ?_) (h.poolBad _ _ _ _)
  simp [poolFields] at hg ⊢
  tauto

theorem bufFree (h : Calm z s) (b : Option (Nat × Nat)) : Calm z (s.bufFree b) := by
  unfold State.bufFree
  split
  · exact h.poolFree _ _ _
  · exact h

theorem returnCredit (h : Calm z s) (p : Nat) (pkt : Pkt) : Calm z (s.returnCredit p pkt) :=
  Calm.ite ((h.onPort _ _).sendOpenBlock _ _) h

/-! ### Staging stone and the die rings -/

theorem unstage (h : Calm z s) (n bytes : Nat) : Calm z (s.unstage n bytes) := h.set _ (calmKey_of_slice n _ (by simp [sliceFields]))

theorem stage (h : Calm z s) (n bytes : Nat) : Calm z (s.stage n bytes) :=
  h.setAll fun g hg => calmKey_of_slice n g (by simp [sliceFields] at hg ⊢; tauto)

theorem release (h : Calm z s) (q : Queued) : Calm z (s.release q) := by
  have hb := h.bufFree q.buf
  unfold State.release
  dsimp only
  cases q.slice with
  | none => cases q.input with
    | none => exact hb
    | some p => exact hb.returnCredit _ _
  | some n => cases q.input with
    | none => exact hb.unstage _ _
    | some p => exact (hb.unstage _ _).returnCredit _ _

theorem ringHop (h : Calm z s) (pkt : Pkt) (dir : Nat) {i : Nat} (hi : i < 12) : Calm z (s.ringHop pkt dir i) := by
  have hring : ringFor pkt ≤ 1 := by unfold ringFor; split <;> omega
  refine ((bump (bump (by exact h.other rfl rfl rfl rfl) _ ?_) 1 ?_).trace _ _ _)
  · split <;> refine calmKey_of_high ?_ <;> simp only [Aoc.bytesFwd, Aoc.bytesRev] <;> omega
  · refine calmKey_of_rgn (r := 48 + (12 * ringFor pkt + if dir = 0 then (i + 11) % 12 else i)) ?_ ?_ ?_ ?_
    · split <;> omega
    all_goals simp [Rgn.event]

end Calm

theorem mem_ringWay {a b i : Nat} (h : i ∈ (ringWay a b).1) : i < 12 := by
  unfold ringWay at h
  dsimp only at h
  split at h <;> obtain ⟨k, -, rfl⟩ := List.mem_map.1 h <;> exact Nat.mod_lt _ (by decide)

namespace Calm

variable {z s t : State}

theorem ringLeave (h : Calm z s) (pkt : Pkt) (dir i : Nat) : Calm z (s.ringLeave pkt dir i) := h.other rfl rfl rfl rfl

theorem ringCross (h : Calm z s) (pkt : Pkt) (a b : Nat) : Calm z (s.ringCross pkt a b) :=
  h.foldl fun _ _ hi ht => (ht.ringHop _ _ (mem_ringWay hi)).ringLeave _ _ _

/-! ### Packets sent (R264, R268, R287) -/

theorem accept (h : Calm z s) (e : Nat) (q : Queued) : Calm z (s.accept e q) := by
  unfold State.accept
  dsimp only
  split
  · exact h.onPort _ _
  · split
    · exact ((h.ringCross _ _ _).release _).onPort _ _
    · split
      · exact h.onPort _ _
      · have ha := h.bufAlloc (pdOf e) q.pkt.payload.length
        split
        next k t htake =>
          rw [htake] at ha
          exact ((ha.ringCross _ _ _).release _).onPort _ _
        next t htake =>
          rw [htake] at ha
          exact ha.onPort _ _

theorem pathDown (h : Calm z s) (m : Nat) : Calm z (s.pathDown m) := by
  refine (h.bump 1 (calmKey_of_high ?_)).set 1 (calmKey_of_high ?_) <;>
    simp only [Tm.pathDownDrops, Tm.pathDownEvt, portDieBase] <;> omega

theorem depart (h : Calm z s) (m : Nat) (q : Queued) : Calm z (s.depart m q) := by
  unfold State.depart
  split
  · exact (h.release q).pathDown m
  · exact Calm.ite ((h.release q).logE _ _ _ _) (Calm.ite ((h.release q).logE _ _ _ _)
      (Calm.ite ((h.release q).pathDown _) (h.accept _ q)))

/-- Firmware's packets leave by slice 0 (log entry 11). -/
theorem stagePkt (h : Calm z s) (pkt : Pkt) : Calm z (s.stagePkt 0 pkt) :=
  (((h.bump 1 (by decide)).stage _ _).bump 1 (by decide)).trace _ _ _

theorem sendOut (h : Calm z s) (via : Option Nat) (pkt : Pkt) : Calm z (s.sendOut 0 via pkt) := by
  unfold State.sendOut
  split
  · exact (h.stagePkt _).accept _ _
  · exact (h.stagePkt _).depart _ _

theorem timeout (h : Calm z s) (u : LogUnit) (dev : Nat) (l : List (Nat × Nat)) : Calm z (s.timeout u dev l) :=
  (h.logE _ _ _ _).set 1 (by decide)

theorem sendMgmt (h : Calm z s) (dst : Nat) (payload : List Byte) : Calm z (s.sendMgmt dst payload) := by
  unfold State.sendMgmt State.send State.inject State.sendTo
  dsimp only
  refine Calm.ite (Calm.ite (h.timeout _ _ _) (Calm.ite (sendOut ?_ _ _) ?_)) (h.sendOut _ _)
  · exact h.other rfl rfl rfl rfl
  · exact h.other rfl rfl rfl rfl

/-- Slow marks sent for a region (R52, R53). -/
theorem slowSend (h : Calm z s) {r : Nat} (hr : r < 72) (mult : Nat) : Calm z (s.slowSend r mult) :=
  (h.set _ (calmKey_of_rgn hr (by simp [Rgn.slowMult]) (by simp [Rgn.slowMult]) (by simp [Rgn.slowMult]))).foldl
    fun _ _ _ ht => ht.sendMgmt _ _

/-! ### Routes and link modes (R272, R380, R381) -/

theorem fitReplay (h : Calm z s) (p : Nat) : Calm z (s.fitReplay p) := by
  unfold State.fitReplay
  dsimp only
  split
  · exact Calm.ite h ((h.poolFree _ _ _).onPort _ _)
  · exact Calm.ite ((h.poolTake _ _).onPort _ _) h

theorem setLinkMode (h : Calm z s) (v : Nat) : Calm z (s.setLinkMode v) :=
  (h.set v (by decide)).foldl fun _ _ _ ht => ht.fitReplay _

theorem chooseRoute (h : Calm z s) : Calm z s.chooseRoute := by
  unfold State.chooseRoute
  split
  · exact h.set _ (by decide)
  · exact (h.set 1 (by decide)).alert

end Calm

end Sys2Proof.Machine
end


section
/-! SUPPORT. Register writes with a row of their own: a WRITE_CSR of one word, the checks that its word passes, and its effect (R7, R400, R477). -/

namespace Sys2Proof.Machine

open Sys2Proof Safety

/-! ### A WRITE_CSR of one word (R400) -/

/-- One word written, W0 of the WRITE_CSR and its data. -/
def oneWord (a x : Nat) : List W64 := [BitVec.ofNat 64 (a + 2 ^ 48), BitVec.ofNat 64 x]

theorem param_oneWord {a x : Nat} (ha : a < 2 ^ 48) : param (oneWord a x) 0 = a + 2 ^ 48 := by
  have hw : param (oneWord a x) 0 = (BitVec.ofNat 64 (a + 2 ^ 48)).toNat := rfl
  rw [hw, BitVec.toNat_ofNat]
  omega

/-- The work of a WRITE_CSR of one word. -/
theorem State.writeWords_one (s : State) (op n a x : Nat) {u : State} (h : s.writeAt a x = .ok u) :
    State.writeWords op n a [x] s = .ok u [n + 1] := by
  simp only [State.writeWords, h]

/-- An admitted write of one word, written without a refusal, completes with OK and a count of one. -/
theorem next_writeOne {s : State} {h : HostHdr} {a x : Nat} (ha : a < 2 ^ 48) (hx : x < 2 ^ 64)
    (hgo : admitted (.writeCsr { h with length := 16 } (oneWord a x)) s) {u : State}
    (hu : (taken s { h with length := 16 } (oneWord a x)).writeAt a x = .ok u) :
    Host.Outcome.next (s.writeOne h a x) = completes u 0x09 h stOk [1] := by
  have haddr : bits (param (oneWord a x) 0) 0 48 = a := by rw [param_oneWord ha, bits]; omega
  have hdata : ((oneWord a x).drop 1).map BitVec.toNat = [x] := by
    change [x % 2 ^ 64] = _
    rw [Nat.mod_eq_of_lt hx]
  have hexec : exec (.writeCsr { h with length := 16 } (oneWord a x)) s = _ :=
    exec_of_admitted hgo (body := State.writeWords 0x09 0 (bits (param (oneWord a x) 0) 0 48) (((oneWord a x).drop 1).map BitVec.toNat))
      (by simp only [callOf, bits, pow_zero, Nat.div_one]) rfl
  rw [haddr, hdata, State.writeWords_one _ _ _ _ _ hu, next_settle_ok] at hexec
  exact hexec

/-! ### The checks of a register word (R477) -/

/-- A word of registers without stop-only fields that no rule refuses takes the write. -/
theorem State.writeAt_of_regs {s : State} {a v : Nat} {fs : List Field} (hl : locate a = .regs fs) (hu : s.unusedContext a = false)
    (hb : s.benchRefuse a v = none) (hs : fs.all (fun f => !f.stop) = true) (hw : s.wordRefuse a v fs = none) (hr : rangeBad fs v = false)
    (hm : s.marginRefuse a v = none) : s.writeAt a v = .ok ((s.setFields fs v).wordEffect s a v) := by
  have hstop : s.stopBad fs v = false := by
    have hany : (fs.filter fun f => f.acc != .ro).any (·.stop) = false := by
      simp only [List.all_eq_true, Bool.not_eq_true'] at hs
      simp only [List.any_eq_false, List.mem_filter, Bool.not_eq_true]
      exact fun f hf => hs f hf.1
    simp [State.stopBad, hany]
  have hrefuse : s.regRefuse a v fs = none := by simp [State.regRefuse, hb, hstop, hw, hr, hm]
  simp only [State.writeAt, hl, State.writeRegs, hu, hrefuse, Bool.false_eq_true, if_false]

/-- No bench's and no region's word. -/
theorem benchAt_beside {a : Nat} (h : a < 0x3F0001000000 ∨ 0x3F000D000000 ≤ a) : benchAt a = none := if_neg (by omega)

theorem regionAt_beside {a : Nat} (h : a < 0x3F0001000000 ∨ 0x3F000D000000 ≤ a) : regionAt a = none :=
  List.find?_eq_none.2 fun r hr => by
    have := rgnBase_inDies r (List.mem_range.1 hr)
    simp only [decide_eq_true_eq]
    omega

/-- A word beside the dies' is held to its own rule alone. -/
theorem State.writeAt_beside {s : State} {a v : Nat} {fs : List Field} (hl : locate a = .regs fs)
    (ha : a < 0x3F0001000000 ∨ 0x3F000D000000 ≤ a) (hs : fs.all (fun f => !f.stop) = true) (hw : s.wordRefuse a v fs = none)
    (hr : rangeBad fs v = false) : s.writeAt a v = .ok ((s.setFields fs v).wordEffect s a v) :=
  State.writeAt_of_regs hl (if_neg (by omega)) (by rw [State.benchRefuse, benchAt_beside ha]) hs hw hr
    (by rw [State.marginRefuse, regionAt_beside ha])

/-! ### Words of the benches and of the regions -/

/-- A word of a die that no rule of contexts, stone or the traffic manager speaks of. -/
def plainDieWord (a : Nat) : Prop :=
  0x3F0001000000 ≤ a ∧ (a < 0x3F0009000000 ∧ a % 0x1000000 ≠ 0x800008 ∨
    0x3F0009000000 ≤ a ∧ a < 0x3F000D000000 ∧ 0x600000 ≤ a % 0x1000000)

theorem State.unusedContext_plain {s : State} {a : Nat} (h : plainDieWord a) : s.unusedContext a = false := by
  simp only [plainDieWord] at h
  exact if_neg (by omega)

theorem State.wordRefuse_plain {s : State} {a v : Nat} {fs : List Field} (h : plainDieWord a) : s.wordRefuse a v fs = none := by
  simp only [plainDieWord] at h
  unfold State.wordRefuse
  repeat rw [if_neg (by omega)]

/-- FRESET's word resets its bench. -/
theorem State.wordEffect_freset {s old : State} {a v b : Nat} (h : plainDieWord a) (hb : benchAt a = some (b, 0x10)) (hv : v % 2 = 1) :
    s.wordEffect old a v = s.benchReset b := by
  simp only [plainDieWord] at h
  unfold State.wordEffect
  repeat rw [if_neg (by omega)]
  rw [hb]
  exact if_pos hv

/-- A region's word moves its rail and margin. -/
theorem State.wordEffect_region {s old : State} {a v r o : Nat} (h : plainDieWord a)
    (hb : benchAt a = if r < 40 then some (r, 0xF000 + o) else none) (hr : regionAt a = some r) :
    s.wordEffect old a v = s.regionWritten old r := by
  simp only [plainDieWord] at h
  unfold State.wordEffect
  repeat rw [if_neg (by omega)]
  rw [hb, hr]
  split
  next b' hb' =>
    split at hb' <;> simp at hb'
    omega
  · rfl

/-- Where FRESET of a bench lies. -/
theorem fresetWord : ∀ b < 40, locate (benchBase b + 0x10) = .regs [Ben.freset b] ∧ benchAt (benchBase b + 0x10) = some (b, 0x10) ∧
    regionAt (benchBase b + 0x10) = none := by decide

/-- Where a region's RAIL and MARGIN words lie. -/
theorem regionWord : ∀ r < 72, ∀ o ∈ [(8, [Rgn.vset r, Rgn.vread r, Rgn.slewing r]),
      (0x10, [Rgn.applied r, Rgn.floor r, Rgn.override r, Rgn.ovrEn r, Rgn.band r, Rgn.marginExhausted r])],
    locate (rgnBase r + o.1) = .regs o.2 ∧ regionAt (rgnBase r + o.1) = some r ∧
      benchAt (rgnBase r + o.1) = if r < 40 then some (r, 0xF000 + o.1) else none := by decide

theorem regionWord_plain : ∀ r < 72, ∀ o, o = 8 ∨ o = 0x10 → plainDieWord (rgnBase r + o) := by
  have hbase : ∀ r < 72, plainDieWord (rgnBase r + 8) ∧ plainDieWord (rgnBase r + 0x10) := by unfold plainDieWord; decide
  rintro r hr o (rfl | rfl)
  · exact (hbase r hr).1
  · exact (hbase r hr).2

/-! ### What the words' fields become -/

/-- A write of a word changes no register beside its fields (R7). -/
theorem State.setFields_get {s : State} {fs : List Field} {v : Nat} {f : Field} (h : ∀ g ∈ fs, f.key ≠ g.key) :
    (s.setFields fs v).get f = s.get f :=
  List.foldlRecOn (motive := fun t : State => t.get f = s.get f) fs _ rfl fun t ht g hg => by
    cases g.acc with
    | rw => exact (State.get_set_ne _ _ (h g hg)).trans ht
    | w1c => exact (State.get_set_ne _ _ (h g hg)).trans ht
    | _ => exact ht

theorem State.setFields_margin (s : State) (r v : Nat) :
    s.setFields [Rgn.applied r, Rgn.floor r, Rgn.override r, Rgn.ovrEn r, Rgn.band r, Rgn.marginExhausted r] v =
      ((s.set (Rgn.override r) (bits v 8 4)).set (Rgn.ovrEn r) (bits v 12 1)).set (Rgn.marginExhausted r)
        (s.get (Rgn.marginExhausted r) &&& (2 ^ 1 - 1 - bits v 16 1)) := rfl

theorem State.setFields_rail (s : State) (r v : Nat) :
    s.setFields [Rgn.vset r, Rgn.vread r, Rgn.slewing r] v = s.set (Rgn.vset r) (bits v 0 12) := rfl

/-! ### Effects -/

theorem aboveMailboxes_of_inDies {f : Field} (h : inDies f.key = true) : aboveMailboxes f := by
  have h := of_decide_eq_true h
  simp only [aboveMailboxes]
  omega

theorem taken_runState (s : State) (h : HostHdr) (w : List W64) : (taken s h w).get Cmd.runState = s.get Cmd.runState := by
  refine taken_get s h w _ ?_ (by decide) (by decide)
  simp only [Field.key, Cmd.runState, Mb.mbState]
  omega

theorem taken_sensorTemp (s : State) (h : HostHdr) (w : List W64) (u : Nat) : (taken s h w).sensorTemp u = s.sensorTemp u := by
  unfold State.sensorTemp
  split
  next hu =>
    have hd : inDies (Rgn.temp u).key = true := inDies_of_rgn hu (by simp [Rgn.temp]) (by simp [Rgn.temp]) (by simp [Rgn.temp])
    rw [State.rgnTemp, State.rgnTemp, taken_get_above s h w (aboveMailboxes_of_inDies hd)]
  · rw [taken_part State.fixedTemp (fun _ _ _ => rfl) (fun _ _ _ => rfl) (fun _ _ _ => rfl)]

/-- Whether a fault's cause has ended shows in no register of the mailboxes (R466). -/
theorem taken_causeEnded (s : State) (h : HostHdr) (w : List W64) : (taken s h w).causeEnded = s.causeEnded := by
  have hcause := taken_get_above s h w (f := Side.faultCause) (by decide)
  have hvin := taken_get_above s h w (f := Pwr.vin) (by decide)
  have hrec := taken_get_above s h w (f := Sec.bootRecovery) (by decide)
  simp only [State.causeEnded, State.flag, taken_sensorTemp, hcause, hvin, hrec]

/-- FAULT_ACK clears an ended fault and the pin that shows it (R466). -/
theorem State.faultAck_of_causeEnded {s : State} (h : s.causeEnded = true) :
    s.faultAck = s.setAll [(Side.faultCause, 0), (Side.faultOut, 0)] := by
  rw [State.faultAck, if_pos h, State.showFault, State.get_set_same]
  rfl

/-- The impressions kept are among those at hand (R348). -/
theorem mem_of_mem_keepImps {n : Nat} {l : List Impression} {i : Impression} (h : i ∈ keepImps n l) : i ∈ l := List.mem_of_mem_filter h

/-- Once unpinned, no pinned impression is of the exported step (R378). -/
theorem State.unpin_step {s : State} {i : Impression} (hi : i ∈ s.unpin.imps) (hp : i.pinned = true) : i.step ≠ s.get Surv.exportStep := by
  obtain ⟨j, -, rfl⟩ := List.mem_map.1 (mem_of_mem_keepImps hi)
  split at hp
  · cases hp
  next hne => rwa [if_neg hne]

/-- The alarm list is empty after ALARM_CLR, and ALARMS shows it (R381). -/
theorem State.alarmClr_clear (s : State) : s.alarmClr.alarms = [] ∧ s.alarmClr.get Surv.alarms = 0 := by
  have hcalm : ∀ z : State, Calm z (if s.alarms ≠ [] ∧ s.get Fab.linkMode = 2 ∧ s.fills = [] then z.chooseRoute.setLinkMode 0 else z.chooseRoute) :=
    fun z => Calm.ite ((Calm.refl z).chooseRoute.setLinkMode 0) (Calm.refl z).chooseRoute
  have h := hcalm (State.set { s with alarms := [] } Surv.alarms 0)
  exact ⟨h.alarms, (h.get _ (by decide)).trans (State.get_set_same ..)⟩

theorem State.get_ite_set (s : State) {f g : Field} (c : Prop) [Decidable c] (v : Nat) (h : f.key ≠ g.key) :
    (if c then s.set g v else s).get f = s.get f := by
  split
  · exact State.get_set_ne _ _ h
  · rfl

/-- A region's cap moves no register of the dies but SLEWING (R462, R463). -/
theorem State.capRegion_get (s : State) {r : Nat} (hr : r < 72) {f : Field} (hf : inDies f.key = true) (hs : f.key ≠ (Rgn.slewing r).key) :
    (s.capRegion r).get f = s.get f := by
  have hset : ∀ v c, (s.setAll [(Pwr.vcap r, v), (Pwr.cause r, c)]).get f = s.get f := fun v c => by
    have hf := of_decide_eq_true hf
    simp only [Field.key] at hf
    refine State.get_setAll_ne _ _ ?_
    simp only [List.forall_mem_cons, List.not_mem_nil, false_imp_iff, implies_true, and_true, Field.key, Pwr.vcap, Pwr.cause]
    omega
  exact (State.get_ite_set _ _ _ hs).trans (hset _ _)

/-- A region's rail and margin after its words: the registers of the dies but APPLIED and SLEWING are as they were (R35, R39, R40). -/
theorem State.regionWritten_get (s old : State) {r : Nat} (hr : r < 72) {f : Field} (hf : inDies f.key = true)
    (ha : f.key ≠ (Rgn.applied r).key) (hs : f.key ≠ (Rgn.slewing r).key) : (s.regionWritten old r).get f = s.get f := by
  have ht := ne_traceFields_of_inDies hf
  have hpower : f.key ≠ Cmd.powerState.key := (key_ne_of_inDies (by decide) hf).symm
  have hcode := s.applyCode_get_ne ha ht
  unfold State.regionWritten
  dsimp only
  split
  · exact hcode
  · exact ((State.trace_get _ _ _ _ ht).trans (State.showPower_get _ hpower)).trans ((State.capRegion_get _ hr hf hs).trans hcode)

/-! ### The words with a row of their own -/

theorem State.writeAt_faultAck (s : State) : s.writeAt 0x3F00000B0020 0x10 = .ok s.faultAck :=
  State.writeAt_beside (fs := [Side.faultCause, Side.faultAck]) rfl (by decide) rfl rfl rfl

/-- BUILD takes the first sample; HANG_US, in its word, is written with its value (R445). -/
theorem State.writeAt_build {s : State} {v us : Nat} (hb : s.flag Obs.building = false) (hv : v % 2 = 1) (hus : bits v 32 32 = us) :
    ∃ t, s.writeAt 0x3F000D000048 v = .ok t ∧ t.get Obs.building = 1 ∧ t.get Obs.hangUs = us % 2 ^ 32 ∧
      t.graph.map (·.1) = some s.now := by
  have hw : s.wordRefuse 0x3F000D000048 v [Obs.build, Obs.graphCur, Obs.building, Obs.hangUs] = none :=
    (if_neg (by simp [hb]) : (if s.flag Obs.building = true ∧ v % 2 = 1 then some stDone else none) = none)
  have hr : rangeBad [Obs.build, Obs.graphCur, Obs.building, Obs.hangUs] v = false := by
    simp [rangeBad, Field.accepts, Obs.build, Obs.graphCur, Obs.building, Obs.hangUs]
  refine ⟨(s.set Obs.hangUs (bits v 32 32)).graphBegin, (State.writeAt_beside rfl (by decide) rfl hw hr).trans
    (congrArg WriteRes.ok (if_pos hv)), State.get_set_same .., ?_, ?_⟩
  · rw [← hus]
    exact (State.get_set_ne _ _ (by decide)).trans (State.get_set_same ..)
  · exact congrArg some (State.get_set_ne _ _ (by decide))

/-- ALARM_CLR is taken while the device is stopped (R381). -/
theorem State.writeAt_alarmClr {s : State} (h : s.get Cmd.runState = 0) : s.writeAt 0x3F00000A0058 0x8000000 = .ok s.alarmClr := by
  have hw : ∀ fs, s.wordRefuse 0x3F00000A0058 0x8000000 fs = none := fun fs =>
    (if_neg (by simp [State.moving, h]) : (if s.moving = true ∧ bitAt 0x8000000 27 = true then some stStopReq else none) = none)
  exact State.writeAt_beside rfl (by decide) rfl (hw _) rfl

/-- The event flags of the survival block, EXPORT_READY among them. -/
def eventFields : List Field :=
  [Surv.peerLostEvt, Surv.straggleEvt, Surv.noRouteSet, Surv.fillFailEvt, Surv.adoptEvt, Surv.exportReady, Surv.refillDone]

/-- EXPORT_READY cleared unpins the exported impression (R378). -/
theorem State.writeAt_exportReady {s : State} (h : s.flag Surv.exportReady = true) :
    ∃ t : State, s.writeAt 0x3F00000A0068 0x20 = .ok t.unpin ∧ t.get Surv.exportReady = 0 ∧ t.get Surv.exportStep = s.get Surv.exportStep := by
  have hclear : (s.setFields eventFields 0x20).get Surv.exportReady = 0 :=
    (State.get_set_ne _ _ (by decide)).trans ((State.get_set_same ..).trans (by simp [Surv.exportReady, Field.of, bits]))
  have hwent : s.flag Surv.exportReady = true ∧ ¬ (s.setFields eventFields 0x20).flag Surv.exportReady = true :=
    ⟨h, by simp [State.flag, hclear]⟩
  exact ⟨s.setFields eventFields 0x20, (State.writeAt_beside rfl (by decide) rfl rfl rfl).trans (congrArg WriteRes.ok (if_pos hwent)), hclear,
    State.setFields_get (by decide)⟩

/-- The calendar moves forward only, and is valid once written (R429). -/
theorem State.writeAt_calendar {s : State} {v : Nat} (h : s.get Sec.calendar ≤ v) (hv : v < 2 ^ 64) :
    ∃ t, s.writeAt 0x3F0000040020 v = .ok t ∧ t.get Sec.calendar = v ∧ t.get Sec.calValid = 1 := by
  have hw : ∀ fs, s.wordRefuse 0x3F0000040020 v fs = none := fun fs =>
    (if_neg (Nat.not_lt.2 h) : (if v < s.get Sec.calendar then some stBadParam else none) = none)
  have hr : rangeBad [Sec.calendar] v = false := by simp [rangeBad, Field.accepts, Sec.calendar]
  have hval : bits v 0 64 % 2 ^ 64 = v := by rw [bits]; omega
  refine ⟨(s.set Sec.calendar (bits v 0 64)).set Sec.calValid 1, State.writeAt_beside rfl (by decide) rfl (hw _) hr, ?_,
    State.get_set_same ..⟩
  exact (State.get_set_ne _ _ (by decide)).trans ((State.get_set_same ..).trans hval)

/-- OWNER_LOCK, once set, stays set (R414). -/
theorem State.writeAt_ownerLock (s : State) : ∃ t : State, s.writeAt 0x3F0000040008 0x200 = .ok t ∧ t.get Sec.ownerLock = 1 := by
  refine ⟨_, State.writeAt_beside rfl (by decide) rfl rfl rfl, ?_⟩
  change State.get (if _ then State.set (State.set s Sec.ownerLock 1) Sec.ownerLock 1 else State.set s Sec.ownerLock 1) _ = 1
  split <;> exact State.get_set_same ..

theorem State.benchRefuse_freset {s : State} {a b : Nat} (ha : benchAt a = some (b, 0x10))
    (hst : s.get (Ben.state b) = 0 ∨ s.get (Ben.state b) = 2 ∨ s.get (Ben.state b) = 5) : s.benchRefuse a 1 = none := by
  rw [State.benchRefuse, ha]
  obtain h | h | h := hst <;> simp [h]

/-- FRESET of a bench that neither runs nor retires nor is a spare (R145). -/
theorem State.writeAt_freset {s : State} {b : Nat} (hb : b < 40)
    (hst : s.get (Ben.state b) = 0 ∨ s.get (Ben.state b) = 2 ∨ s.get (Ben.state b) = 5) :
    s.writeAt (benchBase b + 0x10) 1 = .ok (s.benchReset b) := by
  obtain ⟨hloc, hbench, hregion⟩ := fresetWord b hb
  have hplain : plainDieWord (benchBase b + 0x10) := by simp only [plainDieWord, benchBase, forgeBase]; omega
  have hmargin : s.marginRefuse (benchBase b + 0x10) 1 = none := by rw [State.marginRefuse, hregion]
  have hkeep : s.setFields [Ben.freset b] 1 = s := rfl
  rw [State.writeAt_of_regs hloc (State.unusedContext_plain hplain) (State.benchRefuse_freset hbench hst) rfl (State.wordRefuse_plain hplain)
    rfl hmargin, hkeep, State.wordEffect_freset hplain hbench rfl]

/-- A region's words are refused by its bench, if it is a bench's, only while that retires (R151, R152). -/
theorem State.benchRefuse_region {s : State} {a v r o : Nat} (ho : o < 0x1000) (ha : benchAt a = if r < 40 then some (r, 0xF000 + o) else none)
    (hst : r < 40 → s.get (Ben.state r) ≠ 3) : s.benchRefuse a v = none := by
  rw [State.benchRefuse, ha]
  by_cases hr : r < 40
  · have hblock : 0xF000 ≤ 0xF000 + o ∧ 0xF000 + o < 0x10000 := by omega
    have hfreset : ¬ (0xF000 + o = 0x10 ∧ v % 2 = 1 ∧ (s.get (Ben.state r) = 1 ∨ s.get (Ben.state r) = 3)) := by omega
    have hqueue : ¬ (s.get (Ben.state r) = 1 ∧ 0x10400 ≤ 0xF000 + o ∧ 0xF000 + o < 0x10600) := by omega
    simp only [hr, if_true, hblock, and_self]
    rw [if_neg hfreset, if_neg (hst hr), if_neg hqueue, ite_self]
  · simp only [hr, if_false]

/-- A region's word that its ranges allow and that is not below the floor is written, and its rail and margin follow. -/
theorem State.writeAt_region {s : State} {r o v : Nat} {fs : List Field} (ho : o < 0x1000)
    (hplain : plainDieWord (rgnBase r + o)) (hloc : locate (rgnBase r + o) = .regs fs) (hregion : regionAt (rgnBase r + o) = some r)
    (hbench : benchAt (rgnBase r + o) = if r < 40 then some (r, 0xF000 + o) else none) (hstop : fs.all (fun f => !f.stop) = true)
    (hst : r < 40 → s.get (Ben.state r) ≠ 3) (hv : rangeBad fs v = false) (hfloor : o = 0x10 → s.get (Rgn.floor r) ≤ bits v 8 4) :
    s.writeAt (rgnBase r + o) v = .ok ((s.setFields fs v).regionWritten s r) := by
  have hmargin : s.marginRefuse (rgnBase r + o) v = none := by
    rw [State.marginRefuse, hregion]
    exact if_neg (by omega)
  rw [State.writeAt_of_regs hloc (State.unusedContext_plain hplain) (State.benchRefuse_region ho hbench hst) hstop
    (State.wordRefuse_plain hplain) hv hmargin, State.wordEffect_region hplain hbench hregion]

/-- A MARGIN word not below the floor sets the override (R45). -/
theorem State.writeAt_margin {s : State} {r v : Nat} (hr : r < 72) (hfl : s.get (Rgn.floor r) ≤ bits v 8 4)
    (hst : r < 40 → s.get (Ben.state r) ≠ 3) : ∃ t : State, s.writeAt (rgnBase r + 0x10) v = .ok t ∧
      t.get (Rgn.override r) = v / 2 ^ 8 % 2 ^ 4 ∧ t.get (Rgn.ovrEn r) = v / 2 ^ 12 % 2 := by
  obtain ⟨hloc, hregion, hbench⟩ := regionWord r hr (0x10, _) (List.mem_cons_of_mem _ (List.mem_singleton_self _))
  have hrange : rangeBad [Rgn.applied r, Rgn.floor r, Rgn.override r, Rgn.ovrEn r, Rgn.band r, Rgn.marginExhausted r] v = false := by
    simp [rangeBad, Field.accepts, Rgn.applied, Rgn.floor, Rgn.override, Rgn.ovrEn, Rgn.band, Rgn.marginExhausted]
  have hdie : inDies (Rgn.override r).key = true ∧ inDies (Rgn.ovrEn r).key = true :=
    ⟨inDies_of_rgn hr (by simp [Rgn.override]) (by simp [Rgn.override]) (by simp [Rgn.override]),
      inDies_of_rgn hr (by simp [Rgn.ovrEn]) (by simp [Rgn.ovrEn]) (by simp [Rgn.ovrEn])⟩
  refine ⟨_, State.writeAt_region (by decide) (regionWord_plain r hr 0x10 (.inr rfl)) hloc hregion hbench rfl hst hrange fun _ => hfl, ?_, ?_⟩
  · rw [State.regionWritten_get _ _ hr hdie.1 (by simp [Field.key, Rgn.override, Rgn.applied])
      (by simp only [Field.key, Rgn.override, Rgn.slewing]; omega), State.setFields_margin,
      State.get_set_ne _ _ (by simp [Field.key, Rgn.override, Rgn.marginExhausted]),
      State.get_set_ne _ _ (by simp [Field.key, Rgn.override, Rgn.ovrEn]), State.get_set_same]
    exact Nat.mod_mod ..
  · rw [State.regionWritten_get _ _ hr hdie.2 (by simp [Field.key, Rgn.ovrEn, Rgn.applied])
      (by simp only [Field.key, Rgn.ovrEn, Rgn.slewing]; omega), State.setFields_margin,
      State.get_set_ne _ _ (by simp [Field.key, Rgn.ovrEn, Rgn.marginExhausted]), State.get_set_same]
    exact Nat.mod_mod ..

/-- A RAIL word of a setting in its range sets VSET (R35). -/
theorem State.writeAt_rail {s : State} {r v : Nat} (hr : r < 72) (h5 : v % 5 = 0) (hlo : 600 ≤ v) (hhi : v ≤ 850)
    (hst : r < 40 → s.get (Ben.state r) ≠ 3) : ∃ t : State, s.writeAt (rgnBase r + 8) v = .ok t ∧ t.get (Rgn.vset r) = v := by
  obtain ⟨hloc, hregion, hbench⟩ := regionWord r hr (8, _) (List.mem_cons_self ..)
  have hval : bits v 0 12 = v := by rw [bits]; omega
  have hrange : rangeBad [Rgn.vset r, Rgn.vread r, Rgn.slewing r] v = false := by
    simp [rangeBad, Field.accepts, Field.of, Rgn.vset, Rgn.vread, Rgn.slewing, hval, h5, hlo, hhi]
  have hdie : inDies (Rgn.vset r).key = true := inDies_of_rgn hr (by simp [Rgn.vset]) (by simp [Rgn.vset]) (by simp [Rgn.vset])
  refine ⟨_, State.writeAt_region (by decide) (regionWord_plain r hr 8 (.inl rfl)) hloc hregion hbench rfl hst hrange (fun h => by omega), ?_⟩
  rw [State.regionWritten_get _ _ hr hdie (by simp only [Field.key, Rgn.vset, Rgn.applied]; omega) (by simp [Field.key, Rgn.vset, Rgn.slewing]),
    State.setFields_rail, State.get_set_same, hval]
  exact Nat.mod_eq_of_lt (lt_of_le_of_lt hhi (show 850 < 2 ^ 12 by decide))

end Sys2Proof.Machine

open Sys2Proof Sys2Proof.Machine Sys2Proof.Safety

/-- Settles O24: each write passes the checks of its word, and its effect is that of its rule. -/
theorem singleWritesTakeEffect : Obligations.SingleWritesTakeEffect := by
  intro s h b r v h16 words go t
  have habove : ∀ a x, ∀ f : Field, aboveMailboxes f → (t a x).get f = s.get f := fun a x f hf => taken_get_above s h16 (words a x) hf
  have hbench : ∀ a x c, c < 40 → (t a x).get (Ben.state c) = s.get (Ben.state c) := fun a x c hc =>
    habove a x _ (aboveMailboxes_of_inDies (inDies_of_bench hc (by simp [Ben.state]) (by simp [Ben.state]) (by simp [Ben.state])))
  have hretire : ∀ a x, (r < 40 → s.get (Ben.state r) ≠ 3) → r < 40 → (t a x).get (Ben.state r) ≠ 3 := fun a x hst hr => by
    rw [hbench a x r hr]
    exact hst hr
  have hregion : r < 72 → ∀ o ≤ 0x10, rgnBase r + o < 2 ^ 48 := fun hr o ho => by
    have := rgnBase_inDies r hr
    omega
  refine ⟨fun hb hgo hst => ?_, fun hgo hend => ?_, fun hgo hidle hus => ?_, fun hgo hstop => ?_, fun hgo hready => ?_,
    fun hgo hle => ?_, fun hgo => ?_, fun hr hgo _ hfl hbusy => ?_, fun hr hgo h5 hlo hhi hbusy => ?_⟩
  · rw [← hbench (benchBase b + 0x10) 1 b hb] at hst
    exact next_writeOne (by simp only [benchBase, forgeBase]; omega) (by decide) hgo (State.writeAt_freset hb hst)
  · rw [← State.faultAck_of_causeEnded ((taken_causeEnded ..).trans hend)]
    exact next_writeOne (by decide) (by decide) hgo (State.writeAt_faultAck _)
  · obtain ⟨u, hu, hbuild, hhang, hgraph⟩ := State.writeAt_build (s := t 0x3F000D000048 _)
      (congrArg (· != 0) ((habove _ _ Obs.building (by decide)).trans hidle)) (by omega)
      (show bits (1 + s.get Obs.hangUs * 2 ^ 32) 32 32 = s.get Obs.hangUs by rw [bits]; omega)
    exact ⟨u, next_writeOne (by decide) (by omega) hgo hu, hbuild, hhang.trans (Nat.mod_eq_of_lt hus),
      hgraph.trans (congrArg some (taken_now ..))⟩
  · exact ⟨_, next_writeOne (by decide) (by decide) hgo (State.writeAt_alarmClr ((taken_runState ..).trans hstop)),
      State.alarmClr_clear _⟩
  · rw [State.flag, ← habove 0x3F00000A0068 0x20 Surv.exportReady (by decide)] at hready
    rw [← habove 0x3F00000A0068 0x20 Surv.exportStep (by decide)]
    obtain ⟨u, hu, hclear, hstep⟩ := State.writeAt_exportReady hready
    rw [← hstep]
    exact ⟨_, next_writeOne (by decide) (by decide) hgo hu, hclear, fun i hi hp => State.unpin_step hi hp⟩
  · rw [← habove 0x3F0000040020 v.toNat Sec.calendar (by decide)] at hle
    obtain ⟨u, hu, hset, hvalid⟩ := State.writeAt_calendar hle v.isLt
    exact ⟨u, next_writeOne (by decide) v.isLt hgo hu, hset, hvalid⟩
  · obtain ⟨u, hu, hlock⟩ := State.writeAt_ownerLock (t 0x3F0000040008 0x200)
    exact ⟨u, next_writeOne (by decide) (by decide) hgo hu, hlock⟩
  · rw [← habove (rgnBase r + 0x10) v.toNat _ (aboveMailboxes_floor hr)] at hfl
    obtain ⟨u, hu, hcode, hen⟩ := State.writeAt_margin hr hfl (hretire _ _ hbusy)
    exact ⟨u, next_writeOne (hregion hr _ (by decide)) v.isLt hgo hu, hcode, hen⟩
  · obtain ⟨u, hu, hset⟩ := State.writeAt_rail (s := t (rgnBase r + 8) v.toNat) hr h5 hlo hhi (hretire _ _ hbusy)
    exact ⟨u, next_writeOne (hregion hr _ (by decide)) v.isLt hgo hu, hset⟩
end

section
/-! SUPPORT. Streams that end, and the registers and streams that their completion leaves (R170, R439). -/

namespace Sys2Proof.Machine

open Sys2Proof Safety

/-! ### What a completion's bookkeeping leaves (R100, R210, R237) -/

/-- The same registers and the same streams. -/
def sameStations (z t : State) : Prop := t.csr = z.csr ∧ t.streams = z.streams

theorem sameStations.get {z t : State} (h : sameStations z t) (f : Field) : t.get f = z.get f := congrArg (Tab.get · f.reset f.key) h.1

theorem sameStations.trans {x y z : State} (h : sameStations x y) (h' : sameStations y z) : sameStations x z :=
  ⟨h'.1.trans h.1, h'.2.trans h.2⟩

theorem sameStations_foldl {α : Type} {f : State → α → State} (l : List α) (hf : ∀ t x, sameStations t (f t x)) (s : State) :
    sameStations s (l.foldl f s) :=
  List.foldlRecOn l f ⟨rfl, rfl⟩ fun t ht x _ => ht.trans (hf t x)

theorem State.collDone_sameStations (s : State) (b : Nat) (x : Stream) : sameStations s (s.collDone b x) := by
  unfold State.collDone
  split <;> exact ⟨rfl, rfl⟩

theorem State.freeGlob_sameStations (s : State) (id : Nat) : sameStations s (s.freeGlob id) := by
  refine sameStations_foldl _ ?_ s
  exact fun _ _ => ⟨rfl, rfl⟩

theorem State.freeShard_sameStations (s : State) (k : Bucket) : sameStations s (s.freeShard k) := by
  unfold State.freeShard
  split
  · split
    · exact s.freeGlob_sameStations _
    · exact ⟨rfl, rfl⟩
  · exact ⟨rfl, rfl⟩

theorem State.laneSent_sameStations (s : State) (x : Stream) : sameStations s (s.laneSent x) := by
  unfold State.laneSent
  split
  · exact sameStations_foldl _ State.freeShard_sameStations s
  · split
    · dsimp only
      split
      · exact State.freeGlob_sameStations (s.setBk _ _) _
      · exact ⟨rfl, rfl⟩
    · exact ⟨rfl, rfl⟩

theorem State.copyDone_sameStations (s : State) (x : Stream) : sameStations s (s.copyDone x) := by
  unfold State.copyDone
  split <;> exact ⟨rfl, rfl⟩

/-! ### The record of a stream's end (R439) -/

/-- The record's part in the ring at LATCH_BASE. -/
def State.latchPut (s : State) (b i : Nat) (x : Stream) (status : Nat) : State :=
  let n := s.get Obs.latchCount
  if s.flag Obs.latchEn ∧ n ≠ 0 then
    let a := s.get Obs.latchBase + 128 * (s.get Obs.latchNext % n)
    (match s.storeErr a 128 with
    | none => s.store a (leBytes 128 (s.latchRecord b i x status))
    | some _ => s).bump Obs.latchNext 1
  else s

theorem State.latchStream_eq (s : State) (b i : Nat) (x : Stream) (status : Nat) :
    ∃ l, s.latchStream b i x status = (s.trace b 2 l).latchPut b i x status :=
  ⟨_, rfl⟩

theorem State.latchPut_get (s : State) (b i : Nat) (x : Stream) (status : Nat) {f : Field} (hf : f.key ≠ Obs.latchNext.key) :
    (s.latchPut b i x status).get f = s.get f := by
  unfold State.latchPut
  dsimp only
  split
  · refine (State.get_set_ne _ _ hf).trans ?_
    split <;> rfl
  · rfl

/-- The record changes no register of the dies. -/
theorem State.latchStream_get (s : State) (b i : Nat) (x : Stream) (status : Nat) {f : Field} (hf : inDies f.key = true) :
    (s.latchStream b i x status).get f = s.get f := by
  obtain ⟨l, hl⟩ := s.latchStream_eq b i x status
  rw [hl, State.latchPut_get _ _ _ _ _ (key_ne_of_inDies (by decide) hf).symm]
  exact State.trace_get s b 2 l (ne_traceFields_of_inDies hf)

theorem Tab.find_del_same {α : Type} (t : Tab α) (k : Nat) : Tab.find (Tab.del t k) k = none := by
  cases h : Tab.find (Tab.del t k) k with
  | none => rfl
  | some v => simpa using (List.mem_filter.1 (Tab.mem_of_find h)).2

theorem State.delStream_get (s : State) (b i : Nat) (f : Field) : (s.delStream b i).get f = s.get f := rfl

theorem State.stream_delStream (s : State) (b i : Nat) : (s.delStream b i).stream b i = none := Tab.find_del_same ..

/-! ### A stream that completes (R170) -/

/-- The registers that a stream's completion moves: STREAMS of its station and of the bench, and the idle station's. -/
def State.countStream (s : State) (b i : Nat) : State :=
  ((s.bump (Stn.streams b i) 1).bump (Stn.streams b 15) 1).setAll [(Stn.state b i, 0), (Aoc.waitSince b i, 0)]

theorem State.countStream_streams (s : State) (b i : Nat) : (s.countStream b i).streams = s.streams := rfl

theorem stnBase_inBench {b i : Nat} (hi : i < 10 ∨ i = 15) : benchBase b ≤ stnBase b i ∧ stnBase b i + 0x1000 ≤ benchBase b + 0x100000 := by
  unfold stnBase
  split <;> omega

theorem inDies_of_stn {b i : Nat} (hb : b < 40) (hi : i < 10 ∨ i = 15) {f : Field} (h0 : stnBase b i ≤ f.addr)
    (h1 : f.addr < stnBase b i + 0x1000) (hl : f.lo < 64) : inDies f.key = true := by
  obtain ⟨hlo, hhi⟩ := stnBase_inBench (b := b) hi
  exact inDies_of_bench hb (by omega) (by omega) hl

/-- The station is idle, and STREAMS of the station and of the bench are one higher. -/
theorem State.countStream_get (s : State) {b i : Nat} (hb : b < 40) (hi : i < 10) :
    (s.countStream b i).get (Stn.state b i) = 0 ∧
      (s.countStream b i).get (Stn.streams b i) = (s.get (Stn.streams b i) + 1) % 2 ^ 48 ∧
      (s.countStream b i).get (Stn.streams b 15) = (s.get (Stn.streams b 15) + 1) % 2 ^ 48 := by
  have hwait : inDies (Aoc.waitSince b i).key = false := decide_eq_false (by simp only [Field.key, Aoc.waitSince]; omega)
  have hdie : ∀ j, j < 10 ∨ j = 15 → inDies (Stn.state b j).key = true ∧ inDies (Stn.streams b j).key = true := fun j hj =>
    ⟨inDies_of_stn hb hj (by simp [Stn.state]) (by simp [Stn.state]) (by simp [Stn.state]),
      inDies_of_stn hb hj (by simp [Stn.streams]) (by simp [Stn.streams]) (by simp [Stn.streams])⟩
  have hbase : stnBase b 15 = benchBase b + 0x10000 ∧ stnBase b i = benchBase b + 0x1000 * (i + 1) := ⟨rfl, if_neg (by omega)⟩
  have hset : ∀ t : State, ∀ f : Field, inDies f.key = true → f.key ≠ (Stn.state b i).key →
      (t.setAll [(Stn.state b i, 0), (Aoc.waitSince b i, 0)]).get f = t.get f := fun t f hf hne =>
    (State.get_set_ne _ _ (key_ne_of_inDies hwait hf).symm).trans (State.get_set_ne _ _ hne)
  refine ⟨(State.get_set_ne _ _ (key_ne_of_inDies hwait (hdie i (.inl hi)).1).symm).trans (State.get_set_same ..), ?_, ?_⟩
  · rw [State.countStream, hset _ _ (hdie i (.inl hi)).2 (by simp only [Field.key, Stn.streams, Stn.state]; omega)]
    refine (State.get_set_ne _ _ ?_).trans (State.get_set_same ..)
    simp only [Field.key, Stn.streams]
    omega
  · rw [State.countStream, hset _ _ (hdie 15 (.inr rfl)).2 (by simp only [Field.key, Stn.streams, Stn.state]; omega)]
    refine (State.get_set_same ..).trans (congrArg (fun n => (n + 1) % 2 ^ 48) (State.get_set_ne _ _ ?_))
    simp only [Field.key, Stn.streams]
    omega

/-- A stream that completes and raises no signal leaves the station and the streams as its count does. -/
theorem State.finishStream_sameStations (s : State) (b i : Nat) {x : Stream} (hx : x.sigEn = false) :
    sameStations (((s.latchStream b i x 0).delStream b i).countStream b i) (s.finishStream b i x) := by
  have hlane : ∀ t : State, sameStations t ((t.collDone b x).laneSent x) := fun t =>
    (t.collDone_sameStations b x).trans (State.laneSent_sameStations _ _)
  unfold State.finishStream
  dsimp only
  rw [if_neg (by simp [hx])]
  split
  · exact hlane _
  · exact (hlane _).trans (State.copyDone_sameStations _ _)

theorem kindCode_ne_temper : ∀ i < 10, i ≠ 2 → kindCode i ≠ 2 := by decide

/-- STREAM_END of a running station's stream that is done ends it. -/
theorem exec_streamEnd_of_done {s : State} {b i : Nat} {x : Stream} (hi : i < 10) (hr : s.benchRuns b = true) (hx : s.stream b i = some x)
    (hn : s.flag (Stn.recomputing b i) = false) (hd : s.streamDone b i x = true) : exec (.streamEnd b i) s = .next (s.endStream b i x) := by
  change execStreamEnd b i s = _
  rw [execStreamEnd, hx]
  exact congrArg Host.Outcome.next (if_pos ⟨hr, hi, by simp [hn], hd⟩)

/-- A stream that is not done goes on. -/
theorem exec_streamEnd_of_not_done {s : State} {b i : Nat} {x : Stream} (hx : s.stream b i = some x) (hd : s.streamDone b i x = false) :
    exec (.streamEnd b i) s = .next s := by
  change execStreamEnd b i s = _
  rw [execStreamEnd, hx]
  exact congrArg Host.Outcome.next (if_neg (by simp [hd]))

/-- The end of a stream that raises no signal, on another station than Temper. -/
theorem State.endStream_spec (s : State) {b i : Nat} {x : Stream} (hb : b < 40) (hi : i < 10) (h2 : i ≠ 2) (hx : x.sigEn = false) :
    (s.endStream b i x).stream b i = none ∧ (s.endStream b i x).get (Stn.state b i) = 0 ∧
      (s.endStream b i x).get (Stn.streams b i) = (s.get (Stn.streams b i) + 1) % 2 ^ 48 ∧
      (s.endStream b i x).get (Stn.streams b 15) = (s.get (Stn.streams b 15) + 1) % 2 ^ 48 := by
  have hend : s.endStream b i x = s.finishStream b i x := if_neg (kindCode_ne_temper i hi h2)
  have hsame := s.finishStream_sameStations b i hx
  obtain ⟨hstate, hstn, hbench⟩ := ((s.latchStream b i x 0).delStream b i).countStream_get hb hi
  have hcount : ∀ j, j < 10 ∨ j = 15 → ((s.latchStream b i x 0).delStream b i).get (Stn.streams b j) = s.get (Stn.streams b j) := fun j hj =>
    (State.delStream_get ..).trans <| State.latchStream_get s b i x 0 <|
      inDies_of_stn hb hj (by simp [Stn.streams]) (by simp [Stn.streams]) (by simp [Stn.streams])
  rw [hcount i (.inl hi)] at hstn
  rw [hcount 15 (.inr rfl)] at hbench
  rw [hend]
  refine ⟨?_, (hsame.get _).trans hstate, (hsame.get _).trans hstn, (hsame.get _).trans hbench⟩
  rw [State.stream, hsame.2, State.countStream_streams]
  exact (s.latchStream b i x 0).stream_delStream b i

/-- TILE_RECOMPUTATION: once, and a second failure retires the bench (R46, R127, R141). -/
theorem exec_tileRecomputation {s : State} {b i : Nat} {x : Stream} (hi : i < 10) (hr : s.benchRuns b = true) (hx : s.stream b i = some x)
    (hn : s.flag (Stn.recomputing b i) = true) (ok : Bool) :
    exec (.tileRecomputation b i ok) s = .next (if ok then s.recompute b i x else (s.checkFail b i).retireStart b 1) := by
  change execTileRecomputation b i ok s = _
  rw [execTileRecomputation, hx]
  exact congrArg Host.Outcome.next (if_pos ⟨hr, hi, hn⟩)

end Sys2Proof.Machine
end

section
/-! SUPPORT. The handover of a retiring bench to its spare: what it copies, and the identity registers that it moves (R150, R151). -/

namespace Sys2Proof.Machine

open Sys2Proof Safety

/-! ### A list of writes to different places -/

/-- Each of several fields at different places reads as it was written. -/
theorem State.get_setAll_mem {s : State} {l : List (Field × Nat)} (hl : (l.map (·.1.key)).Nodup) {f : Field} {v : Nat} (h : (f, v) ∈ l) :
    (s.setAll l).get f = v % 2 ^ f.width := by
  induction l generalizing s with
  | nil => cases h
  | cons e l ih =>
    obtain ⟨hne, htail⟩ := List.nodup_cons.1 hl
    obtain rfl | h := List.mem_cons.1 h
    · exact (State.get_setAll_ne (s.set f v) l fun g hg heq => hne (List.mem_map.2 ⟨g, hg, heq.symm⟩)).trans (State.get_set_same ..)
    · exact ih htail h

theorem State.setAll_append (s : State) (l m : List (Field × Nat)) : (s.setAll l).setAll m = s.setAll (l ++ m) := List.foldl_append.symm

/-- A part of the state that one register write leaves, a list of them leaves. -/
theorem State.setAll_part {α : Type} (p : State → α) (hp : ∀ t f v, p (State.set t f v) = p t) (s : State) (l : List (Field × Nat)) :
    p (s.setAll l) = p s :=
  List.foldlRecOn (motive := fun t : State => p t = p s) l _ rfl fun t ht e _ => (hp t e.1 e.2).trans ht

/-! ### The bench's block and its copy (R150 order 3) -/

/-- A register key of bench k's block that takes another bench's value. -/
def copiedKey (k j : Nat) : Bool :=
  decide (64 * (benchBase k + 0x1000) ≤ j ∧ j < 64 * (benchBase k + 0x50000)) &&
    !decide (64 * (benchBase k + 0xF000) ≤ j ∧ j < 64 * (benchBase k + 0x10000))

theorem mem_benchFields {s : State} {b : Nat} {e : Nat × Nat} (h : e ∈ s.benchFields b) : 64 * 0x1000 ≤ e.1 ∧ e.1 < 64 * 0x50000 := by
  obtain ⟨c, hc, rfl⟩ := List.mem_map.1 h
  have hr := (List.mem_filter.1 hc).2
  simp only [Bool.and_eq_true, decide_eq_true_eq] at hr
  dsimp only
  omega

/-- The first block of a bench's registers, and ALARMS, are none of those copied. -/
theorem calmKey_beside {b j : Nat} (h : calmKey j = true) : j < 64 * (benchBase b + 0x1000) ∨ 64 * (benchBase b + 0x50000) ≤ j := by
  have halarm : Surv.alarms.key < 64 * 0x3F0001000000 := by decide
  simp only [calmKey, Bool.or_eq_true, beq_iff_eq, decide_eq_true_eq] at h
  simp only [benchBase, forgeBase]
  omega

/-- A station's registers are none of a bench's first block. -/
theorem calmKey_of_stn {b i : Nat} (hi : i < 10 ∨ i = 15) {g : Field} (h0 : stnBase b i ≤ g.addr) (h1 : g.addr < stnBase b i + 0x1000)
    (hl : g.lo < 64) : calmKey g.key = false := by
  have hbase : stnBase b i = benchBase b + 0x1000 * (if i = 15 then 16 else i + 1) := by unfold stnBase; split <;> rfl
  have hidx : 1 ≤ (if i = 15 then 16 else i + 1) ∧ (if i = 15 then 16 else i + 1) ≤ 16 := by split <;> omega
  simp only [benchBase, forgeBase] at hbase
  exact calmKey_of_forge (by omega) hl (by omega)

namespace Calm

variable {z s t : State}

theorem latchStream (h : Calm z s) (b i : Nat) (x : Stream) (status : Nat) : Calm z (s.latchStream b i x status) := by
  have hput : ∀ t, Calm z t → Calm z (t.latchPut b i x status) := fun t ht => by
    unfold State.latchPut
    dsimp only
    split
    · refine bump ?_ 1 (by decide)
      split
      · exact ht.store _ _
      · exact ht
    · exact ht
  obtain ⟨l, hl⟩ := s.latchStream_eq b i x status
  exact hl ▸ hput _ (h.trace _ _ _)

theorem abandonStreams (h : Calm z s) (b k : Nat) : Calm z (s.abandonStreams b k) :=
  h.foldl fun t i _ ht => by
    dsimp only
    split
    · exact ht
    · exact (ht.latchStream _ _ _ _).other rfl rfl rfl rfl

theorem copyMem (h : Calm z s) (b k : Nat) : Calm z (s.copyMem b k) := h.other rfl rfl rfl rfl

theorem moveMeas (h : Calm z s) (b k : Nat) : Calm z (s.moveMeas b k) := h.other rfl rfl rfl rfl

theorem copyBench (h : Calm z s) (b k : Nat) : Calm z (s.copyBench b k) := by
  refine ⟨h.longs, h.aborting, h.alarms, fun f hf => Eq.trans ?_ (h.get f hf)⟩
  have hbeside := calmKey_beside (b := k) hf
  refine List.foldlRecOn (motive := fun t : Tab Nat => Tab.get t f.reset f.key = s.get f) (s.benchFields b) _ ?_ fun t ht e he => ?_
  · have hkeep : (!copiedKey k f.key) = true := by
      simp only [copiedKey, Bool.not_eq_true', Bool.and_eq_false_iff, decide_eq_false_iff_not]
      omega
    exact (Tab.get_filter s.csr f.reset (fun j => !copiedKey k j) f.key).trans (if_pos hkeep)
  · have hplace := mem_benchFields he
    refine (Tab.get_put_ne _ _ _ ?_).trans ht
    omega

theorem rebase (h : Calm z s) (b k : Nat) : Calm z (s.rebase b k) := by
  unfold State.rebase State.rebaseDescs
  dsimp only
  exact foldl (by exact h.other rfl rfl rfl rfl) fun _ _ _ ht => ht.store _ _

theorem boundaries (h : Calm z s) (b : Nat) : Calm z (s.boundaries b) := by
  have hcmp : ∀ g ∈ [Cmp.activeBank b, Cmp.swapPending b, Cmp.shadowValid b], calmKey g.key = false := fun g hg => by
    refine calmKey_of_stn (b := b) (i := 15) (.inr rfl) ?_ ?_ ?_ <;> revert g <;> simp [Cmp.activeBank, Cmp.swapPending, Cmp.shadowValid]
  have htmp : ∀ g ∈ [Stn.tmpActiveBank b 2, Stn.tmpSwapPending b 2], calmKey g.key = false := fun g hg => by
    refine calmKey_of_stn (b := b) (i := 2) (.inl (by decide)) ?_ ?_ ?_ <;> revert g <;> simp [Stn.tmpActiveBank, Stn.tmpSwapPending]
  have hswap : Calm z (if s.flag (Cmp.swapPending b) then s.swapCmp b else s) := Calm.ite (h.setAll hcmp) h
  exact Calm.ite (hswap.setAll htmp) hswap

end Calm

/-! ### The start snapshot (R145) -/

/-- The snapshot's move changes memory and its place alone. -/
theorem Calm.moveSnap {z s : State} (h : Calm z s) (b k : Nat) : Calm z (s.moveSnap b k) := by
  unfold State.moveSnap
  split
  · exact h
  · exact foldl (by exact h.other rfl rfl rfl rfl) fun _ _ _ ht => ht.store _ _

theorem State.moveSnap_csr (s : State) (b k : Nat) : (s.moveSnap b k).csr = s.csr := by
  unfold State.moveSnap
  split
  · rfl
  · exact List.foldlRecOn (motive := fun t : State => t.csr = s.csr) _ _ rfl fun _ ht _ _ => ht

/-! ### The identity registers that the handover moves (R150 orders 4 to 6) -/

/-- Two benches' blocks lie apart, and each holds its region's control block. -/
theorem benchBase_apart {b k : Nat} (h : k ≠ b) : benchBase b + 0x100000 ≤ benchBase k ∨ benchBase k + 0x100000 ≤ benchBase b := by
  simp only [benchBase, forgeBase]
  omega

/-- What the handover writes of the spare and of the bench. -/
def handoverWrites (b k logical st cause : Nat) : List (Field × Nat) :=
  [(Ben.logical k, logical), (Ben.lvalid k, 1), (Ben.state k, st), (Rgn.state k, if st = 1 then 0 else 1),
    (Ben.state b, 5), (Ben.cause b, cause), (Ben.lvalid b, 0), (Rgn.state b, 3), (Rgn.vread b, 0), (Ben.cause k, 0)]

/-- What a failed handover writes of them: the spare is lost, then the bench. -/
def failedWrites (b k cause : Nat) : List (Field × Nat) :=
  [(Ben.cause k, 4), (Ben.state k, 5), (Rgn.state k, 3), (Rgn.vread k, 0)] ++
    [(Ben.state b, 5), (Ben.lvalid b, 0), (Ben.cause b, cause), (Rgn.state b, 3), (Rgn.vread b, 0)]

theorem rgnBase_bench {b : Nat} (h : b < 40) : rgnBase b = benchBase b + 0xF000 := if_pos h

section
variable {b k : Nat} (hb : b < 40) (hk : k < 40) (hne : k ≠ b)
include hb hk hne

theorem handoverWrites_nodup (logical st cause : Nat) : ((handoverWrites b k logical st cause).map (·.1.key)).Nodup := by
  have happart := benchBase_apart hne
  simp only [handoverWrites, List.map_cons, List.map_nil, List.nodup_cons, List.mem_cons, List.not_mem_nil, or_false, not_or, Field.key,
    Ben.logical, Ben.lvalid, Ben.state, Ben.cause, Rgn.state, Rgn.vread, rgnBase_bench hb, rgnBase_bench hk,
    not_false_eq_true, List.nodup_nil, and_true]
  omega

theorem failedWrites_nodup (cause : Nat) : ((failedWrites b k cause).map (·.1.key)).Nodup := by
  have happart := benchBase_apart hne
  simp only [failedWrites, List.cons_append, List.nil_append, List.map_cons, List.map_nil, List.nodup_cons, List.mem_cons,
    List.not_mem_nil, or_false, not_or, Field.key, Ben.lvalid, Ben.state, Ben.cause, Rgn.state, Rgn.vread, rgnBase_bench hb, rgnBase_bench hk,
    not_false_eq_true, List.nodup_nil, and_true]
  omega

end

/-- Another bench's STATE is at none of the places written. -/
theorem state_key_ne {b k c : Nat} (hb : b < 40) (hk : k < 40) (hcb : c ≠ b) (hck : c ≠ k) (logical st cause : Nat) :
    ∀ e ∈ handoverWrites b k logical st cause ++ failedWrites b k cause, (Ben.state c).key ≠ e.1.key := by
  have hapartb := benchBase_apart hcb
  have hapartk := benchBase_apart hck
  simp only [handoverWrites, failedWrites, List.cons_append, List.nil_append, List.forall_mem_cons, List.not_mem_nil, false_imp_iff, implies_true,
    and_true, Field.key, Ben.logical, Ben.lvalid, Ben.state, Ben.cause, Rgn.state, Rgn.vread, rgnBase_bench hb, rgnBase_bench hk]
  omega

/-! ### The handover (R150, R151) -/

/-- The spare of a die is one of its benches, at STATE 4. -/
theorem State.spareOf_some {s : State} {n k : Nat} (h : s.spareOf n = some k) : ∃ j < 5, k = 5 * n + j := by
  obtain ⟨j, hj, rfl⟩ := List.mem_map.1 (List.mem_of_find?_eq_some h)
  exact ⟨j, List.mem_range.1 hj, rfl⟩

theorem State.takenState_congr {s t : State} (h : t.csr = s.csr) (b : Nat) : t.takenState b = s.takenState b := by
  have hget : ∀ f : Field, t.get f = s.get f := fun f => congrArg (Tab.get · f.reset f.key) h
  have hrun : t.running = s.running := congrArg (· == 2) (hget _)
  rw [State.takenState, State.takenState, hget, hrun]

theorem State.takenState_lt (s : State) (b : Nat) : s.takenState b ≤ 2 := by
  unfold State.takenState
  split
  · decide
  · split <;> decide

/-- No bench of a die retires: nothing waits for its spare. -/
theorem State.waitingRetire_none {s : State} {n : Nat} (h : ∀ j < 5, s.get (Ben.state (5 * n + j)) ≠ 3) : s.waitingRetire n = s := by
  unfold State.waitingRetire
  split
  · rfl
  · exact List.foldlRecOn (motive := fun t : State => t = s) _ _ rfl fun t ht j hj => by
      rw [ht, if_neg (h j (List.mem_range.1 hj))]

theorem State.settleRetires_none {s : State} (h : s.longs = []) : s.settleRetires = s := by
  rw [State.settleRetires, h]
  rfl

/-- The state in which a retirement's handover leaves its benches, before what waits for it. -/
def State.handedOver (s : State) (b k : Nat) (ok : Bool) : State := if ok then (s.moveSnap b k).handover b k else s.handoverFailed b k

/-- With no other retirement on the die, no abort and no RETIRE that waits, the handover is all that is done. -/
theorem exec_retirementHandover_alone {s : State} {b k : Nat} {ok : Bool} (ha : s.alive = true) (h3 : s.get (Ben.state b) = 3)
    (hk : s.spareOf (b / 5) = some k) (habort : (s.handedOver b k ok).aborting = none) (hlongs : (s.handedOver b k ok).longs = [])
    (hnone : ∀ j < 5, (s.handedOver b k ok).get (Ben.state (5 * (b / 5) + j)) ≠ 3) :
    exec (.retirementHandover b ok) s = .next (s.handedOver b k ok) := by
  have hwait := State.waitingRetire_none hnone
  have hbody : exec (.retirementHandover b ok) s = .next (State.settleRetires
      (if ((s.handedOver b k ok).waitingRetire (b / 5)).aborting.isSome ∧ ((s.handedOver b k ok).waitingRetire (b / 5)).restoring = [] then
        ((s.handedOver b k ok).waitingRetire (b / 5)).abortRun else (s.handedOver b k ok).waitingRetire (b / 5))) := by
    change execRetirementHandover b ok s = _
    rw [execRetirementHandover, if_pos (by simp [ha, h3]), hk]
    rfl
  rw [hbody, hwait, if_neg (by simp [habort]), State.settleRetires_none hlongs]

/-- The bench's state copied to the spare, before its identity moves. -/
def State.copied (s : State) (b k : Nat) : State := (((((s.moveSnap b k).abandonStreams b k).copyMem b k).copyBench b k).moveMeas b k).rebase b k

theorem State.copied_calm (s : State) (b k : Nat) : Calm s (s.copied b k) :=
  ((((((Calm.refl s).moveSnap b k).abandonStreams b k).copyMem b k).copyBench b k).moveMeas b k).rebase b k

/-- A handover copies, moves the identity registers, and ends calmly. -/
theorem State.handedOver_true (s : State) {b : Nat} (hb : b < 40) (k : Nat) : ∃ cause,
    Calm ((s.copied b k).setAll (handoverWrites b k ((s.copied b k).get (Ben.logical b)) (s.takenState b) cause)) (s.handedOver b k true) := by
  rw [← State.takenState_congr (s.moveSnap_csr b k) b]
  exact ⟨_, (Calm.ite ((Calm.refl _).boundaries k) (Calm.refl _)).slowSend (by omega) 1⟩

/-- A failed one loses the spare and the bench. -/
theorem State.handedOver_false (s : State) {b : Nat} (hb : b < 40) (k : Nat) : ∃ cause,
    Calm (s.setAll (failedWrites b k cause)) (s.handedOver b k false) :=
  ⟨Tab.get s.retCause 0 b, by
    rw [failedWrites, ← State.setAll_append]
    exact (Calm.refl _).alert.slowSend (by omega) 1⟩

theorem calmKey_of_bench {b : Nat} (hb : b < 40) {f : Field} (h0 : benchBase b ≤ f.addr) (h1 : f.addr < benchBase b + 0x1000) (hl : f.lo < 64) :
    calmKey f.key = true := by
  refine (Bool.or_eq_true _ _).mpr (.inr (decide_eq_true ?_))
  simp only [benchBase, forgeBase, Field.key] at h0 h1 ⊢
  omega

/-- The identity registers of a bench (R143). -/
def identityFields (b : Nat) : List Field := [Ben.logical b, Ben.lvalid b, Ben.state b, Ben.cause b]

theorem calmKey_identity {b : Nat} (hb : b < 40) : ∀ f ∈ identityFields b, calmKey f.key = true := fun f hf => by
  refine calmKey_of_bench hb ?_ ?_ ?_ <;> revert f <;> simp [identityFields, Ben.logical, Ben.lvalid, Ben.state, Ben.cause]

/-- Where a state is calm from its writes to a retiring bench and its spare: the writes show, other benches are as they were, and an abort
or a RETIRE waits only if one waited before. -/
theorem handover_shows {s u t : State} (hu : Calm s u) {l : List (Field × Nat)} (ht : Calm (u.setAll l) t) (hl : (l.map (·.1.key)).Nodup) :
    (∀ f v, (f, v) ∈ l → calmKey f.key = true → t.get f = v % 2 ^ f.width) ∧
      (∀ f, calmKey f.key = true → (∀ e ∈ l, f.key ≠ e.1.key) → t.get f = s.get f) ∧ t.aborting = s.aborting ∧ t.longs = s.longs := by
  refine ⟨fun f v hm hf => (ht.get f hf).trans (State.get_setAll_mem hl hm),
    fun f hf hne => (ht.get f hf).trans ((State.get_setAll_ne _ _ hne).trans (hu.get f hf)), ?_, ?_⟩
  · exact ht.aborting.trans ((State.setAll_part State.aborting (fun _ _ _ => rfl) u l).trans hu.aborting)
  · exact ht.longs.trans ((State.setAll_part State.longs (fun _ _ _ => rfl) u l).trans hu.longs)

/-- A retirement that hands over, alone on its die, with neither an abort nor a RETIRE that waits. -/
structure HandsOver (s : State) (b k : Nat) : Prop where
  alive : s.alive = true
  retiring : s.get (Ben.state b) = 3
  spare : s.spareOf (b / 5) = some k
  bench : b < 40
  other : k ≠ b
  aborting : s.aborting = none
  longs : s.longs = []
  alone : ∀ j, j < 5 → 5 * (b / 5) + j ≠ b → s.get (Ben.state (5 * (b / 5) + j)) ≠ 3

theorem HandsOver.spare_lt {s : State} {b k : Nat} (h : HandsOver s b k) : k < 40 := by
  obtain ⟨j, hj, rfl⟩ := State.spareOf_some h.spare
  have := h.bench
  omega

/-- After writes that end the retirement and leave the spare in no retirement, nothing more is done. -/
theorem HandsOver.exec_eq {s u : State} {b k st : Nat} {ok : Bool} (h : HandsOver s b k) (hu : Calm s u) {l : List (Field × Nat)}
    (ht : Calm (u.setAll l) (s.handedOver b k ok)) (hl : (l.map (·.1.key)).Nodup) (hb : (Ben.state b, 5) ∈ l) (hk : (Ben.state k, st) ∈ l)
    (hst : st % 2 ^ 3 ≠ 3) (hother : ∀ c, c ≠ b → c ≠ k → ∀ e ∈ l, (Ben.state c).key ≠ e.1.key) :
    exec (.retirementHandover b ok) s = .next (s.handedOver b k ok) := by
  obtain ⟨hwrites, hleaves, habort, hlongs⟩ := handover_shows hu ht hl
  have hcalm : ∀ c < 40, calmKey (Ben.state c).key = true := fun c hc => calmKey_identity hc _ (by simp [identityFields])
  have hbench := h.bench
  refine exec_retirementHandover_alone h.alive h.retiring h.spare (habort.trans h.aborting) (hlongs.trans h.longs) fun j hj => ?_
  by_cases hjb : 5 * (b / 5) + j = b
  · rw [hjb, hwrites _ _ hb (hcalm b h.bench)]
    exact show 5 % 2 ^ 3 ≠ 3 by decide
  · by_cases hjk : 5 * (b / 5) + j = k
    · rw [hjk, hwrites _ _ hk (hcalm k h.spare_lt)]
      exact hst
    · rw [hleaves _ (hcalm _ (by omega)) (hother _ hjb hjk)]
      exact h.alone j hj hjb

/-- The spare takes the logical bench over (R150 orders 4 to 6). -/
theorem HandsOver.exec_true {s : State} {b k : Nat} (h : HandsOver s b k) :
    ∃ t, exec (.retirementHandover b true) s = .next t ∧ t.get (Ben.state b) = 5 ∧ t.flag (Ben.lvalid b) = false ∧
      t.get (Ben.logical k) = s.get (Ben.logical b) % 2 ^ 5 ∧ t.flag (Ben.lvalid k) = true ∧ t.get (Ben.state k) = s.takenState b := by
  obtain ⟨cause, ht⟩ := s.handedOver_true h.bench k
  have hu := s.copied_calm b k
  have hl := handoverWrites_nodup h.bench h.spare_lt h.other ((s.copied b k).get (Ben.logical b)) (s.takenState b) cause
  have hst : s.takenState b % 2 ^ 3 = s.takenState b := Nat.mod_eq_of_lt (lt_of_le_of_lt (s.takenState_lt b) (by decide))
  obtain ⟨hwrites, -, -, -⟩ := handover_shows hu ht hl
  have hb := calmKey_identity h.bench
  have hk := calmKey_identity h.spare_lt
  have hlogical := hwrites (Ben.logical k) ((s.copied b k).get (Ben.logical b)) (by simp [handoverWrites]) (hk _ (by simp [identityFields]))
  rw [hu.get _ (hb (Ben.logical b) (by simp [identityFields]))] at hlogical
  refine ⟨_, h.exec_eq (st := s.takenState b) hu ht hl (by simp [handoverWrites]) (by simp [handoverWrites]) ?_ fun c hcb hck e he =>
    state_key_ne h.bench h.spare_lt hcb hck _ _ _ e (List.mem_append_left _ he), ?_, ?_, hlogical, ?_, ?_⟩
  · rw [hst]
    have := s.takenState_lt b
    omega
  · exact hwrites (Ben.state b) 5 (by simp [handoverWrites]) (hb _ (by simp [identityFields]))
  · exact congrArg (· != 0) (hwrites (Ben.lvalid b) 0 (by simp [handoverWrites]) (hb _ (by simp [identityFields])))
  · exact congrArg (· != 0) (hwrites (Ben.lvalid k) 1 (by simp [handoverWrites]) (hk _ (by simp [identityFields])))
  · exact (hwrites (Ben.state k) (s.takenState b) (by simp [handoverWrites]) (hk _ (by simp [identityFields]))).trans hst

/-- A failed handover loses the spare, with CAUSE 4, and the bench (R150). -/
theorem HandsOver.exec_false {s : State} {b k : Nat} (h : HandsOver s b k) :
    ∃ t, exec (.retirementHandover b false) s = .next t ∧ t.get (Ben.state b) = 5 ∧ t.flag (Ben.lvalid b) = false ∧
      t.get (Ben.state k) = 5 ∧ t.get (Ben.cause k) = 4 := by
  obtain ⟨cause, ht⟩ := s.handedOver_false h.bench k
  have hl := failedWrites_nodup h.bench h.spare_lt h.other cause
  obtain ⟨hwrites, -, -, -⟩ := handover_shows (Calm.refl s) ht hl
  have hb := calmKey_identity h.bench
  have hk := calmKey_identity h.spare_lt
  refine ⟨_, h.exec_eq (st := 5) (Calm.refl s) ht hl (by simp [failedWrites]) (by simp [failedWrites]) (by decide) fun c hcb hck e he =>
    state_key_ne h.bench h.spare_lt hcb hck 0 0 _ e (List.mem_append_right _ he), ?_, ?_, ?_, ?_⟩
  · exact hwrites (Ben.state b) 5 (by simp [failedWrites]) (hb _ (by simp [identityFields]))
  · exact congrArg (· != 0) (hwrites (Ben.lvalid b) 0 (by simp [failedWrites]) (hb _ (by simp [identityFields])))
  · exact hwrites (Ben.state k) 5 (by simp [failedWrites]) (hk _ (by simp [identityFields]))
  · exact hwrites (Ben.cause k) 4 (by simp [failedWrites]) (hk _ (by simp [identityFields]))

end Sys2Proof.Machine

open Sys2Proof Sys2Proof.Machine Sys2Proof.Safety

/-- Settles O37: a stream's end and its frame, the two outcomes of a recomputation, and the two of a handover. -/
theorem streamsEndAndBenchesHandOver : Obligations.StreamsEndAndBenchesHandOver := by
  intro s b i k x
  refine ⟨fun hb hi hr hx hn hd => ⟨exec_streamEnd_of_done hi hr hx hn hd, fun h2 hs =>
      ⟨_, exec_streamEnd_of_done hi hr hx hn hd, s.endStream_spec hb hi h2 hs⟩⟩,
    exec_streamEnd_of_not_done,
    fun _ hi hr hx hn => ⟨exec_tileRecomputation hi hr hx hn true, exec_tileRecomputation hi hr hx hn false⟩,
    fun ha h3 hk hb hne habort hlongs halone => ?_⟩
  have h : HandsOver s b k := ⟨ha, h3, hk, hb, hne, habort, hlongs, halone⟩
  exact ⟨h.exec_true, h.exec_false⟩
end

section
/-! SUPPORT. Every command keeps the queue and the canonical form of memory: one arm of the dispatch each. -/

namespace Sys2Proof.Machine

open Sys2Proof Safety

/-- Every command keeps what its operations keep. -/
theorem exec_keeps {z s : State} (hs : Keeps z s) : ∀ c : Instr, KeepsO z (exec c s)
  | .identify .. => execIdentify_keeps hs
  | .getFeatures .. => execGetFeatures_keeps hs
  | .getStatus .. => execGetStatus_keeps hs
  | .getStatusMailbox .. => execGetStatusMailbox_keeps hs
  | .readCsr .. => execReadCsr_keeps hs
  | .writeCsr .. => execWriteCsr_keeps hs
  | .loadImage .. => execLoadImage_keeps hs
  | .bulkPacket .. => execBulkPacket_keeps hs
  | .swapBank .. => execSwapBank_keeps hs
  | .stop .. => execStop_keeps hs
  | .stopRouting .. => execStopRouting_keeps hs
  | .start .. => execStart_keeps hs
  | .startRouting .. => execStartRouting_keeps hs
  | .setRoutes .. => execSetRoutes_keeps hs
  | .launchAt .. => execLaunchAt_keeps hs
  | .launchAtCount => execLaunchAtCount_keeps hs
  | .abortStep .. => execAbortStep_keeps hs
  | .abortStepCommit .. => execAbortStepCommit_keeps hs
  | .globalStop .. => execGlobalStop_keeps hs
  | .globalStopCount => execGlobalStopCount_keeps hs
  | .setPair .. => execSetPair_keeps hs
  | .setPairAdopt .. => execSetPairAdopt_keeps hs
  | .setFailureDomain .. => execSetFailureDomain_keeps hs
  | .impress .. => execImpress_keeps hs
  | .impressExport .. => execImpressExport_keeps hs
  | .impressList .. => execImpressList_keeps hs
  | .restore .. => execRestore_keeps hs
  | .retireBench .. => execRetireBench_keeps hs
  | .retireChannel .. => execRetireChannel_keeps hs
  | .retireLane .. => execRetireLane_keeps hs
  | .margin .. => execMargin_keeps hs
  | .getCounters .. => execGetCounters_keeps hs
  | .getLog .. => execGetLog_keeps hs
  | .clearLog .. => execClearLog_keeps hs
  | .setTime .. => execSetTime_keeps hs
  | .attest .. => execAttest_keeps hs
  | .updateFw .. => execUpdateFw_keeps hs
  | .activateFw .. => execActivateFw_keeps hs
  | .confirmation => execConfirmation_keeps hs
  | .watchdogExpiry => execWatchdogExpiry_keeps hs
  | .linkControlFlit .. => execLinkControlFlit_keeps hs
  | .drerilLinkDown => execDrerilLinkDown_keeps hs
  | .retrain => execRetrain_keeps hs
  | .freset .. => execFreset_keeps hs
  | .faultAck .. => execFaultAck_keeps hs
  | .build .. => execBuild_keeps hs
  | .alarmClr .. => execAlarmClr_keeps hs
  | .exportReady .. => execExportReady_keeps hs
  | .calendar .. => execCalendar_keeps hs
  | .ownerLock .. => execOwnerLock_keeps hs
  | .ovrEn .. => execOvrEn_keeps hs
  | .vset .. => execVset_keeps hs
  | .addi .. => execAddi_keeps hs
  | .andi .. => execAndi_keeps hs
  | .ori .. => execOri_keeps hs
  | .xori .. => execXori_keeps hs
  | .slti .. => execSlti_keeps hs
  | .sltiu .. => execSltiu_keeps hs
  | .lui .. => execLui_keeps hs
  | .slli .. => execSlli_keeps hs
  | .srli .. => execSrli_keeps hs
  | .srai .. => execSrai_keeps hs
  | .lw .. => execLw_keeps hs
  | .sw .. => execSw_keeps hs
  | .ld .. => execLd_keeps hs
  | .sd .. => execSd_keeps hs
  | .beq .. => execBeq_keeps hs
  | .bne .. => execBne_keeps hs
  | .blt .. => execBlt_keeps hs
  | .bge .. => execBge_keeps hs
  | .bltu .. => execBltu_keeps hs
  | .bgeu .. => execBgeu_keeps hs
  | .jal .. => execJal_keeps hs
  | .jalr .. => execJalr_keeps hs
  | .add .. => execAdd_keeps hs
  | .sub .. => execSub_keeps hs
  | .and .. => execAnd_keeps hs
  | .or .. => execOr_keeps hs
  | .xor .. => execXor_keeps hs
  | .sll .. => execSll_keeps hs
  | .srl .. => execSrl_keeps hs
  | .sra .. => execSra_keeps hs
  | .slt .. => execSlt_keeps hs
  | .sltu .. => execSltu_keeps hs
  | .mul .. => execMul_keeps hs
  | .mulhu .. => execMulhu_keeps hs
  | .mulh .. => execMulh_keeps hs
  | .strm .. => execStrm_keeps hs
  | .swait .. => execSwait_keeps hs
  | .sigrd .. => execSigrd_keeps hs
  | .sigadd .. => execSigadd_keeps hs
  | .sigwait .. => execSigwait_keeps hs
  | .sigmon .. => execSigmon_keeps hs
  | .mwait .. => execMwait_keeps hs
  | .fence .. => execFence_keeps hs
  | .bndry .. => execBndry_keeps hs
  | .endB .. => execEndB_keeps hs
  | .bcnt .. => execBcnt_keeps hs
  | .featq .. => execFeatq_keeps hs
  | .csrr .. => execCsrr_keeps hs
  | .illegalInstruction .. => execIllegalInstruction_keeps hs
  | .waitEnds .. => execWaitEnds_keeps hs
  | .scale .. => execScale_keeps hs
  | .sum .. => execSum_keeps hs
  | .sumsp .. => execSumsp_keeps hs
  | .norm .. => execNorm_keeps hs
  | .rowsum .. => execRowsum_keeps hs
  | .colsum .. => execColsum_keeps hs
  | .max .. => execMax_keeps hs
  | .min .. => execMin_keeps hs
  | .update .. => execUpdate_keeps hs
  | .replay .. => execReplay_keeps hs
  | .convert .. => execConvert_keeps hs
  | .finish .. => execFinish_keeps hs
  | .zfill .. => execZfill_keeps hs
  | .gather .. => execGather_keeps hs
  | .scatter .. => execScatter_keeps hs
  | .permute .. => execPermute_keeps hs
  | .strided .. => execStrided_keeps hs
  | .select .. => execSelect_keeps hs
  | .topk .. => execTopk_keeps hs
  | .sort .. => execSort_keeps hs
  | .merge .. => execMerge_keeps hs
  | .matvec .. => execMatvec_keeps hs
  | .outer .. => execOuter_keeps hs
  | .digestPkt .. => execDigestPkt_keeps hs
  | .digestTile .. => execDigestTile_keeps hs
  | .streamEnd .. => execStreamEnd_keeps hs
  | .tileRecomputation .. => execTileRecomputation_keeps hs
  | .retirementHandover .. => execRetirementHandover_keeps hs
  | .canaryCapture .. => execCanaryCapture_keeps hs
  | .marginLower .. => execMarginLower_keeps hs
  | .bandChange .. => execBandChange_keeps hs
  | .slowMarkSend .. => execSlowMarkSend_keeps hs
  | .slowMark .. => execSlowMark_keeps hs
  | .slowMarkExpiry .. => execSlowMarkExpiry_keeps hs
  | .timeMarkSend => execTimeMarkSend_keeps hs
  | .timeReq _ _ t1 => execTimeReq_keeps (_t1 := t1) hs
  | .timeResp .. => execTimeResp_keeps hs
  | .slew => execSlew_keeps hs
  | .tbLockTimeout => execTbLockTimeout_keeps hs
  | .refLost => execRefLost_keeps hs
  | .ppsIn => execPpsIn_keeps hs
  | .ppsOut => execPpsOut_keeps hs
  | .write .. => execWrite_keeps hs
  | .reductionPacket .. => execReductionPacket_keeps hs
  | .signal .. => execSignal_keeps hs
  | .read .. => execRead_keeps hs
  | .missReport .. => execMissReport_keeps hs
  | .fetch .. => execFetch_keeps hs
  | .fetchWaitEnds .. => execFetchWaitEnds_keeps hs
  | .reply .. => execReply_keeps hs
  | .ack .. => execAck_keeps hs
  | .nack .. => execNack_keeps hs
  | .custody .. => execCustody_keeps hs
  | .mirror .. => execMirror_keeps hs
  | .transit .. => execTransit_keeps hs
  | .poolRebuild .. => execPoolRebuild_keeps hs
  | .transmit .. => execTransmit_keeps hs
  | .shareInterval .. => execShareInterval_keeps hs
  | .resend .. => execResend_keeps hs
  | .gapNack .. => execGapNack_keeps hs
  | .delivTo .. => execDelivTo_keeps hs
  | .credit .. => execCredit_keeps hs
  | .retryReq .. => execRetryReq_keeps hs
  | .stopMark .. => execStopMark_keeps hs
  | .cutLost .. => execCutLost_keeps hs
  | .hello .. => execHello_keeps hs
  | .helloSend .. => execHelloSend_keeps hs
  | .keepalive .. => execKeepalive_keeps hs
  | .keepaliveSend .. => execKeepaliveSend_keeps hs
  | .peerSilent .. => execPeerSilent_keeps hs
  | .routeAlarm .. => execRouteAlarm_keeps hs
  | .linkTraining .. => execLinkTraining_keeps hs
  | .bringUpRetry .. => execBringUpRetry_keeps hs
  | .laneFail .. => execLaneFail_keeps hs
  | .failThresh .. => execFailThresh_keeps hs
  | .narrow .. => execNarrow_keeps hs
  | .narrowAck .. => execNarrowAck_keeps hs
  | .narrowFailed .. => execNarrowFailed_keeps hs
  | .carriedFrame .. => execCarriedFrame_keeps hs
  | .sample .. => execSample_keeps hs
  | .vote => execVote_keeps hs
  | .commitVote .. => execCommitVote_keeps hs
  | .commitResult .. => execCommitResult_keeps hs
  | .commitTimeout => execCommitTimeout_keeps hs
  | .clipFactorWrite .. => execClipFactorWrite_keeps hs
  | .restoreFromReplica .. => execRestoreFromReplica_keeps hs
  | .heartbeat .. => execHeartbeat_keeps hs
  | .heartbeatSend => execHeartbeatSend_keeps hs
  | .hbMiss .. => execHbMiss_keeps hs
  | .pair .. => execPair_keeps hs
  | .pairTimeout => execPairTimeout_keeps hs
  | .fill .. => execFill_keeps hs
  | .refillSweeper => execRefillSweeper_keeps hs
  | .replicaDigest .. => execReplicaDigest_keeps hs
  | .straggleUs .. => execStraggleUs_keeps hs
  | .patrolScrub .. => execPatrolScrub_keeps hs
  | .stoneScrub .. => execStoneScrub_keeps hs
  | .migrationLineCopy .. => execMigrationLineCopy_keeps hs
  | .sweeper => execSweeper_keeps hs
  | .commitRecord => execCommitRecord_keeps hs
  | .flashProgramFailure .. => execFlashProgramFailure_keeps hs
  | .lifetimeRecordWrite => execLifetimeRecordWrite_keeps hs
  | .ageUpdate .. => execAgeUpdate_keeps hs
  | .calendarAdvance => execCalendarAdvance_keeps hs
  | .powerOnReset .. => execPowerOnReset_keeps hs
  | .pwrEnHigh .. => execPwrEnHigh_keeps hs
  | .pwrEnLow => execPwrEnLow_keeps hs
  | .warmReset => execWarmReset_keeps hs
  | .supplyExcursion .. => execSupplyExcursion_keeps hs
  | .overvoltage .. => execOvervoltage_keeps hs
  | .inputOff .. => execInputOff_keeps hs
  | .powerMeasurement .. => execPowerMeasurement_keeps hs
  | .powerThrottleStep => execPowerThrottleStep_keeps hs
  | .thermalThrottleStep .. => execThermalThrottleStep_keeps hs
  | .thermN .. => execThermN_keeps hs
  | .thermalTrip .. => execThermalTrip_keeps hs
  | .coolantHot .. => execCoolantHot_keeps hs
  | .trstN => execTrstN_keeps hs
  | .extest => execExtest_keeps hs
  | .idcode => execIdcode_keeps hs
  | .samplePreload => execSamplePreload_keeps hs
  | .bypass => execBypass_keeps hs
  | .blockWrite .. => execBlockWrite_keeps hs
  | .blockRead => execBlockRead_keeps hs
  | .traceRingWrite .. => execTraceRingWrite_keeps hs
  | .hangDetect .. => execHangDetect_keeps hs
  | .graphSample => execGraphSample_keeps hs
  | .resetNHigh => execResetNHigh_keeps hs
  | .slewingEnd .. => execSlewingEnd_keeps hs
  | .referencePresent => execReferencePresent_keeps hs
  | .uncorrectableCodeword .. => execUncorrectableCodeword_keeps hs
  | .drerilCodewordUncorr => execDrerilCodewordUncorr_keeps hs
  | .linkControlFlitSend => execLinkControlFlitSend_keeps hs
  | .thermNDeassert .. => execThermNDeassert_keeps hs

/-- The rest of the queue stands in the state's place without a change of memory or of the start snapshots. -/
theorem canonical_dequeue {s : State} (rest : List Instr) : canonical { s with pending := rest } ↔ canonical s := Iff.rfl

/-- A step leads from a state in canonical form to one in canonical form: by the command at the front of the queue, or by the tick. -/
theorem step_keeps_canonical {s t : State} (hs : canonical s) (h : step s = .next t) : canonical t := by
  cases hq : s.pending with
  | nil =>
    rw [step_of_empty hq] at h
    cases h
    exact (tick_keeps (.refl s)).canon hs
  | cons c rest =>
    have hstep : step s = exec c { s with pending := rest } := by rw [step, hq]
    exact ((exec_keeps (.refl _) c).ofNext (hstep.symm.trans h)).canon ((canonical_dequeue rest).2 hs)

end Sys2Proof.Machine

open Sys2Proof Sys2Proof.Machine Sys2Proof.Safety

/-- Settles O17: every command keeps memory and start snapshots in canonical form, and so does the tick of an empty queue. -/
theorem stepsKeepCanonicalMemory : Obligations.StepsKeepCanonicalMemory := fun _ _ => step_keeps_canonical

end

section
/-! SUPPORT. RETIRE by the kind of unit that it names, and the channel whose retirement starts (R149, R325, R341-R344, R398). -/

namespace Sys2Proof.Machine

open Sys2Proof Safety

/-! ### The shared path of RETIRE (R396, R398) -/

/-- LENGTH, FORM and W0 of RETIRE are right (R398). -/
def retireShape (h : HostHdr) (w : List W64) : Bool := h.form == 0 && w.length == 1 && callOf.retireWord (param w 0)

/-- The work of a RETIRE by KIND and NUMBER (R398). -/
def retireWork (h : HostHdr) (w : List W64) (kind n : Nat) (s : State) : Answer :=
  match kind with
  | 0 => s.retireBench h w n
  | 1 => s.retireChan h w n
  | _ => s.retireLane h w n

/-- Check 5 asks for the shape of R398's table. -/
theorem retireShape_eq (h : HostHdr) (w : List W64) :
    (h.form == 0 && w.length == 1 && bits (param w 0) 2 14 == 0 && decide (param w 0 < 2 ^ 25) && decide (bits (param w 0) 0 2 < 3)) =
      retireShape h w := by
  rw [Bool.eq_iff_iff]
  simp only [retireShape, callOf.retireWord, bits, pow_zero, Nat.div_one, Bool.and_eq_true, beq_iff_eq, decide_eq_true_eq]
  tauto

/-- RETIRE is a mailbox command whose work goes by KIND and NUMBER. -/
theorem State.retire_eq (s : State) (h : HostHdr) (w : List W64) : s.retire h w =
    s.mailbox h w 0x48 .any true true (retireShape h w) (retireWork h w (param w 0 % 4) (param w 0 / 2 ^ 16 % 2 ^ 9)) := by
  have hkind : param w 0 % 4 = bits (param w 0) 0 2 := by simp [bits]
  rw [← retireShape_eq, hkind]
  rfl

theorem number_of_retireShape {h : HostHdr} {w : List W64} (hs : retireShape h w = true) : param w 0 / 2 ^ 16 < 2 ^ 9 := by
  simp only [retireShape, callOf.retireWord, Bool.and_eq_true, decide_eq_true_eq] at hs
  omega

/-- An admitted RETIRE does the work of its KIND on its NUMBER, which nine bits hold. -/
theorem exec_retire_of_admitted {c : Instr} {s : State} (ha : admitted c s) {h : HostHdr} {w : List W64}
    (hc : callOf c = some ⟨h, w, 0x48, .any, true, true, retireShape h w⟩) (he : exec c s = .next (if s.alive then s.retire h w else s)) :
    exec c s = .next (State.settle 0x48 h.tag.toNat (retireWork h w (param w 0 % 4) (param w 0 / 2 ^ 16) (taken s h w))) := by
  have hnum := Nat.mod_eq_of_lt (number_of_retireShape (shape_of_admitted ha hc))
  have hexec := exec_of_admitted ha hc (he.trans (by rw [State.retire_eq]))
  rwa [hnum] at hexec

/-! ### What a RETIRE answers (R149, R325, R341, R342) -/

/-- RETIRE becomes a long command (R397). -/
def State.retiring (s : State) (h : HostHdr) (w : List W64) (arg : Nat) : State :=
  State.set { s with longs := s.longs ++ [⟨0x48, h, w, none, [], arg⟩] } Cmd.longActive (s.longs.length + 1)

theorem State.retireLong_eq (s : State) (h : HostHdr) (w : List W64) (kind n : Nat) (f : State → State) :
    s.retireLong h w kind n f = .later (f (s.retiring h w (512 * kind + n))).settleRetires := rfl

theorem State.retireBench_beyond {s : State} {h : HostHdr} {w : List W64} {n : Nat} (hn : 40 ≤ n) :
    s.retireBench h w n = .err s stBadParam := if_pos hn

theorem State.retireBench_done {s : State} {h : HostHdr} {w : List W64} {n : Nat} (hn : n < 40)
    (hd : s.get (Ben.state n) = 3 ∨ s.get (Ben.state n) = 5) : s.retireBench h w n = .err s stDone := by
  rw [State.retireBench, if_neg (by omega), if_pos hd]

theorem State.retireBench_starts {s : State} {h : HostHdr} {w : List W64} {n : Nat} (hn : n < 40) (hs : s.get (Ben.state n) ≤ 2) :
    s.retireBench h w n = .later ((s.retiring h w n).retireStart n 3).settleRetires := by
  rw [State.retireBench, if_neg (by omega), if_neg (by omega), if_neg (by omega), State.retireLong_eq, Nat.mul_zero, Nat.zero_add]

theorem State.retireChan_beyond {s : State} {h : HostHdr} {w : List W64} {n : Nat} (hn : 384 ≤ n) :
    s.retireChan h w n = .err s stBadParam := if_pos hn

theorem State.retireChan_done {s : State} {h : HostHdr} {w : List W64} {n : Nat} (hn : n < 384)
    (hd : s.get (Mc.retCh (n / 48)) = n % 48) : s.retireChan h w n = .err s stDone := by
  rw [State.retireChan, if_neg (by omega), if_pos hd]

theorem State.retireChan_starts {s : State} {h : HostHdr} {w : List W64} {n : Nat} (hn : n < 384) (hfree : s.get (Mc.retCh (n / 48)) = 63)
    (hen : s.flag (Mc.spareEn (n / 48)) = true) :
    s.retireChan h w n = .later ((s.retiring h w (512 + n)).retireChannel n 3).settleRetires := by
  rw [State.retireChan, if_neg (by omega), if_neg (by omega), if_neg (by simp [hfree, hen]), State.retireLong_eq, Nat.mul_one]

theorem State.retireLane_done {s : State} {h : HostHdr} {w : List W64} {n : Nat} (hd : s.flag (Oct.laneRetired (n / 8) (n % 8)) = true) :
    s.retireLane h w n = .err s stDone := if_pos hd

theorem State.retireLane_starts {s : State} {h : HostHdr} {w : List W64} {n : Nat}
    (hl : s.flag (Oct.laneRetired (n / 8) (n % 8)) = false) :
    s.retireLane h w n =
      .later (((s.retiring h w (1024 + n)).set (Oct.laneRetired (n / 8) (n % 8)) 1).laneFails n).settleRetires := by
  rw [State.retireLane, if_neg (by simp [hl]), State.retireLong_eq]

/-! ### The registers that a RETIRE reads -/

/-- A register of the dies lies above the hub's (R407). -/
theorem aboveMailboxes_of_die {f : Field} (h : 0x3F0001000000 ≤ f.addr) : aboveMailboxes f := by
  simp only [aboveMailboxes, Field.key]
  omega

/-- A long command that begins leaves the registers of the dies. -/
theorem State.retiring_get_die (s : State) (h : HostHdr) (w : List W64) (arg : Nat) {f : Field} (hf : 0x3F0001000000 ≤ f.addr) :
    (s.retiring h w arg).get f = s.get f := by
  refine (State.get_set_ne _ _ ?_).trans rfl
  simp only [Field.key, Cmd.longActive]
  omega

theorem Ben.state_onDie (n : Nat) : 0x3F0001000000 ≤ (Ben.state n).addr := by
  simp only [Ben.state, benchBase, forgeBase]
  omega

theorem Mc.retCh_onDie (n : Nat) : 0x3F0001000000 ≤ (Mc.retCh n).addr := by
  simp only [Mc.retCh, forgeBase]
  omega

theorem Mc.spareEn_onDie (n : Nat) : 0x3F0001000000 ≤ (Mc.spareEn n).addr := by
  simp only [Mc.spareEn, forgeBase]
  omega

theorem Oct.laneRetired_onDie (j l : Nat) : 0x3F0001000000 ≤ (Oct.laneRetired j l).addr := by
  simp only [Oct.laneRetired, octBase, portDieBase]
  omega

/-! ### The start of a channel's retirement (R344 order 1) -/

/-- The registers that the start of a channel's retirement writes. -/
def retireChannelWrites (c : Nat) : List (Field × Nat) :=
  [(Mc.retCh (c / 48), c % 48), (Mc.retired (c / 48) (c % 48), 1), (Mc.migrating (c / 48), 1), (Mc.migPtr (c / 48), 0)]

theorem retireChannelWrites_nodup (c : Nat) : ((retireChannelWrites c).map (·.1.key)).Nodup := by
  simp only [retireChannelWrites, Field.key, Mc.retCh, Mc.retired, Mc.migrating, Mc.migPtr, List.map_cons, List.map_nil, List.nodup_cons,
    List.mem_cons, List.not_mem_nil, or_false, not_false_eq_true, List.nodup_nil, and_true]
  omega

/-- With the die's spare free and enabled the channel's retirement starts: it is logged and migrates. -/
theorem State.retireChannel_starts {s : State} {c cause : Nat} (hfree : s.get (Mc.retCh (c / 48)) = 63)
    (hen : s.flag (Mc.spareEn (c / 48)) = true) :
    s.retireChannel c cause = (s.logOpen (.chan c) 0 [(cause, 4)]).setAll (retireChannelWrites c) := by
  rw [State.retireChannel, if_neg (by omega), if_pos ⟨hfree, hen⟩]
  rfl

theorem State.retireChannel_migrates {s : State} {c cause : Nat} (hfree : s.get (Mc.retCh (c / 48)) = 63)
    (hen : s.flag (Mc.spareEn (c / 48)) = true) :
    (s.retireChannel c cause).get (Mc.retCh (c / 48)) = c % 48 ∧ (s.retireChannel c cause).flag (Mc.migrating (c / 48)) = true := by
  have hwrites := retireChannelWrites_nodup c
  have hnum : c % 48 % 2 ^ 6 = c % 48 := Nat.mod_eq_of_lt (by omega)
  rw [State.retireChannel_starts hfree hen]
  exact ⟨(State.get_setAll_mem hwrites (by simp [retireChannelWrites])).trans hnum,
    congrArg (· != 0) (State.get_setAll_mem (v := 1) hwrites (by simp [retireChannelWrites]))⟩

end Sys2Proof.Machine

open Sys2Proof Sys2Proof.Machine Sys2Proof.Safety

/-- Settles O35: each KIND by the branches of its work, on registers of the dies that a mailbox's taking of the command leaves. -/
theorem retireNamesAUnit : Obligations.RetireNamesAUnit := by
  intro s h w t n
  have hget : ∀ {f : Field}, 0x3F0001000000 ≤ f.addr → t.get f = s.get f := fun hf => taken_get_above s h w (aboveMailboxes_of_die hf)
  have hflag : ∀ {f : Field}, 0x3F0001000000 ≤ f.addr → t.flag f = s.flag f := fun hf => congrArg (· != 0) (hget hf)
  have hstate := hget (Ben.state_onDie n)
  have hretCh := hget (Mc.retCh_onDie (n / 48))
  have hspare := hflag (Mc.spareEn_onDie (n / 48))
  have hlane := hflag (Oct.laneRetired_onDie (n / 8) (n % 8))
  refine ⟨fun ha hk => ?bench, fun ha hk => ?channel, fun ha hk => ?lane⟩
  case bench =>
    have hexec : exec (.retireBench h w) s = .next (State.settle 0x48 h.tag.toNat (t.retireBench h w n)) := by
      rw [exec_retire_of_admitted ha rfl rfl, hk]
      rfl
    refine ⟨fun hn => ?_, fun hn hd => ?_, fun hn hs => ⟨t.retiring h w n, rfl, ?_⟩⟩
    · rw [hexec, State.retireBench_beyond hn, next_settle_err]
    · rw [hexec, State.retireBench_done hn (hstate ▸ hd), next_settle_err]
    · rw [hexec, State.retireBench_starts hn (hstate.trans_le hs)]
      rfl
  case channel =>
    have hexec : exec (.retireChannel h w) s = .next (State.settle 0x48 h.tag.toNat (t.retireChan h w n)) := by
      rw [exec_retire_of_admitted ha rfl rfl, hk]
      rfl
    refine ⟨fun hn => ?_, fun hn hd => ?_, fun hn hfree hen => ⟨t.retiring h w (512 + n), rfl, ?_, ?_⟩⟩
    · rw [hexec, State.retireChan_beyond hn, next_settle_err]
    · rw [hexec, State.retireChan_done hn (hretCh.trans hd), next_settle_err]
    · rw [hexec, State.retireChan_starts hn (hretCh.trans hfree) (hspare.trans hen)]
      rfl
    · exact State.retireChannel_migrates ((State.retiring_get_die t h w _ (Mc.retCh_onDie _)).trans (hretCh.trans hfree))
        ((congrArg (· != 0) (State.retiring_get_die t h w _ (Mc.spareEn_onDie _))).trans (hspare.trans hen))
  case lane =>
    have hexec : exec (.retireLane h w) s = .next (State.settle 0x48 h.tag.toNat (t.retireLane h w n)) := by
      rw [exec_retire_of_admitted ha rfl rfl, hk]
      rfl
    refine ⟨fun hd => ?_, fun hl => ⟨t.retiring h w (1024 + n), rfl, ?_⟩⟩
    · rw [hexec, State.retireLane_done (hlane.trans hd), next_settle_err]
    · rw [hexec, State.retireLane_starts (hlane.trans hl)]
      rfl

end

section
/-! SUPPORT. BCNT's two results, and the access violation that halts a running bench (R130, R161, R162, R164). -/

namespace Sys2Proof.Machine

open Sys2Proof Safety

/-! ### BCNT (R161, R164) -/

/-- The odd register of a pair is neither g0 nor the even one. -/
theorem odd_of_pair {rd : BitVec 5} (he : rd.toNat % 2 = 0) : rd + 1 ≠ 0 ∧ rd ≠ rd + 1 := by
  constructor <;> bv_omega

/-- Two results go into the registers of a pair, and the instruction retires; g0 takes none (R153). -/
theorem State.pair_results (s : State) (b : Nat) {rd : BitVec 5} (he : rd.toNat % 2 = 0) (lo hi : W32) :
    let t := ((s.setG b rd lo).setG b (rd + 1) hi).nextPc b
    (rd ≠ 0 → t.g b rd = lo) ∧ t.g b (rd + 1) = hi ∧ retired s t b (s.pc b + 4) ∧
      onlyFields s t (grFields b rd ++ grFields b (rd + 1) ++ retireFields b) := by
  intro t
  obtain ⟨hodd, hne⟩ := odd_of_pair he
  have hg : ∀ r, t.g b r = ((s.setG b rd lo).setG b (rd + 1) hi).g b r := State.g_goto _ b _
  have hpc : ((s.setG b rd lo).setG b (rd + 1) hi).pc b = s.pc b := by rw [State.pc_setG, State.pc_setG]
  refine ⟨fun h0 => ?_, ?_, ?_, ?_⟩
  · rw [hg, State.g_setG, if_neg fun h => hne h.1, State.g_setG, if_pos ⟨rfl, h0⟩]
  · rw [hg, State.g_setG, if_pos ⟨rfl, hodd⟩]
  · exact hpc ▸ Safety.retired_of (State.goto_retired _ b _) (by rw [State.instret_setG, State.instret_setG])
  · refine Safety.onlyFields_trans (Safety.onlyFields_mono (Safety.onlyFields_trans
      (Safety.onlyFields_mono (State.setG_only s b rd lo) fun f hf => List.mem_append_left _ hf)
      (Safety.onlyFields_mono (State.setG_only _ b (rd + 1) hi) fun f hf => List.mem_append_right _ hf)) fun f hf => List.mem_append_left _ hf)
      (Safety.onlyFields_mono (State.goto_only _ b _) fun f hf => List.mem_append_right _ hf)

/-- A tensor whose first n bytes BCNT counts: in memory or stone, aligned, long enough, and with no error in descriptor or bytes (R164). -/
structure Countable (s : State) (b hd n : Nat) (d : Desc) : Prop where
  readable : s.readErr (descAddr b hd) 64 = none
  desc : s.desc b hd = some d
  space : d.space ≤ 1
  aligned : d.base % 32 = 0
  size : n ≤ d.size
  memory : s.ramOk d.base n = true
  sound : s.readErr d.base n = none

/-- BCNT of such a tensor puts its two counts into a pair of registers. -/
theorem State.bcnt_counts {s : State} {b : Nat} {rd ra : BitVec 5} {hd : BitVec 10} {d : Desc} (he : rd.toNat % 2 = 0)
    (hc : Countable s b hd.toNat (s.g b ra).toNat d) :
    s.bcnt b rd ra hd =
      ((s.setG b rd (BitVec.ofNat 32 ((s.rdBytes d.base (s.g b ra).toNat).countP fun x => x != 0 && x != 0xFF))).setG b (rd + 1)
        (BitVec.ofNat 32 ((s.rdBytes d.base (s.g b ra).toNat).countP (· == 0xFF)))).nextPc b := by
  obtain ⟨hreadable, hdesc, hspace, haligned, hsize, hmemory, hsound⟩ := hc
  have heven : (!evenReg rd) = false := by simp [evenReg, he]
  have hfit : ¬ (1 < d.space ∨ d.base % 32 ≠ 0 ∨ d.size < (s.g b ra).toNat ∨
      ((s.g b ra).toNat ≠ 0 ∧ ¬ s.ramOk d.base (s.g b ra).toNat)) := by
    simp [hspace, haligned, hsize, hmemory]
  simp only [State.bcnt, heven, hreadable, hdesc, hfit, hsound, ite_self, if_false, Bool.false_eq_true, List.countP_eq_length_filter]

/-! ### A log entry beside the dies' registers and the Compositors -/

/-- The error counters of the units lie in the observation range (R437). -/
theorem inDies_of_errors {u : LogUnit} {g : Field} (h : u.errors = some g) : inDies g.key = false := by
  cases u <;> simp only [LogUnit.errors, reduceCtorEq, Option.some.injEq] at h <;> subst h <;> refine decide_eq_false ?_ <;>
    simp only [Field.key, Aoc.benchErrors, Aoc.portErrors, Aoc.chanErrors, Aoc.ringErrors] <;> omega

/-- A log entry writes registers of the observation range alone (R436, R437, R441). -/
theorem inDies_of_mem_logFields {cls : Nat} {u : LogUnit} {g : Field} (h : g ∈ logFields cls u) : inDies g.key = false := by
  simp only [logFields, List.mem_append, Option.mem_toList] at h
  obtain (h | h) | h := h
  · simp only [List.mem_cons, List.not_mem_nil, or_false] at h
    obtain rfl | rfl | rfl | rfl | rfl := h
    case inr.inr.inr.inr =>
      refine decide_eq_false ?_
      simp only [Field.key, Elog.classCount]
      omega
    all_goals decide
  · exact inDies_of_errors h
  · exact (by decide : ∀ g ∈ traceFields, inDies g.key = false) g h

theorem State.logE_get_die (s : State) (cls : Nat) (u : LogUnit) (a : Nat) (l : List (Nat × Nat)) {f : Field} (hf : inDies f.key = true) :
    (s.logE cls u a l).get f = s.get f :=
  State.logE_get s cls u a l fun _ hg => (key_ne_of_inDies (inDies_of_mem_logFields hg) hf).symm

theorem State.traceRing_comps (s : State) (rec : Nat) : (s.traceRing rec).comps = s.comps := by
  unfold State.traceRing
  dsimp only
  split
  · rfl
  · split <;> rfl

theorem State.traceDrain_comps (s : State) (r : Nat) : (s.traceDrain r).comps = s.comps := by
  unfold State.traceDrain
  split
  · rfl
  · exact State.traceRing_comps _ _

theorem State.trace_comps (s : State) (r kind : Nat) (l : List (Nat × Nat)) : (s.trace r kind l).comps = s.comps := by
  unfold State.trace
  split
  · dsimp only
    split
    · rfl
    · split
      · exact State.traceDrain_comps s r
      · rfl
  · rfl

theorem State.logCount_comps (s : State) (cls : Nat) : (s.logCount cls).comps = s.comps := by
  unfold State.logCount
  dsimp only
  split <;> simp only [State.bump_comps, State.set_comps]

/-- A log entry leaves every Compositor as it is. -/
theorem State.logE_comps (s : State) (cls : Nat) (u : LogUnit) (a : Nat) (l : List (Nat × Nat)) :
    (s.logE cls u a l).comps = s.comps := by
  unfold State.logE State.log1
  dsimp only
  have hcount : ∀ x, (State.logCount { s with log := x } cls).comps = s.comps := fun x => State.logCount_comps _ cls
  cases u.errors with
  | none => cases u.region with
    | none => exact hcount _
    | some r => exact (State.trace_comps _ _ _ _).trans (hcount _)
  | some g => cases u.region with
    | none => exact (State.bump_comps _ _ _).trans (hcount _)
    | some r => exact (State.trace_comps _ _ _ _).trans ((State.bump_comps _ _ _).trans (hcount _))

/-! ### The Compositor's access violation (R130, R162) -/

/-- The registers that the halt of a running bench writes (R130). -/
def haltWrites (b : Nat) : List (Field × Nat) := [(Ben.state b, 2), (Rgn.state b, 1), (Stn.state b 15, 3)]

/-- The registers of the Compositor's station that a violation at address a writes (R144). -/
def violationWrites (b a : Nat) : List (Field × Nat) := [(Stn.faultAddr b 15, a), (Stn.state b 15, 3)]

/-- The registers that keep an illegal instruction (R162). -/
def illegalWrites (s : State) (b : Nat) (word : W32) : List (Field × Nat) := [(Cmp.badWord b, word.toNat), (Cmp.badPc b, s.pc b)]

theorem haltWrites_nodup {b : Nat} (hb : b < 40) : ((haltWrites b).map (·.1.key)).Nodup := by
  simp only [haltWrites, Field.key, Ben.state, Rgn.state, Stn.state, rgnBase_bench hb, stnBase, if_true, List.map_cons, List.map_nil,
    List.nodup_cons, List.mem_cons, List.not_mem_nil, or_false, not_false_eq_true, List.nodup_nil, and_true]
  omega

theorem illegalWrites_nodup (s : State) (b : Nat) (word : W32) : ((illegalWrites s b word).map (·.1.key)).Nodup := by
  simp only [illegalWrites, Field.key, Cmp.badWord, Cmp.badPc, List.map_cons, List.map_nil, List.nodup_cons, List.mem_singleton,
    List.not_mem_nil, not_false_eq_true, List.nodup_nil, and_true]
  omega

/-- Neither BAD_WORD and BAD_PC nor the bench's STATE is another register that the violation writes. -/
theorem key_ne_violationWrites {b : Nat} {f : Field} (hf : f ∈ [Cmp.badWord b, Cmp.badPc b, Ben.state b]) (a : Nat) :
    ∀ e ∈ violationWrites b a, f.key ≠ e.1.key := by
  simp only [List.mem_cons, List.not_mem_nil, or_false] at hf
  simp only [violationWrites, List.forall_mem_cons, List.not_mem_nil, false_imp_iff, implies_true, and_true]
  obtain rfl | rfl | rfl := hf <;>
    simp only [Field.key, Cmp.badWord, Cmp.badPc, Ben.state, Stn.faultAddr, Stn.state, stnBase, if_true] <;> omega

theorem key_ne_haltWrites {b : Nat} (hb : b < 40) {f : Field} (hf : f ∈ [Cmp.badWord b, Cmp.badPc b]) :
    ∀ e ∈ haltWrites b, f.key ≠ e.1.key := by
  simp only [List.mem_cons, List.not_mem_nil, or_false] at hf
  simp only [haltWrites, List.forall_mem_cons, List.not_mem_nil, false_imp_iff, implies_true, and_true]
  obtain rfl | rfl := hf <;>
    simp only [Field.key, Cmp.badWord, Cmp.badPc, Ben.state, Rgn.state, Stn.state, rgnBase_bench hb, stnBase, if_true] <;> omega

/-- BAD_WORD, BAD_PC and the bench's STATE lie in the dies. -/
theorem inDies_of_benchRegister {b : Nat} (hb : b < 40) {f : Field} (hf : f ∈ [Cmp.badWord b, Cmp.badPc b, Ben.state b]) :
    inDies f.key = true := by
  simp only [List.mem_cons, List.not_mem_nil, or_false] at hf
  obtain rfl | rfl | rfl := hf <;> refine inDies_of_bench hb ?_ ?_ ?_ <;>
    simp only [Cmp.badWord, Cmp.badPc, Ben.state, stnBase, if_true] <;> omega

theorem State.waitDone_of_none {s : State} {b : Nat} (h : (s.comp b).waiting = none) : s.waitDone b = s := by
  rw [State.waitDone, h]

/-- A violation of a running bench whose Compositor waits for nothing: the entry, FAULT_ADDR, and the halt. -/
theorem State.cmpViolation_of_running {s : State} {b : Nat} (hb : b < 40) (hrun : s.get (Ben.state b) = 1)
    (hwait : (s.comp b).waiting = none) (a : Nat) (l : List (Nat × Nat)) :
    s.cmpViolation b a l = ((s.logE clAccess (.bench b) a ((15, 4) :: l)).setAll (violationWrites b a)).setAll (haltWrites b) := by
  have hcomp : (((s.logE clAccess (.bench b) a ((15, 4) :: l)).set (Stn.faultAddr b 15) a).comp b).waiting = none := by
    rwa [State.comp, State.set_comps, State.logE_comps]
  have hstate : ((s.logE clAccess (.bench b) a ((15, 4) :: l)).setAll (violationWrites b a)).get (Ben.state b) = 1 :=
    (State.get_setAll_ne _ _ (key_ne_violationWrites (by simp) a)).trans
      ((State.logE_get_die _ _ _ _ _ (inDies_of_benchRegister hb (by simp))).trans hrun)
  rw [State.cmpViolation, State.cmpHalt, State.waitDone_of_none hcomp]
  exact if_pos hstate

/-- An executing Compositor's bench runs, and no instruction of it waits (R155). -/
theorem State.executes_iff (s : State) (b : Nat) :
    s.executes b = true ↔ s.benchRuns b = true ∧ (s.comp b).waiting = none := by
  simp only [State.executes, Bool.and_eq_true, beq_iff_eq]

theorem State.state_of_benchRuns {s : State} {b : Nat} (h : s.benchRuns b = true) : s.get (Ben.state b) = 1 := by
  simp only [State.benchRuns, Bool.and_eq_true, beq_iff_eq] at h
  exact h.2

/-- The state in which an illegal instruction is kept and logged, before its bench halts. -/
def State.illegalLogged (s : State) (b : Nat) (word : W32) : State :=
  (s.setAll (illegalWrites s b word)).logE clAccess (.bench b) (s.fetchAddr b) [(15, 4)]

theorem State.illegal_of_executes {s : State} {b : Nat} (hb : b < 40) (h : s.executes b = true) (word : W32) :
    s.illegal b word = ((s.illegalLogged b word).setAll (violationWrites b (s.fetchAddr b))).setAll (haltWrites b) := by
  obtain ⟨hruns, hwait⟩ := (s.executes_iff b).1 h
  have hstate : (s.setAll (illegalWrites s b word)).get (Ben.state b) = 1 := by
    refine (State.get_setAll_ne _ _ ?_).trans (State.state_of_benchRuns hruns)
    simp only [illegalWrites, Field.key, Cmp.badWord, Cmp.badPc, Ben.state, stnBase, if_true, List.forall_mem_cons, List.not_mem_nil,
      false_imp_iff, implies_true, and_true]
    omega
  exact State.cmpViolation_of_running hb hstate hwait (s.fetchAddr b) []

/-- An illegal instruction is kept with its address. -/
theorem State.illegal_keeps_word {s : State} {b : Nat} (hb : b < 40) (h : s.executes b = true) (word : W32) :
    (s.illegal b word).get (Cmp.badWord b) = word.toNat ∧ (s.illegal b word).get (Cmp.badPc b) = s.pc b % 2 ^ 15 := by
  have hget : ∀ f ∈ [Cmp.badWord b, Cmp.badPc b], ∀ v, (f, v) ∈ illegalWrites s b word → (s.illegal b word).get f = v % 2 ^ f.width := by
    intro f hf v hv
    have hf' : f ∈ [Cmp.badWord b, Cmp.badPc b, Ben.state b] := List.mem_append_left [Ben.state b] hf
    rw [State.illegal_of_executes hb h, State.get_setAll_ne _ _ (key_ne_haltWrites hb hf),
      State.get_setAll_ne _ _ (key_ne_violationWrites hf' _), State.illegalLogged, State.logE_get_die _ _ _ _ _ (inDies_of_benchRegister hb hf')]
    exact State.get_setAll_mem (illegalWrites_nodup s b word) hv
  exact ⟨(hget _ (by simp) _ (by simp [illegalWrites])).trans (Nat.mod_eq_of_lt word.isLt), hget _ (by simp) _ (by simp [illegalWrites])⟩

/-- An illegal instruction halts its bench, whose Compositor is halted (R130). -/
theorem State.illegal_halts {s : State} {b : Nat} (hb : b < 40) (h : s.executes b = true) (word : W32) :
    (s.illegal b word).get (Ben.state b) = 2 ∧ (s.illegal b word).get (Stn.state b 15) = 3 := by
  rw [State.illegal_of_executes hb h]
  exact ⟨State.get_setAll_mem (v := 2) (haltWrites_nodup hb) (by simp [haltWrites]),
    State.get_setAll_mem (v := 3) (haltWrites_nodup hb) (by simp [haltWrites])⟩

theorem Tab.find_put_same {α : Type} (t : Tab α) (k : Nat) (v : α) : Tab.find (Tab.put t k v) k = some v := by
  induction t with
  | nil => simp [Tab.put, Tab.find]
  | cons c t ih =>
    simp only [Tab.put]
    split
    · simp [Tab.find]
    · split
      · simp [Tab.find]
      · simp [Tab.find, *]

/-- A log entry stands in the log (R432). -/
theorem State.logE_find (s : State) (cls : Nat) (u : LogUnit) (a : Nat) (l : List (Nat × Nat)) :
    ∃ n x, Tab.find (s.logE cls u a l).log n = some x ∧ x.cls = cls ∧ x.unit = u.num := by
  refine ⟨_, _, (congrArg (Tab.find · (s.get Elog.next % 65536)) (State.log1_entry ..)).trans (Tab.find_put_same ..), rfl, rfl⟩

/-- An illegal instruction logs ACCESS_VIOLATION of its bench (R162). -/
theorem State.illegal_logs {s : State} {b : Nat} (hb : b < 40) (h : s.executes b = true) (word : W32) :
    ∃ n x, Tab.find (s.illegal b word).log n = some x ∧ x.cls = clAccess ∧ x.unit = b := by
  have hlog : (s.illegal b word).log = (s.illegalLogged b word).log := by
    rw [State.illegal_of_executes hb h, State.setAll_part State.log fun _ _ _ => rfl, State.setAll_part State.log fun _ _ _ => rfl]
  rw [hlog]
  exact State.logE_find _ clAccess (.bench b) _ _

end Sys2Proof.Machine

open Sys2Proof Sys2Proof.Machine Sys2Proof.Safety

/-- Settles O10: BCNT by its two results in a pair of registers; an illegal word by what the fetch finds, and by the violation that it raises. -/
theorem byteCountsAndIllegalInstructions : Obligations.ByteCountsAndIllegalInstructions := by
  intro s b rd ra hd word d hready hb
  have hfetch : ∀ c, exec (.illegalInstruction b word c) s = execIllegalInstruction b word s c := fun _ => rfl
  refine ⟨fun he hread hdesc hspace haligned _ hsize hmemory hsound => ?_, fun e => ?_, fun hl => ?_, fun e hl => ?_, fun c hl hc => ?_⟩
  · have hexec : exec (.bcnt b rd ra hd) s = .next (s.bcnt b rd ra hd) := congrArg _ (State.instr_of_ready _ hready)
    rw [hexec, State.bcnt_counts he ⟨hread, hdesc, hspace, haligned, hsize, hmemory, hsound⟩]
    exact ⟨_, rfl, s.pair_results b he _ _⟩
  · rw [hfetch, execIllegalInstruction, State.instr_of_ready _ hready]
  · rw [hfetch, execIllegalInstruction, State.instr_of_ready _ hready]
    simp [hl]
  · rw [hfetch, execIllegalInstruction, State.instr_of_ready _ hready]
    simp [hl]
  · have hexec : exec (.illegalInstruction b word c) s = .next (s.illegal b word) := by
      rw [hfetch, execIllegalInstruction, State.instr_of_ready _ hready]
      obtain rfl | rfl := hc <;> simp [hl]
    obtain ⟨hexecutes, -⟩ := hready
    obtain ⟨hword, hpc⟩ := State.illegal_keeps_word hb hexecutes word
    obtain ⟨hbench, hcmp⟩ := State.illegal_halts hb hexecutes word
    exact ⟨_, hexec, hword, hpc, hbench, hcmp, State.illegal_logs hb hexecutes word⟩

end

section
/-! SUPPORT. Results, branches and jumps of the Compositor, and its local addresses (R153, R158, R160-R162). -/

namespace Sys2Proof.Machine

open Sys2Proof Safety

/-! ### Results -/

/-- g[rd] written and the program gone on at an address: what both do and leave (R153, R161). -/
theorem State.setG_goto (s : State) (b : Nat) (rd : BitVec 5) (v : W32) (a : Nat) :
    (∀ r, ((s.setG b rd v).goto b a).g b r = if r = rd ∧ rd ≠ 0 then v else s.g b r) ∧ retired s ((s.setG b rd v).goto b a) b a ∧
      onlyFields s ((s.setG b rd v).goto b a) (grFields b rd ++ retireFields b) :=
  ⟨fun r => by rw [State.g_goto, State.g_setG], Safety.retired_of (State.goto_retired _ b a) (State.instret_setG s b rd v),
    Safety.onlyFields_trans (Safety.onlyFields_mono (State.setG_only s b rd v) fun _ hf => List.mem_append_left _ hf)
      (Safety.onlyFields_mono (State.goto_only _ b a) fun _ hf => List.mem_append_right _ hf)⟩

/-- Registers that retirement does not write, written by an instruction that goes on at an address. -/
theorem State.goto_after_only {s u : State} {b : Nat} {l : List Field} (h : onlyFields s u l)
    (hl : ∀ f ∈ retireFields b, ∀ g ∈ l, f.key ≠ g.key) (a : Nat) :
    (∀ f ∈ l, (u.goto b a).get f = u.get f) ∧ retired s (u.goto b a) b a ∧ onlyFields s (u.goto b a) (l ++ retireFields b) :=
  ⟨fun f hf => (u.goto_only b a).2 f fun g hg => (hl g hg f hf).symm,
    Safety.retired_of (u.goto_retired b a) (h.2 _ (hl _ (by simp [retireFields]))),
    Safety.onlyFields_trans (Safety.onlyFields_mono h fun _ hf => List.mem_append_left _ hf)
      (Safety.onlyFields_mono (u.goto_only b a) fun _ hf => List.mem_append_right _ hf)⟩

/-- Where the Compositor takes an instruction, the command leads to what its effect leads to. -/
theorem exec_of_ready {s t : State} {b : Nat} {f : State → State} (hr : ready s b) (h : f s = t) :
    (.next (s.instr b f) : Host.Outcome State Fault Refusal) = .next t :=
  congrArg Host.Outcome.next ((State.instr_of_ready f hr).trans h)

/-- A Compositor that takes an instruction waits in none (R155). -/
theorem waiting_of_ready {s : State} {b : Nat} (hr : ready s b) : (s.comp b).waiting = none := by
  obtain ⟨hexecutes, -⟩ := hr
  exact ((s.executes_iff b).1 hexecutes).2

/-- A ready Compositor's instruction that gives a result writes it to g[rd]. -/
theorem writesReg_of_ready {s : State} {b : Nat} {rd : BitVec 5} {o : Host.Outcome State Fault Refusal} (h : ready s b) (v : State → W32)
    (ho : o = .next (s.instr b fun t => t.result b rd (v t))) : writesReg s b rd (v s) o := by
  rw [ho, State.instr_of_ready _ h]
  exact s.result_writes b rd (v s)

/-! ### Branches (R160) -/

/-- Where a branch goes on. -/
def State.branchDest (s : State) (b : Nat) (off : BitVec 16) (taken : Bool) : Nat :=
  if taken then (((s.pc b : Int) + 4 * off.toInt) % 2 ^ 15).toNat else s.pc b + 4

theorem State.branch_eq_goto (s : State) (b : Nat) (taken : Bool) (off : BitVec 16) :
    s.branch b taken off = s.goto b (s.branchDest b off taken) := by
  cases taken <;> rfl

/-- A ready Compositor's branch goes to its destination. -/
theorem goesTo_of_branch {s : State} {b : Nat} {off : BitVec 16} {o : Host.Outcome State Fault Refusal} (h : ready s b) (taken : State → Bool)
    (ho : o = .next (s.instr b fun t => t.branch b (taken t) off)) : goesTo s b (s.branchDest b off (taken s)) o := by
  rw [ho, State.instr_of_ready _ h, State.branch_eq_goto]
  exact s.goto_goesTo b _

/-! ### Jumps (R160-R162) -/

theorem exec_jal_of_ready {s : State} {b : Nat} (far : BitVec 26) (h : ready s b) :
    exec (.jal b far) s = .next ((s.setG b 31 (BitVec.ofNat 32 (s.pc b + 4))).goto b (((s.pc b : Int) + 4 * far.toInt) % 2 ^ 15).toNat) :=
  exec_of_ready h rfl

theorem exec_jalr_of_aligned {s : State} {b : Nat} {ra : BitVec 5} {off : BitVec 16} (rd : BitVec 5) (h : ready s b)
    (ha : (s.g b ra + off.signExtend 32).toNat % 4 = 0) :
    exec (.jalr b rd ra off) s = .next ((s.setG b rd (BitVec.ofNat 32 (s.pc b + 4))).goto b (s.g b ra + off.signExtend 32).toNat) :=
  exec_of_ready h (if_neg (not_not.2 ha))

theorem exec_jalr_of_misaligned {s : State} {b : Nat} {ra : BitVec 5} {off : BitVec 16} (rd : BitVec 5) (h : ready s b)
    (ha : (s.g b ra + off.signExtend 32).toNat % 4 ≠ 0) :
    exec (.jalr b rd ra off) s = .next (s.illegal b (encI 0x1F rd ra off.toNat)) :=
  exec_of_ready h (if_pos ha)

/-! ### Local addresses (R158) -/

/-- An aligned access that begins below a boundary ends there at most. -/
theorem aligned_end_le {a n m : Nat} (hn : n = 4 ∨ n = 8) (ha : a % n = 0) (hm : m % 8 = 0) (h : a < m) : a + n ≤ m := by
  obtain rfl | rfl := hn <;> omega

/-- Beyond the queue table, an address outside the bench's window and the shared area faults, aligned or not. -/
theorem State.localAt_beyond (s : State) (b : Nat) {a n : Nat} (hqueue : ¬ a + n ≤ 0x20200)
    (hwindow : ¬ (0x1000000 ≤ a ∧ a + n ≤ 0x1E00000)) (hshared : ¬ (0x2000000 ≤ a ∧ a + n ≤ 0x2A00000)) : s.localAt b a n = .fault := by
  rw [State.localAt, if_neg (by omega : ¬ a + n ≤ 0x10000), if_neg (by omega : ¬ a + n ≤ 0x20000), if_neg hqueue, if_neg hwindow,
    if_neg hshared, ite_self]

end Sys2Proof.Machine

open Sys2Proof Sys2Proof.Machine Sys2Proof.Safety

/-- Settles O1: each form is a result. -/
theorem aluImmediateWritesRd : Obligations.AluImmediateWritesRd := fun _ b _ ra imm sh h =>
  ⟨writesReg_of_ready h (fun t => t.g b ra + imm.signExtend 32) rfl, writesReg_of_ready h (fun t => t.g b ra &&& imm.zeroExtend 32) rfl,
    writesReg_of_ready h (fun t => t.g b ra ||| imm.zeroExtend 32) rfl, writesReg_of_ready h (fun t => t.g b ra ^^^ imm.zeroExtend 32) rfl,
    writesReg_of_ready h (fun t => w1 ((t.g b ra).slt (imm.signExtend 32))) rfl,
    writesReg_of_ready h (fun t => w1 ((t.g b ra).ult (imm.signExtend 32))) rfl, writesReg_of_ready h (fun _ => imm.zeroExtend 32 <<< 16) rfl,
    writesReg_of_ready h (fun t => t.g b ra <<< sh.toNat) rfl, writesReg_of_ready h (fun t => t.g b ra >>> sh.toNat) rfl,
    writesReg_of_ready h (fun t => (t.g b ra).sshiftRight sh.toNat) rfl⟩

/-- Settles O2: each form is a result; a register's shift amount is its low five bits. -/
theorem aluRegisterWritesRd : Obligations.AluRegisterWritesRd := fun _ b _ ra rb h =>
  ⟨writesReg_of_ready h (fun t => t.g b ra + t.g b rb) rfl, writesReg_of_ready h (fun t => t.g b ra - t.g b rb) rfl,
    writesReg_of_ready h (fun t => t.g b ra &&& t.g b rb) rfl, writesReg_of_ready h (fun t => t.g b ra ||| t.g b rb) rfl,
    writesReg_of_ready h (fun t => t.g b ra ^^^ t.g b rb) rfl, writesReg_of_ready h (fun t => t.g b ra <<< t.shamt b rb) rfl,
    writesReg_of_ready h (fun t => t.g b ra >>> t.shamt b rb) rfl, writesReg_of_ready h (fun t => (t.g b ra).sshiftRight (t.shamt b rb)) rfl,
    writesReg_of_ready h (fun t => w1 ((t.g b ra).slt (t.g b rb))) rfl, writesReg_of_ready h (fun t => w1 ((t.g b ra).ult (t.g b rb))) rfl,
    writesReg_of_ready h (fun t => t.g b ra * t.g b rb) rfl,
    writesReg_of_ready h (fun t => BitVec.ofNat 32 ((t.g b ra).toNat * (t.g b rb).toNat / 2 ^ 32)) rfl,
    writesReg_of_ready h (fun t => BitVec.ofInt 32 ((t.g b ra).toInt * (t.g b rb).toInt / 2 ^ 32)) rfl⟩

/-- Settles O3: a branch by its destination, a jump by the register it saves to and the address it goes on at. -/
theorem branchesAndJumpsSetThePc : Obligations.BranchesAndJumpsSetThePc := by
  intro s b rd ra rb off far h dest
  refine ⟨goesTo_of_branch h (fun t => t.g b ra == t.g b rb) rfl, goesTo_of_branch h (fun t => t.g b ra != t.g b rb) rfl,
    goesTo_of_branch h (fun t => (t.g b ra).slt (t.g b rb)) rfl, ?_, goesTo_of_branch h (fun t => (t.g b ra).ult (t.g b rb)) rfl, ?_, ?_,
    fun ha => ⟨_, exec_jalr_of_aligned rd h ha, State.setG_goto ..⟩, exec_jalr_of_misaligned rd h⟩
  · rw [show decide ((s.g b rb).toInt ≤ (s.g b ra).toInt) = !(s.g b ra).slt (s.g b rb) from BitVec.sle_eq_not_slt]
    exact goesTo_of_branch h (fun t => !(t.g b ra).slt (t.g b rb)) rfl
  · rw [show decide ((s.g b rb).toNat ≤ (s.g b ra).toNat) = !(s.g b ra).ult (s.g b rb) from BitVec.ule_eq_not_ult ..]
    exact goesTo_of_branch h (fun t => !(t.g b ra).ult (t.g b rb)) rfl
  · obtain ⟨hg, hretired, honly⟩ := s.setG_goto b 31 (BitVec.ofNat 32 (s.pc b + 4)) (((s.pc b : Int) + 4 * far.toInt) % 2 ^ 15).toNat
    exact ⟨_, exec_jal_of_ready far h, (hg 31).trans (if_pos (by decide)), fun r hr => (hg r).trans (if_neg fun h => hr h.1), hretired, honly⟩

/-- Settles O4: the table's rows in order, each after those that an address is past. -/
theorem localAddressesFollowTheTable : Obligations.LocalAddressesFollowTheTable := by
  intro s b a n hn
  have hend {m : Nat} (ha : a % n = 0) (hm : m % 8 = 0) (h : a < m) : a + n ≤ m := aligned_end_le hn ha hm h
  have hpos : 4 ≤ n := by omega
  refine ⟨fun ha => if_pos ha, fun ha h => ?_, fun ha h0 h1 => ?_, fun ha h0 h1 => ?_,
    fun h0 h1 => s.localAt_beyond b (by omega) (by omega) (by omega), fun ha h0 h1 => ?_,
    fun h0 h1 => s.localAt_beyond b (by omega) (by omega) (by omega), fun ha h0 h1 => ?_,
    fun h0 => s.localAt_beyond b (by omega) (by omega) (by omega)⟩
  · rw [State.localAt, if_neg (not_not.2 ha), if_pos (hend ha rfl h)]
  · rw [State.localAt, if_neg (not_not.2 ha), if_neg (by omega), if_pos (hend ha rfl h1)]
  · rw [State.localAt, if_neg (not_not.2 ha), if_neg (by omega), if_neg (by omega), if_pos (hend ha rfl h1)]
  · rw [State.localAt, if_neg (not_not.2 ha), if_neg (by omega), if_neg (by omega), if_neg (by omega), if_pos ⟨h0, hend ha rfl h1⟩]
  · rw [State.localAt, if_neg (not_not.2 ha), if_neg (by omega), if_neg (by omega), if_neg (by omega), if_neg (by omega),
      if_pos ⟨h0, hend ha rfl h1⟩]

end

section
/-! SUPPORT. Loads and stores of the Compositor (R153, R154, R158, R161, R162, R166, R172). -/

namespace Sys2Proof.Machine

open Sys2Proof Safety

/-! ### Loads (R158, R162) -/

theorem State.seen_of_no_veils {s : State} {b : Nat} (h : s.veilsOf b = []) (x n : Nat) : s.seen b x n = s.rdBytes x n := by
  rw [State.seen, h, List.foldr_nil]

section
variable {s : State} {b a n x : Nat} (hx : s.localAt b a n = .memory x ∨ s.localAt b a n = .shared x)
include hx

/-- A load of memory or stone with an uncorrectable error, found before. -/
theorem State.loadLocal_of_readErr {e : Nat} (he : s.readErr x n = some e) (c : Check) : s.loadLocal b a n c = .fault (s.cmpUncorr b e) := by
  obtain h | h := hx <;> simp only [State.loadLocal, h, he]

/-- A load of memory or stone that meets an uncorrectable error. -/
theorem State.loadLocal_uncorrectable (he : s.readErr x n = none) (e : Nat) :
    s.loadLocal b a n (.uncorrectable e) = .fault (s.cmpBroken b x) := by
  obtain h | h := hx <;> simp only [State.loadLocal, h, he]

/-- A load of memory or stone that meets a corrected error gives the bytes, and the error is logged. -/
theorem State.loadLocal_corrected (he : s.readErr x n = none) (e : Nat) :
    s.loadLocal b a n (.corrected e) = .value (s.cmpCorrected b x (Cmp.dmemCorr b)) (leNat (s.seen b x n)) := by
  obtain h | h := hx <;> simp only [State.loadLocal, h, he]

/-- A load of memory or stone without an error gives the bytes. -/
theorem State.loadLocal_sound (he : s.readErr x n = none) {c : Check} (hc : c = .pass ∨ c = .mismatch) :
    s.loadLocal b a n c = .value s (leNat (s.seen b x n)) := by
  obtain rfl | rfl := hc <;> obtain h | h := hx <;> simp only [State.loadLocal, h, he]

end

theorem State.loadLocal_queue {s : State} {b a n q off : Nat} (h : s.localAt b a n = .queue q off) (c : Check) :
    s.loadLocal b a n c = .value s (bits (s.queueWord b q) (8 * off) (8 * n)) := by
  rw [State.loadLocal, h]

theorem State.loadLocal_fault {s : State} {b a n : Nat} (h : s.localAt b a n = .fault) (c : Check) :
    s.loadLocal b a n c = .fault (s.localFault b a) := by
  rw [State.loadLocal, h]

/-! ### LW and LD (R161) -/

theorem exec_lw_of_value {s u : State} {b v : Nat} {ra : BitVec 5} {imm : BitVec 16} {c : Check} (hr : ready s b) (rd : BitVec 5)
    (h : s.loadLocal b (s.g b ra + imm.signExtend 32).toNat 4 c = .value u v) :
    exec (.lw b rd ra imm c) s = .next (u.result b rd (BitVec.ofNat 32 v)) := by
  refine exec_of_ready hr ?_
  rw [State.effective, h]

theorem exec_lw_of_fault {s u : State} {b : Nat} {ra : BitVec 5} {imm : BitVec 16} {c : Check} (hr : ready s b) (rd : BitVec 5)
    (h : s.loadLocal b (s.g b ra + imm.signExtend 32).toNat 4 c = .fault u) : exec (.lw b rd ra imm c) s = .next u := by
  refine exec_of_ready hr ?_
  rw [State.effective, h]

theorem evenReg_passes {r : BitVec 5} (h : r.toNat % 2 = 0) : ¬ (!evenReg r) = true := by
  simp [evenReg, h]

theorem evenReg_fails {r : BitVec 5} (h : r.toNat % 2 = 1) : (!evenReg r) = true := by
  simp [evenReg, h]

theorem exec_ld_of_odd {s : State} {b : Nat} {rd : BitVec 5} (hr : ready s b) (h : rd.toNat % 2 = 1) (ra : BitVec 5) (imm : BitVec 16)
    (c : Check) : exec (.ld b rd ra imm c) s = .next (s.oddPair b (s.effective b ra imm) (encI 0x12 rd ra imm.toNat)) :=
  exec_of_ready hr (if_pos (evenReg_fails h))

theorem exec_ld_of_value {s u : State} {b v : Nat} {rd ra : BitVec 5} {imm : BitVec 16} {c : Check} (hr : ready s b)
    (he : rd.toNat % 2 = 0) (h : s.loadLocal b (s.g b ra + imm.signExtend 32).toNat 8 c = .value u v) :
    exec (.ld b rd ra imm c) s = .next ((u.setPair b rd v).nextPc b) := by
  refine exec_of_ready hr ((if_neg (evenReg_passes he)).trans ?_)
  rw [State.effective, h]

theorem exec_ld_of_fault {s u : State} {b : Nat} {rd ra : BitVec 5} {imm : BitVec 16} {c : Check} (hr : ready s b)
    (he : rd.toNat % 2 = 0) (h : s.loadLocal b (s.g b ra + imm.signExtend 32).toNat 8 c = .fault u) :
    exec (.ld b rd ra imm c) s = .next u := by
  refine exec_of_ready hr ((if_neg (evenReg_passes he)).trans ?_)
  rw [State.effective, h]

/-- A 64-bit result goes into the pair, and the instruction retires. -/
theorem State.setPair_writesPair (s : State) (b : Nat) {rd : BitVec 5} (he : rd.toNat % 2 = 0) (v : Nat) :
    writesPair s b rd v (.next ((s.setPair b rd v).nextPc b)) := by
  obtain ⟨hlow, hhigh, hretired, honly⟩ := s.pair_results b he (BitVec.ofNat 32 v) (BitVec.ofNat 32 (v / 2 ^ 32))
  refine ⟨_, rfl, ?_, hhigh, fun r h0 h1 => ?_, hretired, honly⟩
  · split
    case isTrue h0 => rw [State.g, if_pos h0]
    case isFalse h0 => exact hlow h0
  · rw [State.nextPc, State.g_goto, State.setPair, State.g_setG, if_neg fun h => h1 h.1, State.g_setG, if_neg fun h => h0 h.1]

/-! ### Stores and the monitor slots that they fire (R172) -/

/-- The state t differs from s in what monitor slots show and hold alone. -/
structure MonitorsOnly (s t : State) : Prop where
  eq : t = { s with csr := t.csr, comps := t.comps }
  get : ∀ f : Field, (∀ c, f.key ≠ (Cmp.monArmed c).key ∧ f.key ≠ (Cmp.monFired c).key) → t.get f = s.get f
  comp : ∀ c, (t.comp c).waiting = (s.comp c).waiting ∧ (t.comp c).csrrHi = (s.comp c).csrrHi

theorem MonitorsOnly.refl (s : State) : MonitorsOnly s s := ⟨rfl, fun _ _ => rfl, fun _ => ⟨rfl, rfl⟩⟩

theorem MonitorsOnly.trans {s t u : State} (h : MonitorsOnly s t) (k : MonitorsOnly t u) : MonitorsOnly s u :=
  ⟨by rw [k.eq, h.eq], fun f hf => (k.get f hf).trans (h.get f hf),
    fun c => ⟨(k.comp c).1.trans (h.comp c).1, (k.comp c).2.trans (h.comp c).2⟩⟩

theorem State.showMons_only (s : State) (b : Nat) : onlyFields s (s.showMons b) [Cmp.monArmed b, Cmp.monFired b] :=
  Safety.onlyFields_setAll s (by simp)

theorem State.showMons_comp (s : State) (b c : Nat) : (s.showMons b).comp c = s.comp c := rfl

theorem State.setComp_comp_ne (s : State) {b c : Nat} (x : Comp) (h : c ≠ b) : (s.setComp b x).comp c = s.comp c :=
  Tab.get_set_ne _ _ _ _ h

/-- New slots of a Compositor, shown in its registers. -/
theorem State.setMons_monitorsOnly (s : State) (b : Nat) (mons : Tab MonSlot) :
    MonitorsOnly s ((s.setComp b { s.comp b with mons := mons }).showMons b) := by
  obtain ⟨heq, hget⟩ := (s.setComp b { s.comp b with mons := mons }).showMons_only b
  refine ⟨heq, fun f hf => hget f (by simpa using hf b), fun c => ?_⟩
  rw [State.showMons_comp]
  by_cases h : c = b
  · subst h
    rw [State.setComp_comp_same]
    exact ⟨rfl, rfl⟩
  · rw [State.setComp_comp_ne s _ h]
    exact ⟨rfl, rfl⟩

theorem State.fireMons_monitorsOnly (s : State) (a n : Nat) : MonitorsOnly s (s.fireMons a n) :=
  List.foldlRecOn _ _ (MonitorsOnly.refl s) fun t ht b _ => ht.trans (by
    unfold State.fireBench
    dsimp only
    split
    · exact t.setMons_monitorsOnly b _
    · exact MonitorsOnly.refl t)

/-- The state with bytes stored and what veils them cut, before monitor slots fire. -/
def State.putBytes (s : State) (x : Nat) (bs : List Byte) : State :=
  { s.store x bs with veils := (s.veils.map fun e => (e.1, (e.2.map (Veil.cut x bs.length)).flatten)).filter fun e => e.2 != [] }

theorem State.put_eq (s : State) (x : Nat) (bs : List Byte) : s.put x bs = (s.putBytes x bs).fireMons x bs.length := rfl

/-- No register of a monitor slot is a general register, the program counter or INSTRET. -/
theorem Cmp.key_ne_mons {b : Nat} {f : Field} (hf : f = Cmp.pc b ∨ f = Cmp.instret b ∨ ∃ r < 32, f = Cmp.gr b r) (c : Nat) :
    f.key ≠ (Cmp.monArmed c).key ∧ f.key ≠ (Cmp.monFired c).key := by
  obtain rfl | rfl | ⟨r, hr, rfl⟩ := hf <;>
    simp only [Field.key, Cmp.pc, Cmp.instret, Cmp.gr, Cmp.monArmed, Cmp.monFired, stnBase, if_true, benchBase, forgeBase] <;> omega

theorem MonitorsOnly.g {s t : State} (h : MonitorsOnly s t) (b : Nat) (r : BitVec 5) : t.g b r = s.g b r := by
  rw [State.g, State.g, h.get _ (Cmp.key_ne_mons (.inr (.inr ⟨r.toNat, r.isLt, rfl⟩)))]

theorem MonitorsOnly.pc {s t : State} (h : MonitorsOnly s t) (b : Nat) : t.pc b = s.pc b := h.get _ (Cmp.key_ne_mons (.inl rfl))

theorem MonitorsOnly.instret {s t : State} (h : MonitorsOnly s t) (b : Nat) : t.get (Cmp.instret b) = s.get (Cmp.instret b) :=
  h.get _ (Cmp.key_ne_mons (.inr (.inl rfl)))

/-- Going on from a state in which the program counter and INSTRET are those of s retires the instruction. -/
theorem State.nextPc_retired {s u : State} {b : Nat} (hpc : u.pc b = s.pc b) (hi : u.get (Cmp.instret b) = s.get (Cmp.instret b)) :
    retired s (u.nextPc b) b (s.pc b + 4) := by
  rw [State.nextPc, hpc]
  exact Safety.retired_of (u.goto_retired b _) hi

/-- A store of a Compositor's instruction that retires. -/
theorem State.put_storesAt (s : State) (b x : Nat) (bs : List Byte) : storesAt s b x bs (.next ((s.put x bs).nextPc b)) := by
  have hmons : MonitorsOnly (s.putBytes x bs) (s.put x bs) := s.put_eq x bs ▸ State.fireMons_monitorsOnly ..
  obtain ⟨hgoto, hget⟩ := (s.put x bs).goto_only b ((s.put x bs).pc b + 4)
  have heq : (s.put x bs).nextPc b = { s with
      csr := ((s.put x bs).nextPc b).csr
      mem := memWrite s.mem x bs
      poison := (s.putBytes x bs).poison
      badWords := (s.putBytes x bs).badWords
      veils := (s.putBytes x bs).veils
      comps := (s.put x bs).comps } := by
    refine hgoto.trans ?_
    rw [hmons.eq]
    rfl
  have hcomps : ((s.put x bs).nextPc b).comps = (s.put x bs).comps := rfl
  refine ⟨_, rfl, fun a => ?_, fun r => ?_, ?_, fun f hf hmon => ?_, fun c => ?_, ?_⟩
  · rw [State.rd, heq]
    exact memRead_write ..
  · rw [State.nextPc, State.g_goto, hmons.g]
    rfl
  · exact State.nextPc_retired (hmons.pc b) (hmons.instret b)
  · exact (hget f hf).trans (hmons.get f hmon)
  · rw [State.comp, hcomps]
    exact hmons.comp c
  · rw [heq]

/-! ### Stores at local addresses (R158, R166, R339) -/

section
variable {s : State} {b a n x : Nat} (v : Nat) (w : Wait)

theorem State.storeLocal_fault (h : s.localAt b a n = .fault) : s.storeLocal b a n v w = s.localFault b a := by
  rw [State.storeLocal, h]

theorem State.storeLocal_unnamed (h : s.localAt b a n = .shared x) (hn : s.namesWord b (x / 8 * 8) = false) :
    s.storeLocal b a n v w = s.localFault b a := by
  simp only [State.storeLocal, h, hn, Bool.false_eq_true, if_false]

theorem State.storeLocal_named (h : s.localAt b a n = .shared x) (hn : s.namesWord b (x / 8 * 8) = true) (he : s.storeErr x n = none) :
    s.storeLocal b a n v w = (s.put x (leBytes n v)).nextPc b := by
  simp only [State.storeLocal, h, hn, he, if_true]

theorem State.storeLocal_bound {q off : Nat} (h : s.localAt b a n = .queue q off) (hq : s.queueBound b q = true) :
    s.storeLocal b a n v w = s.wait b w 5 0 0 q 0 := by
  simp only [State.storeLocal, h, hq, if_true]

variable (hw : (s.comp b).waiting = none)
include hw

theorem State.storeLocal_memory (h : s.localAt b a n = .memory x) (he : s.storeErr x n = none) :
    s.storeLocal b a n v w = (s.put x (leBytes n v)).nextPc b := by
  simp only [State.storeLocal, h, State.waitDone_of_none hw, State.storeMem, he]

theorem State.storeLocal_memory_error {e : Nat} (h : s.localAt b a n = .memory x) (he : s.storeErr x n = some e) :
    s.storeLocal b a n v w = s.cmpUncorr b e := by
  simp only [State.storeLocal, h, State.waitDone_of_none hw, State.storeMem, he]

/-- A store into a queue word that no running stream binds puts the stored bytes in their place (R166). -/
theorem State.storeLocal_queue {q off : Nat} (h : s.localAt b a n = .queue q off) (hq : s.queueBound b q = false) :
    s.storeLocal b a n v w = (s.setQueueWord b q (s.queueWord b q - bits (s.queueWord b q) (8 * off) (8 * n) * 2 ^ (8 * off) +
      v % 2 ^ (8 * n) * 2 ^ (8 * off))).nextPc b := by
  simp only [State.storeLocal, h, hq, State.waitDone_of_none hw, Bool.false_eq_true, if_false]

end

/-- An aligned 64-bit access of the queue table has offset 0 in its queue word. -/
theorem State.localAt_queue_off {s : State} {b a q off : Nat} (h : s.localAt b a 8 = .queue q off) : off = 0 := by
  unfold State.localAt at h
  repeat' split at h
  all_goals simp only [reduceCtorEq, LocalLoc.queue.injEq] at h
  omega

/-- A 64-bit access of the shared area is of a whole word. -/
theorem State.localAt_shared_word {s : State} {b a x : Nat} (h : s.localAt b a 8 = .shared x) : x / 8 * 8 = x := by
  have hbase : stoneBase (b / 5) % 8 = 0 := by
    simp only [stoneBase]
    omega
  unfold State.localAt at h
  repeat' split at h
  all_goals simp only [reduceCtorEq, LocalLoc.shared.injEq] at h
  omega

/-- The fields of a queue word (R166). -/
def queueFields (b q : Nat) : List Field := [Cmp.queueBase b q, Cmp.queueSlots b q, Cmp.queueSlotb b q]

theorem queueFields_key_ne {b q : Nat} {f : Field} (hf : f ∈ retireFields b) : ∀ g ∈ queueFields b q, f.key ≠ g.key := by
  simp only [retireFields, List.mem_cons, List.not_mem_nil, or_false] at hf
  simp only [queueFields, List.forall_mem_cons, List.not_mem_nil, false_imp_iff, implies_true, and_true]
  obtain rfl | rfl := hf <;>
    simp only [Field.key, Cmp.pc, Cmp.instret, Cmp.queueBase, Cmp.queueSlots, Cmp.queueSlotb] <;> omega

theorem State.setQueueWord_only (s : State) (b q w : Nat) : onlyFields s (s.setQueueWord b q w) (queueFields b q) :=
  Safety.onlyFields_setAll s (by simp [queueFields])

theorem State.setQueueWord_get (s : State) (b q w : Nat) :
    (s.setQueueWord b q w).get (Cmp.queueBase b q) = bits w 0 24 ∧ (s.setQueueWord b q w).get (Cmp.queueSlots b q) = bits w 24 9 ∧
      (s.setQueueWord b q w).get (Cmp.queueSlotb b q) = bits w 33 8 := by
  have hnodup : (([(Cmp.queueBase b q, bits w 0 24), (Cmp.queueSlots b q, bits w 24 9), (Cmp.queueSlotb b q, bits w 33 8)] :
      List (Field × Nat)).map (·.1.key)).Nodup := by
    simp [Field.key, Cmp.queueBase, Cmp.queueSlots, Cmp.queueSlotb]
  have hget : ∀ f v, (f, v) ∈ [(Cmp.queueBase b q, bits w 0 24), (Cmp.queueSlots b q, bits w 24 9), (Cmp.queueSlotb b q, bits w 33 8)] →
      (s.setQueueWord b q w).get f = v % 2 ^ f.width := fun _ _ => State.get_setAll_mem hnodup
  exact ⟨(hget _ (bits w 0 24) (by simp)).trans (Nat.mod_mod ..), (hget _ (bits w 24 9) (by simp)).trans (Nat.mod_mod ..),
    (hget _ (bits w 33 8) (by simp)).trans (Nat.mod_mod ..)⟩

/-- A queue word written by an instruction that retires (R166). -/
theorem State.setQueueWord_nextPc (s : State) (b q w : Nat) :
    ((s.setQueueWord b q w).nextPc b).get (Cmp.queueBase b q) = bits w 0 24 ∧
      ((s.setQueueWord b q w).nextPc b).get (Cmp.queueSlots b q) = bits w 24 9 ∧
      ((s.setQueueWord b q w).nextPc b).get (Cmp.queueSlotb b q) = bits w 33 8 ∧
      retired s ((s.setQueueWord b q w).nextPc b) b (s.pc b + 4) ∧
      onlyFields s ((s.setQueueWord b q w).nextPc b) (queueFields b q ++ retireFields b) := by
  obtain ⟨hbase, hslots, hslotb⟩ := s.setQueueWord_get b q w
  have hpc : (s.setQueueWord b q w).pc b = s.pc b := (s.setQueueWord_only b q w).2 _ (queueFields_key_ne (by simp [retireFields]))
  obtain ⟨hkeep, hrest⟩ := State.goto_after_only (s.setQueueWord_only b q w) (fun _ => queueFields_key_ne) (s.pc b + 4)
  rw [State.nextPc, hpc]
  exact ⟨(hkeep _ (by simp [queueFields])).trans hbase, (hkeep _ (by simp [queueFields])).trans hslots,
    (hkeep _ (by simp [queueFields])).trans hslotb, hrest⟩

/-- The fields of a queue word whose 64 bits are stored anew are those of the stored bits. -/
theorem bits_store_word {v : Nat} (hv : v < 2 ^ 64) (old lo n : Nat) (h : lo + n ≤ 64) :
    bits (old - bits old (8 * 0) (8 * 8) * 2 ^ (8 * 0) + v % 2 ^ (8 * 8) * 2 ^ (8 * 0)) lo n = v / 2 ^ lo % 2 ^ n := by
  have hword : old - bits old (8 * 0) (8 * 8) * 2 ^ (8 * 0) + v % 2 ^ (8 * 8) * 2 ^ (8 * 0) = 2 ^ 64 * (old / 2 ^ 64) + v := by
    simp only [bits]
    omega
  have hpow : 2 ^ 64 = 2 ^ lo * (2 ^ n * 2 ^ (64 - (lo + n))) := by rw [← pow_add, ← pow_add]; congr 1; omega
  rw [hword, bits, hpow, mul_assoc, Nat.mul_add_div (by positivity), mul_assoc, Nat.mul_add_mod]

theorem State.gPair_lt (s : State) (b : Nat) (r : BitVec 5) : s.gPair b r < 2 ^ 64 := by
  have hlow := (s.g b r).isLt
  have hhigh := (s.g b (r + 1)).isLt
  rw [State.gPair]
  omega

/-! ### SW and SD (R161) -/

theorem exec_sw_of_ready {s : State} {b : Nat} (hr : ready s b) (rd ra : BitVec 5) (imm : BitVec 16) :
    exec (.sw b rd ra imm) s =
      .next (s.storeLocal b (s.g b ra + imm.signExtend 32).toNat 4 (s.g b rd).toNat (.storeW rd ra imm)) :=
  exec_of_ready hr rfl

theorem exec_sd_of_odd {s : State} {b : Nat} {rd : BitVec 5} (hr : ready s b) (h : rd.toNat % 2 = 1) (ra : BitVec 5) (imm : BitVec 16) :
    exec (.sd b rd ra imm) s = .next (s.oddPair b (s.effective b ra imm) (encI 0x13 rd ra imm.toNat)) :=
  exec_of_ready hr (if_pos (evenReg_fails h))

theorem exec_sd_of_even {s : State} {b : Nat} {rd : BitVec 5} (hr : ready s b) (h : rd.toNat % 2 = 0) (ra : BitVec 5) (imm : BitVec 16) :
    exec (.sd b rd ra imm) s =
      .next (s.storeLocal b (s.g b ra + imm.signExtend 32).toNat 8 (s.gPair b rd) (.storeD rd ra imm)) :=
  exec_of_ready hr (if_neg (evenReg_passes h))

end Sys2Proof.Machine

open Sys2Proof Sys2Proof.Machine Sys2Proof.Safety

/-- Settles O5: what a local load gives, and where its value goes. -/
theorem loadsReadLocalMemory : Obligations.LoadsReadLocalMemory := by
  intro s b rd ra imm c hr a sound
  refine ⟨fun x n h => State.seen_of_no_veils h x n, fun x hx => ⟨fun he hc => ?_, fun he e => ?_, fun he e => ?_, fun e he => ?_⟩,
    fun q off hq => ?_, fun hf => ?_, fun hodd => exec_ld_of_odd hr hodd ra imm c, fun heven =>
    ⟨fun x hx => ⟨fun he hc => ?_, fun he e => ?_, fun he e => ?_, fun e he => ?_⟩, fun q off hq => ?_, fun hf => ?_⟩⟩
  · rw [exec_lw_of_value hr rd (State.loadLocal_sound hx he hc)]
    exact s.result_writes b rd _
  · exact exec_lw_of_value hr rd (State.loadLocal_corrected hx he e)
  · exact exec_lw_of_fault hr rd (State.loadLocal_uncorrectable hx he e)
  · exact exec_lw_of_fault hr rd (State.loadLocal_of_readErr hx he c)
  · rw [exec_lw_of_value hr rd (State.loadLocal_queue hq c)]
    exact s.result_writes b rd _
  · exact exec_lw_of_fault hr rd (State.loadLocal_fault hf c)
  · rw [exec_ld_of_value hr heven (State.loadLocal_sound hx he hc)]
    exact s.setPair_writesPair b heven _
  · exact exec_ld_of_value hr heven (State.loadLocal_corrected hx he e)
  · exact exec_ld_of_fault hr heven (State.loadLocal_uncorrectable hx he e)
  · exact exec_ld_of_fault hr heven (State.loadLocal_of_readErr hx he c)
  · rw [exec_ld_of_value hr heven (State.loadLocal_queue hq c)]
    exact s.setPair_writesPair b heven _
  · exact exec_ld_of_fault hr heven (State.loadLocal_fault hf c)

/-- Settles O6: a local store by the table's rows, and what a store of bytes or of a queue word leaves. -/
theorem storesWriteTheirBytesOnly : Obligations.StoresWriteTheirBytesOnly := by
  intro s b rd ra imm hr a low
  have hwait := waiting_of_ready hr
  refine ⟨fun x hx he => ?_, fun x e hx he => ?_, fun x hx hn => ?_, fun x hx hn he => ?_, fun q off hq hbound => ?_, fun hf => ?_,
    fun hodd => exec_sd_of_odd hr hodd ra imm, fun heven => ⟨fun x hx hn he => ?_, fun x hx he => ?_, fun q off hq hfree => ?_, fun hf => ?_⟩⟩
  · rw [exec_sw_of_ready hr, State.storeLocal_memory _ _ hwait hx he]
    exact s.put_storesAt b x _
  · rw [exec_sw_of_ready hr, State.storeLocal_memory_error _ _ hwait hx he]
  · rw [exec_sw_of_ready hr, State.storeLocal_unnamed _ _ hx hn]
  · rw [exec_sw_of_ready hr, State.storeLocal_named _ _ hx hn he]
    exact s.put_storesAt b x _
  · rw [exec_sw_of_ready hr, State.storeLocal_bound _ _ hq hbound]
  · rw [exec_sw_of_ready hr, State.storeLocal_fault _ _ hf]
  · rw [exec_sd_of_even hr heven, State.storeLocal_named _ _ hx ((State.localAt_shared_word hx).symm ▸ hn) he]
    exact s.put_storesAt b x _
  · rw [exec_sd_of_even hr heven, State.storeLocal_memory _ _ hwait hx he]
    exact s.put_storesAt b x _
  · obtain rfl := State.localAt_queue_off hq
    have hbits := bits_store_word (s.gPair_lt b rd) (s.queueWord b q)
    obtain ⟨hbase, hslots, hslotb, hrest⟩ := s.setQueueWord_nextPc b q (s.queueWord b q -
      bits (s.queueWord b q) (8 * 0) (8 * 8) * 2 ^ (8 * 0) + s.gPair b rd % 2 ^ (8 * 8) * 2 ^ (8 * 0))
    rw [exec_sd_of_even hr heven, State.storeLocal_queue _ _ hwait hq hfree]
    exact ⟨_, rfl, (hbase.trans (hbits 0 24 (by decide))).trans (by rw [Nat.pow_zero, Nat.div_one]), hslots.trans (hbits 24 9 (by decide)),
      hslotb.trans (hbits 33 8 (by decide)), hrest⟩
  · rw [exec_sd_of_even hr heven, State.storeLocal_fault _ _ hf]

end

section
/-! SUPPORT. Stream boundaries, the status words, and the end of a program (R134, R161, R174, R175, R177). -/

namespace Sys2Proof.Machine

open Sys2Proof Safety

/-! ### Swapped banks (R134, R174) -/

/-- The registers that the Compositor's swap writes. -/
def swapCmpFields (b : Nat) : List Field := [Cmp.activeBank b, Cmp.swapPending b, Cmp.shadowValid b]

/-- The registers that Temper's swap writes. -/
def swapTmpFields (b : Nat) : List Field := [Stn.tmpActiveBank b 2, Stn.tmpSwapPending b 2]

theorem State.swapCmp_only (s : State) (b : Nat) : onlyFields s (s.swapCmp b) (swapCmpFields b) :=
  Safety.onlyFields_setAll s (by simp [swapCmpFields])

theorem State.swapCmp_get (s : State) (b : Nat) : (s.swapCmp b).get (Cmp.activeBank b) = (1 - s.get (Cmp.activeBank b)) % 2 ∧
    (s.swapCmp b).get (Cmp.swapPending b) = 0 ∧ (s.swapCmp b).get (Cmp.shadowValid b) = 0 := by
  have hnodup : (([(Cmp.activeBank b, 1 - s.get (Cmp.activeBank b)), (Cmp.swapPending b, 0), (Cmp.shadowValid b, 0)] :
      List (Field × Nat)).map (·.1.key)).Nodup := by
    simp [Field.key, Cmp.activeBank, Cmp.swapPending, Cmp.shadowValid]
  have hget : ∀ f v, (f, v) ∈ [(Cmp.activeBank b, 1 - s.get (Cmp.activeBank b)), (Cmp.swapPending b, 0), (Cmp.shadowValid b, 0)] →
      (s.swapCmp b).get f = v % 2 ^ f.width := fun _ _ => State.get_setAll_mem hnodup
  exact ⟨hget _ (1 - s.get (Cmp.activeBank b)) (by simp), hget _ 0 (by simp), hget _ 0 (by simp)⟩

theorem swapCmpFields_key_ne {b : Nat} {f : Field} (hf : f ∈ retireFields b) : ∀ g ∈ swapCmpFields b, f.key ≠ g.key := by
  simp only [retireFields, List.mem_cons, List.not_mem_nil, or_false] at hf
  simp only [swapCmpFields, List.forall_mem_cons, List.not_mem_nil, false_imp_iff, implies_true, and_true]
  obtain rfl | rfl := hf <;>
    simp only [Field.key, Cmp.pc, Cmp.instret, Cmp.activeBank, Cmp.swapPending, Cmp.shadowValid] <;> omega

/-- The Compositor's swap by an instruction that retires. -/
theorem State.swapCmp_goto (s : State) (b a : Nat) :
    ((s.swapCmp b).goto b a).get (Cmp.activeBank b) = (1 - s.get (Cmp.activeBank b)) % 2 ∧
      ((s.swapCmp b).goto b a).get (Cmp.swapPending b) = 0 ∧ ((s.swapCmp b).goto b a).get (Cmp.shadowValid b) = 0 ∧
      retired s ((s.swapCmp b).goto b a) b a ∧ onlyFields s ((s.swapCmp b).goto b a) (swapCmpFields b ++ retireFields b) := by
  obtain ⟨hactive, hpending, hshadow⟩ := s.swapCmp_get b
  obtain ⟨hkeep, hrest⟩ := State.goto_after_only (s.swapCmp_only b) (fun _ => swapCmpFields_key_ne) a
  exact ⟨(hkeep _ (by simp [swapCmpFields])).trans hactive, (hkeep _ (by simp [swapCmpFields])).trans hpending,
    (hkeep _ (by simp [swapCmpFields])).trans hshadow, hrest⟩

theorem State.tmpBoundary_only (s : State) (b : Nat) : onlyFields s (s.tmpBoundary b) (swapTmpFields b) := by
  unfold State.tmpBoundary
  split
  · exact Safety.onlyFields_setAll s (by simp [swapTmpFields])
  · exact Safety.onlyFields_refl ..

theorem State.boundaries_only (s : State) (b : Nat) : onlyFields s (s.boundaries b) (swapCmpFields b ++ swapTmpFields b) := by
  refine Safety.onlyFields_trans ?_ (Safety.onlyFields_mono (State.tmpBoundary_only _ b) fun _ hf => List.mem_append_right _ hf)
  split
  · exact Safety.onlyFields_mono (s.swapCmp_only b) fun _ hf => List.mem_append_left _ hf
  · exact Safety.onlyFields_refl ..

/-- At a stream boundary no swap of the Compositor stays pending (R174). -/
theorem State.boundaries_swapPending (s : State) (b : Nat) : (s.boundaries b).get (Cmp.swapPending b) = 0 := by
  refine ((State.tmpBoundary_only _ b).2 _ ?_).trans ?_
  · simp only [swapTmpFields, List.forall_mem_cons, List.not_mem_nil, false_imp_iff, implies_true, and_true, Field.key, Cmp.swapPending,
      Stn.tmpActiveBank, Stn.tmpSwapPending, stnBase]
    omega
  · split
    case isTrue => exact (s.swapCmp_get b).2.1
    case isFalse h => simpa [State.flag] using h

/-! ### The end of a program (R161) -/

/-- The registers that stop a bench. -/
def stopWrites (b : Nat) : List (Field × Nat) := [(Ben.state b, 0), (Rgn.state b, 1), (Stn.state b 15, 0)]

theorem stopWrites_nodup {b : Nat} (hb : b < 40) : ((stopWrites b).map (·.1.key)).Nodup := haltWrites_nodup hb

theorem stopWrites_key_ne {b : Nat} (hb : b < 40) : ∀ e ∈ stopWrites b, ∀ g ∈ swapCmpFields b ++ swapTmpFields b, e.1.key ≠ g.key := by
  simp only [stopWrites, swapCmpFields, swapTmpFields, List.cons_append, List.nil_append, List.forall_mem_cons, List.not_mem_nil,
    false_imp_iff, implies_true, and_true, Field.key, Ben.state, Rgn.state, Stn.state, Cmp.activeBank, Cmp.swapPending, Cmp.shadowValid,
    Stn.tmpActiveBank, Stn.tmpSwapPending, rgnBase_bench hb, stnBase, if_true, if_neg (by decide : ¬ 2 = 15)]
  omega

/-- A bench stopped: what its registers show. -/
theorem State.benchStopped_get (s : State) {b : Nat} (hb : b < 40) :
    ∀ e ∈ stopWrites b, (s.benchStopped b).get e.1 = e.2 % 2 ^ e.1.width := fun e he =>
  ((State.boundaries_only _ b).2 _ (stopWrites_key_ne hb e he)).trans (State.get_setAll_mem (stopWrites_nodup hb) he)

theorem exec_endB_of_idle {s : State} {b : Nat} (hr : ready s b) (h : s.allIdle b = true) :
    exec (.endB b) s = .next ((s.nextPc b).benchStopped b) := by
  have hwait := waiting_of_ready hr
  refine exec_of_ready hr ((if_pos h).trans ?_)
  rw [State.waitDone_of_none hwait]

theorem exec_endB_of_busy {s : State} {b : Nat} (hr : ready s b) (h : s.allIdle b = false) :
    exec (.endB b) s = .next (s.wait b .endW 6 (s.busyStation b) 0 0 0) :=
  exec_of_ready hr (if_neg (by simp [h]))

/-! ### FENCE and BNDRY (R154, R174) -/

theorem exec_fence_goesTo {s : State} {b : Nat} (hr : ready s b) : goesTo s b (s.pc b + 4) (exec (.fence b) s) := by
  have hexec : exec (.fence b) s = .next (s.nextPc b) := exec_of_ready hr rfl
  rw [hexec]
  exact s.goto_goesTo b _

theorem exec_bndry_goesTo {s : State} {b : Nat} (hr : ready s b) (target : BitVec 13) (h : s.flag (Cmp.swapPending b) = false) :
    goesTo s b (s.pc b + 4) (exec (.bndry b target) s) := by
  have hexec : exec (.bndry b target) s = .next (s.nextPc b) := exec_of_ready hr (if_neg (by simp [h]))
  rw [hexec]
  exact s.goto_goesTo b _

theorem exec_bndry_of_pending {s : State} {b : Nat} (hr : ready s b) (target : BitVec 13) (h : s.flag (Cmp.swapPending b) = true) :
    exec (.bndry b target) s = .next ((s.swapCmp b).goto b (4 * target.toNat)) :=
  exec_of_ready hr (if_pos h)

/-! ### FEATQ and CSRR (R175, R177) -/

/-- A field of 32 bits as a register's value. -/
theorem ofNat_bits (v lo : Nat) : BitVec.ofNat 32 (bits v lo 32) = BitVec.ofNat 32 (v / 2 ^ lo) :=
  BitVec.eq_of_toNat_eq (by simp [bits])

theorem exec_featq_writesReg {s : State} {b : Nat} (hr : ready s b) (rd : BitVec 5) (half : BitVec 4) :
    writesReg s b rd (BitVec.ofNat 32 (s.get (Cmp.feat b (half.toNat / 2)) / 2 ^ (32 * (half.toNat % 2)))) (exec (.featq b rd half) s) := by
  rw [← ofNat_bits]
  exact writesReg_of_ready hr (fun t => BitVec.ofNat 32 (bits (t.get (Cmp.feat b (half.toNat / 2))) (32 * (half.toNat % 2)) 32)) rfl

/-- Selectors above 12 name no status word (R177). -/
theorem State.statusWord_above (s : State) (b : Nat) {sel : Nat} (h : 12 < sel) : s.statusWord b sel = none := by
  obtain ⟨k, rfl⟩ := Nat.exists_eq_add_of_le' h
  rfl

theorem exec_csrr_of_none {s : State} {b : Nat} {sel : BitVec 5} (hr : ready s b) (rd : BitVec 5) (h : s.statusWord b sel.toNat = none) :
    exec (.csrr b rd sel) s = .next (s.illegal b (encI 0x31 rd 0 sel.toNat)) := by
  refine exec_of_ready hr ?_
  rw [State.csrr, h]

theorem exec_csrr_of_some {s : State} {b v : Nat} {sel : BitVec 5} (hr : ready s b) (rd : BitVec 5) (h0 : sel ≠ 0)
    (h : s.statusWord b sel.toNat = some v) : exec (.csrr b rd sel) s = .next (s.result b rd (BitVec.ofNat 32 v)) := by
  refine exec_of_ready hr ?_
  rw [State.csrr, h]
  exact congrArg (State.result · b rd (BitVec.ofNat 32 v)) (if_neg h0)

/-- Selector 0 reads the low half of the count and latches the high half for selector 1. -/
theorem exec_csrr_count {s : State} {b : Nat} (hr : ready s b) (rd : BitVec 5) : exec (.csrr b rd 0) s =
    .next ((s.setComp b { s.comp b with csrrHi := bits s.now 32 32 }).result b rd (BitVec.ofNat 32 (s.now % 2 ^ 32))) :=
  exec_of_ready hr rfl

theorem State.setG_comps (s : State) (b : Nat) (rd : BitVec 5) (v : W32) : (s.setG b rd v).comps = s.comps := by
  unfold State.setG
  split <;> rfl

theorem State.result_comps (s : State) (b : Nat) (rd : BitVec 5) (v : W32) : (s.result b rd v).comps = s.comps := s.setG_comps b rd v

end Sys2Proof.Machine

open Sys2Proof Sys2Proof.Machine Sys2Proof.Safety

/-- Settles O7: each instruction by its equation, and what a swap and the stop of a bench write. -/
theorem boundaryAndStatusInstructions : Obligations.BoundaryAndStatusInstructions := by
  intro s b rd target half sel hr hb
  refine ⟨exec_fence_goesTo hr, exec_bndry_goesTo hr target, fun h => ⟨_, exec_bndry_of_pending hr target h, s.swapCmp_goto b _⟩,
    exec_featq_writesReg hr rd half, fun v h0 h => ?_, ?_, fun h => exec_csrr_of_none hr rd (s.statusWord_above b h), fun h => ?_,
    exec_endB_of_busy hr⟩
  · rw [exec_csrr_of_some hr rd h0 h]
    exact s.result_writes b rd _
  · refine ⟨_, exec_csrr_count hr rd, fun h0 => ?_, ?_⟩
    · rw [State.result, State.nextPc, State.g_goto, State.g_setG, if_pos ⟨rfl, h0⟩]
      exact BitVec.eq_of_toNat_eq (by simp)
    · rw [State.comp, State.result_comps]
      exact congrArg Comp.csrrHi (State.setComp_comp_same ..)
  · have hget := (s.nextPc b).benchStopped_get hb
    exact ⟨_, exec_endB_of_idle hr h, hget (Ben.state b, 0) (by simp [stopWrites]), hget (Rgn.state b, 1) (by simp [stopWrites]),
      hget (Stn.state b 15, 0) (by simp [stopWrites]), State.boundaries_swapPending _ b⟩

end

section
/-! SUPPORT. The Compositor's instructions on signal words and monitor slots (R154, R161, R172, R246). -/

namespace Sys2Proof.Machine

open Sys2Proof Safety

/-! ### What the stores of a signal instruction leave -/

theorem State.foldl_comps {α : Type} {f : State → α → State} (l : List α) (hf : ∀ t x, (f t x).comps = t.comps) (s : State) :
    (l.foldl f s).comps = s.comps :=
  List.foldlRecOn (motive := fun t => t.comps = s.comps) l f rfl fun t ht x _ => (hf t x).trans ht

theorem State.nextPc_comp (s : State) (b c : Nat) : (s.nextPc b).comp c = s.comp c := rfl

theorem State.unveilSig_comps (s : State) (b a : Nat) : (s.unveilSig b a).comps = s.comps :=
  State.foldl_comps (f := fun (t : State) i => t.unveil (16 * b + i) (some a)) _ (fun _ _ => rfl) s

/-- WAITERS lies in memory: no Compositor and no register changes with it. -/
theorem State.syncWaiter_comps (s : State) (b a : Nat) : (s.syncWaiter b a).comps = s.comps := by
  unfold State.syncWaiter
  split <;> rfl

theorem State.syncWaiter_csr (s : State) (b a : Nat) : (s.syncWaiter b a).csr = s.csr := by
  unfold State.syncWaiter
  split <;> rfl

/-- The monitor that SIGMON puts into a slot (R172). -/
def State.monitor (s : State) (b : Nat) (rd ra : BitVec 5) (hd : BitVec 10) (a : Nat) : MonSlot :=
  ⟨a, hd.toNat, (s.g b ra).toNat, s.gPair b rd, true, decide (s.gPair b rd ≤ s.rdNat a 8)⟩

/-- A monitor put into its slot, and WAITERS of its word. -/
def State.setMon (s : State) (b slot : Nat) (m : MonSlot) : State :=
  (s.setComp b { s.comp b with mons := Tab.put (s.comp b).mons slot m }).syncWaiter b m.word

/-- WAITERS of the word that a slot watched before. -/
def State.leaveMon (s : State) (b : Nat) (old : Option MonSlot) : State :=
  match old with
  | some o => s.syncWaiter b o.word
  | none => s

/-- The state with the monitor of a slot replaced. -/
def State.replaceMon (s : State) (b slot : Nat) (m : MonSlot) : State := (s.setMon b slot m).leaveMon b (Tab.find (s.comp b).mons slot)

theorem State.leaveMon_comps (s : State) (b : Nat) (old : Option MonSlot) : (s.leaveMon b old).comps = s.comps := by
  cases old with
  | none => rfl
  | some o => exact s.syncWaiter_comps b o.word

theorem State.leaveMon_csr (s : State) (b : Nat) (old : Option MonSlot) : (s.leaveMon b old).csr = s.csr := by
  cases old with
  | none => rfl
  | some o => exact s.syncWaiter_csr b o.word

theorem State.replaceMon_csr (s : State) (b slot : Nat) (m : MonSlot) : (s.replaceMon b slot m).csr = s.csr :=
  (State.leaveMon_csr ..).trans (State.syncWaiter_csr ..)

theorem State.replaceMon_mons (s : State) (b slot : Nat) (m : MonSlot) :
    ((s.replaceMon b slot m).comp b).mons = Tab.put (s.comp b).mons slot m := by
  rw [State.comp, State.replaceMon, State.leaveMon_comps, State.setMon, State.syncWaiter_comps]
  exact congrArg Comp.mons (State.setComp_comp_same ..)

/-! ### SIGRD, SIGADD, SIGWAIT (R172) -/

section
variable {s : State} {b : Nat} {rd ra : BitVec 5} {hd : BitVec 10} (hr : ready s b)
include hr

theorem exec_sigrd_of_odd (h : rd.toNat % 2 = 1) : exec (.sigrd b rd ra hd) s = .next (s.illegal b (encI 0x24 rd ra hd.toNat)) :=
  exec_of_ready hr (if_pos (evenReg_fails h))

theorem exec_sigrd_of_word {a e : Nat} (h : rd.toNat % 2 = 0) (hw : s.sigRef b ra hd = .word a e) :
    exec (.sigrd b rd ra hd) s = .next ((s.setPair b rd (s.rdNat a 8)).nextPc b) := by
  refine exec_of_ready hr ((if_neg (evenReg_passes h)).trans ?_)
  rw [hw]

theorem exec_sigrd_of_fault {t : State} (h : rd.toNat % 2 = 0) (hf : s.sigRef b ra hd = .fault t) : exec (.sigrd b rd ra hd) s = .next t := by
  refine exec_of_ready hr ((if_neg (evenReg_passes h)).trans ?_)
  rw [hf]

theorem exec_sigadd_of_added {a e : Nat} {t : State} (hw : s.sigRef b ra hd = .word a e)
    (ht : s.sigAdd a (s.g b rd).toNat ⟨s.get Fab.deviceId, s.logical b⟩ = .added t) : exec (.sigadd b rd ra hd) s = .next (t.nextPc b) := by
  refine exec_of_ready hr ?_
  simp only [State.sigaddI, hw, ht]

theorem exec_sigadd_of_overflow {a e : Nat} {t : State} (hw : s.sigRef b ra hd = .word a e)
    (ht : s.sigAdd a (s.g b rd).toNat ⟨s.get Fab.deviceId, s.logical b⟩ = .overflow t) :
    exec (.sigadd b rd ra hd) s = .next (t.nextPc b) := by
  refine exec_of_ready hr ?_
  simp only [State.sigaddI, hw, ht]

theorem exec_sigadd_of_fault {t : State} (hf : s.sigRef b ra hd = .fault t) : exec (.sigadd b rd ra hd) s = .next t := by
  refine exec_of_ready hr ?_
  rw [State.sigaddI, hf]

theorem exec_sigwait_of_odd (h : rd.toNat % 2 = 1) : exec (.sigwait b rd ra hd) s = .next (s.illegal b (encI 0x26 rd ra hd.toNat)) :=
  exec_of_ready hr (if_pos (evenReg_fails h))

/-- SIGWAIT on a word that has come to its threshold goes on. -/
theorem exec_sigwait_of_reached {a e : Nat} (h : rd.toNat % 2 = 0) (hw : s.sigRef b ra hd = .word a e) (hle : s.gPair b rd ≤ s.rdNat a 8) :
    exec (.sigwait b rd ra hd) s = .next (((s.unveilSig b a).syncWaiter b a).nextPc b) := by
  have hwait := waiting_of_ready hr
  refine exec_of_ready hr ((if_neg (evenReg_passes h)).trans ?_)
  simp only [hw, if_pos hle, State.waitDone_of_none hwait]

/-- SIGWAIT on a word below its threshold waits. -/
theorem exec_sigwait_of_below {a e : Nat} (h : rd.toNat % 2 = 0) (hw : s.sigRef b ra hd = .word a e) (hlt : s.rdNat a 8 < s.gPair b rd) :
    exec (.sigwait b rd ra hd) s = .next ((s.wait b (.sigwait rd ra hd) 3 0 hd.toNat (s.g b ra).toNat 0).syncWaiter b a) := by
  refine exec_of_ready hr ((if_neg (evenReg_passes h)).trans ?_)
  simp only [hw, if_neg (Nat.not_le.2 hlt)]

theorem exec_sigwait_of_fault {t : State} (h : rd.toNat % 2 = 0) (hf : s.sigRef b ra hd = .fault t) :
    exec (.sigwait b rd ra hd) s = .next t := by
  refine exec_of_ready hr ((if_neg (evenReg_passes h)).trans ?_)
  rw [hf]

/-! ### SIGMON (R172) -/

theorem exec_sigmon_of_odd (slot : BitVec 3) (h : rd.toNat % 2 = 1) :
    exec (.sigmon b rd ra slot hd) s = .next (s.illegal b (encI 0x27 rd ra (slot.toNat * 1024 + hd.toNat))) :=
  exec_of_ready hr (if_pos (evenReg_fails h))

theorem exec_sigmon_of_fault {t : State} (slot : BitVec 3) (h : rd.toNat % 2 = 0) (hf : s.sigRef b ra hd = .fault t) :
    exec (.sigmon b rd ra slot hd) s = .next t := by
  refine exec_of_ready hr ((if_neg (evenReg_passes h)).trans ?_)
  rw [hf]

/-- SIGMON on a word puts its monitor into the slot, and shows it. -/
theorem exec_sigmon_of_word {a e : Nat} (slot : BitVec 3) (h : rd.toNat % 2 = 0) (hw : s.sigRef b ra hd = .word a e) :
    exec (.sigmon b rd ra slot hd) s = .next (((s.replaceMon b slot.toNat (s.monitor b rd ra hd a)).showMons b).nextPc b) := by
  refine exec_of_ready hr ((if_neg (evenReg_passes h)).trans ?_)
  rw [hw]
  rfl

end

/-- What monitor slots show is shown by an instruction that retires. -/
theorem State.showMons_nextPc_retired {s u : State} {b : Nat} (h : u.csr = s.csr) : retired s ((u.showMons b).nextPc b) b (s.pc b + 4) := by
  have hget (f : Field) : u.get f = s.get f := congrArg (Tab.get · f.reset f.key) h
  have hkeep (f : Field) (hf : f = Cmp.pc b ∨ f = Cmp.instret b ∨ ∃ r < 32, f = Cmp.gr b r) : (u.showMons b).get f = s.get f :=
    ((u.showMons_only b).2 f (by simpa using Cmp.key_ne_mons hf b)).trans (hget f)
  exact State.nextPc_retired (hkeep _ (.inl rfl)) (hkeep _ (.inr (.inl rfl)))

/-! ### MWAIT (R172) -/

/-- The armed slots of bench b that a mask names. -/
def State.namedMons (s : State) (b : Nat) (mask : BitVec 8) : Tab MonSlot :=
  (s.comp b).mons.filter fun e => e.2.armed && bitAt mask.toNat e.1

/-- The named slots disarmed, before the waits on their words end. -/
def State.disarm (s : State) (b : Nat) (mask : BitVec 8) : State :=
  (s.setComp b { s.comp b with mons := (s.comp b).mons.filter fun e => !(e.2.armed && bitAt mask.toNat e.1) }).showMons b

theorem State.disarm_mons (s : State) (b : Nat) (mask : BitVec 8) :
    ∀ e ∈ ((s.disarm b mask).comp b).mons, e.2.armed = true → bitAt mask.toNat e.1 = false := fun e he harmed => by
  have hmons : ((s.disarm b mask).comp b).mons = (s.comp b).mons.filter fun e => !(e.2.armed && bitAt mask.toNat e.1) :=
    congrArg Comp.mons (State.setComp_comp_same ..)
  rw [hmons, List.mem_filter, harmed, Bool.true_and, Bool.not_eq_true'] at he
  exact he.2

theorem State.refreshMons_waiting (s : State) (b : Nat) : ((s.refreshMons b).comp b).waiting = (s.comp b).waiting :=
  ((s.setMons_monitorsOnly b _).comp b).1

theorem exec_mwait_of_fired {s : State} {b : Nat} (hr : ready s b) {mask : BitVec 8}
    (h : ∀ e ∈ (s.refreshMons b).namedMons b mask, e.2.fired = true) :
    exec (.mwait b mask) s = .next (((((s.refreshMons b).namedMons b mask).map (·.2.word)).foldl (fun t a => (t.unveilSig b a).syncWaiter b a)
      ((s.refreshMons b).disarm b mask)).nextPc b) := by
  have hwait := waiting_of_ready hr
  refine exec_of_ready hr ((if_pos (List.all_eq_true.2 h)).trans ?_)
  rw [State.waitDone_of_none ((s.refreshMons_waiting b).trans hwait)]
  rfl

theorem exec_mwait_of_pending {s : State} {b : Nat} (hr : ready s b) {mask : BitVec 8}
    (h : ∃ e ∈ (s.refreshMons b).namedMons b mask, e.2.fired = false) :
    exec (.mwait b mask) s = .next ((s.refreshMons b).wait b (.mwait mask) 4 0 0 0 mask.toNat) := by
  obtain ⟨e, he, hfired⟩ := h
  have hall : ¬ ((s.refreshMons b).namedMons b mask).all (·.2.fired) = true := fun hall =>
    Bool.false_ne_true (hfired.symm.trans (List.all_eq_true.1 hall e he))
  exact exec_of_ready hr (if_neg hall)

theorem State.mem_namedMons {s : State} {b : Nat} {mask : BitVec 8} {e : Nat × MonSlot} :
    e ∈ s.namedMons b mask ↔ e ∈ (s.comp b).mons ∧ e.2.armed = true ∧ bitAt mask.toNat e.1 = true := by
  rw [State.namedMons, List.mem_filter, Bool.and_eq_true]

end Sys2Proof.Machine

open Sys2Proof Sys2Proof.Machine Sys2Proof.Safety

/-- Settles O8: each instruction by what it finds under its handle, MWAIT by its named slots. -/
theorem signalInstructions : Obligations.SignalInstructions := by
  intro s b rd ra slot hd mask hr
  refine ⟨fun a e hw => ⟨fun heven => ?_, fun t => exec_sigadd_of_added hr hw, fun t => exec_sigadd_of_overflow hr hw,
      fun heven => exec_sigwait_of_reached hr heven hw, fun heven => exec_sigwait_of_below hr heven hw, fun heven => ?_⟩,
    fun t hf => ⟨exec_sigadd_of_fault hr hf, fun heven =>
      ⟨exec_sigrd_of_fault hr heven hf, exec_sigwait_of_fault hr heven hf, exec_sigmon_of_fault hr slot heven hf⟩⟩,
    fun hodd => ⟨exec_sigrd_of_odd hr hodd, exec_sigwait_of_odd hr hodd, exec_sigmon_of_odd hr slot hodd⟩, fun h => ?_, fun h => ?_⟩
  · rw [exec_sigrd_of_word hr heven hw]
    exact s.setPair_writesPair b heven _
  · refine ⟨_, exec_sigmon_of_word hr slot heven hw, ?_, State.showMons_nextPc_retired (State.replaceMon_csr ..)⟩
    rw [State.nextPc_comp, State.showMons_comp, State.replaceMon_mons, Tab.find_put_same, State.monitor]
  · refine ⟨_, exec_mwait_of_fired hr fun e he => ?_, ?_⟩
    · obtain ⟨hmem, harmed, hbit⟩ := State.mem_namedMons.1 he
      exact h e hmem harmed hbit
    · have hcomps := State.foldl_comps (((s.refreshMons b).namedMons b mask).map (·.2.word))
        (fun t a => (State.syncWaiter_comps _ b a).trans (State.unveilSig_comps t b a)) ((s.refreshMons b).disarm b mask)
      rw [State.nextPc_comp, State.comp, hcomps]
      exact State.disarm_mons _ b mask
  · obtain ⟨e, hmem, harmed, hbit, hfired⟩ := h
    exact exec_mwait_of_pending hr ⟨e, State.mem_namedMons.2 ⟨hmem, harmed, hbit⟩, hfired⟩

end

section
/-! SUPPORT. STRM's launch, SWAIT, and waits that end (R128, R134, R154, R155, R161, R165, R169). -/

namespace Sys2Proof.Machine

open Sys2Proof Safety

/-! ### What a trace record leaves (R441, R443) -/

section
variable {α : Type} (p : State → α) (hset : ∀ t f v, p (State.set t f v) = p t) (hstore : ∀ t a bs, p (State.store t a bs) = p t)
include hset hstore

theorem State.traceRing_part (s : State) (rec : Nat) : p (s.traceRing rec) = p s := by
  have hbump : ∀ t f n, p (State.bump t f n) = p t := fun t f n => hset t f _
  unfold State.traceRing
  dsimp only
  split
  · rw [hbump, hset]
  · split
    · rw [hbump]
    · rw [hbump, hstore]

variable (hfifo : ∀ (t : State) x, p { t with traceFifo := x } = p t)
include hfifo

theorem State.traceDrain_part (s : State) (r : Nat) : p (s.traceDrain r) = p s := by
  unfold State.traceDrain
  split
  · rfl
  · exact (State.traceRing_part p hset hstore _ _).trans (hfifo s _)

/-- A trace record leaves every part of the state but registers, memory and the records that wait. -/
theorem State.trace_part (s : State) (r kind : Nat) (l : List (Nat × Nat)) : p (s.trace r kind l) = p s := by
  unfold State.trace
  split
  · dsimp only
    split
    · exact hfifo s _
    · split
      · exact (hfifo _ _).trans (State.traceDrain_part p hset hstore hfifo s r)
      · exact hset s _ _
  · rfl

end

theorem State.trace_streams (s : State) (r kind : Nat) (l : List (Nat × Nat)) : (s.trace r kind l).streams = s.streams :=
  State.trace_part State.streams (fun _ _ _ => rfl) (fun _ _ _ => rfl) (fun _ _ => rfl) s r kind l

theorem State.trace_get_die (s : State) (r kind : Nat) (l : List (Nat × Nat)) {f : Field} (hf : inDies f.key = true) :
    (s.trace r kind l).get f = s.get f :=
  s.trace_get r kind l (ne_traceFields_of_inDies hf)

/-- Where only registers differ, every other part is as it was. -/
theorem Safety.onlyFields_part {α : Type} (p : State → α) (hp : ∀ (u : State) x, p { u with csr := x } = p u) {s t : State} {l : List Field}
    (h : onlyFields s t l) : p t = p s := by
  rw [h.1, hp]

/-! ### The launch (R146, R165, R169) -/

/-- The registers in which station i shows a launch (R146). -/
def launchFields (b i : Nat) : List Field :=
  [Stn.tmpUprog b i, Stn.tmpSlots b i, Stn.qnPset b i, Stn.plFmtA b i, Stn.prfDigestLo b i, Stn.prfDigestHi b i, Stn.prfItems b i]

theorem State.showLaunch_only (s : State) (b : Nat) (x : Stream) : onlyFields s (s.showLaunch b x) (launchFields b x.stn) := by
  unfold State.showLaunch
  dsimp only
  split
  · exact Safety.onlyFields_setAll s (by simp [launchFields])
  · exact Safety.onlyFields_set s _ (by simp [launchFields])
  · split
    · exact Safety.onlyFields_set s _ (by simp [launchFields])
    · exact Safety.onlyFields_refl ..
  · exact Safety.onlyFields_setAll s (by simp [launchFields])
  · exact Safety.onlyFields_refl ..

theorem launchFields_key_ne {b i : Nat} (hi : i < 10) : ∀ g ∈ Stn.state b i :: launchFields b i, (Cmp.pc b).key ≠ g.key := by
  simp only [launchFields, List.forall_mem_cons, List.not_mem_nil, false_imp_iff, implies_true, and_true, Field.key, Cmp.pc, Stn.state,
    Stn.tmpUprog, Stn.tmpSlots, Stn.qnPset, Stn.plFmtA, Stn.prfDigestLo, Stn.prfDigestHi, Stn.prfItems, stnBase, if_true,
    if_neg (by omega : ¬ i = 15)]
  omega

theorem Stn.state_key_ne_retire {b i : Nat} (hi : i < 10) : ∀ g ∈ retireFields b, (Stn.state b i).key ≠ g.key := by
  simp only [retireFields, List.forall_mem_cons, List.not_mem_nil, false_imp_iff, implies_true, and_true, Field.key, Cmp.pc, Cmp.instret,
    Stn.state, stnBase, if_true, if_neg (by omega : ¬ i = 15)]
  omega

theorem inDies_pc {b : Nat} (hb : b < 40) : inDies (Cmp.pc b).key = true :=
  inDies_of_stn hb (.inr rfl) (Nat.le_add_right ..) (Nat.add_lt_add_left (by decide) _) (by decide : (0 : Nat) < 64)

theorem inDies_stnState {b i : Nat} (hb : b < 40) (hi : i < 10) : inDies (Stn.state b i).key = true :=
  inDies_of_stn hb (.inl hi) (Nat.le_add_right ..) (Nat.add_lt_add_left (by decide) _) (by decide : (0 : Nat) < 64)

/-- The launched stream on its station, which runs, before the launch's trace record. -/
def State.placed (s : State) (b : Nat) (x : Stream) : State := ((s.setStream b x.stn x).showLaunch b x).set (Stn.state b x.stn) 1

theorem State.placed_only (s : State) (b : Nat) (x : Stream) :
    onlyFields (s.setStream b x.stn x) (s.placed b x) (Stn.state b x.stn :: launchFields b x.stn) :=
  Safety.onlyFields_trans (Safety.onlyFields_mono (State.showLaunch_only _ b x) fun _ => List.mem_cons_of_mem _)
    (Safety.onlyFields_set _ 1 (List.mem_cons_self ..))

theorem State.placed_comps (s : State) (b : Nat) (x : Stream) : (s.placed b x).comps = s.comps :=
  Safety.onlyFields_part (s := s.setStream b x.stn x) State.comps (fun _ _ => rfl) (s.placed_only b x)

theorem State.placed_streams (s : State) (b : Nat) (x : Stream) : (s.placed b x).streams = Tab.put s.streams (16 * b + x.stn) x :=
  Safety.onlyFields_part (s := s.setStream b x.stn x) State.streams (fun _ _ => rfl) (s.placed_only b x)

theorem State.launchStream_eq (s : State) {b : Nat} (hwait : (s.comp b).waiting = none) (a w : Nat) :
    ∃ l, s.launchStream b a w = ((s.placed b (s.launchOf b a w)).trace b 1 l).nextPc b := by
  have hwaits (l : List (Nat × Nat)) : (((s.placed b (s.launchOf b a w)).trace b 1 l).comp b).waiting = none := by
    rw [State.comp, State.trace_comps, State.placed_comps]
    exact hwait
  exact ⟨_, congrArg (State.nextPc · b) (State.waitDone_of_none (hwaits _))⟩

theorem State.launchOf_stn (s : State) (b a w : Nat) : (s.launchOf b a w).stn = bits w 4 4 := rfl

theorem State.nextPc_streams (s : State) (b : Nat) : (s.nextPc b).streams = s.streams := rfl

/-- What a launch shows: its station runs a stream, and the program goes on. -/
theorem State.launchStream_spec (s : State) {b : Nat} (hb : b < 40) {w : Nat} (hi : bits w 4 4 < 10) (hwait : (s.comp b).waiting = none)
    (a : Nat) :
    (s.launchStream b a w).get (Stn.state b (bits w 4 4)) = 1 ∧ ((s.launchStream b a w).stream b (bits w 4 4)).isSome = true ∧
      (s.launchStream b a w).pc b = (s.pc b + 4) % 2 ^ 15 := by
  obtain ⟨l, hl⟩ := s.launchStream_eq hwait a w
  have hplaced := s.placed_only b (s.launchOf b a w)
  rw [hl]
  refine ⟨?_, ?_, ?_⟩
  · exact ((State.goto_only _ b _).2 _ (Stn.state_key_ne_retire hi)).trans
      ((State.trace_get_die _ _ _ _ (inDies_stnState hb hi)).trans (State.get_set_same ..))
  · rw [State.stream, State.nextPc_streams, State.trace_streams, State.placed_streams, State.launchOf_stn, Tab.find_put_same,
      Option.isSome_some]
  · have hpc : ((s.placed b (s.launchOf b a w)).trace b 1 l).pc b = s.pc b :=
      (State.trace_get_die _ _ _ _ (inDies_pc hb)).trans (hplaced.2 _ (launchFields_key_ne hi))
    rw [State.nextPc, hpc]
    exact (State.goto_retired ..).1

/-! ### STRM (R167, R169) -/

theorem exec_strm_of_ready {s : State} {b : Nat} (hr : ready s b) (ra : BitVec 5) (imm : BitVec 16) :
    exec (.strm b ra imm) s = .next (s.strm b ra imm) :=
  exec_of_ready hr rfl

/-- A record that passed orders 1 and 2 of R169. -/
theorem State.strm_of_sound {s : State} {b : Nat} {ra : BitVec 5} {imm : BitVec 16} {a w : Nat} (ha : s.effective b ra imm = a)
    (hw : s.rdNat (dmemAddr b a) 128 = w) (halign : a % 128 = 0) (hend : a + 128 ≤ 0x10000) (hread : s.readErr (dmemAddr b a) 128 = none)
    (herr : s.strmErr b w = none) (hrec : firstBad (s.recChecks b a w) = none) : s.strm b ra imm = s.strmGo b ra imm a w := by
  subst ha hw
  have hin : ¬ (s.effective b ra imm % 128 ≠ 0 ∨ 0x10000 < s.effective b ra imm + 128) := by omega
  simp only [State.strm, if_neg hin, hread, herr, hrec]

/-- A record whose station is idle and whose queue sides are free. -/
theorem State.strmGo_of_idle {s : State} {b a w : Nat} (ra : BitVec 5) (imm : BitVec 16)
    (hstate : s.get (Stn.state b (bits w 4 4)) = 0) (hstream : s.stream b (bits w 4 4) = none)
    (hside : s.sideHeld b (s.launchOf b a w) = false) :
    s.strmGo b ra imm a w = (if bits w 4 4 = 2 then s.tmpBoundary b else s).strmLaunch b a w := by
  refine if_neg ?_
  rintro (h | h | h)
  · exact h hstate
  · exact Bool.false_ne_true ((congrArg Option.isSome hstream).symm.trans h)
  · exact Bool.false_ne_true (hside.symm.trans h)

/-- A record that passes its station's checks, and whose collectives are in turn, is launched; the bench's cursor may move. -/
theorem State.strmLaunch_of_sound {s : State} {b a w : Nat} (hover : s.overlaps b (s.launchOf b a w) (s.matrixRange b) = none)
    (hchecks : firstBad (s.stationChecks b (s.launchOf b a w)) = none)
    (hturn : (s.recColls b w).all (fun c => (s.benchTurn b c).1) = true) :
    ∃ cur, s.strmLaunch b a w = State.launchStream { s with benchCur := cur } b a w := by
  have hfind : (s.recColls b w).find? (fun c => !(s.benchTurn b c).1) = none :=
    List.find?_eq_none.2 fun c hc => by simpa using List.all_eq_true.1 hturn c hc
  simp only [State.strmLaunch, hover, hchecks, hfind]
  split
  · exact ⟨_, rfl⟩
  · exact ⟨s.benchCur, rfl⟩

/-- Temper's boundary leaves the program counter and the Compositors. -/
theorem State.tmpBoundary_pc (s : State) (b : Nat) : (s.tmpBoundary b).pc b = s.pc b :=
  (s.tmpBoundary_only b).2 _ (by
    simp only [swapTmpFields, List.forall_mem_cons, List.not_mem_nil, false_imp_iff, implies_true, and_true, Field.key, Cmp.pc,
      Stn.tmpActiveBank, Stn.tmpSwapPending, stnBase, if_true, if_neg (by decide : ¬ 2 = 15)]
    omega)

theorem State.tmpBoundary_comps (s : State) (b : Nat) : (s.tmpBoundary b).comps = s.comps :=
  Safety.onlyFields_part State.comps (fun _ _ => rfl) (s.tmpBoundary_only b)

theorem State.pc_at_boundary (s : State) (b : Nat) (c : Prop) [Decidable c] : (if c then s.tmpBoundary b else s).pc b = s.pc b := by
  split
  · exact s.tmpBoundary_pc b
  · rfl

theorem State.comps_at_boundary (s : State) (b : Nat) (c : Prop) [Decidable c] : (if c then s.tmpBoundary b else s).comps = s.comps := by
  split
  · exact s.tmpBoundary_comps b
  · rfl

/-! ### SWAIT (R154, R161) -/

theorem State.unveil_none (s : State) (key : Nat) : s.unveil key none = { s with veils := Tab.set s.veils [] key [] } := by
  have hkeep : (Tab.get s.veils [] key).filter (fun _ => false) = [] := List.filter_false _
  exact congrArg (fun l => { s with veils := Tab.set s.veils [] key l }) hkeep

/-- The stores of some stations seen: nothing of them is veiled. -/
theorem State.unveil_stations (b : Nat) (l : List Nat) (s : State) :
    ∃ v, l.foldl (fun (t : State) i => t.unveil (16 * b + i) none) s = { s with veils := v } ∧
      ∀ i, i ∈ l ∨ Tab.get s.veils [] (16 * b + i) = [] → Tab.get v [] (16 * b + i) = [] := by
  induction l generalizing s with
  | nil => exact ⟨s.veils, rfl, fun i h => h.resolve_left List.not_mem_nil⟩
  | cons j l ih =>
    obtain ⟨v, hfold, hv⟩ := ih { s with veils := Tab.set s.veils [] (16 * b + j) [] }
    refine ⟨v, ?_, fun i h => hv i (?_ : i ∈ l ∨ Tab.get (Tab.set s.veils [] (16 * b + j) []) [] (16 * b + i) = [])⟩
    · rw [List.foldl_cons, State.unveil_none, hfold]
    · by_cases hij : i = j
      · exact .inr (hij ▸ Tab.get_set_same ..)
      · refine h.imp (fun hmem => (List.mem_cons.1 hmem).resolve_left hij) fun hget => ?_
        exact (Tab.get_set_ne _ _ _ _ (by omega)).trans hget

/-- The stations that SWAIT names are idle: the wait ends, and nothing of their stores is veiled. -/
theorem State.swait_of_idle {s : State} {b : Nat} {sel : BitVec 5}
    (h : (sel.toNat ≤ 9 ∧ s.get (Stn.state b sel.toNat) = 0) ∨ (sel.toNat = 16 ∧ s.allIdle b = true)) :
    ∃ v, s.swait b sel = State.nextPc { s.waitDone b with veils := v } b ∧
      ∀ i, i < 10 → sel.toNat = i ∨ sel.toNat = 16 → Tab.get v [] (16 * b + i) = [] := by
  obtain ⟨hsel, hidle⟩ | ⟨hsel, hidle⟩ := h
  · refine ⟨Tab.set (s.waitDone b).veils [] (16 * b + sel.toNat) [], ?_, fun i _ hi => ?_⟩
    · have hok : ¬ ((!swaitOk sel.toNat) = true) := by simp [swaitOk, hsel]
      rw [State.swait, if_neg hok, if_neg (by omega), if_pos hidle, State.unveil_none]
    · obtain rfl : sel.toNat = i := hi.resolve_right (by omega)
      exact Tab.get_set_same ..
  · obtain ⟨v, hfold, hv⟩ := State.unveil_stations b (List.range 10) (s.waitDone b)
    refine ⟨v, ?_, fun i hi _ => hv i (.inl (List.mem_range.2 hi))⟩
    have hok : ¬ ((!swaitOk sel.toNat) = true) := by simp [swaitOk, hsel]
    rw [State.swait, if_neg hok, if_pos hsel, if_pos hidle, hfold]

theorem State.swait_of_busy {s : State} {b : Nat} {sel : BitVec 5} (hsel : sel.toNat ≤ 9) (h : s.get (Stn.state b sel.toNat) ≠ 0) :
    s.swait b sel = s.wait b (.swait sel) 2 sel.toNat 0 0 0 := by
  have hok : ¬ ((!swaitOk sel.toNat) = true) := by simp [swaitOk, hsel]
  rw [State.swait, if_neg hok, if_neg (by omega), if_neg h]

theorem State.swait_of_reserved {b : Nat} {sel : BitVec 5} (h9 : 9 < sel.toNat) (h16 : sel.toNat ≠ 16) (s : State) :
    s.swait b sel = s.illegal b (encI 0x21 0 0 sel.toNat) :=
  if_pos (by simp [swaitOk, h9, h16])

theorem exec_swait_of_ready {s : State} {b : Nat} (hr : ready s b) (sel : BitVec 5) : exec (.swait b sel) s = .next (s.swait b sel) :=
  exec_of_ready hr rfl

/-! ### Waits that end (R155) -/

/-- The registers that the end of a Compositor's wait writes (R144, R178, R445). -/
def waitDoneWrites (b : Nat) : List (Field × Nat) :=
  [(Cmp.waitKind b, 0), (Cmp.waitStn b, 0), (Cmp.waitHandle b, 0), (Cmp.waitIndex b, 0), (Cmp.waitMask b, 0)] ++
    [(Stn.state b 15, 1), (Aoc.waitSince b 15, 0)]

theorem waitDoneWrites_nodup {b : Nat} (hb : b < 40) : ((waitDoneWrites b).map (·.1.key)).Nodup := by
  simp only [waitDoneWrites, List.cons_append, List.nil_append, Field.key, Cmp.waitKind, Cmp.waitStn, Cmp.waitHandle, Cmp.waitIndex,
    Cmp.waitMask, Stn.state, Aoc.waitSince, stnBase, if_true, benchBase, forgeBase, List.map_cons, List.map_nil, List.nodup_cons,
    List.mem_cons, List.not_mem_nil, or_false, not_false_eq_true, List.nodup_nil, and_true]
  refine ⟨?_, ?_, ?_, ?_, ?_, ?_⟩ <;> omega

theorem State.waitDone_of_some {s : State} {b : Nat} {w : Wait} (h : (s.comp b).waiting = some w) :
    ∃ l, s.waitDone b = ((s.setComp b { s.comp b with waiting := none }).setAll (waitDoneWrites b)).trace b 5 l := by
  refine ⟨[(15, 4), (0, 4), (0, 8), (0, 24), (0, 24), (s.get (Aoc.waitSince b 15), 64)], ?_⟩
  rw [State.waitDone, h, waitDoneWrites, ← State.setAll_append]
  rfl

/-- A wait that has ended: nothing waits, WAIT_KIND is 0, and the program counter and INSTRET are as they were. -/
theorem State.waitDone_spec {s : State} {b : Nat} (hb : b < 40) {w : Wait} (h : (s.comp b).waiting = some w) :
    ((s.waitDone b).comp b).waiting = none ∧ (s.waitDone b).get (Cmp.waitKind b) = 0 ∧
      ∀ f ∈ retireFields b, (s.waitDone b).get f = s.get f := by
  obtain ⟨l, hl⟩ := State.waitDone_of_some h
  have hdie : ∀ f ∈ Cmp.waitKind b :: retireFields b, inDies f.key = true := by
    simp only [retireFields, List.forall_mem_cons, List.not_mem_nil, false_imp_iff, implies_true, and_true]
    refine ⟨?_, ?_, ?_⟩ <;>
      exact inDies_of_stn hb (.inr rfl) (Nat.le_add_right ..) (Nat.add_lt_add_left (by decide) _) (by decide : (0 : Nat) < 64)
  have hne : ∀ f ∈ retireFields b, ∀ e ∈ waitDoneWrites b, f.key ≠ e.1.key := by
    simp only [retireFields, waitDoneWrites, List.cons_append, List.nil_append, List.forall_mem_cons, List.not_mem_nil, false_imp_iff,
      implies_true, and_true, Field.key, Cmp.pc, Cmp.instret, Cmp.waitKind, Cmp.waitStn, Cmp.waitHandle, Cmp.waitIndex, Cmp.waitMask,
      Stn.state, Aoc.waitSince, stnBase, if_true, benchBase, forgeBase]
    omega
  rw [hl]
  refine ⟨?_, ?_, fun f hf => ?_⟩
  · rw [State.comp, State.trace_comps]
    exact congrArg Comp.waiting (State.setComp_comp_same ..)
  · exact (State.trace_get_die _ _ _ _ (hdie _ (List.mem_cons_self ..))).trans
      (State.get_setAll_mem (v := 0) (waitDoneWrites_nodup hb) (by simp [waitDoneWrites]))
  · exact (State.trace_get_die _ _ _ _ (hdie _ (List.mem_cons_of_mem _ hf))).trans (State.get_setAll_ne _ _ (hne f hf))

theorem Cmp.waitKind_key_ne_retire (b : Nat) : ∀ g ∈ retireFields b, (Cmp.waitKind b).key ≠ g.key := by
  simp only [retireFields, List.forall_mem_cons, List.not_mem_nil, false_imp_iff, implies_true, and_true, Field.key, Cmp.pc, Cmp.instret,
    Cmp.waitKind]
  omega

theorem exec_waitEnds_compositor {s : State} {b : Nat} {w : Wait} (hruns : s.benchRuns b = true) (hw : (s.comp b).waiting = some w) :
    exec (.waitEnds (.compositor b)) s = .next (s.redo b w) := by
  change execWaitEnds (.compositor b) s = _
  simp only [execWaitEnds, hw, hruns, if_true]

/-- A station whose next position would not wait goes on. -/
theorem exec_waitEnds_station {s : State} {b i : Nat} {x : Stream} (hruns : s.benchRuns b = true) (hx : s.stream b i = some x)
    (hstate : s.get (Stn.state b i) = 2) (hwork : s.stationWork b i x.form x ≠ .wait) :
    exec (.waitEnds (.station b i)) s = .next (s.stnGo b i) := by
  refine congrArg Host.Outcome.next ?_
  rw [State.resumeStation, hx]
  refine (if_pos ⟨hruns, hstate⟩).trans ?_
  split
  case h_1 h => exact absurd h hwork
  case h_2 => rfl

end Sys2Proof.Machine

open Sys2Proof Sys2Proof.Machine Sys2Proof.Safety

/-- Settles O11: STRM by the orders of R169 and what a launch shows, SWAIT and the ends of waits by the stations that are idle. -/
theorem streamLaunchAndWaits : Obligations.StreamLaunchAndWaits := by
  intro s b ra imm sel hb a w x r
  refine ⟨fun hr halign hend hread herr hrec hi hstate hstream hside hover hchecks hturn => ?_, fun hr hbad => ?_, fun hr hidle => ?_,
    fun hr hsel hbusy => ?_, fun hr h9 h16 => ?_, fun hruns hwait hsel hidle => ?_, fun i y hruns hy hstate hwork =>
    exec_waitEnds_station hruns hy hstate hwork⟩
  · have hwait := waiting_of_ready hr
    have hrpc : r.pc b = s.pc b := s.pc_at_boundary b _
    have hrcomps : r.comps = s.comps := s.comps_at_boundary b _
    obtain ⟨cur, hlaunch⟩ := State.strmLaunch_of_sound hover hchecks hturn
    have hgo : s.strm b ra imm = State.launchStream { r with benchCur := cur } b a w := by
      rw [State.strm_of_sound (a := a) (w := w) rfl rfl halign hend hread herr hrec, State.strmGo_of_idle ra imm hstate hstream hside]
      exact hlaunch
    have hrwait : (r.comp b).waiting = none := by rwa [State.comp, hrcomps]
    obtain ⟨hstn, hsome, hpc⟩ := State.launchStream_spec { r with benchCur := cur } hb hi hrwait a
    rw [exec_strm_of_ready hr, hgo]
    exact ⟨_, rfl, hstn, hsome, hpc.trans (congrArg (fun n => (n + 4) % 2 ^ 15) hrpc)⟩
  · rw [exec_strm_of_ready hr]
    exact congrArg Host.Outcome.next (if_pos hbad)
  · have hwait := waiting_of_ready hr
    obtain ⟨v, hv, hseen⟩ := State.swait_of_idle hidle
    rw [State.waitDone_of_none hwait] at hv
    have hgoto := State.goto_only { s with veils := v } b (s.pc b + 4)
    refine ⟨_, (exec_swait_of_ready hr sel).trans (congrArg _ hv), State.g_goto _ b _, State.goto_retired _ b _, ?_, hgoto.2, hseen⟩
    exact hgoto.1
  · rw [exec_swait_of_ready hr, State.swait_of_busy hsel hbusy]
  · rw [exec_swait_of_ready hr, State.swait_of_reserved h9 h16]
  · obtain ⟨v, hv, -⟩ := State.swait_of_idle (.inl ⟨hsel, hidle⟩)
    obtain ⟨hnone, hkind, hkeep⟩ := State.waitDone_spec hb hwait
    have hgoto := State.goto_only { s.waitDone b with veils := v } b ((s.waitDone b).pc b + 4)
    refine ⟨_, (exec_waitEnds_compositor hruns hwait).trans (congrArg _ hv), hnone, ?_, ?_⟩
    · exact (hgoto.2 _ (Cmp.waitKind_key_ne_retire b)).trans hkind
    · exact State.nextPc_retired (u := { s.waitDone b with veils := v }) (hkeep _ (by simp [retireFields])) (hkeep _ (by simp [retireFields]))

end

section
/-! SUPPORT. The transport's timers and turns: resends by the source and by a long-haul port, gaps, the delivery timer, pools rebuilt, grants,
samples, and requests whose update has come (R23, R187, R268-R270, R275, R295, R297, R306). -/

namespace Sys2Proof.Machine

open Sys2Proof Safety

/-! ### Tables of ports and destinations -/

theorem State.dst_setDst_same (s : State) (d : Nat) (x : DstState) : (s.setDst d x).dst d = x := Tab.get_set_same ..

theorem State.port_setPort_same (s : State) (p : Nat) (x : Port) : (s.setPort p x).port p = x := Tab.get_set_same ..

theorem State.port_setPort_ne (s : State) {p q : Nat} (x : Port) (h : q ≠ p) : (s.setPort p x).port q = s.port q := Tab.get_set_ne _ _ _ _ h

theorem State.port_onPort_same (s : State) (p : Nat) (f : Port → Port) : (s.onPort p f).port p = f (s.port p) := s.port_setPort_same p _

theorem State.dst_of_dsts {s t : State} (h : t.dsts = s.dsts) (d : Nat) : t.dst d = s.dst d := by rw [State.dst, h, State.dst]

theorem State.port_of_ports {s t : State} (h : t.ports = s.ports) (p : Nat) : t.port p = s.port p := by rw [State.port, h, State.port]

theorem State.port_of_alone {s : State} {e : Nat} {x : Port} (h : s.ports = [(e, x)]) : s.port e = x := by
  rw [State.port, h]
  exact if_pos rfl

/-! ### What a log entry and E2E_TIMEOUT leave (R270, R432) -/

section
variable {α : Type} (p : State → α) (hset : ∀ t f v, p (State.set t f v) = p t) (hstore : ∀ t a bs, p (State.store t a bs) = p t)
  (hfifo : ∀ (t : State) x, p { t with traceFifo := x } = p t) (hlog : ∀ (t : State) x, p { t with log := x } = p t)
include hset

theorem State.logCount_part (s : State) (cls : Nat) : p (s.logCount cls) = p s := by
  have hbump : ∀ t f n, p (State.bump t f n) = p t := fun t f n => hset t f _
  unfold State.logCount
  dsimp only
  rw [hbump, hset]
  split
  · rw [hbump, hset, hset]
  · rw [hset]

include hstore hfifo hlog

/-- A log entry leaves every part of the state but registers, memory, the log and the records that wait. -/
theorem State.logE_part (s : State) (cls : Nat) (u : LogUnit) (a : Nat) (l : List (Nat × Nat)) : p (s.logE cls u a l) = p s := by
  have hcount : ∀ x, p (State.logCount { s with log := x } cls) = p s := fun x => (State.logCount_part p hset _ cls).trans (hlog s x)
  have htrace : ∀ t r k fs, p (State.trace t r k fs) = p t := State.trace_part p hset hstore hfifo
  unfold State.logE State.log1
  dsimp only
  cases u.errors with
  | none => cases u.region with
    | none => exact hcount _
    | some r => exact (htrace _ _ _ _).trans (hcount _)
  | some g => cases u.region with
    | none => exact (hset _ _ _).trans (hcount _)
    | some r => exact (htrace _ _ _ _).trans ((hset _ _ _).trans (hcount _))

theorem State.timeout_part (s : State) (u : LogUnit) (dev : Nat) (l : List (Nat × Nat)) : p (s.timeout u dev l) = p s :=
  (hset _ _ _).trans (State.logE_part p hset hstore hfifo hlog s _ u dev l)

end

theorem State.timeout_dsts (s : State) (u : LogUnit) (dev : Nat) (l : List (Nat × Nat)) : (s.timeout u dev l).dsts = s.dsts :=
  State.timeout_part State.dsts (fun _ _ _ => rfl) (fun _ _ _ => rfl) (fun _ _ => rfl) (fun _ _ => rfl) s u dev l

theorem State.timeout_ports (s : State) (u : LogUnit) (dev : Nat) (l : List (Nat × Nat)) : (s.timeout u dev l).ports = s.ports :=
  State.timeout_part State.ports (fun _ _ _ => rfl) (fun _ _ _ => rfl) (fun _ _ => rfl) (fun _ _ => rfl) s u dev l

theorem State.timeout_evt (s : State) (u : LogUnit) (dev : Nat) (l : List (Nat × Nat)) : (s.timeout u dev l).get Fab.timeoutEvt = 1 :=
  State.get_set_same ..

theorem State.timeout_find (s : State) (u : LogUnit) (dev : Nat) (l : List (Nat × Nat)) :
    ∃ n x, Tab.find (s.timeout u dev l).log n = some x ∧ x.cls = clE2eTimeout := by
  obtain ⟨n, x, hx, hcls, -⟩ := State.logE_find s clE2eTimeout u dev l
  exact ⟨n, x, hx, hcls⟩

/-- A destination given up is shown in FAILED_DST and TIMEOUT_EVT; its own mark and the ports are as they were before the entry (R270). -/
theorem State.timeout_failedDst (s : State) (d : Nat) (l : List (Nat × Nat)) :
    let t := (s.timeout .hub d l).set Fab.failedDst d
    t.get Fab.failedDst = d % 2 ^ 20 ∧ t.get Fab.timeoutEvt = 1 ∧ t.dst d = s.dst d ∧ t.ports = s.ports := by
  refine ⟨State.get_set_same .., ?_, ?_, ?_⟩
  · rw [State.get_set_ne _ _ (by decide), State.timeout_evt]
  · exact State.dst_of_dsts (by rw [State.set_dsts, State.timeout_dsts]) d
  · rw [State.set_ports, State.timeout_ports]

/-! ### A resend by the source (R270) -/

section
variable {s : State} {d : Nat} {f : Flight} (hf : (s.dst d).flights = [f])
include hf

theorem State.resendOne_of_alone : s.resendOne d f =
    ((s.setDst d { s.dst d with flights := [{ f with tries := f.tries + 1, timer := 2 * f.timer }] }).bump Fab.resends 1).sendOut
      0 f.via (pktPut f.pkt 202 1 1) := by
  simp only [State.resendOne, hf, List.map_cons, List.map_nil, if_true]

theorem State.giveUp_of_alone (howner : f.owner = none) :
    ((s.giveUp d f).dst d).failed = true ∧ ((s.giveUp d f).dst d).flights = [] ∧ (s.giveUp d f).get Fab.failedDst = d % 2 ^ 20 ∧
      (s.giveUp d f).get Fab.timeoutEvt = 1 := by
  have hgave : s.giveUp d f = ((s.setDst d { s.dst d with failed := true, flights := [] }).timeout .hub d [(pktSeq f.pkt, 32)]).set
      Fab.failedDst d := by
    simp [State.giveUp, hf, howner, State.failStream]
  obtain ⟨hfailed, hevt, hdst, -⟩ := State.timeout_failedDst (s.setDst d { s.dst d with failed := true, flights := [] }) d
    [(pktSeq f.pkt, 32)]
  rw [hgave, hdst, State.dst_setDst_same]
  exact ⟨rfl, rfl, hfailed, hevt⟩

end

/-! ### A resend by a long-haul port (R275) -/

theorem Copy.edit_alone (k : Copy) (f : Option Copy) : Copy.edit [k] k f = f.toList := by
  cases f <;> simp [Copy.edit]

theorem Copy.dst_of_isOf {k : Copy} {src d seq : Nat} (h : k.isOf src d seq = true) : pktDst k.pkt = d := by
  simp only [Copy.isOf, Bool.and_eq_true, beq_iff_eq] at h
  obtain ⟨⟨-, hdst⟩, -⟩ := h
  exact hdst

theorem State.emit_window (s : State) (e n : Nat) : ((s.emit e n).port e).window = (s.port e).window := by
  rw [State.emit, State.port_onPort_same]
  rfl

section
variable {s : State} {e : Nat} {x : Port} {k : Copy}

theorem State.segmentResend_of_window {src d seq : Nat} (hports : s.ports = [(e, x)]) (hwin : x.window = [k])
    (hk : k.isOf src d seq = true) : s.segmentResend src d seq = s.windowResend e k := by
  simp [State.segmentResend, hports, hwin, hk]

theorem State.windowResend_of_down (h : s.portUp e = false) : s.windowResend e k = s := by
  simp [State.windowResend, h]

variable (hup : s.portUp e = true) (hwin : (s.port e).window = [k])
include hwin

theorem State.editWindow_of_alone (f : Option Copy) :
    ((s.onPort e fun x => { x with window := Copy.edit x.window k f }).port e).window = f.toList := by
  rw [State.port_onPort_same]
  exact (congrArg (Copy.edit · k f) hwin).trans (Copy.edit_alone k f)

include hup

/-- Up to RESEND_MAX the copy goes out once more with RESEND, and stays in the window with its timer doubled. -/
theorem State.windowResend_again (htries : k.tries ≤ s.get Fab.resendMax) :
    ((s.windowResend e k).port e).window = [k.again] ∧
      (s.windowResend e k).wire = s.wire ++ [(e, s.frameOf e (pktPut k.pkt 202 1 1))] ∧
      (s.windowResend e k).get Fab.resends = (s.get Fab.resends + 1) % 2 ^ 64 := by
  have hagain : s.windowResend e k =
      ((s.onPort e fun x => { x with window := Copy.edit x.window k (some k.again) }).bump Fab.resends 1).emit e
        (s.frameOf e (pktPut k.pkt 202 1 1)) := by
    simp only [State.windowResend, hup, Bool.not_true, Bool.false_eq_true, if_false, htries, if_true]
  rw [hagain]
  refine ⟨?_, rfl, State.get_bump_same ..⟩
  rw [State.emit_window]
  exact State.editWindow_of_alone hwin _

/-- Beyond RESEND_MAX the port lets its copy go and the destination is marked failed (log entry 38). -/
theorem State.windowResend_last (htries : s.get Fab.resendMax < k.tries) :
    ((s.windowResend e k).port e).window = [] ∧ ((s.windowResend e k).dst (pktDst k.pkt)).failed = true ∧
      (s.windowResend e k).get Fab.failedDst = pktDst k.pkt % 2 ^ 20 ∧ (s.windowResend e k).get Fab.timeoutEvt = 1 := by
  have hlast : s.windowResend e k = (s.onPort e fun x => { x with window := Copy.edit x.window k none }).segmentGivesUp k := by
    simp only [State.windowResend, hup, Bool.not_true, Bool.false_eq_true, if_false, Nat.not_le.2 htries]
  obtain ⟨hfailed, hevt, hdst, hports⟩ := State.timeout_failedDst
    ((s.onPort e fun x => { x with window := Copy.edit x.window k none }).setDst (pktDst k.pkt) { s.dst (pktDst k.pkt) with failed := true })
    (pktDst k.pkt) [(pktSeq k.pkt, 32)]
  rw [hlast]
  refine ⟨?_, ?_, hfailed, hevt⟩
  · exact (congrArg Port.window (State.port_of_ports hports e)).trans (State.editWindow_of_alone hwin none)
  · exact congrArg DstState.failed (hdst.trans (State.dst_setDst_same ..))

end

/-! ### Gaps (R269) -/

theorem SrcState.gaps_of_nothing {x : SrcState} (hgot : x.got = []) (hheld : x.held = []) : x.gaps = [] := by
  simp [SrcState.gaps, hgot, hheld]

/-! ### Grants, shares and samples (R297, R306) -/

theorem Port.queue_take_same (x : Port) (v : Nat) (q : Queued) : (x.take v q).queue v = (x.queue v).erase q := Tab.get_set_same ..

theorem State.grant_of_vc0Turn {s : State} {p : Nat} {q : Queued} (hturn : s.vc0Turn p = true) (hq : s.headOf p 0 = some q) :
    s.grant p = (s.setPort p ((s.port p).take 0 q)).transmitQ p q := by
  simp only [State.grant, hturn, if_true, hq]

/-- What a sample writes of queue v of port p (R306). -/
def State.sampleWrites (s : State) (p v : Nat) : List (Field × Nat) :=
  let m := pdOf p
  let c := p % 128
  let g (k : Nat) : Nat := Tab.get (s.port p).sampler 0 (4 * v + k)
  [(Tm.qDepth m c v, (s.port p).depth v), (Tm.qDepthMax m c v, max (g 0) ((s.port p).depth v)), (Tm.qDelay m c v, g 1),
    (Tm.qDelayMax m c v, g 2), (Tm.qPkts m c v, g 3), (Tm.qSampleNo m c v, s.get (Tm.qSampleNo m c v) + 1)]

/-- A sample writes its registers and changes one port, of which the queues stay. -/
theorem State.sampleQueue_eq (s : State) (p v : Nat) :
    ∃ l, s.sampleQueue p v = (s.setAll (s.sampleWrites p v)).setPort p { s.port p with sampler := l } := ⟨_, rfl⟩

theorem State.sampleQueue_mem (s : State) (p v : Nat) : (s.sampleQueue p v).mem = s.mem := rfl

theorem State.sampleQueue_depth (s : State) (p v q w : Nat) : ((s.sampleQueue p v).port q).depth w = (s.port q).depth w := by
  obtain ⟨l, hl⟩ := s.sampleQueue_eq p v
  rw [hl]
  by_cases hq : q = p
  · subst hq
    rw [State.port_setPort_same]
    rfl
  · rw [State.port_setPort_ne _ _ hq]
    rfl

theorem State.sampleWrites_nodup (s : State) (p v : Nat) : ((s.sampleWrites p v).map (·.1.key)).Nodup := by
  simp only [State.sampleWrites, List.map_cons, List.map_nil, List.nodup_cons, List.mem_cons, List.not_mem_nil, or_false, not_false_eq_true,
    and_true, List.nodup_nil, Field.key, Tm.qDepth, Tm.qDepthMax, Tm.qDelay, Tm.qDelayMax, Tm.qPkts, Tm.qSampleNo]
  omega

theorem State.sampleQueue_qDepth (s : State) (p v : Nat) :
    (s.sampleQueue p v).get (Tm.qDepth (pdOf p) (p % 128) v) = (s.port p).depth v % 2 ^ 32 := by
  obtain ⟨l, hl⟩ := s.sampleQueue_eq p v
  rw [hl, State.get_setPort]
  exact State.get_setAll_mem (s.sampleWrites_nodup p v) (List.mem_cons_self ..)

/-- The queues of a port die are numbered 5c + v - 1, and a sample of one leaves DEPTH of another. -/
theorem State.sampleQueue_qDepth_ne (s : State) {p v c w : Nat} (h : 5 * c + w - 1 ≠ 5 * (p % 128) + v - 1) :
    (s.sampleQueue p v).get (Tm.qDepth (pdOf p) c w) = s.get (Tm.qDepth (pdOf p) c w) := by
  obtain ⟨l, hl⟩ := s.sampleQueue_eq p v
  rw [hl, State.get_setPort]
  refine State.get_setAll_ne _ _ ?_
  simp only [State.sampleWrites, List.forall_mem_cons, List.not_mem_nil, false_imp_iff, implies_true, and_true, Field.key, Tm.qDepth,
    Tm.qDepthMax, Tm.qDelay, Tm.qDelayMax, Tm.qPkts, Tm.qSampleNo]
  omega

/-- The first n queues of port die m sampled. -/
def State.sampleFirst (s : State) (m n : Nat) : State := (List.range n).foldl (fun t k => t.sampleQueue (128 * m + k / 5) (k % 5 + 1)) s

theorem State.sampleFirst_succ (s : State) (m n : Nat) :
    s.sampleFirst m (n + 1) = (s.sampleFirst m n).sampleQueue (128 * m + n / 5) (n % 5 + 1) := by
  rw [State.sampleFirst, List.range_succ, List.foldl_append]
  rfl

theorem State.sampleFirst_mem (s : State) (m n : Nat) : (s.sampleFirst m n).mem = s.mem :=
  List.foldlRecOn (motive := fun t : State => t.mem = s.mem) _ _ rfl fun t ht k _ =>
    (t.sampleQueue_mem (128 * m + k / 5) (k % 5 + 1)).trans ht

theorem State.sampleFirst_depth (s : State) (m n q w : Nat) : ((s.sampleFirst m n).port q).depth w = (s.port q).depth w :=
  List.foldlRecOn (motive := fun t : State => (t.port q).depth w = (s.port q).depth w) _ _ rfl fun t ht _ _ =>
    (t.sampleQueue_depth _ _ q w).trans ht

/-- Each queue sampled so far shows its depth. -/
theorem State.sampleFirst_qDepth (s : State) (m : Nat) {n : Nat} (hn : n ≤ 640) {k : Nat} (hk : k < n) :
    (s.sampleFirst m n).get (Tm.qDepth m (k / 5) (k % 5 + 1)) = (s.port (128 * m + k / 5)).depth (k % 5 + 1) % 2 ^ 32 := by
  induction n with
  | zero => exact absurd hk (Nat.not_lt_zero k)
  | succ n ih =>
    have hdie : pdOf (128 * m + n / 5) = m := by simp only [pdOf]; omega
    have hport : (128 * m + n / 5) % 128 = n / 5 := by omega
    rw [State.sampleFirst_succ]
    by_cases hlast : k = n
    · subst hlast
      have h := (s.sampleFirst m k).sampleQueue_qDepth (128 * m + k / 5) (k % 5 + 1)
      rwa [hdie, hport, State.sampleFirst_depth] at h
    · have h := (s.sampleFirst m n).sampleQueue_qDepth_ne (p := 128 * m + n / 5) (v := n % 5 + 1) (c := k / 5) (w := k % 5 + 1) (by omega)
      rw [hdie] at h
      exact h.trans (ih (by omega) (by omega))

/-! ### Closed pools (R295) -/

theorem State.poolRebuild_closed (s : State) (m i : Nat) : (s.poolRebuild m i).get (Pool.closed m i) = 0 := State.get_set_same ..

/-! ### The commands on an active device -/

section
variable {s : State} (ha : s.active = true)
include ha

theorem exec_resend_of_flight {d : Nat} {seq : W32} {src : Option Nat} {f : Flight} (hcut : s.cut = false)
    (hsrc : src.getD (s.get Fab.deviceId) = s.get Fab.deviceId) (hf : (s.dst d).flights = [f]) (hseq : pktSeq f.pkt = seq.toNat)
    (hcustody : f.custody = false) : exec (.resend d seq src) s =
      .next (if f.tries ≤ s.get Fab.resendMax then s.resendOne d f else s.giveUp d f) := by
  change execResend d seq s src = _
  simp [execResend, ha, hcut, hsrc, hf, hseq, hcustody]

theorem exec_resend_of_segment {d : Nat} {seq : W32} {src : Option Nat} (hcut : s.cut = false)
    (hsrc : src.getD (s.get Fab.deviceId) ≠ s.get Fab.deviceId) : exec (.resend d seq src) s =
      .next (s.segmentResend (src.getD (s.get Fab.deviceId)) d seq.toNat) := by
  have hnone : ((s.dst d).flights.find? fun f => pktSeq f.pkt == seq.toNat && !f.custody && src.getD (s.get Fab.deviceId) == s.get Fab.deviceId)
      = none := List.find?_eq_none.2 fun f _ => by simp [hsrc]
  change execResend d seq s src = _
  simp [execResend, ha, hcut, hnone]

theorem exec_gapNack (d : Nat) : exec (.gapNack d) s = .next ((s.src d).gaps.foldl (fun t g => t.sendNack d g.1 g.2 0) s) :=
  congrArg Host.Outcome.next (if_pos ha)

theorem exec_delivTo_of_custody {d : Nat} {seq : W32} {f : Flight} (hcut : s.cut = false) (hf : f ∈ (s.dst d).flights)
    (hseq : pktSeq f.pkt = seq.toNat) (hcustody : f.custody = true) :
    exec (.delivTo d seq) s = .next (s.timeout .hub d [(seq.toNat, 32)]) := by
  have hany : ((s.dst d).flights.any fun f => pktSeq f.pkt == seq.toNat && f.custody) = true :=
    List.any_eq_true.2 ⟨f, hf, by rw [hseq, hcustody, beq_self_eq_true, Bool.and_self]⟩
  exact congrArg Host.Outcome.next (if_pos (by rw [ha, hcut, hany]; rfl))

theorem exec_poolRebuild_of_closed {m pool : Nat} (h : s.flag (Pool.closed m pool) = true) :
    exec (.poolRebuild m pool) s = .next ((s.poolRebuild m pool).retryDie m) :=
  congrArg Host.Outcome.next (if_pos (by rw [ha, h]; rfl))

theorem exec_transmit_of_up {p : Nat} (h : s.portUp p = true) : exec (.transmit p) s = .next ((s.grant p).sendMark p).turns :=
  congrArg Host.Outcome.next (if_pos (by rw [ha, h]; rfl))

theorem exec_shareInterval (p : Nat) : exec (.shareInterval p) s = .next (s.onPort p fun x => { x with vc0Ns := 0 }) :=
  congrArg Host.Outcome.next (if_pos ha)

theorem exec_sample (m : Nat) : exec (.sample m) s = .next (s.sampleFirst m 640) := congrArg Host.Outcome.next (if_pos ha)

theorem exec_fetchWaitEnds_of_updated {idx : Nat} {q : FetchReq} (hrun : s.running = true) (hq : s.fetches[idx]? = some q)
    (hwhole : q.whole = true) (hstep : fqStep q.head + 1 ≤ s.updValue (lyBucket (s.layer (fqLayer q.head)))) :
    exec (.fetchWaitEnds idx) s = .next (({ s with fetches := s.fetches.eraseIdx idx }.decideFetch q).showWaiting) := by
  change execFetchWaitEnds idx s = _
  rw [execFetchWaitEnds, hq]
  exact congrArg Host.Outcome.next (if_pos ⟨ha, hrun, hwhole, hstep⟩)

end

/-! ### Commands without effect -/

/-- From a cut to START the timers stand still (R280). -/
theorem exec_resend_of_cut {s : State} (hcut : s.cut = true) (d : Nat) (seq : W32) (src : Option Nat) :
    exec (.resend d seq src) s = .next s := congrArg Host.Outcome.next (if_pos (by rw [hcut, Bool.or_true]))

theorem exec_delivTo_of_cut {s : State} (hcut : s.cut = true) (d : Nat) (seq : W32) : exec (.delivTo d seq) s = .next s :=
  congrArg Host.Outcome.next (if_neg (by simp [hcut]))

theorem exec_poolRebuild_of_open {s : State} {m pool : Nat} (h : s.flag (Pool.closed m pool) = false) :
    exec (.poolRebuild m pool) s = .next s := congrArg Host.Outcome.next (if_neg (by simp [h]))

theorem exec_transmit_of_down {s : State} {p : Nat} (h : s.portUp p = false) : exec (.transmit p) s = .next s :=
  congrArg Host.Outcome.next (if_neg (by simp [h]))

end Sys2Proof.Machine

open Sys2Proof Sys2Proof.Machine Sys2Proof.Safety

/-- Settles O49: each command by its equation, a resend by the tries of its one copy, a sample by the queues sampled so far. -/
theorem transportTimersAct : Obligations.TransportTimersAct := by
  intro s named d p m pool seq f ha src
  refine ⟨fun hcut hsrc hf hseq hcustody => ?_, fun e x k hcut hsrc hports hwin hk => ?_,
    fun hcut => ⟨exec_resend_of_cut hcut d seq named, exec_delivTo_of_cut hcut d seq⟩, fun hgot hheld => ?_, fun g hg => ?_,
    fun hcut hf hseq hcustody => ?_, fun _ _ hclosed => ⟨exec_poolRebuild_of_closed ha hclosed, s.poolRebuild_closed m pool⟩,
    exec_poolRebuild_of_open, fun q hup hturn hq => ⟨?_, Port.queue_take_same ..⟩, exec_transmit_of_down, ?_, fun _ => ?_,
    fun q idx => exec_fetchWaitEnds_of_updated ha⟩
  · have hexec := exec_resend_of_flight ha hcut hsrc hf hseq hcustody
    refine ⟨fun htries => ?_, fun htries howner => ⟨s.giveUp d f, ?_, State.giveUp_of_alone hf howner⟩⟩
    · rw [hexec, if_pos htries, State.resendOne_of_alone hf]
    · rw [hexec, if_neg (Nat.not_le.2 htries)]
  · have hexec := exec_resend_of_segment ha (seq := seq) (d := d) hcut hsrc
    rw [State.segmentResend_of_window hports hwin hk] at hexec
    have hport : (s.port e).window = [k] := by rw [State.port_of_alone hports, hwin]
    refine ⟨fun htries hup => ⟨_, hexec, State.windowResend_again hup hport htries⟩, fun htries hup => ⟨_, hexec, ?_⟩, fun hdown => ?_⟩
    · exact Copy.dst_of_isOf hk ▸ State.windowResend_last hup hport htries
    · rw [hexec, State.windowResend_of_down hdown]
  · rw [exec_gapNack ha, SrcState.gaps_of_nothing hgot hheld]
    rfl
  · rw [exec_gapNack ha, hg]
    rfl
  · exact ⟨_, exec_delivTo_of_custody ha hcut hf hseq hcustody, State.timeout_evt .., State.timeout_dsts .., State.timeout_find ..⟩
  · rw [exec_transmit_of_up ha hup, State.grant_of_vc0Turn hturn hq]
  · exact ⟨_, exec_shareInterval ha p, congrArg Port.vc0Ns (State.port_onPort_same ..), rfl, rfl⟩
  · refine ⟨_, exec_sample ha m, s.sampleFirst_mem m 640, fun c v hc h1 h5 => ?_⟩
    have h := s.sampleFirst_qDepth m (Nat.le_refl 640) (k := 5 * c + v - 1) (by omega)
    rwa [show (5 * c + v - 1) / 5 = c by omega, show (5 * c + v - 1) % 5 + 1 = v by omega] at h

end

section
/-! SUPPORT. The barrier of a root without children, and a state in which the trace of its result's packets overwrites the collective table
(R231, R242-R244, R443). -/

namespace Sys2Proof.Machine

open Sys2Proof Safety

/-! ### The decision of a root without children (R242) -/

/-- The result payload of a combined vote (R241). -/
def resultOf (v : Nat) : Nat := votePayload 2 (voteOk v) (voteWhy v) (voteStep v) (voteCount v) (voteFirst v)

/-- The state in which a root's own vote on collective i is recorded. -/
def State.recordVote (s : State) (i v : Nat) : State :=
  { s with commit := { s.commit with own := Tab.put s.commit.own (s.ordinal 0 i) v } }

/-- A result multicast to the group of collective i. -/
def State.sendResult (s : State) (i r : Nat) : State :=
  s.multicast 0 none (s.tree i).group { vc := 0, kind := 0, dst := 0, ordinal := s.ordinal 0 i, payload := leBytes 32 r }

/-- A root without children that counts every vote decides at once: it sends the result and applies it in the state which that leaves. -/
theorem State.castVote_of_alone {s : State} {i v : Nat} (hroot : s.isRoot i = true) (hkids : (s.tree i).children = [])
    (hvoters : s.voters i = voteCount v) :
    s.castVote i v = ((s.recordVote i v).sendResult i (resultOf v)).applyResult i (resultOf v) := by
  have hown : Tab.find (s.recordVote i v).commit.own ((s.recordVote i v).ordinal 0 i) = some v := Tab.find_put_same ..
  have hroot' : (s.recordVote i v).isRoot i = true := hroot
  have hkids' : ((s.recordVote i v).tree i).children = [] := hkids
  have hvoters' : (s.recordVote i v).voters i = voteCount v := hvoters
  change (s.recordVote i v).forwardVotes i = _
  simp only [State.forwardVotes, hown, hroot', hkids', List.map_nil, List.any_nil, List.filterMap_nil, List.foldl_nil, Bool.false_eq_true,
    if_false, if_true, State.rootDecides, hvoters', ne_eq, not_true]
  rfl

/-- Where the table's KIND reads COMMIT, an OK result commits the step. -/
theorem State.applyResult_of_commit {s : State} {i r : Nat} (hkind : s.collKind i = 8) (hok : voteOk r = true) :
    s.applyResult i r = s.commitStep := by
  simp only [State.applyResult, hkind, hok, if_true]

/-! ### A traced barrier (R441-R443) -/

/-- A trace record of slice region 40, of a token emitted at count 128: its bits [7:4], those of KIND in a collective's entry, are 8. -/
def recordAt128 : Nat := packDetail [(128, 64), (0, 48), (rgnType 40, 4), (rgnNumber 40, 8), (3, 4)]

/-- Device 5, root and only voter of barrier 0, whose result goes to device 6 by port 0. Slice region 40 is traced with TRACE_STALL, its FIFO
is full, and TRACE_BASE is COLL_BASE. -/
def tracedBarrier : State :=
  { (State.reset.setAll [(Cmd.powerState, 2), (Cmd.runState, 2), (Fab.deviceId, 5), (Coll.collBase, 0x2000), (Coll.ncoll, 1),
      (Rgn.state 40, 0), (Obs.traceEn, 1), (Obs.traceStall, 1), (Obs.traceKinds, 4), (Obs.traceRegionsLo, 2 ^ 40), (Obs.traceMib, 1),
      (Obs.traceBase, 0x2000)]).store 0x2000 (leBytes 32 (1 + 7 * 16)) with
    sched := { trees := [(0, ⟨[], none, [5], 0⟩)], mcasts := [(0, [(0, 6)])] }
    traceFifo := [(40, List.replicate 64 recordAt128)] }

/-- The vote that VOTE casts on a barrier in step 0 (R244). -/
def barrierVote : Nat := votePayload 1 true 0 0 1 0

/-- The device runs, may vote on barrier 0, and is its root with every vote. -/
theorem tracedBarrier_decides :
    tracedBarrier.active = true ∧ tracedBarrier.running = true ∧ tracedBarrier.nextVote = some 0 ∧ tracedBarrier.mayVote 0 = true ∧
    tracedBarrier.isRoot 0 = true ∧ (tracedBarrier.tree 0).children = [] ∧ tracedBarrier.voters 0 = voteCount barrierVote ∧
    tracedBarrier.collKind 0 = 7 := by decide

/-- The packet of the result drains the oldest record into the ring, over the barrier's entry, which reads as that of a COMMIT then. -/
theorem tracedBarrier_collKind :
    ((tracedBarrier.recordVote 0 barrierVote).sendResult 0 (resultOf barrierVote)).collKind 0 = 8 := by decide

/-- So the barrier's result commits the step. -/
theorem tracedBarrier_castVote : tracedBarrier.castVote 0 barrierVote =
    ((tracedBarrier.recordVote 0 barrierVote).sendResult 0 (resultOf barrierVote)).commitStep := by
  obtain ⟨-, -, -, -, hroot, hkids, hvoters, -⟩ := tracedBarrier_decides
  rw [State.castVote_of_alone hroot hkids hvoters, State.applyResult_of_commit tracedBarrier_collKind (by decide)]

end Sys2Proof.Machine

open Sys2Proof Sys2Proof.Machine Sys2Proof.Safety

/-- Refutes O50: its clause of the barrier that ends has no condition on the trace. A root applies the result after it has sent it, and the
sending may write memory, as a full FIFO with TRACE_STALL drains into the ring (R443). Where the ring lies over the collective table, the
barrier's KIND is read anew as 8 (COMMIT): the step commits, and the barrier is not among those that have completed. -/
theorem not_votesAndCommits : ¬ Obligations.VotesAndCommits := by
  intro h
  obtain ⟨hactive, hrunning, -, -, hroot, hkids, hvoters, hkind⟩ := tracedBarrier_decides
  obtain ⟨-, -, hbarrier, -⟩ := h tracedBarrier 0 barrierVote 0 ⟨0, true, 1, 1, [], 0, 0, 0, 0, 0, 0, 0, 0⟩ false hactive hrunning
  obtain ⟨-, hdone⟩ := hbarrier hroot hkids hvoters hkind
  have hnone : ((tracedBarrier.recordVote 0 barrierVote).sendResult 0 (resultOf barrierVote)).commitStep.commit.done = [] := by decide
  rw [tracedBarrier_castVote, hnone] at hdone
  exact List.not_mem_nil hdone

end

section
/-! SUPPORT. ABORT_STEP's two forms: what each answers by the step that it names and by the run state (R223, R365-R367, R395). -/

namespace Sys2Proof.Machine

open Sys2Proof Safety

/-! ### What a mailbox's taking of an ABORT_STEP leaves (R401) -/

theorem taken_step (s : State) (h : HostHdr) (w : List W64) : (taken s h w).step = s.step :=
  taken_part State.step (fun _ _ _ => rfl) (fun _ _ _ => rfl) (fun _ _ _ => rfl) s h w

theorem taken_aborting (s : State) (h : HostHdr) (w : List W64) : (taken s h w).aborting = s.aborting :=
  taken_part State.aborting (fun _ _ _ => rfl) (fun _ _ _ => rfl) (fun _ _ _ => rfl) s h w

theorem taken_abortDue (s : State) (h : HostHdr) (w : List W64) : (taken s h w).abortDue = s.abortDue :=
  taken_part State.abortDue (fun _ _ _ => rfl) (fun _ _ _ => rfl) (fun _ _ _ => rfl) s h w

/-! ### FORM 0 (R365, R367) -/

section
variable {s : State} {h : HostHdr} {u : Nat} (hr : s.get Cmd.runState = 0 ∨ s.get Cmd.runState = 2)
include hr

/-- On a stopped or a running device ABORT_STEP is not refused for a stop or a start in progress (R395). -/
theorem State.abortWork_eq : State.abortWork h u s =
    if u < s.step then .err s stDone
    else if s.step < u then .err s stBadParam
    else if s.aborting.isSome then .err s stBusy
    else if s.abortDue.isSome then .err s stDone
    else if s.running then .later (State.abortRun { s.epochAbort.turns with abortCmd := some h })
    else .ok { s.epochAbort.turns with abortDue := some u } [1] :=
  if_neg (by omega)

theorem State.abortWork_past (hu : u < s.step) : State.abortWork h u s = .err s stDone := by
  rw [State.abortWork_eq hr, if_pos hu]

theorem State.abortWork_beyond (hu : s.step < u) : State.abortWork h u s = .err s stBadParam := by
  rw [State.abortWork_eq hr, if_neg (by omega), if_pos hu]

/-- The step in progress, by the abort that runs or is deferred already. -/
theorem State.abortWork_present (hu : u = s.step) : State.abortWork h u s =
    if s.aborting.isSome then .err s stBusy
    else if s.abortDue.isSome then .err s stDone
    else if s.running then .later (State.abortRun { s.epochAbort.turns with abortCmd := some h })
    else .ok { s.epochAbort.turns with abortDue := some u } [1] := by
  rw [State.abortWork_eq hr, if_neg (by omega), if_neg (by omega)]

end

/-- An admitted ABORT_STEP of FORM 0 is its work on the state that the mailbox has taken. -/
theorem exec_abortStep_of_admitted {s : State} {h : HostHdr} {w : List W64} (ha : admitted (.abortStep h w) s) (hf : h.form = 0) :
    exec (.abortStep h w) s = .next (State.settle 0x22 h.tag.toNat (State.abortWork h (param w 0) (taken s h w))) := by
  have hform : ¬ h.form = 1 := by rw [hf]; decide
  have hexec := exec_of_admitted ha rfl (body := if h.form = 1 then State.commitWork (param w 0) else State.abortWork h (param w 0)) rfl
  rwa [if_neg hform] at hexec

/-! ### The COMMIT form (R366) -/

theorem State.commitWork_eq {s : State} (hr : s.get Cmd.runState = 0 ∨ s.get Cmd.runState = 2) (u : Nat) : State.commitWork u s =
    if u < s.step then .err s stDone
    else if u = s.step ∧ s.get Surv.lastVoteStep = u ∧ s.flag Surv.lastVoteOk then .ok s.commitStep.turns [0]
    else .err s stBadParam :=
  if_neg (by omega)

theorem exec_abortStepCommit_of_admitted {s : State} {h : HostHdr} {w : List W64} (ha : admitted (.abortStepCommit h w) s) (hf : h.form = 1) :
    exec (.abortStepCommit h w) s = .next (State.settle 0x22 h.tag.toNat (State.commitWork (param w 0) (taken s h w))) := by
  have hexec := exec_of_admitted ha rfl (body := if h.form = 1 then State.commitWork (param w 0) else State.abortWork h (param w 0)) rfl
  rwa [if_pos hf] at hexec

end Sys2Proof.Machine

open Sys2Proof Sys2Proof.Machine Sys2Proof.Safety

/-- Settles O33: each form's work on the state that its mailbox has taken, which has the step, the run state, the aborts and the last vote
of the device. -/
theorem abortStepNamesTheStep : Obligations.AbortStepNamesTheStep := by
  intro s h w t u
  have hrun : t.get Cmd.runState = s.get Cmd.runState := taken_runState s h w
  have hstep : t.step = s.step := taken_step s h w
  have haborting : t.aborting = s.aborting := taken_aborting s h w
  have hdue : t.abortDue = s.abortDue := taken_abortDue s h w
  refine ⟨fun ha hf hr => ?_, fun ha hf hr => ?_⟩
  · rw [← hrun] at hr
    rw [exec_abortStep_of_admitted ha hf, ← hstep, ← haborting, ← hdue, ← hrun]
    refine ⟨fun hu => ?_, fun hu => ?_, fun hu hb => ?_, fun hu hb hd => ?_, fun hu hb hd h0 => ?_, fun hu hb hd h2 => ?_⟩
    · rw [State.abortWork_past hr hu, next_settle_err]
    · rw [State.abortWork_beyond hr hu, next_settle_err]
    · rw [State.abortWork_present hr hu, if_pos (Option.isSome_iff_ne_none.2 hb), next_settle_err]
    · rw [State.abortWork_present hr hu, if_neg (by simp [hb]), if_pos (Option.isSome_iff_ne_none.2 hd), next_settle_err]
    · rw [State.abortWork_present hr hu, if_neg (by simp [hb]), if_neg (by simp [hd]), if_neg (by simp [State.running, h0]), next_settle_ok]
    · rw [State.abortWork_present hr hu, if_neg (by simp [hb]), if_neg (by simp [hd]), if_pos (by simp [State.running, h2])]
      rfl
  · have hvote : t.get Surv.lastVoteStep = s.get Surv.lastVoteStep := taken_get_above s h w (by decide)
    have hok : t.flag Surv.lastVoteOk = s.flag Surv.lastVoteOk := congrArg (· != 0) (taken_get_above s h w (by decide))
    rw [← hrun] at hr
    rw [exec_abortStepCommit_of_admitted ha hf, State.commitWork_eq hr, ← hstep, ← hvote, ← hok]
    refine ⟨fun hu => ?_, fun hu hlast hyes => ?_, fun hu hno => ?_⟩
    · rw [if_pos hu, next_settle_err]
    · rw [if_neg (by omega), if_pos ⟨hu, hlast, hyes⟩, next_settle_ok]
    · rw [if_neg (by omega), if_neg hno, next_settle_err]

end

section
/-! SUPPORT. The use of a packet by its kind: writes into regions, signal adds and acknowledgements, and the memory that a delivery leaves where
no record waits in a stall (R250, R258, R259, R261, R268, R443). -/

namespace Sys2Proof.Machine

open Sys2Proof Safety

/-! ### Deliveries while no handshake waits for the trace (R284, R310, R443) -/

/-- From z, the state t has the same memory, and TRACE_STALL is off, so that no trace record is written to memory next. -/
structure Unstalled (z t : State) : Prop where
  mem : t.mem = z.mem
  stall : t.flag Obs.traceStall = false

/-- A register at another address is not TRACE_STALL. -/
theorem traceStall_key_ne {g : Field} (ha : g.addr ≠ 0x3F000D000008) (hl : g.lo < 64) : Obs.traceStall.key ≠ g.key := by
  simp only [Field.key, Obs.traceStall]
  omega

theorem rgnEvent_addr_ne (r : Nat) : (Rgn.event r).addr ≠ 0x3F000D000008 := by
  have halign : rgnBase r % 0x1000 = 0 := by
    unfold rgnBase benchBase forgeBase portDieBase
    dsimp only
    split
    · omega
    · split
      · omega
      · split <;> omega
  simp only [Rgn.event]
  omega

namespace Unstalled

variable {z s t : State}

theorem refl (h : s.flag Obs.traceStall = false) : Unstalled s s := ⟨rfl, h⟩

/-- A change of neither memory nor TRACE_STALL. -/
theorem other (h : Unstalled z s) (hm : t.mem = s.mem) (hf : t.get Obs.traceStall = s.get Obs.traceStall) : Unstalled z t :=
  ⟨hm.trans h.mem, (congrArg (· != 0) hf).trans h.stall⟩

theorem set (h : Unstalled z s) {g : Field} (v : Nat) (ha : g.addr ≠ 0x3F000D000008) (hl : g.lo < 64) : Unstalled z (s.set g v) :=
  h.other rfl (State.get_set_ne s v (traceStall_key_ne ha hl))

theorem bump (h : Unstalled z s) {g : Field} (n : Nat) (ha : g.addr ≠ 0x3F000D000008) (hl : g.lo < 64) : Unstalled z (s.bump g n) :=
  h.set _ ha hl

/-- A record waits in its FIFO or is dropped: without TRACE_STALL the ring is left for later (R443). -/
theorem trace (h : Unstalled z s) (r kind : Nat) (l : List (Nat × Nat)) : Unstalled z (s.trace r kind l) := by
  refine h.other ?_ (s.trace_get r kind l (by decide))
  unfold State.trace
  dsimp only
  split
  · split
    · rfl
    · rw [if_neg (by simp [h.stall])]
      rfl
  · rfl

theorem ringHop (h : Unstalled z s) (pkt : Pkt) (dir i : Nat) : Unstalled z (s.ringHop pkt dir i) := by
  refine ((bump (bump (by exact h.other rfl rfl) _ ?_ ?_) 1 (rgnEvent_addr_ne _) (by simp [Rgn.event])).trace _ _ _) <;>
    split <;> simp only [Aoc.bytesFwd, Aoc.bytesRev] <;> omega

theorem ringLeave (h : Unstalled z s) (pkt : Pkt) (dir i : Nat) : Unstalled z (s.ringLeave pkt dir i) := h.other rfl rfl

theorem ringCross (h : Unstalled z s) (pkt : Pkt) (a b : Nat) : Unstalled z (s.ringCross pkt a b) :=
  List.foldlRecOn _ _ h fun _ ht i _ => (ht.ringHop pkt _ i).ringLeave pkt _ i

theorem stage (h : Unstalled z s) (n bytes : Nat) : Unstalled z (s.stage n bytes) :=
  (h.set (g := Sl.stagingUsed n) _ (by simp only [Sl.stagingUsed, forgeBase]; omega) (by simp [Sl.stagingUsed])).set
    (g := Sl.stagingMax n) _ (by simp only [Sl.stagingMax, forgeBase]; omega) (by simp [Sl.stagingMax])

theorem unstage (h : Unstalled z s) (n bytes : Nat) : Unstalled z (s.unstage n bytes) :=
  h.set _ (by simp only [Sl.stagingUsed, forgeBase]; omega) (by simp [Sl.stagingUsed])

/-- A delivery crosses the ring, stages the packet and emits a token: memory is what the body made of it. -/
theorem delivered (h : Unstalled z s) (p n : Nat) (pkt : Pkt) : Unstalled z (s.delivered p n pkt) :=
  ((((((h.ringCross pkt _ _).bump 1 (by simp only [Sl.delivered, forgeBase]; omega) (by simp [Sl.delivered])).stage n _).unstage n _).bump 1
    (rgnEvent_addr_ne _) (by simp [Rgn.event])).trace _ _ _)

/-- Monitor slots that fire change neither. -/
theorem fireMons (h : Unstalled z s) (a n : Nat) : Unstalled z (s.fireMons a n) := by
  have hmons := s.fireMons_monitorsOnly a n
  refine h.other (by rw [hmons.eq]) (hmons.get _ fun c => ⟨traceStall_key_ne ?_ ?_, traceStall_key_ne ?_ ?_⟩) <;>
    simp only [Cmp.monArmed, Cmp.monFired, stnBase, if_true, benchBase, forgeBase] <;> omega

end Unstalled

/-! ### Writes into a region (R258, R259) -/

section
variable {s : State} {p a : Nat} {pkt : Pkt} {ok : RegionEntry → Bool}

theorem State.writeBody_of_refused (h : s.regionAddr (pktRh pkt) (pktOffset pkt) (pktLength pkt) ok = none) :
    s.writeBody p pkt ok = (s.refuseAccess p (pktSrc pkt) (pktRh pkt) (pktOffset pkt), .nack 1) := by
  simp only [State.writeBody, h]

theorem State.writeBody_of_permitted (h : s.regionAddr (pktRh pkt) (pktOffset pkt) (pktLength pkt) ok = some a)
    (hram : s.ramOk a pkt.payload.length = true) (herr : s.storeErr a pkt.payload.length = none) :
    s.writeBody p pkt ok = ((s.put a pkt.payload).delivered p (sliceOf a) pkt, .accept) := by
  simp [State.writeBody, h, hram, herr]

end

/-- Bytes stored at once and their packet delivered: they stand in memory, and every other byte is as it was. -/
theorem State.rd_put_delivered {s : State} (hstall : s.flag Obs.traceStall = false) (a p n x : Nat) (bs : List Byte) (pkt : Pkt) :
    ((s.put a bs).delivered p n pkt).rd x = if a ≤ x ∧ x < a + bs.length then bs.getD (x - a) 0 else s.rd x := by
  have hbytes : Unstalled (s.putBytes a bs) (s.putBytes a bs) := Unstalled.refl hstall
  have hmem : ((s.put a bs).delivered p n pkt).mem = memWrite s.mem a bs :=
    (State.put_eq s a bs ▸ (hbytes.fireMons a bs.length).delivered p n pkt).mem
  rw [State.rd, hmem]
  exact memRead_write ..

/-! ### Signal adds (R246, R250) -/

/-- An add leaves TRACE_STALL as it is: it writes the word, the LAST fields of its entry and monitor slots. -/
theorem State.unstalled_of_added {s t : State} {a inc : Nat} {who : Signaller} (hstall : s.flag Obs.traceStall = false)
    (h : s.sigAdd a inc who = .added t) : Unstalled t t := by
  unfold State.sigAdd at h
  split at h
  · cases h
  · split at h
    · cases h
    · dsimp only at h
      split at h
      · cases h
      · cases h
        exact Unstalled.refl (Unstalled.stall (Unstalled.fireMons (Unstalled.refl (by exact hstall)) a 8))

section
variable {s : State} {p a : Nat} {pkt : Pkt} (hlen : pkt.payload.length = 16) (hres : leNat pkt.payload / 2 ^ 70 = 0)
include hlen hres

/-- The payload of a sound add passes the check of its reserved bits. -/
theorem sigPayload_sound : ¬ (pkt.payload.length ≠ 16 ∨ bits (leNat pkt.payload) 70 58 ≠ 0) := by
  rw [bits, hres]
  simp [hlen]

theorem State.signalBody_of_reserved (hlo : 0xFF00 ≤ pktRh pkt) (hne : pktRh pkt ≠ 0xFF20) : s.signalBody p pkt = (s, .nack 2) := by
  unfold State.signalBody
  dsimp only
  rw [if_neg (sigPayload_sound hlen hres), if_pos ⟨hlo, hne⟩]

theorem State.signalBody_of_refused (hlt : pktRh pkt < 0xFF00)
    (haddr : s.regionAddr (pktRh pkt) (pktOffset pkt) 8 (fun _ => true) = none) :
    s.signalBody p pkt = (s.refuseAccess p (pktSrc pkt) (pktRh pkt) (pktOffset pkt), .nack 1) := by
  have hword : s.signalAddr pkt = none := by rw [State.signalAddr, if_neg (by omega), haddr]
  unfold State.signalBody
  dsimp only
  rw [if_neg (sigPayload_sound hlen hres), if_neg (by omega), hword]

theorem State.signalBody_of_added {t : State} (hrh : pktRh pkt = 0xFF20 ∨ pktRh pkt < 0xFF00) (hword : s.signalAddr pkt = some a)
    (hadd : s.sigAdd a (leNat pkt.payload % 2 ^ 64) ⟨pktSrc pkt, leNat pkt.payload / 2 ^ 64 % 2 ^ 6⟩ = .added t) :
    s.signalBody p pkt = (t.delivered p (dieOf a) pkt, .accept) := by
  have hinc : bits (leNat pkt.payload) 0 64 = leNat pkt.payload % 2 ^ 64 := by rw [bits, pow_zero, Nat.div_one]
  have hbench : bits (leNat pkt.payload) 64 6 = leNat pkt.payload / 2 ^ 64 % 2 ^ 6 := rfl
  unfold State.signalBody
  dsimp only
  rw [if_neg (sigPayload_sound hlen hres), if_neg (by omega), hword]
  dsimp only
  rw [hinc, hbench, hadd]

end

/-! ### Acknowledgements (R268) -/

/-- Where no packet waits and no copy is a service's, an ACK releases the copies that it covers and does no more. -/
theorem State.ackRelease_flights {s : State} {peer : Nat} (hwait : (s.dst peer).waiting = []) (hdma : ∀ f ∈ (s.dst peer).flights, f.dma = none)
    (cum map : Nat) :
    s.ackRelease peer cum map =
      s.setDst peer { s.dst peer with flights := (s.dst peer).flights.filter fun f => !ackCovers cum map (pktSeq f.pkt) } := by
  have hgone : ((s.dst peer).flights.filter fun f => ackCovers cum map (pktSeq f.pkt)).filterMap (·.dma) = [] :=
    List.filterMap_eq_nil_iff.2 fun f hf => hdma f (List.mem_of_mem_filter hf)
  unfold State.ackRelease
  simp only [List.partition_eq_filter_filter, hwait, List.length_nil, State.refillDst, hgone, List.foldl_nil]
  rfl

theorem State.ackBody_of_sound {s : State} {p : Nat} {pkt : Pkt} (h : ackOk pkt false = true) :
    s.ackBody p pkt = (s.ackRelease (leNat pkt.payload % 2 ^ 20) (leNat pkt.payload / 2 ^ 32 % 2 ^ 32) (leNat pkt.payload / 2 ^ 64 % 2 ^ 64),
      .accept) := by
  simp [State.ackBody, h, bits]

/-! ### Bodies by kind (R261) -/

section
variable {s : State} {p : Nat} {pkt : Pkt}

theorem State.body_of_signal (h : pktKind pkt = 1) : s.body p pkt = s.signalBody p pkt := by simp only [State.body, h]

theorem State.body_of_ack (h : pktKind pkt = 4) : s.body p pkt = s.ackBody p pkt := by simp only [State.body, h]

/-- A READ of a handle that is no service (log entry 12). -/
theorem State.body_of_reserved_read (h : pktKind pkt = 2) (h0 : pktRh pkt ≠ 0xFF00) (h1 : pktRh pkt ≠ 0xFF01) :
    s.body p pkt = (s, .nack 2) := by
  simp only [State.body, h, h0, h1, if_false]

/-- An unscheduled WRITE to a reserved handle. -/
theorem State.body_of_reserved_write (h : pktKind pkt = 0) (hvc : pktVc pkt ≠ 0) (hrh : 0xFF00 ≤ pktRh pkt) : s.body p pkt = (s, .nack 2) := by
  simp [State.body, h, State.kind0Body, hvc, hrh]

end

end Sys2Proof.Machine

open Sys2Proof Sys2Proof.Machine Sys2Proof.Safety

/-- Settles O47: the body of each kind by its checks. What a delivery adds to the body leaves memory as it is while TRACE_STALL is off. -/
theorem packetBodiesFollowTheirKind : Obligations.PacketBodiesFollowTheirKind := by
  intro s p a pkt ok
  refine ⟨State.writeBody_of_refused, fun haddr hram herr => ?_, fun hk hlen hres hrh t hadd => ?_, fun hk hlen hres hlo hne => ?_,
    fun hk hlen hres hlt haddr => ?_, State.body_of_reserved_read, State.body_of_reserved_write, fun hk hok hwait hdma f => ?_⟩
  · rw [State.writeBody_of_permitted haddr hram herr]
    exact ⟨rfl, fun hstall x => State.rd_put_delivered hstall a p (sliceOf a) x pkt.payload pkt⟩
  · obtain ⟨hhandle, hword⟩ : (pktRh pkt = 0xFF20 ∨ pktRh pkt < 0xFF00) ∧ s.signalAddr pkt = some a := by
      obtain ⟨hservice, rfl⟩ | ⟨hlt, haddr⟩ := hrh
      · exact ⟨.inl hservice, if_pos hservice⟩
      · exact ⟨.inr hlt, (if_neg (by omega)).trans haddr⟩
    rw [State.body_of_signal hk, State.signalBody_of_added hlen hres hhandle hword hadd]
    exact ⟨rfl, fun hstall => ((State.unstalled_of_added hstall hadd).delivered p (dieOf a) pkt).mem⟩
  · rw [State.body_of_signal hk, State.signalBody_of_reserved hlen hres hlo hne]
  · rw [State.body_of_signal hk, State.signalBody_of_refused hlen hres hlt haddr]
    rfl
  · rw [State.body_of_ack hk, State.ackBody_of_sound hok, State.ackRelease_flights hwait hdma, State.dst_setDst_same]
    simp

end

section
/-! SUPPORT. The arrival commands: a packet of the command's class comes to its port, any other brings nothing, and a frame that the receive FIFO
loses is logged (R48, R258, R260, R261, R284). -/

namespace Sys2Proof.Machine

open Sys2Proof Safety

theorem State.arriveIf_of_class {s : State} {pkt : Pkt} {ok : Bool} (p : Nat) (hme : s.forMe pkt = true) (hok : ok = true) :
    s.arriveIf p pkt ok = s.arrive p pkt := if_pos (by rw [hme, hok]; rfl)

theorem State.arriveIf_of_other {pkt : Pkt} {ok : Bool} (s : State) (p : Nat) (hok : ok = false) : s.arriveIf p pkt ok = s :=
  if_neg (by simp [hok])

theorem State.canArrive_iff (s : State) (p : Nat) : s.canArrive p = true ↔ s.active = true ∧ s.portUp p = true ∧ p < 512 := by
  simp [State.canArrive, and_assoc]

theorem State.canArrive_eq_false_iff (s : State) (p : Nat) :
    s.canArrive p = false ↔ s.active = false ∨ s.portUp p = false ∨ 512 ≤ p := by
  rw [State.canArrive, Bool.and_eq_false_iff, Bool.and_eq_false_iff, decide_eq_false_iff_not, Nat.not_lt, or_assoc]

/-- The frame that a receive FIFO loses is shown by SUPPLY where one can arrive, and nowhere else (R48). -/
theorem State.fifoSpills_of_arrival {s : State} {p : Nat} (h : s.canArrive p = true) : s.fifoSpills p = s.logE clSupply (.port p) 0 [] :=
  if_pos h

theorem State.fifoSpills_of_none {s : State} {p : Nat} (h : s.canArrive p = false) : s.fifoSpills p = s := if_neg (by simp [h])

theorem State.isMgmt_of_type {s : State} {pkt : Pkt} {type : Nat} (hme : s.forMe pkt = true) (hkind : pktKind pkt = 6)
    (htype : mgmtType pkt = type) : s.isMgmt pkt type = true := by
  simp [State.isMgmt, hme, hkind, htype]

/-- A kind with commands of its own does not come as a write. -/
theorem State.isWrite_of_otherKind {s : State} {pkt : Pkt} (p : Nat) (h0 : pktKind pkt ≠ 0) (h8 : pktKind pkt < 8) : s.isWrite p pkt = false := by
  simp [State.isWrite, h0, h8]

end Sys2Proof.Machine

open Sys2Proof Sys2Proof.Machine Sys2Proof.Safety

/-- Settles O44: each command by the class that it asks for. -/
theorem packetsArriveByTheirClass : Obligations.PacketsArriveByTheirClass := by
  intro s p pkt hme come plain
  have comes {ok : Bool} (hok : ok = true) : Host.Outcome.next (s.arriveIf p pkt ok) = come :=
    congrArg Host.Outcome.next (State.arriveIf_of_class p hme hok)
  have stays {ok : Bool} (hok : ok = false) : (Host.Outcome.next (s.arriveIf p pkt ok) : Host.Outcome State Fault Refusal) = .next s :=
    congrArg Host.Outcome.next (s.arriveIf_of_other p hok)
  have manages {type : Nat} (hm : pktMirror pkt = false) (hk : pktKind pkt = 6) (ht : mgmtType pkt = type) :
      Host.Outcome.next (s.arriveIf p pkt (s.isMgmt pkt type && !pktMirror pkt)) = come :=
    comes (by rw [State.isMgmt_of_type hme hk ht, hm]; rfl)
  refine ⟨comes,
    fun (hm : pktMirror pkt = false) hk => comes (by simp [hm, hk]),
    fun (hm : pktMirror pkt = false) hk hrh => comes (by simp [hm, hk, hrh]),
    fun (hm : pktMirror pkt = false) hk hrh => comes (by simp [hm, hk, hrh]),
    fun (hm : pktMirror pkt = false) hk => comes (by simp [hm, hk]),
    fun (hm : pktMirror pkt = false) hk => comes (by simp [hm, hk]),
    fun (hm : pktMirror pkt = false) hk => comes (by simp [hm, hk]),
    fun (hm : pktMirror pkt = false) hk => comes (by simp [hm, hk]),
    fun hm hk => ⟨fun ht => ?_, manages hm hk, manages hm hk, manages hm hk, manages hm hk, manages hm hk⟩,
    fun hm hk => ?_,
    fun hk => comes (by simp [State.isWrite, hk]),
    fun _ hk => ⟨fun h8 => stays (State.isWrite_of_otherKind p hk h8), stays (by simp [hk])⟩,
    congrArg Host.Outcome.next (if_pos hme),
    fun ha hu hp => ?_, fun hno => ?_⟩
  · have hm : pktMirror pkt = false := hm
    exact comes (by simp [hm, hk, ht])
  · have hm : pktMirror pkt = false := hm
    exact ⟨fun hc hr => comes (by simp [hm, hc, hr]), fun hc hr => comes (by simp [hm, hc, hr]),
      fun hc hvc hrh => comes (by simp [hm, hk, hc, hvc, hrh]), fun hc hr => comes (by simp [hm, hc, hr]),
      fun hc hr hfetch => comes (by simpa [State.isWrite, hm, hk, hc, hr] using not_and_or.1 hfetch)⟩
  · have hspill := State.fifoSpills_of_arrival ((s.canArrive_iff p).2 ⟨ha, hu, hp⟩)
    exact ⟨congrArg Host.Outcome.next hspill, congrArg Host.Outcome.next hspill⟩
  · have hnone := State.fifoSpills_of_none ((s.canArrive_eq_false_iff p).2 hno)
    exact ⟨congrArg Host.Outcome.next hnone, congrArg Host.Outcome.next hnone⟩

end

section
/-! SUPPORT. The destination's checks: SEQ against the window of R269, and what a failed CRC leaves (R42, R263, R268, R269, R281). -/

namespace Sys2Proof.Machine

open Sys2Proof Safety

/-! ### Sequence numbers (R269, R281) -/

/-- How far a SEQ lies beyond CUM, modulo 2^32 (R281). -/
def seqDist (cum seq : Nat) : Nat := (seq + 2 ^ 32 - cum) % 2 ^ 32

namespace SrcState

variable {x : SrcState} {seq : Nat}

theorem classify_eq (x : SrcState) (seq : Nat) : x.classify seq =
    if 2 ^ 31 ≤ seqDist x.cum seq then .duplicate else if 4096 ≤ seqDist x.cum seq then .beyond
    else if seq ∈ x.got ∨ seq ∈ x.held then .duplicate else .accepted := rfl

theorem classify_of_passed (h : 2 ^ 31 ≤ seqDist x.cum seq) : x.classify seq = .duplicate := by
  rw [classify_eq, if_pos h]

theorem classify_of_got (h : seqDist x.cum seq < 4096) (hgot : seq ∈ x.got) : x.classify seq = .duplicate := by
  rw [classify_eq, if_neg (by omega), if_neg (by omega), if_pos (.inl hgot)]

theorem seqDist_of_accepted (h : x.classify seq = .accepted) : seqDist x.cum seq < 4096 := by
  rw [classify_eq] at h
  split at h
  · cases h
  · split at h
    · cases h
    · omega

theorem seqDist_of_duplicate (h : x.classify seq = .duplicate) : seqDist x.cum seq < 4096 ∨ 2 ^ 31 ≤ seqDist x.cum seq := by
  rw [classify_eq] at h
  split at h
  · omega
  · split at h
    · cases h
    · omega

/-- CUM has moved n places on from c: it stays within the window because every received number does, and seq is passed or still listed. -/
structure Moved (c seq n : Nat) (y : SrcState) : Prop where
  cum : y.cum = (c + n) % 2 ^ 32
  within : n ≤ 4096
  window : ∀ g ∈ y.got, seqDist c g < 4096 ∨ 2 ^ 31 ≤ seqDist c g
  seen : seqDist c seq < n ∨ seq ∈ y.got

theorem Moved.advance {c n : Nat} {y : SrcState} (hc : c < 2 ^ 32) (h : Moved c seq n y) (k : Nat) : ∃ m, Moved c seq m (y.advance k) := by
  induction k generalizing y n with
  | zero => exact ⟨n, h⟩
  | succ k ih =>
    unfold SrcState.advance
    split
    next hmem =>
      have hcum := h.cum
      have hwithin := h.within
      have hdist : seqDist c y.cum = n := by simp only [seqDist]; omega
      have hwindow := h.window _ hmem
      refine ih (n := n + 1) ⟨by simp only; omega, by omega, fun g hg => h.window g (List.mem_of_mem_filter hg), ?_⟩
      obtain hpassed | hlisted := h.seen
      · exact .inl (by omega)
      · by_cases heq : seq = y.cum
        · exact .inl (by rw [heq, hdist]; omega)
        · exact .inr (List.mem_filter.2 ⟨hlisted, by simpa using heq⟩)
    next => exact ⟨n, h⟩

theorem Moved.duplicate {c m : Nat} {y : SrcState} (hc : c < 2 ^ 32) (hseq : seq < 2 ^ 32) (hd : seqDist c seq < 4096) (h : Moved c seq m y) :
    y.classify seq = .duplicate := by
  obtain ⟨hcum, hwithin, -, hseen⟩ := h
  by_cases hpassed : seqDist c seq < m
  · refine classify_of_passed ?_
    simp only [seqDist, hcum] at *
    omega
  · refine classify_of_got ?_ (hseen.resolve_left hpassed)
    simp only [seqDist, hcum] at *
    omega

/-- A SEQ that is accepted and marked is a duplicate from then on (R269). -/
theorem mark_duplicate (hcum : x.cum < 2 ^ 32) (hseq : seq < 2 ^ 32) (hgot : ∀ g ∈ x.got, x.classify g = .duplicate)
    (h : x.classify seq = .accepted) : (x.mark seq).classify seq = .duplicate ∧ (x.mark seq).cum < 2 ^ 32 := by
  have hd := seqDist_of_accepted h
  have hstart : Moved x.cum seq 0 { x with got := x.got ++ [seq] } := by
    refine ⟨(Nat.mod_eq_of_lt hcum).symm, by omega, fun g hg => ?_, .inr (by simp)⟩
    obtain hold | rfl : g ∈ x.got ∨ g = seq := by simpa using hg
    · exact seqDist_of_duplicate (hgot g hold)
    · exact .inl hd
  obtain ⟨m, hm⟩ := hstart.advance hcum (x.got.length + 1)
  exact ⟨hm.duplicate hcum hseq hd, hm.cum ▸ Nat.mod_lt _ (by decide)⟩

end SrcState

/-! ### Errors at a slice's region (R42, R43) -/

theorem sliceOf_lt (a : Nat) : sliceOf a < 8 := by
  unfold sliceOf dieOf isLpddr isStone
  simp only [decide_eq_true_eq]
  split_ifs <;> omega

section
variable {α : Type} (p : State → α) (hset : ∀ t f v, p (State.set t f v) = p t) (hstore : ∀ t a bs, p (State.store t a bs) = p t)
  (hfifo : ∀ (t : State) x, p { t with traceFifo := x } = p t) (hrgns : ∀ (t : State) x, p { t with rgns := x } = p t)
include hset hstore hfifo

theorem State.applyCode_part (s : State) (r : Nat) : p (s.applyCode r) = p s := by
  unfold State.applyCode
  dsimp only
  split
  · rfl
  · exact (State.trace_part p hset hstore hfifo _ _ _ _).trans (hset _ _ _)

include hrgns

/-- A margin that rises at a region that is no bench retires none (R43). -/
theorem State.marginRaise_part (s : State) {r : Nat} (hr : 40 ≤ r) (b : Nat) : p (s.marginRaise r b) = p s := by
  unfold State.marginRaise
  dsimp only
  split
  · exact (State.applyCode_part p hset hstore hfifo _ r).trans ((hset _ _ _).trans (hrgns s _))
  · rw [if_neg (by omega)]
    exact (hset _ _ _).trans ((hset _ _ _).trans ((hset _ _ _).trans ((hset _ _ _).trans (hrgns s _))))

theorem State.rgnError_part (s : State) {r : Nat} (hr : 40 ≤ r) : p (s.rgnError r) = p s := by
  unfold State.rgnError
  dsimp only
  split
  · exact (State.marginRaise_part p hset hstore hfifo hrgns _ hr _).trans (hrgns s _)
  · exact hrgns s _

/-- A failed CRC leaves every part of the state but registers, memory, the log, the records that wait and the margin records. -/
theorem State.crcFailed_part (hlog : ∀ (t : State) x, p { t with log := x } = p t) (s : State) (n : Nat) (pkt : Pkt) :
    p (s.crcFailed n pkt) = p s := by
  unfold State.crcFailed
  dsimp only
  split
  · exact hset _ _ _
  · exact (State.rgnError_part p hset hstore hfifo hrgns _ (by omega)).trans ((hset _ _ _).trans
      ((State.logE_part p hset hstore hfifo hlog _ _ _ _ _).trans (hset _ _ _)))

end

/-- The registers of the hub lie below those of the regions, of the ports' counters and of the trace block (R406). -/
theorem key_ne_of_hub {f g : Field} (hf : f.key < 64 * 0x3F0001000000) (hg : 0x3F0001000000 ≤ g.addr) : f.key ≠ g.key := by
  simp only [Field.key] at *
  omega

theorem rgnBase_aboveHub (r : Nat) : 0x3F0001000000 ≤ rgnBase r := by
  unfold rgnBase benchBase forgeBase portDieBase
  dsimp only
  split
  · omega
  · split
    · omega
    · split <;> omega

/-- The fields that an alert writes (R466). -/
def alertFields : List Field := [Side.alertPend, Side.alertCount, Side.alertOut]

section
variable {f : Field} (hf : f.key < 64 * 0x3F0001000000)
include hf

theorem ne_traceFields_of_hub : ∀ g ∈ traceFields, f.key ≠ g.key := fun g hg =>
  key_ne_of_hub hf ((by decide : ∀ g ∈ traceFields, 0x3F0001000000 ≤ g.addr) g hg)

theorem State.applyCode_get_hub (s : State) (r : Nat) : (s.applyCode r).get f = s.get f := by
  unfold State.applyCode
  dsimp only
  split
  · rfl
  · exact (State.trace_get _ _ _ _ (ne_traceFields_of_hub hf)).trans
      (State.get_set_ne _ _ (key_ne_of_hub hf ((rgnBase_aboveHub r).trans (by simp [Rgn.applied]))))

theorem State.marginRaise_get_hub (halert : ∀ g ∈ alertFields, f.key ≠ g.key) (s : State) {r : Nat} (hr : 40 ≤ r) (b : Nat) :
    (s.marginRaise r b).get f = s.get f := by
  have hrgn : ∀ g : Field, rgnBase r ≤ g.addr → f.key ≠ g.key := fun g hg => key_ne_of_hub hf ((rgnBase_aboveHub r).trans hg)
  unfold State.marginRaise
  dsimp only
  split
  · rw [State.applyCode_get_hub hf, State.get_set_ne _ _ (hrgn _ (by simp [Rgn.code])), State.get_setRgn]
  · rw [if_neg (by omega), State.alert_get _ halert, State.get_set_ne _ _ (hrgn _ (by simp [Rgn.marginExhausted])), State.get_setRgn]

theorem State.rgnError_get_hub (halert : ∀ g ∈ alertFields, f.key ≠ g.key) (s : State) {r : Nat} (hr : 40 ≤ r) :
    (s.rgnError r).get f = s.get f := by
  unfold State.rgnError
  dsimp only
  split
  · rw [State.marginRaise_get_hub hf halert _ hr, State.get_setRgn]
  · rw [State.get_setRgn]

end

/-! ### The checks (R263, R268, R269) -/

theorem State.crcFailed_crcFail (s : State) (p : Nat) (pkt : Pkt) : (s.crcFailed p pkt).get Fab.crcFail = (s.get Fab.crcFail + 1) % 2 ^ 64 := by
  have hlog : ∀ g ∈ logFields clE2eCheck (.port p), Fab.crcFail.key ≠ g.key := fun g hg => by
    refine key_ne_of_hub (by decide) ?_
    simp only [logFields, LogUnit.errors, List.mem_append, List.mem_cons, List.not_mem_nil, or_false, Option.toList_some] at hg
    obtain (hcount | rfl) | htrace := hg
    · exact (by decide : ∀ g ∈ [Elog.next, Elog.oldest, Elog.logLost, Elog.logEvt, Elog.classCount clE2eCheck], 0x3F0001000000 ≤ g.addr) g
        (by simpa using hcount)
    · simp only [Aoc.portErrors]
      omega
    · exact (by decide : ∀ g ∈ traceFields, 0x3F0001000000 ≤ g.addr) g htrace
  unfold State.crcFailed
  dsimp only
  split
  · exact State.get_bump_same ..
  · rw [State.rgnError_get_hub (by decide) (by decide) _ (by omega), State.get_set_ne _ _ (by decide), State.logE_get _ _ _ _ _ hlog,
      State.get_bump_same]
    rfl

/-- On a site link no custody is taken (R275). -/
theorem State.takeCustody_of_site {s : State} {p : Nat} (h : s.longHaul p = false) (pkt : Pkt) : s.takeCustody p pkt = (s, true) :=
  if_neg (by simp [h])

section
variable {s : State} {p : Nat} {pkt : Pkt} {paid : Bool} {body : State → Done}

theorem State.checked_of_badCrc (h : pktCrcOk pkt = false) : s.checked p pkt paid body = s.crcFailed p pkt := by
  simp [State.checked, h]

theorem State.checked_of_unacked (hcrc : pktCrcOk pkt = true) (hack : kindAcked (pktKind pkt) = false) :
    s.checked p pkt paid body = (body s).close pkt := by
  simp [State.checked, hcrc, hack]

section
variable (hcust : s.longHaul p = false ∨ paid = true) (hcrc : pktCrcOk pkt = true) (hack : kindAcked (pktKind pkt) = true)
include hcust

theorem State.custody_waived : (if paid then (s, true) else s.takeCustody p pkt) = (s, true) := by
  obtain hsite | rfl := hcust
  · rw [State.takeCustody_of_site hsite, ite_self]
  · exact if_pos rfl

include hcrc hack

theorem State.checked_of_duplicate (hc : (s.src (pktSrc pkt)).classify (pktSeq pkt) = .duplicate) : s.checked p pkt paid body =
    ((s.bump Fab.duplicates 1).sendAck (pktSrc pkt)).dropCustody pkt := by
  simp [State.checked, hcrc, hack, State.custody_waived hcust, hc]

theorem State.checked_of_beyond (hc : (s.src (pktSrc pkt)).classify (pktSeq pkt) = .beyond) : s.checked p pkt paid body =
    s.logE clSequence (.port p) (pktSrc pkt) [((s.src (pktSrc pkt)).cum, 32), (pktSeq pkt, 32)] := by
  simp [State.checked, hcrc, hack, State.custody_waived hcust, hc]

theorem State.checked_of_accepted (hc : (s.src (pktSrc pkt)).classify (pktSeq pkt) = .accepted) : s.checked p pkt paid body =
    ((body s).close pkt).dropCustody pkt := by
  simp [State.checked, hcrc, hack, State.custody_waived hcust, hc]

end

end

/-- Releasing a reception copy concerns the ports alone (R275). -/
theorem State.dropCustody_src (s : State) (pkt : Pkt) (d : Nat) : (s.dropCustody pkt).src d = s.src d := rfl

theorem State.src_setSrc_same (s : State) (d : Nat) (x : SrcState) : (s.setSrc d x).src d = x := Tab.get_set_same ..

theorem Done.close_accept {d : Done} {pkt : Pkt} (h : d.2 = .accept) :
    d.close pkt = if kindAcked (pktKind pkt) then d.1.acknowledge pkt else d.1 := by
  simp only [Done.close, h]

theorem Done.close_hold {d : Done} {pkt : Pkt} (h : d.2 = .hold) : d.close pkt =
    d.1.setSrc (pktSrc pkt) { d.1.src (pktSrc pkt) with held := (d.1.src (pktSrc pkt)).held ++ [pktSeq pkt] } := by
  simp only [Done.close, h]

end Sys2Proof.Machine

open Sys2Proof Sys2Proof.Machine Sys2Proof.Safety

/-- Settles O46: CUM never moves beyond the window that the received numbers span, so that a marked SEQ stays behind it or listed; the checks by
the CRC and by the class of the SEQ. -/
theorem destinationsCheckCrcAndSequence : Obligations.DestinationsCheckCrcAndSequence := by
  refine ⟨fun x seq hcum hseq hgot h => SrcState.mark_duplicate hcum hseq (fun g hg => (hgot g hg).2) h,
    fun s p pkt paid body hcust => ⟨fun hcrc => ?_, fun hcrc hack => ?_, fun hcrc hack hv => ?_⟩⟩
  · rw [State.checked_of_badCrc hcrc]
    refine ⟨rfl, s.crcFailed_crcFail p pkt, State.crcFailed_part State.srcs ?_ ?_ ?_ ?_ ?_ s p pkt,
      State.crcFailed_part State.wire ?_ ?_ ?_ ?_ ?_ s p pkt, State.crcFailed_part State.dsts ?_ ?_ ?_ ?_ ?_ s p pkt⟩ <;> intros <;> rfl
  · refine ⟨State.checked_of_duplicate hcust hcrc hack, State.checked_of_beyond hcust hcrc hack, fun hc hv => ?_, fun hc hv => ?_⟩
    · rw [State.checked_of_accepted hcust hcrc hack hc, Done.close_accept hv, if_pos hack]
    · rw [State.checked_of_accepted hcust hcrc hack hc, Done.close_hold hv]
      dsimp only
      rw [State.dropCustody_src, State.src_setSrc_same]
      exact ⟨rfl, rfl, rfl, List.mem_append_right _ (List.mem_singleton_self _)⟩
  · rw [State.checked_of_unacked hcrc hack, Done.close_accept hv, if_neg (by simp [hack])]

end

section
/-! SUPPORT. What meets a packet at its port: the counters, the capture between the stop marks, the ingress buffer that it keeps, and the header
checks of one that goes on (R260, R265, R266, R275, R278, R279, R284, R403). -/

namespace Sys2Proof.Machine

open Sys2Proof Safety

/-! ### Credits granted (R266, R293) -/

theorem State.get_of_csr {s t : State} (h : t.csr = s.csr) (f : Field) : t.get f = s.get f := congrArg (Tab.get · f.reset f.key) h

theorem State.emit_port (s : State) (p n : Nat) : (s.emit p n).port p = { s.port p with modes := (s.port p).modes ++ [s.get Fab.linkMode] } :=
  State.port_onPort_same ..

theorem State.sendOpenBlock_port (s : State) (p type : Nat) : ∃ m, (s.sendOpenBlock p type).port p = { s.port p with modes := m } := by
  unfold State.sendOpenBlock State.sendBlock
  dsimp only
  split <;> exact ⟨_, State.emit_port ..⟩

theorem State.grantCredit_port (s : State) (p : Nat) (l : List (Nat × Nat)) :
    ∃ i m, (s.grantCredit p l).port p = { s.port p with issued := i, modes := m } := by
  unfold State.grantCredit
  obtain ⟨m, hm⟩ := (s.onPort p _).sendOpenBlock_port p 2
  exact ⟨_, m, by rw [hm, State.port_onPort_same]⟩

/-- What a CREDIT block's sending leaves: everything but the wire, its port and the counter of free values. -/
theorem State.grantCredit_sent (s : State) (p : Nat) (l : List (Nat × Nat)) :
    ∃ n x c, s.grantCredit p l = { s with wire := s.wire ++ [(p, n)], ports := x, freeCtr := c } := by
  unfold State.grantCredit
  obtain ⟨n, x, c, h⟩ := (s.onPort p _).sendOpenBlock_sent p 2
  exact ⟨n, x, c, h⟩

theorem State.returnCredit_port (s : State) (p : Nat) (pkt : Pkt) :
    ∃ i m, (s.returnCredit p pkt).port p = { s.port p with issued := i, modes := m } := by
  unfold State.returnCredit
  split
  · exact s.grantCredit_port p _
  · exact ⟨_, _, rfl⟩

theorem State.returnCredit_kept (s : State) (p : Nat) (pkt : Pkt) :
    (s.returnCredit p pkt).csr = s.csr ∧ (s.returnCredit p pkt).mem = s.mem ∧ (s.returnCredit p pkt).srcs = s.srcs := by
  unfold State.returnCredit
  split
  · obtain ⟨n, x, c, h⟩ := s.grantCredit_sent p [(creditKey pkt, creditUnits (pktLen pkt))]
    rw [h]
    exact ⟨rfl, rfl, rfl⟩
  · exact ⟨rfl, rfl, rfl⟩

/-! ### The counters of a received packet (R266, R437) -/

theorem State.spendCredit_csr (s : State) (p : Nat) (pkt : Pkt) : (s.spendCredit p pkt).csr = s.csr := by
  unfold State.spendCredit
  split <;> rfl

theorem State.spendCredit_port (s : State) (p : Nat) (pkt : Pkt) : ∃ i, (s.spendCredit p pkt).port p = { s.port p with issued := i } := by
  unfold State.spendCredit
  split
  · exact ⟨_, State.port_onPort_same ..⟩
  · exact ⟨_, rfl⟩

theorem State.countRx_kept (s : State) (p : Nat) (pkt : Pkt) : (s.countRx p pkt).mem = s.mem ∧ (s.countRx p pkt).wire = s.wire ∧
    (s.countRx p pkt).srcs = s.srcs ∧ (s.countRx p pkt).cut = s.cut := by
  unfold State.countRx State.spendCredit
  split <;> exact ⟨rfl, rfl, rfl, rfl⟩

theorem State.countRx_port (s : State) (p : Nat) (pkt : Pkt) : ∃ i, (s.countRx p pkt).port p = { s.port p with issued := i } :=
  ((s.bump (Aoc.rxBytes p) (pktLen pkt)).bump (Aoc.rxPkts p) 1).spendCredit_port p pkt

/-- The counters of a received packet lie above the registers of the hub, of the dies and of the trace block (R406, R437). -/
theorem State.countRx_get (s : State) (p : Nat) (pkt : Pkt) {f : Field} (hf : f.key < 64 * 0x3F000D020000) :
    (s.countRx p pkt).get f = s.get f := by
  have hb : f.key ≠ (Aoc.rxBytes p).key := by simp only [Field.key, Aoc.rxBytes] at *; omega
  have hn : f.key ≠ (Aoc.rxPkts p).key := by simp only [Field.key, Aoc.rxPkts] at *; omega
  rw [State.countRx, State.get_of_csr (State.spendCredit_csr _ p pkt)]
  exact (State.get_bump_ne _ _ hn).trans (State.get_bump_ne _ _ hb)

/-! ### The capture (R278, R279) -/

section
variable {s t : State} (hget : ∀ f : Field, f.key < 64 * 0x3F000D020000 → t.get f = s.get f)
include hget

theorem State.positions_congr : t.positions = s.positions := by
  refine List.foldl_ext _ _ _ fun n a ha => congrArg (n * ·) ?_
  have ha := List.mem_range.1 ha
  simp only [State.axisSize]
  rw [hget Coll.naxes (by decide), hget (Coll.size a) (by simp only [Field.key, Coll.size]; omega),
    hget (Coll.sizeHi a) (by simp only [Field.key, Coll.sizeHi]; omega)]

theorem State.endpointLink_congr {p : Nat} (hp : p < 512) (hmem : t.mem = s.mem) : t.endpointLink p = s.endpointLink p := by
  have hpeer : t.get (Oct.ctxPeerId (p / 8) (p % 8)) = s.get (Oct.ctxPeerId (p / 8) (p % 8)) :=
    hget _ (by simp only [Field.key, Oct.ctxPeerId, octBase, portDieBase]; omega)
  have hentry (i : Nat) : t.topoEntry i = s.topoEntry i := by
    simp only [State.topoEntry, State.rdNat, State.rdBytes, State.rd, hmem, hget Coll.topoBase (by decide)]
  simp only [State.endpointLink, State.positions_congr hget, hpeer, hentry]

end

section
variable (s : State) {p : Nat} (hp : p < 512) (pkt : Pkt)
include hp

theorem State.countRx_capturing : (s.countRx p pkt).capturing p = s.capturing p := by
  obtain ⟨hmem, -, -, hcut⟩ := s.countRx_kept p pkt
  obtain ⟨i, hport⟩ := s.countRx_port p pkt
  have hlink := State.endpointLink_congr (fun _ => s.countRx_get p pkt) hp hmem
  simp only [State.capturing, hlink, hcut, hport]

theorem State.countRx_longHaul : (s.countRx p pkt).longHaul p = s.longHaul p :=
  congrArg (· != 0) (s.countRx_get p pkt (by simp only [Field.key, Fab.lhEn]; omega))

theorem State.countRx_captureFits : (s.countRx p pkt).captureFits p pkt = s.captureFits p pkt := by
  obtain ⟨i, hport⟩ := s.countRx_port p pkt
  have hwin := s.countRx_get p pkt (f := Fab.winMib p) (by simp only [Field.key, Fab.winMib]; omega)
  have hcap := s.countRx_get p pkt (f := Fab.capMib p) (by simp only [Field.key, Fab.capMib]; omega)
  have hheld := s.countRx_get p pkt (f := Fab.captured p) (by simp only [Field.key, Fab.captured]; omega)
  have hrec : ((s.countRx p pkt).port p).receptionBytes = (s.port p).receptionBytes := by rw [hport]; rfl
  rw [State.captureFits, State.captureFits, s.countRx_longHaul hp, hwin, hcap, hheld, hrec]

end

theorem State.capture_of_room {s : State} {p : Nat} {pkt : Pkt} (hfirst : (s.port p).parked = []) (hfits : s.captureFits p pkt = true)
    (hsite : s.longHaul p = false) : s.capture p pkt =
      ((s.bump (Fab.captured p) (pktLen pkt)).onPort p fun x => { x with captured := x.captured ++ [pkt] }).returnCredit p pkt := by
  simp [State.capture, hfirst, hfits, State.takeCustody_of_site hsite]

theorem State.capture_of_full {s : State} {p : Nat} {pkt : Pkt} (h : (s.port p).parked ≠ [] ∨ s.captureFits p pkt = false) :
    s.capture p pkt = s.park p pkt := by
  refine if_neg ?_
  obtain hwaits | hfull := h
  · simp [hwaits]
  · simp [hfull]

/-- A packet captured where there is room: it stands last in the capture buffer, which CAPTURED counts, and memory and the sequence numbers
are as they were (R278, R279). -/
theorem State.capture_shows {s : State} {p : Nat} {pkt : Pkt} (hfirst : (s.port p).parked = []) (hfits : s.captureFits p pkt = true)
    (hsite : s.longHaul p = false) :
    ((s.capture p pkt).port p).captured = (s.port p).captured ++ [pkt] ∧ ((s.capture p pkt).port p).parked = [] ∧
      (s.capture p pkt).get (Fab.captured p) = (s.get (Fab.captured p) + pktLen pkt) % 2 ^ 64 ∧ (s.capture p pkt).mem = s.mem ∧
      (s.capture p pkt).srcs = s.srcs := by
  rw [State.capture_of_room hfirst hfits hsite]
  have hlast : ((s.bump (Fab.captured p) (pktLen pkt)).onPort p fun x => { x with captured := x.captured ++ [pkt] }).port p =
      { s.port p with captured := (s.port p).captured ++ [pkt] } := State.port_onPort_same ..
  generalize hu : ((s.bump (Fab.captured p) (pktLen pkt)).onPort p fun x => { x with captured := x.captured ++ [pkt] }) = u at *
  obtain ⟨i, m, hport⟩ := u.returnCredit_port p pkt
  obtain ⟨hcsr, hmem, hsrcs⟩ := u.returnCredit_kept p pkt
  rw [hport, hlast, hmem, hsrcs, State.get_of_csr hcsr, ← hu]
  exact ⟨rfl, hfirst, State.get_bump_same .., rfl, rfl⟩

/-- A packet that keeps its ingress buffer stands last among those of its port, and nothing else changes (R279, R403). -/
theorem State.park_shows (s : State) (p : Nat) (pkt : Pkt) :
    ((s.park p pkt).port p).parked = (s.port p).parked ++ [pkt] ∧ ((s.park p pkt).port p).captured = (s.port p).captured ∧
      (s.park p pkt).mem = s.mem ∧ (s.park p pkt).wire = s.wire := by
  rw [State.park, State.port_onPort_same]
  exact ⟨rfl, rfl, rfl, rfl⟩

/-! ### The arrival (R265, R267, R277-R279, R403) -/

theorem State.arrive_of_none {s : State} {p : Nat} {pkt : Pkt} (h : s.canArrive p = false ∨ s.admits p pkt = false) : s.arrive p pkt = s := by
  refine if_pos ?_
  obtain h | h := h <;> simp [h]

section
variable {s : State} {p : Nat} {pkt : Pkt} (hcan : s.canArrive p = true) (hadmits : s.admits p pkt = true)
include hcan hadmits

theorem State.arrive_captures (hcap : s.capturing p = true) (hvc : pktVc pkt ≠ 2) :
    s.arrive p pkt = (s.countRx p pkt).capture p pkt := by
  simp [State.arrive, hcan, hadmits, s.countRx_capturing ((s.canArrive_iff p).1 hcan).2.2, hcap, hvc]

theorem State.arrive_uncaptured (hcap : s.capturing p = false ∨ pktVc pkt = 2) : s.arrive p pkt =
    if s.flag Cmd.routingStopped then (s.countRx p pkt).park p pkt else (s.countRx p pkt).letIn p pkt false := by
  have hstop : (s.countRx p pkt).flag Cmd.routingStopped = s.flag Cmd.routingStopped :=
    congrArg (· != 0) (s.countRx_get p pkt (by decide))
  have hcap : ¬ (s.capturing p = true ∧ pktVc pkt ≠ 2) := by
    obtain h | h := hcap <;> simp [h]
  simp [State.arrive, hcan, hadmits, s.countRx_capturing ((s.canArrive_iff p).1 hcan).2.2, hstop, hcap]

end

/-! ### Headers and transit (R260, R275, R284) -/

section
variable {s : State} {p : Nat} {pkt : Pkt}

theorem State.letIn_of_unsound (h : hdrOk pkt = false) :
    s.letIn p pkt false = (s.logE clSequence (.port p) (pktSrc pkt) []).returnCredit p pkt := by
  simp [State.letIn, h]

/-- A transit packet that ends here gives its credit back, unless its local delivery does (R284, R293). -/
def State.transitBack (s : State) (p : Nat) (pkt : Pkt) (u : State) : State := if s.forMe pkt = true then u else u.returnCredit p pkt

theorem State.transit_of_spent (h : pktHops pkt = 0) : s.transit p pkt false = s.transitBack p pkt (s.bump Fab.hopsExpired 1) := by
  simp [State.transit, State.transitBack, h]

theorem State.transit_of_refused (h : pktHops pkt ≠ 0) (hc : (s.takeCustody p pkt).2 = false) :
    s.transit p pkt false = s.transitBack p pkt (s.takeCustody p pkt).1 := by
  simp [State.transit, State.transitBack, h, hc]

theorem State.transit_of_unicast (h : pktHops pkt ≠ 0) (hc : (s.takeCustody p pkt).2 = true) (hm : pktMcast pkt = false) :
    s.transit p pkt false = (s.takeCustody p pkt).1.forwardTo p pkt false := by
  simp [State.transit, h, hc, hm]

theorem State.transit_of_multicast (h : pktHops pkt ≠ 0) (hc : (s.takeCustody p pkt).2 = true) (hm : pktMcast pkt = true) :
    s.transit p pkt false = s.transitBack p pkt ((s.takeCustody p pkt).1.forwardCopies pkt) := by
  simp [State.transit, State.transitBack, h, hc, hm]

theorem exec_transit_of_other (h : s.forMe pkt = false) : exec (.transit p pkt) s = .next (s.arrive p pkt) := by
  change execTransit p pkt s = _
  simp [execTransit, h]

end

end Sys2Proof.Machine

open Sys2Proof Sys2Proof.Machine Sys2Proof.Safety

/-- Settles O45: the counters of a received packet leave what the capture and the stopped routing ask for, so that the packet is captured, held or
let in by the state that it met; a transit packet by its HOPS and by its custody. -/
theorem arrivalsAreCapturedHeldOrLetIn : Obligations.ArrivalsAreCapturedHeldOrLetIn := by
  intro s p pkt t back
  refine ⟨fun hno => State.arrive_of_none ?_, fun ha hu hp hadmits => ?_, State.letIn_of_unsound, exec_transit_of_other, State.transit_of_spent,
    fun hhops => ⟨State.transit_of_refused hhops, State.transit_of_unicast hhops, State.transit_of_multicast hhops⟩⟩
  · obtain h | h | h | h := hno
    · exact .inl ((s.canArrive_eq_false_iff p).2 (.inl h))
    · exact .inl ((s.canArrive_eq_false_iff p).2 (.inr (.inl h)))
    · exact .inl ((s.canArrive_eq_false_iff p).2 (.inr (.inr h)))
    · exact .inr h
  have hcan := (s.canArrive_iff p).2 ⟨ha, hu, hp⟩
  obtain ⟨hmem, hwire, hsrcs, -⟩ := s.countRx_kept p pkt
  obtain ⟨i, hport⟩ := s.countRx_port p pkt
  have hheld := (s.countRx p pkt).park_shows p pkt
  rw [hport, hmem, hwire] at hheld
  refine ⟨fun hcap hvc => ?_, fun hcap hstop => ?_, fun hcap hstop => ?_⟩
  · have ht : t = (s.countRx p pkt).capture p pkt := State.arrive_captures hcan hadmits hcap hvc
    rw [ht]
    refine ⟨fun hfirst hfits hsite => ?_, fun hfull => ?_⟩
    · have hshows := State.capture_shows (s := s.countRx p pkt) (p := p) (pkt := pkt) (by rw [hport]; exact hfirst)
        (by rw [s.countRx_captureFits hp, hfits]) (by rw [s.countRx_longHaul hp, hsite])
      rwa [hport, hmem, hsrcs, s.countRx_get p pkt (f := Fab.captured p) (by simp only [Field.key, Fab.captured]; omega)] at hshows
    · rw [State.capture_of_full (by rwa [hport, s.countRx_captureFits hp])]
      exact hheld
  · have ht : t = (s.countRx p pkt).park p pkt := (State.arrive_uncaptured hcan hadmits hcap).trans (if_pos hstop)
    obtain ⟨hparked, -, hmem, hwire⟩ := hheld
    rw [ht]
    exact ⟨hparked, hmem, hwire⟩
  · exact (State.arrive_uncaptured hcan hadmits hcap).trans (if_neg (by simp [hstop]))

end

section
/-! SUPPORT. A port's own events: the octet's registers that sending a packet leaves, the link that comes up, and the lane that fails
(R272, R289, R322-R327, R332, R380, R381). -/

namespace Sys2Proof.Machine

open Sys2Proof Safety

/-! ### The registers of the octets (R332, R406) -/

/-- The blocks of the octets, the low end of each port die's registers. -/
def octKey (k : Nat) : Bool := decide (64 * 0x3F0009000000 ≤ k ∧ k < 64 * 0x3F000D000000 ∧ k / 64 % 0x1000000 < 0x200000)

theorem octKey_of_octet {j : Nat} (hj : j < 64) {g : Field} (h0 : octBase j ≤ g.addr) (h1 : g.addr < octBase j + 0x20000) (hl : g.lo < 64) :
    octKey g.key = true := by
  refine decide_eq_true ?_
  simp only [Field.key, octBase, portDieBase] at *
  omega

/-- A register below the port dies, above them, or beyond the octets of its die. -/
theorem octKey_of_beside {g : Field} (hl : g.lo < 64)
    (h : g.addr < 0x3F0009000000 ∨ 0x3F000D000000 ≤ g.addr ∨ 0x200000 ≤ g.addr % 0x1000000) : octKey g.key = false := by
  refine decide_eq_false ?_
  simp only [Field.key]
  omega

theorem octKey_of_pool (m : Nat) {i : Nat} (hi : i < 8) : ∀ g ∈ poolFields m i, octKey g.key = false := by
  have hbeside : ∀ g ∈ poolFields m i, g.lo < 64 ∧ 0x200000 ≤ g.addr % 0x1000000 := by
    simp only [poolFields, List.forall_mem_cons, List.not_mem_nil, false_imp_iff, implies_true, and_true, Pool.head, Pool.free, Pool.lowWater,
      Pool.closed, Pool.fallbacks, Pool.badPool, Pool.badOp, Pool.badPtr, Pool.poolEvt, Pool.poolPointers, portDieBase]
    omega
  exact fun g hg => octKey_of_beside (hbeside g hg).1 (.inr (.inr (hbeside g hg).2))

theorem octKey_of_slice (n : Nat) : ∀ g ∈ sliceFields n, octKey g.key = false := by
  have hbeside : ∀ g ∈ sliceFields n, g.lo < 64 ∧ 0x200000 ≤ g.addr % 0x1000000 := by
    simp only [sliceFields, List.forall_mem_cons, List.not_mem_nil, false_imp_iff, implies_true, and_true, Sl.stagingUsed, Sl.stagingMax,
      forgeBase]
    omega
  exact fun g hg => octKey_of_beside (hbeside g hg).1 (.inr (.inr (hbeside g hg).2))

theorem octKey_of_event {r : Nat} (hr : r < 72) : octKey (Rgn.event r).key = false := by
  have hbase : ∀ r < 72, rgnBase r + 0x30 < 0x3F0009000000 ∨ 0x200000 ≤ (rgnBase r + 0x30) % 0x1000000 := by decide
  exact octKey_of_beside (by simp [Rgn.event]) ((hbase r hr).imp id .inr)

theorem octKey_of_traceFields : ∀ g ∈ traceFields, octKey g.key = false := by decide

/-- A log entry writes registers of the observation range alone (R436, R437, R441). -/
theorem octKey_of_logFields {cls : Nat} {u : LogUnit} {g : Field} (h : g ∈ logFields cls u) : octKey g.key = false := by
  simp only [logFields, List.mem_append, Option.mem_toList] at h
  obtain (h | h) | h := h
  · have hcount : g ∈ [Elog.next, Elog.oldest, Elog.logLost, Elog.logEvt] ∨ g = Elog.classCount cls := by
      simpa only [List.mem_cons, List.not_mem_nil, or_false, or_assoc] using h
    obtain h | rfl := hcount
    · exact (by decide : ∀ g ∈ [Elog.next, Elog.oldest, Elog.logLost, Elog.logEvt], octKey g.key = false) g h
    · exact octKey_of_beside (by simp [Elog.classCount]) (.inr (.inl (by simp only [Elog.classCount]; omega)))
  · cases u <;> simp only [LogUnit.errors, reduceCtorEq, Option.some.injEq] at h <;> subst h <;>
      refine octKey_of_beside ?_ (.inr (.inl ?_)) <;>
      simp only [Aoc.benchErrors, Aoc.portErrors, Aoc.chanErrors, Aoc.ringErrors] <;> omega
  · exact octKey_of_traceFields g h

/-! ### What leaves them -/

/-- From z, the state t has the same registers of every octet (Calm keeps others: those of the benches and of the alarm list). -/
def OctetsKept (z t : State) : Prop := ∀ f : Field, octKey f.key = true → t.get f = z.get f

namespace OctetsKept

variable {z s t : State}

theorem refl (z : State) : OctetsKept z z := fun _ _ => rfl

/-- A change of no register. -/
theorem other (h : OctetsKept z s) (hc : t.csr = s.csr) : OctetsKept z t := fun f hf => (State.get_of_csr hc f).trans (h f hf)

theorem set (h : OctetsKept z s) {g : Field} (v : Nat) (hg : octKey g.key = false) : OctetsKept z (s.set g v) := fun f hf =>
  (State.get_set_ne s v fun he => by rw [he, hg] at hf; cases hf).trans (h f hf)

theorem bump (h : OctetsKept z s) {g : Field} (n : Nat) (hg : octKey g.key = false) : OctetsKept z (s.bump g n) := h.set _ hg

theorem foldl {α : Type} {f : State → α → State} {l : List α} (h : OctetsKept z s)
    (hf : ∀ t, ∀ x ∈ l, OctetsKept z t → OctetsKept z (f t x)) : OctetsKept z (l.foldl f s) :=
  List.foldlRecOn l f h fun t ht x hx => hf t x hx ht

/-- Writes to fields of a list, none of them an octet's. -/
theorem setFields (h : OctetsKept z s) {fs : List Field} {l : List (Field × Nat)} (hfs : ∀ g ∈ fs, octKey g.key = false)
    (hl : ∀ e ∈ l, e.1 ∈ fs) : OctetsKept z (s.setAll l) :=
  h.foldl fun _ e he ht => ht.set e.2 (hfs e.1 (hl e he))

theorem ite {c : Prop} [Decidable c] (hs : OctetsKept z s) (ht : OctetsKept z t) : OctetsKept z (if c then s else t) := by
  split
  · exact hs
  · exact ht

/-- A change whose own lemma names the registers that it writes, none of them an octet's. -/
theorem of_get (h : OctetsKept z s) {l : List Field} (hl : ∀ g ∈ l, octKey g.key = false)
    (hget : ∀ f : Field, (∀ g ∈ l, f.key ≠ g.key) → t.get f = s.get f) : OctetsKept z t := fun f hf =>
  (hget f fun g hg he => by rw [he, hl g hg] at hf; cases hf).trans (h f hf)

theorem trace (h : OctetsKept z s) (r kind : Nat) (l : List (Nat × Nat)) : OctetsKept z (s.trace r kind l) :=
  h.of_get octKey_of_traceFields fun _ => s.trace_get r kind l

theorem logE (h : OctetsKept z s) (cls : Nat) (u : LogUnit) (a : Nat) (l : List (Nat × Nat)) : OctetsKept z (s.logE cls u a l) :=
  h.of_get (fun _ => octKey_of_logFields) fun _ => s.logE_get cls u a l

theorem alert (h : OctetsKept z s) : OctetsKept z s.alert := h.of_get (l := alertFields) (by decide) fun _ => s.alert_get

theorem onPort (h : OctetsKept z s) (p : Nat) (f : Port → Port) : OctetsKept z (s.onPort p f) := h.other rfl

theorem sendOpenBlock (h : OctetsKept z s) (p type : Nat) : OctetsKept z (s.sendOpenBlock p type) := by
  obtain ⟨n, x, c, hsent⟩ := s.sendOpenBlock_sent p type
  exact h.other (by rw [hsent])

/-! ### Buffers (R291-R295) -/

theorem poolBad (h : OctetsKept z s) (m off op : Nat) {i : Nat} (hi : i < 8) : OctetsKept z (s.poolBad m i off op) := by
  have hp := octKey_of_pool m hi
  exact ((h.logE _ _ _ _).setFields hp (by simp [poolFields])).bump 1 (hp _ (by simp [poolFields]))

theorem poolTake (h : OctetsKept z s) (m : Nat) {i : Nat} (hi : i < 8) : OctetsKept z (s.poolTake m i).2 := by
  have hp := octKey_of_pool m hi
  unfold State.poolTake
  dsimp only
  split
  · exact h
  · split
    · exact setFields (by exact h.other rfl) hp (by simp [poolFields])
    · exact (h.poolBad _ _ _ hi).setFields hp (by simp [poolFields])

theorem poolAlloc (h : OctetsKept z s) (m : Nat) (fallback : Bool) {i k : Nat} (hk : i + k ≤ 8) : OctetsKept z (s.poolAlloc m i fallback k).2 := by
  induction k generalizing s i fallback with
  | zero => exact h
  | succ k ih =>
    have hi : i < 8 := by omega
    have ht := h.poolTake m hi
    unfold State.poolAlloc
    split
    next off t htake =>
      rw [htake] at ht
      exact OctetsKept.ite (ht.bump 1 (octKey_of_pool m hi _ (by simp [poolFields]))) ht
    next t htake =>
      rw [htake] at ht
      exact ih ht _ (by omega)

theorem bufAlloc (h : OctetsKept z s) (m n : Nat) : OctetsKept z (s.bufAlloc m n).2 := by
  have hfor : poolFor n ≤ 7 := by
    unfold poolFor
    cases hfind : (List.range 7).find? fun i => decide (n ≤ poolSize i) with
    | none => decide
    | some i => exact (List.mem_range.1 (List.mem_of_find?_eq_some hfind)).le
  exact h.poolAlloc m false (by omega)

theorem poolFree (h : OctetsKept z s) (m off : Nat) {i : Nat} (hi : i < 8) : OctetsKept z (s.poolFree m i off) := by
  unfold State.poolFree
  exact OctetsKept.ite (setFields (by exact h.other rfl) (octKey_of_pool m hi) (by simp [poolFields])) (h.poolBad _ _ _ hi)

theorem bufFree (h : OctetsKept z s) (b : Option (Nat × Nat)) : OctetsKept z (s.bufFree b) := by
  cases b with
  | none => exact h
  | some k => exact h.poolFree _ _ (Nat.mod_lt _ (by decide))

theorem fitReplay (h : OctetsKept z s) (p : Nat) : OctetsKept z (s.fitReplay p) := by
  unfold State.fitReplay
  dsimp only
  split
  · exact OctetsKept.ite h ((h.poolFree _ _ (by decide)).other rfl)
  · exact OctetsKept.ite ((h.poolTake _ (by decide)).other rfl) h

/-! ### A packet on its way out (R264, R267, R284, R310) -/

theorem stage (h : OctetsKept z s) (n bytes : Nat) : OctetsKept z (s.stage n bytes) :=
  h.setFields (octKey_of_slice n) (by simp [sliceFields])

theorem release (h : OctetsKept z s) (q : Queued) : OctetsKept z (s.release q) := by
  have hslice (n : Nat) : OctetsKept z ((s.bufFree q.buf).unstage n (pktLen q.pkt)) :=
    (h.bufFree q.buf).set _ (octKey_of_slice n _ (by simp [sliceFields]))
  unfold State.release
  dsimp only
  cases q.slice with
  | none => cases q.input with
    | none => exact h.bufFree q.buf
    | some p => exact (h.bufFree q.buf).other (State.returnCredit_kept _ p q.pkt).1
  | some n => cases q.input with
    | none => exact hslice n
    | some p => exact (hslice n).other (State.returnCredit_kept _ p q.pkt).1

theorem ringHop (h : OctetsKept z s) (pkt : Pkt) (dir : Nat) {i : Nat} (hi : i < 12) : OctetsKept z (s.ringHop pkt dir i) := by
  have hring : ringFor pkt ≤ 1 := by unfold ringFor; split <;> omega
  have hbytes : ∀ seg, octKey (Aoc.bytesFwd seg).key = false ∧ octKey (Aoc.bytesRev seg).key = false := fun seg =>
    ⟨octKey_of_beside (by simp [Aoc.bytesFwd]) (.inr (.inl (by simp only [Aoc.bytesFwd]; omega))),
      octKey_of_beside (by simp [Aoc.bytesRev]) (.inr (.inl (by simp only [Aoc.bytesRev]; omega)))⟩
  refine ((bump (bump (by exact h.other rfl) _ ?_) 1 (octKey_of_event ?_)).trace _ _ _)
  · split
    · exact (hbytes _).1
    · exact (hbytes _).2
  · split <;> omega

theorem ringLeave (h : OctetsKept z s) (pkt : Pkt) (dir i : Nat) : OctetsKept z (s.ringLeave pkt dir i) := h.other rfl

theorem ringCross (h : OctetsKept z s) (pkt : Pkt) (a b : Nat) : OctetsKept z (s.ringCross pkt a b) :=
  h.foldl fun _ _ hi ht => (ht.ringHop _ _ (mem_ringWay hi)).ringLeave _ _ _

theorem accept (h : OctetsKept z s) (e : Nat) (q : Queued) : OctetsKept z (s.accept e q) := by
  have ha := h.bufAlloc (pdOf e) q.pkt.payload.length
  unfold State.accept
  dsimp only
  refine OctetsKept.ite (h.other rfl) (OctetsKept.ite (((h.ringCross _ _ _).release _).other rfl) (OctetsKept.ite (h.other rfl) ?_))
  split
  next k t htake =>
    rw [htake] at ha
    exact ((ha.ringCross _ _ _).release _).other rfl
  next t htake =>
    rw [htake] at ha
    exact ha.other rfl

theorem pathDown (h : OctetsKept z s) (m : Nat) : OctetsKept z (s.pathDown m) := by
  refine (h.bump 1 (octKey_of_beside (by simp [Tm.pathDownDrops]) (.inr (.inr ?_)))).set 1
    (octKey_of_beside (by simp [Tm.pathDownEvt]) (.inr (.inr ?_))) <;> simp only [Tm.pathDownDrops, Tm.pathDownEvt, portDieBase] <;> omega

theorem depart (h : OctetsKept z s) (m : Nat) (q : Queued) : OctetsKept z (s.depart m q) := by
  have hr := h.release q
  unfold State.depart
  split
  · exact hr.pathDown m
  · exact OctetsKept.ite (hr.logE _ _ _ _) (OctetsKept.ite (hr.logE _ _ _ _) (OctetsKept.ite (hr.pathDown _) (h.accept _ q)))

/-- Firmware's packets leave by slice 0 (log entry 11). -/
theorem sendOut (h : OctetsKept z s) (via : Option Nat) (pkt : Pkt) : OctetsKept z (s.sendOut 0 via pkt) := by
  have hstaged : OctetsKept z (s.stagePkt 0 pkt) := (((h.bump 1 (by decide)).stage _ _).bump 1 (octKey_of_event (by decide))).trace _ _ _
  cases via with
  | none => exact hstaged.depart 0 { pkt := pkt, slice := some 0 }
  | some e => exact hstaged.accept e { pkt := pkt, slice := some 0 }

theorem sendMgmt (h : OctetsKept z s) (dst : Nat) (payload : List Byte) : OctetsKept z (s.sendMgmt dst payload) := by
  unfold State.sendMgmt State.send State.inject State.sendTo
  dsimp only
  refine OctetsKept.ite (OctetsKept.ite (OctetsKept.set (h.logE _ _ _ _) 1 (by decide)) (OctetsKept.ite (sendOut ?_ _ _) ?_)) (h.sendOut _ _)
  · exact h.other rfl
  · exact h.other rfl

/-! ### Links that end (R289, R380, R381) -/

theorem setLinkMode (h : OctetsKept z s) (v : Nat) : OctetsKept z (s.setLinkMode v) :=
  (h.set v (by decide)).foldl fun _ _ _ ht => ht.fitReplay _

theorem chooseRoute (h : OctetsKept z s) : OctetsKept z s.chooseRoute := by
  unfold State.chooseRoute
  split
  · exact h.set _ (by decide)
  · exact (h.set 1 (by decide)).alert

theorem raiseAlarm (h : OctetsKept z s) (d : Nat) (tell : Bool) : OctetsKept z (s.raiseAlarm d tell) := by
  have hlisted : OctetsKept z ({ s with alarms := s.alarms ++ [d] }.setAll [(Surv.alarms, s.alarms.length + 1), (Surv.alarmLast, d)]) :=
    setFields (by exact h.other rfl) (by decide : ∀ g ∈ [Surv.alarms, Surv.alarmLast], octKey g.key = false) (by simp)
  unfold State.raiseAlarm
  split
  · exact h
  · exact (chooseRoute (OctetsKept.ite (hlisted.foldl fun _ x _ ht => ht.sendMgmt x _) hlisted)).setLinkMode 2

theorem abortCut (h : OctetsKept z s) (p : Nat) : OctetsKept z (s.abortCut p) := by
  have hwire (e good bad : Nat) : (s.abortWire e good bad).csr = s.csr := by
    unfold State.abortWire
    split
    · split <;> rfl
    · rfl
  unfold State.abortCut
  split
  · exact h
  · refine OctetsKept.other (OctetsKept.bump (h.other (hwire _ _ _)) 1 (octKey_of_beside ?_ (.inr (.inr ?_)))) rfl <;>
      simp only [Tm.cutAborts, portDieBase] <;> omega

theorem abortCuts (h : OctetsKept z s) (p : Nat) : OctetsKept z (s.abortCuts p) := h.foldl fun _ e _ ht => ht.abortCut e

end OctetsKept

/-! ### A lane's registers beside a context's (R332) -/

/-- The octets' registers from the lanes' blocks on, which lie beyond the contexts' (R332). -/
def laneKey (k : Nat) : Bool := octKey k && decide (0x800 ≤ k / 64 % 0x20000)

theorem octKey_of_laneKey {k : Nat} (h : laneKey k = true) : octKey k = true := (Bool.and_eq_true_iff.1 h).1

theorem laneKey_of_failed {lane : Nat} (h : lane < 512) : laneKey (Oct.laneFailed (lane / 8) (lane % 8)).key = true := by
  refine Bool.and_eq_true_iff.2 ⟨octKey_of_octet (j := lane / 8) (by omega) ?_ ?_ ?_, decide_eq_true ?_⟩ <;>
    simp only [Field.key, Oct.laneFailed, octBase, portDieBase] <;> omega

/-- The registers of a port's context that its link writes as it ends, narrows or goes down. -/
def ctxFields (p : Nat) : List Field :=
  [Oct.ctxState (p / 8) (p % 8), Oct.ctxReason (p / 8) (p % 8), Oct.ctxWidth (p / 8) (p % 8), Oct.ctxLanes (p / 8) (p % 8),
    Oct.ctxDownEvt (p / 8) (p % 8)]

theorem ctxFields_key_ne (p : Nat) {f : Field} (hf : laneKey f.key = true) : ∀ g ∈ ctxFields p, f.key ≠ g.key := by
  have hlane : 0x800 ≤ f.key / 64 % 0x20000 := of_decide_eq_true (Bool.and_eq_true_iff.1 hf).2
  have hctx : ∀ g ∈ ctxFields p, g.key / 64 % 0x20000 < 0x800 := by
    simp only [ctxFields, List.forall_mem_cons, List.not_mem_nil, false_imp_iff, implies_true, and_true, Field.key, Oct.ctxState, Oct.ctxReason,
      Oct.ctxWidth, Oct.ctxLanes, Oct.ctxDownEvt, octBase, portDieBase]
    omega
  intro g hg he
  have := hctx g hg
  rw [← he] at this
  omega

section
variable {f : Field} (hf : laneKey f.key = true)
include hf

theorem State.linkEnds_get_lane (s : State) (p reason : Nat) : (s.linkEnds p reason).get f = s.get f := by
  have hoct := octKey_of_laneKey hf
  have hne := ctxFields_key_ne p hf
  simp only [ctxFields, List.forall_mem_cons, List.not_mem_nil, false_imp_iff, implies_true, and_true] at hne
  obtain ⟨hstate, hreason, hwidth, hlanes, -⟩ := hne
  have hset : (((s.abortCuts p).setAll [(Oct.ctxReason (p / 8) (p % 8), reason), (Oct.ctxWidth (p / 8) (p % 8), 0),
      (Oct.ctxLanes (p / 8) (p % 8), 0)]).setCtx p 0).get f = s.get f := by
    rw [State.setCtx, State.get_set_ne _ _ hstate, State.get_setAll_ne _ _ (by simp [hreason, hwidth, hlanes]),
      (OctetsKept.refl s).abortCuts p f hoct]
  exact ((((OctetsKept.refl _).onPort p _).fitReplay p).logE _ _ _ _ f hoct).trans hset

theorem State.linkDown_get_lane (s : State) (p reason : Nat) : (s.linkDown p reason).get f = s.get f := by
  have hdown := ctxFields_key_ne p hf (Oct.ctxDownEvt (p / 8) (p % 8)) (by simp [ctxFields])
  have hset : ((s.linkEnds p reason).set (Oct.ctxDownEvt (p / 8) (p % 8)) 1).get f = s.get f := by
    rw [State.get_set_ne _ _ hdown, State.linkEnds_get_lane hf]
  unfold State.linkDown
  dsimp only
  split
  · exact hset
  · exact ((OctetsKept.refl _).raiseAlarm _ true f (octKey_of_laneKey hf)).trans hset

theorem State.narrowStart_get_lane (s : State) (p lane : Nat) : (s.narrowStart p lane).get f = s.get f := by
  have hoct := octKey_of_laneKey hf
  have hstate := ctxFields_key_ne p hf (Oct.ctxState (p / 8) (p % 8)) (by simp [ctxFields])
  unfold State.narrowStart
  split
  · exact State.linkDown_get_lane hf s p 12
  · split
    · exact State.linkDown_get_lane hf s p 11
    · rw [(OctetsKept.refl _).sendOpenBlock p 7 f hoct, State.setCtx, State.get_set_ne _ _ hstate, (OctetsKept.refl s).logE _ _ _ _ f hoct]

end

/-- A lane that fails shows it, whatever becomes of its port (R325, R326). -/
theorem State.laneFails_failed (s : State) {lane : Nat} (h : lane < 512) :
    (s.laneFails lane).get (Oct.laneFailed (lane / 8) (lane % 8)) = 1 := by
  have hset : (s.set (Oct.laneFailed (lane / 8) (lane % 8)) 1).get (Oct.laneFailed (lane / 8) (lane % 8)) = 1 := State.get_set_same ..
  unfold State.laneFails
  dsimp only
  split
  · exact (State.narrowStart_get_lane (laneKey_of_failed h) _ _ _).trans hset
  · exact hset

/-! ### The link comes up (R265, R266, R322, R328) -/

theorem State.sendBlock_csr (s : State) (p type body : Nat) : (s.sendBlock p type body).csr = s.csr := by
  unfold State.sendBlock
  dsimp only
  split <;> rfl

theorem State.grantCredit_csr (s : State) (p : Nat) (l : List (Nat × Nat)) : (s.grantCredit p l).csr = s.csr := by
  obtain ⟨n, x, c, h⟩ := s.grantCredit_sent p l
  rw [h]

theorem State.grantOrdinals_csr (s : State) (p k : Nat) (l : List Nat) : (s.grantOrdinals p k l).csr = s.csr := by
  unfold State.grantOrdinals
  dsimp only
  split
  · rfl
  · exact s.grantCredit_csr p _

theorem State.sendMark_csr (s : State) (p : Nat) : (s.sendMark p).csr = s.csr := by
  unfold State.sendMark
  split
  · obtain ⟨n, x, c, h⟩ := s.sendOpenBlock_sent p 5
    rw [h]
    rfl
  · rfl

/-- The registers that a port's healthy lanes are read from: its octet's mode and its lanes' FAILED and RETIRED (R325). -/
def healthFields (p : Nat) : List Field :=
  Oct.mode (p / 8) :: (List.range 16).flatMap fun l => [Oct.laneFailed (p / 8) l, Oct.laneRetired (p / 8) l]

theorem modeLanes_le (mode : Nat) : modeLanes mode ≤ 8 := Nat.div_le_self ..

theorem State.cfgWidth_congr {s t : State} {p : Nat} (h : ∀ f ∈ healthFields p, t.get f = s.get f) : t.cfgWidth p = s.cfgWidth p := by
  rw [State.cfgWidth, h _ (by simp [healthFields]), State.cfgWidth]

theorem State.healthy_congr {s t : State} {p : Nat} (h : ∀ f ∈ healthFields p, t.get f = s.get f) : t.healthy p = s.healthy p := by
  have hlane : ∀ l < 16, t.get (Oct.laneFailed (p / 8) l) = s.get (Oct.laneFailed (p / 8) l) ∧
      t.get (Oct.laneRetired (p / 8) l) = s.get (Oct.laneRetired (p / 8) l) := fun l hl =>
    ⟨h _ (by simp [healthFields]; exact .inr ⟨l, hl, .inl rfl⟩), h _ (by simp [healthFields]; exact .inr ⟨l, hl, .inr rfl⟩)⟩
  unfold State.healthy
  rw [State.cfgWidth_congr h]
  refine congrArg List.sum (List.map_congr_left fun k hk => ?_)
  have hk := List.mem_range.1 hk
  have hw := modeLanes_le (s.get (Oct.mode (p / 8)))
  obtain ⟨hfailed, hretired⟩ := hlane (p % 8 + k) (by simp only [State.cfgWidth] at hk; omega)
  rw [State.flag, hfailed, State.flag, hretired]
  rfl

/-- A port whose lanes are all healthy has no bad one among them. -/
theorem State.badLane_of_healthy {s : State} {p mask : Nat} (h : s.healthy p = mask) : s.badLane p mask = none := by
  have hnone : ((List.range 8).find? fun k => bitAt mask k && !bitAt (s.healthy p) k) = none :=
    List.find?_eq_none.2 fun k _ => by simp [h]
  rw [State.badLane, hnone, Option.map_none]

/-- The initial CREDIT blocks of a native port (R265, R266). -/
def State.linkGranted (s : State) (p : Nat) : State :=
  if s.carried p then s
  else s.grantCredit p (if s.longHaul p then [] else [1, 2, 3, 4, 5].map fun v => (v, s.get Fab.resMin * creditUnits 8232))

theorem State.linkGranted_csr (s : State) (p : Nat) : (s.linkGranted p).csr = s.csr := by
  unfold State.linkGranted
  split
  · rfl
  · exact s.grantCredit_csr p _

/-- The link that has come up, before its lanes are looked at: the credits granted, STATE and LINK_EVT shown. -/
def State.linkOpened (s : State) (p : Nat) : State :=
  let t := s.linkGranted p
  (((t.setCtx p 3).fitReplay p).set (Oct.ctxLinkEvt (p / 8) (p % 8)) 1).grantOrdinals p 0 (t.portList p)

/-- STATE and LINK_EVT of a context are its octet's registers, apart from those of the lanes' health (R332). -/
theorem linkFields_octKey {p : Nat} (hp : p < 512) :
    octKey (Oct.ctxState (p / 8) (p % 8)).key = true ∧ octKey (Oct.ctxLinkEvt (p / 8) (p % 8)).key = true ∧
      (∀ g ∈ healthFields p, octKey g.key = true ∧ g.key ≠ (Oct.ctxState (p / 8) (p % 8)).key ∧
        g.key ≠ (Oct.ctxLinkEvt (p / 8) (p % 8)).key) := by
  have hj : p / 8 < 64 := by omega
  refine ⟨octKey_of_octet hj ?_ ?_ ?_, octKey_of_octet hj ?_ ?_ ?_, fun g hg => ?_⟩
  iterate 6 simp only [Oct.ctxState, Oct.ctxLinkEvt]; omega
  simp only [healthFields, List.mem_cons, List.mem_flatMap, List.mem_range, List.not_mem_nil, or_false] at hg
  obtain rfl | ⟨l, hl, rfl | rfl⟩ := hg <;> refine ⟨octKey_of_octet hj ?_ ?_ ?_, ?_, ?_⟩ <;>
    simp only [Field.key, Oct.mode, Oct.laneFailed, Oct.laneRetired, Oct.ctxState, Oct.ctxLinkEvt] <;> omega

/-- The octet of the opened link, beside LINK_EVT, differs by STATE 3 alone. -/
theorem State.linkOpened_get (s : State) {p : Nat} {f : Field} (hf : octKey f.key = true) (hevt : f.key ≠ (Oct.ctxLinkEvt (p / 8) (p % 8)).key) :
    (s.linkOpened p).get f = (s.setCtx p 3).get f := by
  unfold State.linkOpened
  dsimp only
  rw [State.get_of_csr (State.grantOrdinals_csr _ p 0 _), State.get_set_ne _ _ hevt, (OctetsKept.refl _).fitReplay p f hf]
  refine State.get_of_csr ?_ f
  simp only [State.setCtx, State.set, s.linkGranted_csr p]

section
variable (s : State) {p : Nat} (hp : p < 512)
include hp

theorem State.linkOpened_shows : (s.linkOpened p).ctxState p = 3 ∧ (s.linkOpened p).get (Oct.ctxLinkEvt (p / 8) (p % 8)) = 1 := by
  obtain ⟨hstate, -, -⟩ := linkFields_octKey hp
  constructor
  · rw [State.ctxState, s.linkOpened_get hstate (by simp [Field.key, Oct.ctxState, Oct.ctxLinkEvt]), State.setCtx, State.get_set_same]
    rfl
  · exact (State.get_of_csr (State.grantOrdinals_csr _ p 0 _) _).trans (State.get_set_same ..)

theorem State.linkOpened_health : ∀ f ∈ healthFields p, (s.linkOpened p).get f = s.get f := fun f hf => by
  obtain ⟨-, -, hhealth⟩ := linkFields_octKey hp
  obtain ⟨hoct, hstate, hevt⟩ := hhealth f hf
  rw [s.linkOpened_get hoct hevt, State.setCtx, State.get_set_ne _ _ hstate]

/-- With every lane healthy the link stays at its full width, and a stop mark that is due goes out (R322, R331). -/
theorem State.linkUp_of_healthy (hall : s.healthy p = 2 ^ s.cfgWidth p - 1) : s.linkUp p = (s.linkOpened p).sendMark p := by
  have hhealth := s.linkOpened_health hp
  have hbad : (s.linkOpened p).badLane p (2 ^ (s.linkOpened p).cfgWidth p - 1) = none :=
    State.badLane_of_healthy (by rw [State.healthy_congr hhealth, State.cfgWidth_congr hhealth, hall])
  unfold State.linkUp
  dsimp only
  split
  next l hl => exact absurd (hbad.symm.trans hl) (by simp)
  next => rfl

theorem State.linkUp_shows (hall : s.healthy p = 2 ^ s.cfgWidth p - 1) :
    (s.linkUp p).ctxState p = 3 ∧ (s.linkUp p).get (Oct.ctxLinkEvt (p / 8) (p % 8)) = 1 := by
  obtain ⟨hstate, hevt⟩ := s.linkOpened_shows hp
  rw [s.linkUp_of_healthy hp hall]
  have hcsr := (s.linkOpened p).sendMark_csr p
  exact ⟨(State.get_of_csr hcsr _).trans hstate, (State.get_of_csr hcsr _).trans hevt⟩

end

/-! ### HELLO_SEND (R322) -/

theorem State.helloOut_of_none {s : State} {p : Nat} (h : (s.port p).hello = none) : s.helloOut p = s.sendBlock p 1 (s.helloBody p 0) := by
  simp [State.helloOut, h, b2n]

/-- The HELLO with SEEN ends the exchange: the link is up (R322 order 5). -/
theorem State.helloOut_shows {s : State} {p : Nat} (hp : p < 512) (h : (s.port p).hello ≠ none)
    (hall : s.healthy p = 2 ^ s.cfgWidth p - 1) :
    (s.helloOut p).ctxState p = 3 ∧ (s.helloOut p).get (Oct.ctxLinkEvt (p / 8) (p % 8)) = 1 := by
  have hsent : ∀ f, ((s.sendBlock p 1 (s.helloBody p 1)).onPort p fun x => { x with seenSent := true }).get f = s.get f := fun f =>
    State.get_of_csr (s.sendBlock_csr p 1 _) f
  have hout : s.helloOut p = ((s.sendBlock p 1 (s.helloBody p 1)).onPort p fun x => { x with seenSent := true }).linkUp p := by
    simp [State.helloOut, h, b2n]
  rw [hout]
  exact State.linkUp_shows _ hp (by rw [State.healthy_congr fun f _ => hsent f, State.cfgWidth_congr fun f _ => hsent f, hall])

/-! ### Training (R312, R322) -/

/-- A port whose training has succeeded: its lanes locked, at its configured width, in the HELLO exchange. -/
def State.trained (s : State) (p : Nat) : State :=
  (((List.range (s.cfgWidth p)).foldl (fun t k => t.set (Oct.laneLock (p / 8) (p % 8 + k)) 1) s).setLanes p (s.cfgWidth p)
    (2 ^ s.cfgWidth p - 1)).setCtx p 2

theorem State.trained_shows (s : State) (p : Nat) : (s.trained p).ctxState p = 2 ∧ (s.trained p).width p = s.cfgWidth p % 2 ^ 4 := by
  constructor
  · exact State.get_set_same ..
  · rw [State.width, State.trained, State.setCtx, State.get_set_ne _ _ (by simp [Field.key, Oct.ctxState, Oct.ctxWidth])]
    exact (State.get_set_ne _ _ (by simp [Field.key, Oct.ctxLanes, Oct.ctxWidth])).trans (State.get_set_same ..)

/-! ### The port's events on an active device -/

section
variable {s : State} {p : Nat} (ha : s.active = true)
include ha

theorem exec_linkTraining_of_training (h : s.ctxState p = 1) :
    exec (.linkTraining p .ok) s = .next (s.trained p) ∧ exec (.linkTraining p .trainFailed) s = .next (s.linkEnds p 2) ∧
      exec (.linkTraining p .noLock) s = .next (s.linkEnds p 3) ∧ exec (.linkTraining p .laneOrder) s = .next (s.linkEnds p 1) := by
  have htrains : ¬ (!s.active || s.ctxState p != 1) = true := by simp [ha, h]
  exact ⟨congrArg Host.Outcome.next (if_neg htrains), congrArg Host.Outcome.next (if_neg htrains), congrArg Host.Outcome.next (if_neg htrains),
    congrArg Host.Outcome.next (if_neg htrains)⟩

theorem exec_helloSend_of_exchange (h : s.ctxState p = 2) : exec (.helloSend p) s = .next (s.helloOut p) :=
  congrArg Host.Outcome.next (if_pos (by simp [ha, h]))

theorem exec_keepaliveSend_of_up (h : s.portUp p = true) : exec (.keepaliveSend p) s = .next (s.sendOpenBlock p 9) :=
  congrArg Host.Outcome.next (if_pos (by rw [ha, h]; rfl))

theorem exec_peerSilent : exec (.peerSilent p) s = .next (s.silent p).settleRetires := congrArg Host.Outcome.next (if_pos ha)

theorem exec_bringUpRetry_of_down (hon : s.ctxOn p = true) (h : s.ctxState p = 0) : exec (.bringUpRetry p) s = .next (s.setCtx p 1) :=
  congrArg Host.Outcome.next ((if_pos ha).trans (if_pos (by simp [hon, h])))

theorem exec_narrowFailed_of_narrowing (h : s.ctxState p = 4) : exec (.narrowFailed p) s = .next (s.linkDown p 13).settleRetires :=
  congrArg Host.Outcome.next (if_pos (by simp [ha, h]))

theorem exec_laneFail (lane : Nat) :
    exec (.laneFail lane) s = .next ((s.set (Oct.laneLock (lane / 8) (lane % 8)) 0).laneFails lane) :=
  congrArg Host.Outcome.next (if_pos ha)

theorem exec_failThresh (lane symbols : Nat) : exec (.failThresh lane symbols) s =
    .next (if s.get (Oct.failThresh (lane / 8)) < symbols then (s.bump (Oct.laneSymCorr (lane / 8) (lane % 8)) symbols).laneFails lane
      else s.bump (Oct.laneSymCorr (lane / 8) (lane % 8)) symbols) :=
  congrArg Host.Outcome.next (if_pos ha)

/-- Without link retry a frame that is lost is only counted (R272). -/
theorem exec_uncorrectableCodeword_uncut (hp : p < 512) (h : s.portUp p = true) (hretry : s.retryOn p = false) :
    exec (.uncorrectableCodeword p false) s =
      .next ((s.bump (Oct.ctxFecUncorr (p / 8) (p % 8)) 1).bump (Aoc.portErrors p) 1) := by
  have hget : ∀ f ∈ [Oct.ctxCarried (p / 8) (p % 8), Fab.lhEn p, Fab.linkMode],
      ((s.bump (Oct.ctxFecUncorr (p / 8) (p % 8)) 1).bump (Aoc.portErrors p) 1).get f = s.get f := fun f hf => by
    have hne : f.key ≠ (Oct.ctxFecUncorr (p / 8) (p % 8)).key ∧ f.key ≠ (Aoc.portErrors p).key := by
      simp only [List.mem_cons, List.not_mem_nil, or_false] at hf
      obtain rfl | rfl | rfl := hf <;> constructor <;>
        simp only [Field.key, Oct.ctxCarried, Fab.lhEn, Fab.linkMode, Oct.ctxFecUncorr, Aoc.portErrors, octBase, portDieBase] <;> omega
    rw [State.get_bump_ne _ _ hne.2, State.get_bump_ne _ _ hne.1]
  have hkept : ((s.bump (Oct.ctxFecUncorr (p / 8) (p % 8)) 1).bump (Aoc.portErrors p) 1).retryOn p = false := by
    simp only [State.retryOn, State.siteNative, State.carried, State.longHaul, State.flag] at hretry ⊢
    rwa [hget _ (by simp), hget _ (by simp), hget _ (by simp)]
  change execUncorrectableCodeword p false s = _
  simp [execUncorrectableCodeword, ha, h, hkept]

end

theorem exec_linkTraining_of_other {s : State} {p : Nat} (h : s.ctxState p ≠ 1) (r : TrainResult) :
    exec (.linkTraining p r) s = .next s :=
  congrArg Host.Outcome.next (if_pos (by simp [h]))

theorem State.silent_of_up {s : State} {p : Nat} (h : s.portUp p = true) : s.silent p = s.linkDown p 9 := if_pos h

theorem State.silent_of_exchange {s : State} {p : Nat} (h : s.ctxState p = 2) : s.silent p = s.linkEnds p 4 := by
  simp [State.silent, State.portUp, h]

end Sys2Proof.Machine

open Sys2Proof Sys2Proof.Machine Sys2Proof.Safety

/-- Settles O43: each event by its equation; the link that comes up keeps its octet's registers of lane health, and whatever a failed lane does to
its port, no packet, buffer or alarm of it writes the lane's registers. -/
theorem portEventsMoveTheLink : Obligations.PortEventsMoveTheLink := by
  intro s p lane symbols ha hp
  refine ⟨fun h => ?_, exec_linkTraining_of_other, fun h hnone => ?_, fun h hheld hall => ?_, exec_keepaliveSend_of_up ha, fun h => ?_,
    fun h => ?_, exec_bringUpRetry_of_down ha, exec_narrowFailed_of_narrowing ha, fun hl => ?_, fun hl hs => ?_, fun hs => ?_,
    exec_uncorrectableCodeword_uncut ha hp⟩
  · obtain ⟨hok, hfailed⟩ := exec_linkTraining_of_training ha h
    exact ⟨⟨_, hok, s.trained_shows p⟩, hfailed⟩
  · rw [exec_helloSend_of_exchange ha h, State.helloOut_of_none hnone]
  · exact ⟨_, exec_helloSend_of_exchange ha h, State.helloOut_shows hp hheld hall⟩
  · rw [exec_peerSilent ha, State.silent_of_up h]
  · rw [exec_peerSilent ha, State.silent_of_exchange h]
  · exact ⟨_, exec_laneFail ha lane, State.laneFails_failed _ hl⟩
  · exact ⟨_, (exec_failThresh ha lane symbols).trans (congrArg Host.Outcome.next (if_pos hs)), State.laneFails_failed _ hl⟩
  · rw [exec_failThresh ha, if_neg (Nat.not_lt.2 hs)]

end

section
/-! SUPPORT. A mirror copy at its destination: written and delivered where it passes the checks, else discarded and counted by the slice of its
region (R259, R263, R305, R310). -/

namespace Sys2Proof.Machine

open Sys2Proof Safety

/-! ### What a delivery leaves (R284, R310) -/

section
variable {α : Type} (p : State → α) (hset : ∀ t f v, p (State.set t f v) = p t) (hstore : ∀ t a bs, p (State.store t a bs) = p t)
  (hfifo : ∀ (t : State) x, p { t with traceFifo := x } = p t) (hrings : ∀ (t : State) x, p { t with rings := x } = p t)
include hset hstore hfifo hrings

theorem State.ringHop_part (s : State) (pkt : Pkt) (dir i : Nat) : p (s.ringHop pkt dir i) = p s := by
  unfold State.ringHop
  exact (State.trace_part p hset hstore hfifo ..).trans ((hset ..).trans ((hset ..).trans (hrings s _)))

theorem State.ringCross_part (s : State) (pkt : Pkt) (a b : Nat) : p (s.ringCross pkt a b) = p s :=
  List.foldlRecOn (motive := fun t : State => p t = p s) _ _ rfl fun t ht i _ =>
    (hrings (t.ringHop pkt _ i) _).trans ((State.ringHop_part p hset hstore hfifo hrings t pkt _ i).trans ht)

/-- A delivery leaves every part of the state but registers, memory, the records that wait and the buffers of the rings. -/
theorem State.delivered_part (s : State) (q n : Nat) (pkt : Pkt) : p (s.delivered q n pkt) = p s := by
  unfold State.delivered
  exact (State.trace_part p hset hstore hfifo ..).trans ((hset ..).trans ((hset ..).trans ((State.setAll_part p hset ..).trans ((hset ..).trans
    (State.ringCross_part p hset hstore hfifo hrings s pkt _ _)))))

end

/-! ### What a mirror copy leaves (R305) -/

/-- What a device has sent and logged, and its sequence numbers and ports: the parts that an answer, a log entry or transport state would
change. -/
def State.answers (s : State) : List (Nat × Nat) × Tab LogEntry × Tab SrcState × Tab DstState × Tab Port :=
  (s.wire, s.log, s.srcs, s.dsts, s.ports)

theorem State.put_answers (s : State) (a : Nat) (bs : List Byte) : (s.put a bs).answers = s.answers := by
  rw [State.put_eq, ((s.putBytes a bs).fireMons_monitorsOnly a bs.length).eq]
  rfl

theorem State.delivered_answers (s : State) (p n : Nat) (pkt : Pkt) : (s.delivered p n pkt).answers = s.answers :=
  State.delivered_part State.answers (fun _ _ _ => rfl) (fun _ _ _ => rfl) (fun _ _ => rfl) (fun _ _ => rfl) s p n pkt

/-! ### The checks of a mirror copy (R259, R263, R305) -/

/-- The slice that counts a discarded mirror copy: its region's, or slice 0 where its handle names none. -/
def State.mirrorSlice (s : State) (pkt : Pkt) : Nat :=
  match s.region (pktRh pkt) with
  | some e => sliceOf e.base
  | none => 0

theorem State.mirrorSlice_lt (s : State) (pkt : Pkt) : s.mirrorSlice pkt < 8 := by
  unfold State.mirrorSlice
  split
  · exact sliceOf_lt _
  · decide

/-- A mirror copy discarded and counted in MIR_RX_REFUSED. -/
def State.mirrorDiscard (s : State) (pkt : Pkt) : State := s.bump (Sl.mirRxRefused (s.mirrorSlice pkt)) 1

section
variable {s : State} {p a : Nat} {pkt : Pkt}

/-- A failed CRC of a mirror copy counts in CRC_FAIL too, and is not logged. -/
theorem State.mirrorIn_of_badCrc (hm : pktMirror pkt = true) (h : pktCrcOk pkt = false) :
    s.mirrorIn p pkt = (s.bump Fab.crcFail 1).bump (Sl.mirRxRefused (s.mirrorSlice pkt)) 1 := by
  have hfail : s.crcFailed p pkt = s.bump Fab.crcFail 1 := by simp only [State.crcFailed, hm, if_true]
  simp only [State.mirrorIn, h, hfail, Bool.not_false, if_true]
  rfl

theorem State.mirrorIn_of_refused (hcrc : pktCrcOk pkt = true)
    (h : s.regionAddr (pktRh pkt) (pktOffset pkt) (pktLength pkt) (·.wUnsched) = none) : s.mirrorIn p pkt = s.mirrorDiscard pkt := by
  simp only [State.mirrorIn, hcrc, h, Bool.not_true, Bool.false_eq_true, if_false]
  rfl

theorem State.mirrorIn_of_unwritable (hcrc : pktCrcOk pkt = true)
    (h : s.regionAddr (pktRh pkt) (pktOffset pkt) (pktLength pkt) (·.wUnsched) = some a)
    (hbad : ¬ (s.ramOk a pkt.payload.length = true ∧ s.storeErr a pkt.payload.length = none)) : s.mirrorIn p pkt = s.mirrorDiscard pkt := by
  simp only [State.mirrorIn, hcrc, h, Bool.not_true, Bool.false_eq_true, if_false, if_neg hbad]
  rfl

theorem State.mirrorIn_of_written (hcrc : pktCrcOk pkt = true)
    (h : s.regionAddr (pktRh pkt) (pktOffset pkt) (pktLength pkt) (·.wUnsched) = some a)
    (hok : s.ramOk a pkt.payload.length = true ∧ s.storeErr a pkt.payload.length = none) :
    s.mirrorIn p pkt = (s.put a pkt.payload).delivered p (sliceOf a) pkt := by
  simp only [State.mirrorIn, hcrc, h, Bool.not_true, Bool.false_eq_true, if_false, if_pos hok]

/-- A mirror copy is never answered or logged and leaves no transport state, whatever its checks find. -/
theorem State.mirrorIn_answers (hm : pktMirror pkt = true) : (s.mirrorIn p pkt).answers = s.answers := by
  cases hcrc : pktCrcOk pkt with
  | false => rw [State.mirrorIn_of_badCrc hm hcrc]; rfl
  | true =>
    cases haddr : s.regionAddr (pktRh pkt) (pktOffset pkt) (pktLength pkt) (·.wUnsched) with
    | none => rw [State.mirrorIn_of_refused hcrc haddr]; rfl
    | some a =>
      by_cases hok : s.ramOk a pkt.payload.length = true ∧ s.storeErr a pkt.payload.length = none
      · rw [State.mirrorIn_of_written hcrc haddr hok, State.delivered_answers, State.put_answers]
      · rw [State.mirrorIn_of_unwritable hcrc haddr hok]; rfl

/-- A copy whose CRC fails or whose region refuses it writes nothing and is counted by its slice. -/
theorem State.mirrorIn_discards (hm : pktMirror pkt = true)
    (h : pktCrcOk pkt = false ∨ s.regionAddr (pktRh pkt) (pktOffset pkt) (pktLength pkt) (·.wUnsched) = none) :
    (s.mirrorIn p pkt).mem = s.mem ∧ (s.mirrorIn p pkt).get (Sl.mirRxRefused (s.mirrorSlice pkt)) =
      (s.get (Sl.mirRxRefused (s.mirrorSlice pkt)) + 1) % 2 ^ 64 := by
  have hne : (Sl.mirRxRefused (s.mirrorSlice pkt)).key ≠ Fab.crcFail.key :=
    (key_ne_of_hub (by decide) (by simp only [Sl.mirRxRefused, forgeBase]; omega)).symm
  cases hcrc : pktCrcOk pkt with
  | false =>
    rw [State.mirrorIn_of_badCrc hm hcrc, State.get_bump_same, State.get_bump_ne _ _ hne]
    exact ⟨rfl, rfl⟩
  | true =>
    rw [State.mirrorIn_of_refused hcrc (h.resolve_left (by simp [hcrc]))]
    exact ⟨rfl, State.get_bump_same ..⟩

end

end Sys2Proof.Machine

open Sys2Proof Sys2Proof.Machine Sys2Proof.Safety

/-- Settles O48: whatever the checks find, neither the write and its delivery nor the count changes what the device sent, logged or keeps of its
transport; the delivery leaves memory as it is while TRACE_STALL is off. -/
theorem mirrorCopiesKeepNoState : Obligations.MirrorCopiesKeepNoState := by
  intro s p pkt hm t permitted
  obtain ⟨hwire, hlog, hsrcs, hdsts, hports⟩ : t.wire = s.wire ∧ t.log = s.log ∧ t.srcs = s.srcs ∧ t.dsts = s.dsts ∧ t.ports = s.ports := by
    simpa only [State.answers, Prod.mk.injEq] using State.mirrorIn_answers (s := s) (p := p) hm
  refine ⟨hwire, hlog, hsrcs, hdsts, hports, fun a hcrc haddr hram herr hstall x => ?_, fun hfails => ?_⟩
  · have ht : t = (s.put a pkt.payload).delivered p (sliceOf a) pkt := State.mirrorIn_of_written hcrc haddr ⟨hram, herr⟩
    rw [ht]
    exact State.rd_put_delivered hstall a p (sliceOf a) x pkt.payload pkt
  · obtain ⟨hmem, hcount⟩ := State.mirrorIn_discards (p := p) hm hfails
    exact ⟨hmem, s.mirrorSlice pkt, s.mirrorSlice_lt pkt, hcount⟩

end

section
/-! SUPPORT. A link control block and a carried frame at a port: ignored, discarded and counted, or used (R316, R318, R320, R474). -/

namespace Sys2Proof.Machine

open Sys2Proof

/-- A block or frame discarded on a carried port, counted with its reason (R320). -/
def State.carriedDrop (s : State) (p why : Nat) : State :=
  (s.bump (Oct.ctxCarriedDrops (p / 8) (p % 8)) 1).set (Oct.ctxLastDrop (p / 8) (p % 8)) why

/-! ### The checks of a link control block, in their order (R316, R318, R474) -/

section
variable {s : State} {p type : Nat} {blk : BitVec 256} {ok : Bool} {use : State → State}

theorem State.blockIn_of_disabled (h : s.active = false ∨ s.ctxState p < 2) : s.blockIn p type blk ok use = s :=
  if_pos (by simpa using h)

variable (ha : s.active = true) (hc : 2 ≤ s.ctxState p)
include ha hc

theorem State.blockIn_of_enabled : s.blockIn p type blk ok use =
    if s.carried p && !ok then s.carriedDrop p 7
    else if !blockOk type blk then s.bump (Oct.ctxCtrlBad (p / 8) (p % 8)) 1
    else use s :=
  if_neg (by simp [ha, Nat.not_lt.2 hc])

/-- On a carried port a type that R318 does not list is discarded with reason 7, sound or not. -/
theorem State.blockIn_of_carried (hcar : s.carried p = true) : s.blockIn p type blk false use = s.carriedDrop p 7 :=
  (State.blockIn_of_enabled ha hc).trans (if_pos (by rw [hcar]; rfl))

/-- A block that its port's mode permits and that fails its checks counts in CTRL_BAD. -/
theorem State.blockIn_of_bad (hmode : s.carried p = false ∨ ok = true) (hbad : blockOk type blk = false) :
    s.blockIn p type blk ok use = s.bump (Oct.ctxCtrlBad (p / 8) (p % 8)) 1 := by
  have hpermitted : ¬ (s.carried p && !ok) = true := by obtain h | h := hmode <;> simp [h]
  rw [State.blockIn_of_enabled ha hc, if_neg hpermitted, hbad]
  rfl

end

/-! ### A carried frame (R320) -/

/-- Where a carried frame's data begins, after its headers and the byte of its frame type (R318). -/
def State.carriedHead (s : State) (p : Nat) : Nat := (if s.flag (Oct.ctxTagEn (p / 8) (p % 8)) = true then 4 else 0) + 63

/-- A carried frame's data, between its headers and its CRC. -/
def State.carriedData (s : State) (p : Nat) (frame : List Byte) : List Byte :=
  (frame.drop (s.carriedHead p)).take (frame.length - (s.carriedHead p + 4))

section
variable {s : State} {p : Nat} {frame : List Byte}

theorem exec_carriedFrame_of_native (hcar : s.carried p = false) : exec (.carriedFrame p frame) s = .next s :=
  congrArg Host.Outcome.next (if_pos (by simp [hcar]))

theorem exec_carriedFrame_of_carried (ha : s.active = true) (hc : 2 ≤ s.ctxState p) (hcar : s.carried p = true) (hused : s.ctxUsed p = true) :
    exec (.carriedFrame p frame) s = .next (match s.dropReason p frame with
      | some why => s.carriedDrop p why
      | none => if beAt frame (s.carriedHead p - 1) 1 = 0 then s.arrive p (pktOfBytes (s.carriedData p frame))
        else s.carriedBlock p (BitVec.ofNat 256 (leNat (s.carriedData p frame)))) :=
  congrArg Host.Outcome.next (if_neg (by simp [ha, hc, hcar, hused]))

end

end Sys2Proof.Machine

open Sys2Proof Sys2Proof.Machine

/-- Settles O41: a block by the checks of its port in their order, a carried frame by the reason that its own checks give. -/
theorem controlBlocksAreChecked : Obligations.ControlBlocksAreChecked := by
  intro s p blk t1 t2 t3 vcs ords frame bad off
  have hnext {t u : State} (h : t = u) : (.next t : Host.Outcome State Fault Refusal) = .next u := congrArg Host.Outcome.next h
  refine ⟨fun h => ?_, fun ha hc hnat => ?_, fun ha hc hbad => hnext (State.blockIn_of_bad ha hc (.inr rfl) hbad), fun ha hc hcar => ?_,
    exec_carriedFrame_of_native, fun ha hc hcar hused => ⟨fun why hwhy => ?_, fun hnone => ?_⟩⟩
  · have hoff {type : Nat} {ok : Bool} {use : State → State} : s.blockIn p type blk ok use = s := State.blockIn_of_disabled h
    exact ⟨hnext hoff, hnext hoff, hnext hoff, hnext hoff⟩
  · have hcount {type : Nat} {use : State → State} (hbad : blockOk type blk = false) : s.blockIn p type blk false use = bad :=
      State.blockIn_of_bad ha hc (.inl hnat) hbad
    exact ⟨fun hbad => hnext (hcount hbad), fun hbad => hnext (hcount hbad), fun hbad => hnext (hcount hbad)⟩
  · have hdrop {type : Nat} {use : State → State} : s.blockIn p type blk false use = off := State.blockIn_of_carried ha hc hcar
    exact ⟨hnext hdrop, hnext hdrop, hnext hdrop⟩
  · rw [exec_carriedFrame_of_carried ha hc hcar hused, hwhy]
    rfl
  · rw [exec_carriedFrame_of_carried ha hc hcar hused, hnone]
    exact ⟨fun hpacket => hnext (if_pos hpacket), fun hblock => hnext (if_neg hblock)⟩

end

section
/-! SUPPORT. A step by the front of the queue, and commands that never stop the machine. -/

namespace Sys2Proof.Machine

open Sys2Proof Safety

theorem step_of_queued {s : State} {c : Instr} {rest : List Instr} (h : s.pending = c :: rest) :
    step s = exec c { s with pending := rest } := by
  rw [step, h]

/-! ### Every command answers a next state

Most commands are one next state. Four look first at what their work waits for, and answer in each case. -/

theorem execWaitEnds_answers (who : Waiter) (s : State) : ∃ t, execWaitEnds who s = .next t := by
  cases who with
  | compositor b =>
    dsimp only [execWaitEnds]
    cases (s.comp b).waiting <;> exact ⟨_, rfl⟩
  | station b i => exact ⟨_, rfl⟩

theorem execStreamEnd_answers (b i : Nat) (s : State) : ∃ t, execStreamEnd b i s = .next t := by
  unfold execStreamEnd
  cases s.stream b i <;> exact ⟨_, rfl⟩

theorem execTileRecomputation_answers (b i : Nat) (ok : Bool) (s : State) : ∃ t, execTileRecomputation b i ok s = .next t := by
  unfold execTileRecomputation
  cases s.stream b i <;> exact ⟨_, rfl⟩

theorem execFetchWaitEnds_answers (idx : Nat) (s : State) : ∃ t, execFetchWaitEnds idx s = .next t := by
  unfold execFetchWaitEnds
  cases s.fetches[idx]? <;> exact ⟨_, rfl⟩

/-- No command faults and none is refused: the spec gives every one an effect in every state. -/
theorem exec_answers (c : Instr) (s : State) : ∃ t, exec c s = .next t := by
  cases c
  case waitEnds who => exact execWaitEnds_answers who s
  case streamEnd b i => exact execStreamEnd_answers b i s
  case tileRecomputation b i ok => exact execTileRecomputation_answers b i ok s
  case fetchWaitEnds idx => exact execFetchWaitEnds_answers idx s
  all_goals exact ⟨_, rfl⟩

end Sys2Proof.Machine

open Sys2Proof Sys2Proof.Machine Sys2Proof.Safety

/-- Settles O14. -/
theorem stepRunsTheFrontCommand : Obligations.StepRunsTheFrontCommand := fun _ _ _ => step_of_queued

/-- Settles O16: a command answers a next state, and what its operations keep holds the queue. -/
theorem execLeavesTheQueue : Obligations.ExecLeavesTheQueue := by
  intro c s
  obtain ⟨t, ht⟩ := exec_answers c s
  exact ⟨t, ht, ((exec_keeps (.refl s) c).ofNext ht).queue⟩

end

section
/-! SUPPORT. Scrubbing of lines and words, and the copy of a retired channel (R336-R344, R476). -/

namespace Sys2Proof.Machine

open Sys2Proof Safety

/-! ### A log entry of a unit that is no region: nothing is traced, so that memory and its errors stay (R432, R441) -/

theorem State.logE_part_of_no_region {α : Type} (p : State → α) (hset : ∀ t f v, p (State.set t f v) = p t)
    (hlog : ∀ (t : State) x, p { t with log := x } = p t) (s : State) (cls : Nat) {u : LogUnit} (hu : u.region = none) (a : Nat)
    (l : List (Nat × Nat)) : p (s.logE cls u a l) = p s := by
  have hcount : ∀ x, p (State.logCount { s with log := x } cls) = p s := fun x => (State.logCount_part p hset _ cls).trans (hlog s x)
  unfold State.logE State.log1
  rw [hu]
  cases u.errors with
  | none => exact hcount _
  | some f => exact (hset _ f _).trans (hcount _)

theorem State.logE_poison (s : State) (cls : Nat) {u : LogUnit} (hu : u.region = none) (a : Nat) (l : List (Nat × Nat)) :
    (s.logE cls u a l).poison = s.poison :=
  s.logE_part_of_no_region State.poison (fun _ _ _ => rfl) (fun _ _ => rfl) cls hu a l

theorem State.logE_badWords (s : State) (cls : Nat) {u : LogUnit} (hu : u.region = none) (a : Nat) (l : List (Nat × Nat)) :
    (s.logE cls u a l).badWords = s.badWords :=
  s.logE_part_of_no_region State.badWords (fun _ _ _ => rfl) (fun _ _ => rfl) cls hu a l

/-! ### Lines of LPDDR5X (R336-R340) -/

/-- The retirement of a channel poisons no line and heals none. -/
theorem State.retireChannel_poison (s : State) (c cause : Nat) : (s.retireChannel c cause).poison = s.poison := by
  have hset : ∀ (t : State) f v, (t.set f v).poison = t.poison := fun _ _ _ => rfl
  unfold State.retireChannel
  dsimp only
  split
  · rfl
  · split
    · exact (State.setAll_part State.poison hset _ _).trans (State.logE_poison _ _ rfl _ _)
    · rfl

theorem State.chanError_poison (s : State) (c kind : Nat) : (s.chanError c kind).poison = s.poison := by
  unfold State.chanError
  dsimp only
  split
  all_goals
    split
    · exact State.retireChannel_poison _ c _
    · rfl

/-- A line found uncorrectable is poisoned (R338). -/
theorem State.mem_poison_lineUncorr (s : State) (a : Nat) : a / 64 * 64 ∈ (s.lineUncorr a).poison := by
  unfold State.lineUncorr
  dsimp only
  split
  · assumption
  · rw [State.chanError_poison, State.setAll_part State.poison fun _ _ _ => rfl, State.bump_poison, State.logE_poison _ _ rfl]
    exact List.mem_cons_self ..

section
variable {s : State} {a k : Nat}

theorem State.lineRead_clean : s.lineRead a 0 = s := by simp [State.lineRead]

theorem State.lineRead_poisoned (h : a / 64 * 64 ∈ s.poison) : s.lineRead a k = s := by simp [State.lineRead, h]

theorem State.checkRead_clean : s.checkRead a 0 = s := if_pos rfl

theorem State.lineRead_one (h : a / 64 * 64 ∉ s.poison) : s.lineRead a 1 = s.lineCorrected (a / 64 * 64) := by
  simp [State.lineRead, h]

theorem State.lineRead_many (h : a / 64 * 64 ∉ s.poison) (h2 : 2 ≤ k) (h7 : k ≤ 7) : s.lineRead a k = s.lineUncorr (a / 64 * 64) := by
  have h0 : k ≠ 0 := by omega
  have h1 : k ≠ 1 := by omega
  simp [State.lineRead, h, h0, h1, h7]

theorem exec_patrolScrub (ha : s.active = true) (hl : isLpddr a = true) (hs : s.inSpare a = false)
    (hc : s.get (Mc.retCh (a / 0x2A00000000)) ≠ s.chanAt a % 48) (check : Bool) (k : Nat) :
    exec (.patrolScrub a check k) s = .next (if check then s.checkRead a k else s.lineRead a k) :=
  congrArg Host.Outcome.next (if_pos (by simp [ha, hl, hs, hc]))

theorem exec_patrolScrub_data (ha : s.active = true) (hl : isLpddr a = true) (hs : s.inSpare a = false)
    (hc : s.get (Mc.retCh (a / 0x2A00000000)) ≠ s.chanAt a % 48) (k : Nat) : exec (.patrolScrub a false k) s = .next (s.lineRead a k) :=
  exec_patrolScrub ha hl hs hc false k

end

/-! ### Words of stone (R339, R340, R476) -/

/-- A word of stone lies on its byte's die. -/
theorem dieOf_word {a : Nat} (h : isStone a = true) : dieOf (a / 8 * 8) = dieOf a ∧ dieOf a < 8 := by
  simp only [isStone, decide_eq_true_eq] at h
  simp only [dieOf, isLpddr, decide_eq_true_eq]
  rw [if_neg (by omega), if_neg (by omega)]
  omega

theorem inDies_corr {n : Nat} (hn : n < 8) : inDies (Sc.corr n).key = true := by
  refine decide_eq_true ?_
  simp only [Field.key, Sc.corr, forgeBase]
  omega

section
variable {s : State} {a : Nat}

theorem exec_stoneScrub (ha : s.active = true) (hs : isStone a = true) (bad : Nat) :
    exec (.stoneScrub a bad) s = .next (s.stoneRead (a / 8 * 8) bad) :=
  congrArg Host.Outcome.next (if_pos (by simp [ha, hs]))

/-- A word without an error is read by the number of its bits in error. -/
theorem State.stoneRead_of_good (h : a ∉ s.badWords) :
    s.stoneRead a 0 = s ∧ s.stoneRead a 1 = s.stoneCorrected a ∧ s.stoneRead a 2 = s.stoneSpoiled a := by
  simp [State.stoneRead, h]

theorem State.stoneCorrected_badWords (s : State) (a : Nat) : (s.stoneCorrected a).badWords = s.badWords := by
  rw [State.stoneCorrected, State.bump_badWords, State.logE_badWords _ _ rfl]

theorem State.stoneCorrected_counts (s : State) {a : Nat} (hd : dieOf a < 8) :
    (s.stoneCorrected a).get (Sc.corr (dieOf a)) = (s.get (Sc.corr (dieOf a)) + 1) % 2 ^ 32 := by
  rw [State.stoneCorrected, State.get_bump_same, State.logE_get_die _ _ _ _ _ (inDies_corr hd)]
  rfl

/-- A word beyond correction keeps its error (R339). -/
theorem State.mem_badWords_stoneSpoiled (h : a ∉ s.badWords) : a ∈ (s.stoneSpoiled a).badWords := by
  rw [State.stoneSpoiled, if_neg h, State.stoneUncorr, State.set_badWords, State.bump_badWords, State.logE_badWords _ _ rfl]
  exact List.mem_cons_self ..

end

/-! ### The copy of a retired channel (R344) -/

/-- The registers that the end of a migration writes. -/
def migrationEnd (n : Nat) : List (Field × Nat) := [(Mc.migrating n, 0), (Mc.retireEvt n, 1)]

theorem migrationEnd_nodup (n : Nat) : ((migrationEnd n).map (·.1.key)).Nodup := by
  simp only [migrationEnd, Field.key, Mc.migrating, Mc.retireEvt, List.map_cons, List.map_nil, List.nodup_cons, List.mem_singleton,
    List.not_mem_nil, not_false_eq_true, List.nodup_nil, and_true]
  omega

section
variable {s : State} {n : Nat} (ha : s.active = true) (hn : n < 8) (hm : s.flag (Mc.migrating n) = true)
include ha hn hm

/-- A line copied without an error: MIG_PTR counts it, and the migration ends once it has counted the last. -/
theorem exec_migrationLineCopy_clean : exec (.migrationLineCopy n 0) s = .next (
    if chanLines ≤ (s.get (Mc.migPtr n) + 1) % 2 ^ 26 then ((s.bump (Mc.migPtr n) 1).setAll (migrationEnd n)).settleRetires
    else s.bump (Mc.migPtr n) 1) := by
  have hptr : (s.bump (Mc.migPtr n) 1).get (Mc.migPtr n) = (s.get (Mc.migPtr n) + 1) % 2 ^ 26 := State.get_bump_same ..
  refine congrArg Host.Outcome.next ((if_pos (by simp [ha, hn, hm])).trans ?_)
  dsimp only
  rw [State.lineRead_clean, hptr]
  rfl

theorem exec_migrationLineCopy_next (h : s.get (Mc.migPtr n) + 1 < chanLines) :
    exec (.migrationLineCopy n 0) s = .next (s.bump (Mc.migPtr n) 1) := by
  rw [exec_migrationLineCopy_clean ha hn hm, if_neg]
  simp only [chanLines] at h ⊢
  omega

theorem exec_migrationLineCopy_last (hl : s.longs = []) (h : s.get (Mc.migPtr n) + 1 = chanLines) :
    exec (.migrationLineCopy n 0) s = .next ((s.bump (Mc.migPtr n) 1).setAll (migrationEnd n)) := by
  rw [exec_migrationLineCopy_clean ha hn hm, h, if_pos (by decide), State.settleRetires_none]
  exact hl

end

end Sys2Proof.Machine

open Sys2Proof Sys2Proof.Machine Sys2Proof.Safety

/-- Settles O52: a line or word by its number of symbols or bits in error, a copied line by whether it is the channel's last. -/
theorem scrubbingFindsErrors : Obligations.ScrubbingFindsErrors := by
  intro s addr n ha
  refine ⟨fun hl hs hc => ⟨?_, fun hp => ⟨?_, fun k h2 h7 => ⟨?_, ?_⟩⟩, fun hp k => ?_, ?_⟩, fun hs hgood => ?_,
    fun hn hm hl => ⟨exec_migrationLineCopy_next ha hn hm, fun hlast => ⟨_, exec_migrationLineCopy_last ha hn hm hl hlast, ?_, ?_⟩⟩⟩
  · rw [exec_patrolScrub_data ha hl hs hc, State.lineRead_clean]
  · rw [exec_patrolScrub_data ha hl hs hc, State.lineRead_one hp]
  · rw [exec_patrolScrub_data ha hl hs hc, State.lineRead_many hp h2 h7]
  · simpa using s.mem_poison_lineUncorr (addr / 64 * 64)
  · rw [exec_patrolScrub_data ha hl hs hc, State.lineRead_poisoned hp]
  · rw [exec_patrolScrub ha hl hs hc, if_pos rfl, State.checkRead_clean]
  · obtain ⟨hclean, hone, htwo⟩ := State.stoneRead_of_good hgood
    obtain ⟨hdie, hlt⟩ := dieOf_word hs
    have hcount := s.stoneCorrected_counts (a := addr / 8 * 8) (hdie ▸ hlt)
    refine ⟨?_, ⟨_, (exec_stoneScrub ha hs 1).trans (congrArg _ hone), State.stoneCorrected_badWords .., hdie ▸ hcount⟩,
      _, (exec_stoneScrub ha hs 2).trans (congrArg _ htwo), State.mem_badWords_stoneSpoiled hgood⟩
    rw [exec_stoneScrub ha hs, hclean]
  · exact State.get_setAll_mem (v := 0) (migrationEnd_nodup n) (by simp [migrationEnd])
  · exact State.get_setAll_mem (v := 1) (migrationEnd_nodup n) (by simp [migrationEnd])

end

section
/-! SUPPORT. Impressions in flash: the sweeper, the commit record, and a block that fails (R347, R351-R353). -/

namespace Sys2Proof.Machine

open Sys2Proof Safety

variable {s : State} {w : ImpWrite}

/-! ### The sweeper (R352) -/

theorem exec_sweeper_idle (h : s.impWrite = none) : exec .sweeper s = .next s := by
  change execSweeper s = _
  rw [execSweeper, h]

/-- The sweeper claims the first bucket of the plan that it may. -/
theorem exec_sweeper_claims {k : Bucket} (ha : s.active = true) (hr : s.running = true) (hw : s.impWrite = some w)
    (hk : (s.impPlan w).find? (s.sweepable w.imp.step) = some k) : exec .sweeper s = .next (s.claim k) := by
  change execSweeper s = _
  rw [execSweeper, hw]
  dsimp only
  rw [if_neg (not_not.2 ⟨ha, hr⟩), hk]

/-! ### The commit record (R351, R352, R378) -/

theorem exec_commitRecord_idle (h : s.impWrite = none) : exec .commitRecord s = .next s := by
  change execCommitRecord s = _
  rw [execCommitRecord, h]

/-- UNCOMPARED is set where a bucket's partner sent no digest in time (R353). -/
def State.noteUncompared (s : State) (w : ImpWrite) : State :=
  if w.expect.all (fun id => decide (id ∈ w.compared)) = true then s else s.set Imp.uncompared 1

theorem State.noteUncompared_get (s : State) (w : ImpWrite) :
    (s.noteUncompared w).get Imp.uncompared =
      if w.expect.all (fun id => decide (id ∈ w.compared)) = true then s.get Imp.uncompared else 1 := by
  unfold State.noteUncompared
  split
  · rfl
  · exact State.get_set_same ..

theorem State.noteUncompared_get_ne (s : State) (w : ImpWrite) {f : Field} (h : f.key ≠ Imp.uncompared.key) :
    (s.noteUncompared w).get f = s.get f := by
  unfold State.noteUncompared
  split
  · rfl
  · exact State.get_set_ne _ _ h

/-- With every bucket of the plan written and no digest kept back, the impression ends. -/
theorem exec_commitRecord_of_written (ha : s.active = true) (hr : s.running = true) (hw : s.impWrite = some w) (hp : s.impPlan w = [])
    (he : w.early = []) : exec .commitRecord s = .next ((s.noteUncompared w).impressEnd w) := by
  have hopen : (w.expect.any (fun id => id ∉ w.compared) || (s.impPlan w).any fun k => k.owned && Tab.get w.plan 0 k.id == 1) =
      !w.expect.all (fun id => decide (id ∈ w.compared)) := by
    simp [hp, List.not_all_eq_any_not]
  have hrecord : s.commitRecord w = (s.noteUncompared w).impressEnd w := by
    rw [State.commitRecord, he]
    simp only [State.compareEarly, hw, hopen]
    unfold State.noteUncompared
    cases w.expect.all (fun id => decide (id ∈ w.compared)) <;> rfl
  change execCommitRecord s = _
  rw [execCommitRecord, hw]
  dsimp only
  rw [if_pos (by simp [ha, hr, hp]), hrecord]

/-- The registers that show the end of an impression (R351, R385). -/
def impressWrites (w : ImpWrite) : List (Field × Nat) := [(Imp.validStep, w.imp.step), (Imp.writingStep, 2 ^ 64 - 1)]

theorem impressWrites_nodup (w : ImpWrite) : ((impressWrites w).map (·.1.key)).Nodup := by
  change [Imp.validStep.key, Imp.writingStep.key].Nodup
  decide

/-- The impressions kept once the one written is among them, not pinned (R351). -/
def State.impsWith (s : State) (w : ImpWrite) : List Impression :=
  keepImps (s.get Imp.impKeep) (s.imps ++ [{ w.imp with suspect := w.mismatch, pinned := false }])

/-- An impression that is not to be exported becomes valid (R351). -/
theorem State.impressEnd_unshared (h : s.get Surv.sharedM = 0) : s.impressEnd w =
    (State.setAll { s with impWrite := none, validCount := s.validCount + 1, imps := s.impsWith w } (impressWrites w)).bump
      Imp.bytesWritten 16384 := by
  unfold State.impressEnd
  rw [h]
  rfl

theorem State.impressEnd_records (h : s.get Surv.sharedM = 0) :
    (s.impressEnd w).impWrite = none ∧ (s.impressEnd w).validCount = s.validCount + 1 ∧
      (s.impressEnd w).get Imp.validStep = w.imp.step % 2 ^ 64 ∧ (s.impressEnd w).get Imp.writingStep = 2 ^ 64 - 1 := by
  rw [State.impressEnd_unshared h]
  refine ⟨rfl, rfl, ?_, ?_⟩
  · rw [State.get_bump_ne _ _ (by decide)]
    exact State.get_setAll_mem (v := w.imp.step) (impressWrites_nodup w) (by simp [impressWrites])
  · rw [State.get_bump_ne _ _ (by decide)]
    exact State.get_setAll_mem (f := Imp.writingStep) (v := 2 ^ 64 - 1) (impressWrites_nodup w) (by simp [impressWrites])

theorem State.impressEnd_get (h : s.get Surv.sharedM = 0) {f : Field}
    (hf : ∀ g ∈ [Imp.validStep, Imp.writingStep, Imp.bytesWritten], f.key ≠ g.key) : (s.impressEnd w).get f = s.get f := by
  simp only [List.mem_cons, List.not_mem_nil, or_false, forall_eq_or_imp, forall_eq] at hf
  obtain ⟨hvalid, hwriting, hbytes⟩ := hf
  rw [State.impressEnd_unshared h, State.get_bump_ne _ _ hbytes, State.get_setAll_ne _ _ (by simp [impressWrites, hvalid, hwriting])]
  rfl

/-! ### A flash block that fails (R347) -/

theorem exec_flashProgramFailure_of_good {block e f : Nat} (ha : s.alive = true)
    (h : Tab.get s.flash (0, 0, false) block = (e, f, false)) :
    exec (.flashProgramFailure block) s =
      .next (({ s with flash := Tab.put s.flash block (e, f + 1, true) }.bump Imp.blocksRetired 1).set Imp.flashEvt 1) := by
  change execFlashProgramFailure block s = _
  rw [execFlashProgramFailure, h]
  exact congrArg Host.Outcome.next (if_pos (by simp [ha]))

theorem exec_flashProgramFailure_of_retired {block e f : Nat} (h : Tab.get s.flash (0, 0, false) block = (e, f, true)) :
    exec (.flashProgramFailure block) s = .next s := by
  change execFlashProgramFailure block s = _
  rw [execFlashProgramFailure, h]
  exact congrArg Host.Outcome.next (if_neg (by simp))

end Sys2Proof.Machine

open Sys2Proof Sys2Proof.Machine Sys2Proof.Safety

/-- Settles O53: the sweeper and the commit record by whether an impression is being written, a block by whether it is retired already. -/
theorem flashKeepsImpressions : Obligations.FlashKeepsImpressions := by
  intro s w k block
  refine ⟨exec_sweeper_claims, fun h => ⟨exec_sweeper_idle h, exec_commitRecord_idle h⟩, fun ha hr hw hp he hm => ?_,
    fun e f ha hflash => ⟨_, exec_flashProgramFailure_of_good ha hflash, Tab.get_put_same .., ?_, State.get_set_same ..,
      fun j hj => Tab.get_put_ne _ _ _ hj⟩, fun e f => exec_flashProgramFailure_of_retired⟩
  · have hshared : (s.noteUncompared w).get Surv.sharedM = 0 := (s.noteUncompared_get_ne w (by decide)).trans hm
    obtain ⟨hdone, hcount, hvalid, hwriting⟩ := State.impressEnd_records (w := w) hshared
    refine ⟨_, exec_commitRecord_of_written ha hr hw hp he, hdone, hcount.trans ?_, hvalid, hwriting, ?_, ?_⟩
    · unfold State.noteUncompared
      split <;> rfl
    · rw [State.impressEnd_get hshared (by decide), State.noteUncompared_get_ne _ _ (by decide)]
    · rw [State.impressEnd_get hshared (by decide), State.noteUncompared_get]
  · rw [State.get_set_ne _ _ (by decide), State.get_bump_same]
    rfl

end

section
/-! SUPPORT. Lifetime records: power-on time, ageing and the calendar (R426, R428, R429). -/

namespace Sys2Proof.Machine

open Sys2Proof Safety

variable {s : State}

/-! ### The records in flash (R426) -/

/-- Records written one after another from place 1 on. -/
theorem Tab.get_foldl_set (g : Nat → Nat) (t : Tab Nat) (n k : Nat) :
    Tab.get ((List.range n).foldl (fun u r => Tab.set u 0 (1 + r) (g r)) t) 0 k = if 1 ≤ k ∧ k ≤ n then g (k - 1) else Tab.get t 0 k := by
  induction n with
  | zero => rw [if_neg (by omega)]; rfl
  | succ n ih =>
    rw [List.range_succ, List.foldl_concat]
    by_cases hk : k = 1 + n
    · subst hk
      rw [Tab.get_set_same, if_pos (by omega), Nat.add_sub_cancel_left]
    · rw [Tab.get_set_ne _ _ _ _ hk, ih]
      exact if_congr (by omega) rfl rfl

theorem State.storeLife_powerOn (s : State) : Tab.get s.storeLife.stored 0 0 = s.get Sec.powerOnS :=
  (Tab.get_foldl_set (fun r => s.get (Sec.age r)) _ 85 0).trans (Tab.get_set_same ..)

theorem State.storeLife_age (s : State) {u : Nat} (h : u < 85) : Tab.get s.storeLife.stored 0 (1 + u) = s.get (Sec.age u) := by
  refine (Tab.get_foldl_set (fun r => s.get (Sec.age r)) _ 85 (1 + u)).trans ?_
  rw [if_pos (by omega), Nat.add_sub_cancel_left]

theorem State.storeLife_get (s : State) (f : Field) : s.storeLife.get f = s.get f := rfl

theorem exec_lifetimeRecordWrite (ha : s.alive = true) : exec .lifetimeRecordWrite s = .next (s.bump Sec.powerOnS 600).storeLife :=
  congrArg Host.Outcome.next (if_pos ha)

/-- The ageing records lie between the security block's words and the sideband block (R407, R431). -/
theorem Sec.age_key_ne {r : Nat} (hr : r < 85) :
    ∀ g ∈ [Sec.powerOnS, Sec.ageEvt, Side.alertPend, Side.alertCount, Side.alertOut], (Sec.age r).key ≠ g.key := by
  simp only [List.forall_mem_cons, List.not_mem_nil, false_imp_iff, implies_true, and_true, Field.key, Sec.age, Sec.powerOnS, Sec.ageEvt,
    Side.alertPend, Side.alertCount, Side.alertOut]
  omega

/-! ### A minute of ageing (R428) -/

/-- The units of an hour of equivalent ageing: 60 minutes in steps of 2^-32 (log entry 18). -/
def ageHour : Nat := 60 * 2 ^ 32

/-- The ageing of region r before and in a minute, in units of 2^-32 minute. -/
def State.ageUnits (s : State) (r : Nat) (temp : Int) (mv : Nat) : Nat :=
  Tab.get s.ageFrac 0 r + ageFactor temp (if r < 72 then mv else 750)

/-- Whole hours go to AGE_r, the rest is kept. -/
def State.aged (s : State) (r units : Nat) : State :=
  { s with ageFrac := Tab.set s.ageFrac 0 r (units % ageHour) }.set (Sec.age r) (s.get (Sec.age r) + units / ageHour)

theorem exec_ageUpdate {r mv : Nat} {temp : Int} (ha : s.alive = true) (hr : r < 85) :
    exec (.ageUpdate r temp mv) s = .next (
      if s.get (Sec.age r) < 61362 ∧ 61362 ≤ s.get (Sec.age r) + s.ageUnits r temp mv / ageHour then
        ((s.aged r (s.ageUnits r temp mv)).set Sec.ageEvt 1).alert
      else s.aged r (s.ageUnits r temp mv)) :=
  congrArg Host.Outcome.next (if_pos (by simp [ha, hr]))

theorem State.aged_age (s : State) (r units : Nat) :
    (s.aged r units).get (Sec.age r) = (s.get (Sec.age r) + units / ageHour) % 2 ^ 32 := State.get_set_same ..

theorem State.aged_ageFrac (s : State) (r units : Nat) : Tab.get (s.aged r units).ageFrac 0 r = units % ageHour := Tab.get_set_same ..

/-- AGE_EVT with its alert leaves the ageing records. -/
theorem State.ageAlert_get_age (s : State) {r : Nat} (hr : r < 85) : (s.set Sec.ageEvt 1).alert.get (Sec.age r) = s.get (Sec.age r) := by
  have hne := Sec.age_key_ne hr
  simp only [List.forall_mem_cons] at hne
  obtain ⟨-, hevt, halert⟩ := hne
  rw [State.alert_get _ (by simpa using halert), State.get_set_ne _ _ hevt]

theorem State.ageAlert_evt (s : State) : (s.set Sec.ageEvt 1).alert.get Sec.ageEvt = 1 := by
  rw [State.alert_get _ (by decide), State.get_set_same]
  rfl

/-! ### The calendar (R429) -/

theorem exec_calendarAdvance (ha : s.alive = true) :
    exec .calendarAdvance s = .next (if s.flag Sec.calValid then s.bump Sec.calendar 1 else s) := by
  change Host.Outcome.next (if (s.alive && s.flag Sec.calValid) = true then _ else _) = _
  rw [ha, Bool.true_and]

end Sys2Proof.Machine

open Sys2Proof Sys2Proof.Machine Sys2Proof.Safety

/-- Settles O54: the records as they are written one by one, a minute of ageing by whether it passes the limit. -/
theorem lifetimeRecordsAdvance : Obligations.LifetimeRecordsAdvance := by
  intro s r mv temp ha
  refine ⟨⟨_, exec_lifetimeRecordWrite ha, ?_, (State.storeLife_powerOn _).trans (State.storeLife_get ..).symm, fun u hu => ?_⟩,
    fun hr => ?_, fun hv => ?_, fun hv => ?_⟩
  · rw [State.storeLife_get, State.get_bump_same]
    rfl
  · rw [State.storeLife_age _ hu, State.get_bump_ne _ _ (Sec.age_key_ne hu _ (List.mem_cons_self ..))]
  · intro minute
    refine ⟨_, exec_ageUpdate ha hr, ?_⟩
    split
    next hlimit =>
      exact ⟨(State.ageAlert_get_age _ hr).trans (s.aged_age r minute), s.aged_ageFrac r minute,
        fun _ _ => ⟨State.ageAlert_evt _, State.alert_alertPend _⟩⟩
    next hlimit => exact ⟨s.aged_age r minute, s.aged_ageFrac r minute, fun hlow hhigh => absurd ⟨hlow, hhigh⟩ hlimit⟩
  · rw [exec_calendarAdvance ha, if_pos hv]
  · rw [exec_calendarAdvance ha, if_neg (by simp [hv])]

end

section
/-! SUPPORT. The input: an excursion, the fall to STANDBY or OFF, and a measurement (R454, R455). -/

namespace Sys2Proof.Machine

open Sys2Proof Safety

variable {s : State} {v : Nat}

/-! ### An excursion (R454) -/

/-- The board's entry for an excursion that has begun. -/
def State.excursionLogged (s : State) (v : Nat) : State := State.logE { s.set Pwr.vin v with excursion := true } clSupply .board 0 []

/-- SUPPLY_EVT with its alert. -/
def State.supplyAlert (s : State) : State := (s.set Pwr.supplyEvt 1).alert

theorem inExcursion_of_band (h : (34000 ≤ v ∧ v < 36000) ∨ (44000 < v ∧ v ≤ 46000)) : inExcursion v = true := decide_eq_true h

theorem exec_supplyExcursion (ha : s.alive = true) (hv : inExcursion v = true) :
    exec (.supplyExcursion v) s =
      .next (if s.excursion then s.set Pwr.vin v else (s.excursionLogged v).supplyAlert) :=
  congrArg Host.Outcome.next (if_pos (by simp [ha, hv]))

theorem State.excursionLogged_excursion (s : State) (v : Nat) : (s.excursionLogged v).excursion = true :=
  State.logE_part_of_no_region State.excursion (fun _ _ _ => rfl) (fun _ _ => rfl) _ clSupply rfl 0 []

theorem State.excursionLogged_powerState (s : State) (v : Nat) : (s.excursionLogged v).get Cmd.powerState = s.get Cmd.powerState :=
  (State.logE_get _ clSupply .board 0 [] (by decide)).trans (State.get_set_ne _ _ (by decide))

/-- The entry is the board's, of class SUPPLY (R432, R434). -/
theorem State.excursionLogged_find (s : State) (v : Nat) :
    ∃ n x, Tab.find (s.excursionLogged v).log n = some x ∧ x.cls = clSupply ∧ x.utype = 9 := by
  unfold State.excursionLogged State.logE
  rw [State.log1_entry]
  exact ⟨_, _, Tab.find_put_same .., rfl, rfl⟩

theorem State.supplyAlert_get (s : State) : s.supplyAlert.get Pwr.supplyEvt = 1 ∧ s.supplyAlert.get Side.alertPend = 1 ∧
    s.supplyAlert.get Cmd.powerState = s.get Cmd.powerState := by
  refine ⟨?_, State.alert_alertPend _, ?_⟩
  · rw [State.supplyAlert, State.alert_get _ (by decide), State.get_set_same]
    rfl
  · rw [State.supplyAlert, State.alert_get _ (by decide), State.get_set_ne _ _ (by decide)]

theorem State.supplyAlert_excursion (s : State) : s.supplyAlert.excursion = s.excursion := rfl

theorem State.supplyAlert_log (s : State) : s.supplyAlert.log = s.log := rfl

/-- An excursion that begins is logged, and shows in SUPPLY_EVT. -/
theorem supplyExcursion_begins (ha : s.alive = true) (hv : inExcursion v = true) (hx : s.excursion = false) :
    ∃ t, exec (.supplyExcursion v) s = .next t ∧ t.get Pwr.supplyEvt = 1 ∧ t.get Side.alertPend = 1 ∧ t.excursion = true ∧
      t.get Cmd.powerState = s.get Cmd.powerState ∧ ∃ n x, Tab.find t.log n = some x ∧ x.cls = clSupply ∧ x.utype = 9 := by
  have hexec := exec_supplyExcursion ha hv
  have hexcursion := s.excursionLogged_excursion v
  have hpower := s.excursionLogged_powerState v
  have hfind := s.excursionLogged_find v
  rw [if_neg (by simp [hx])] at hexec
  generalize s.excursionLogged v = u at *
  obtain ⟨hevt, hpend, hstate⟩ := u.supplyAlert_get
  refine ⟨_, hexec, hevt, hpend, u.supplyAlert_excursion.trans hexcursion, hstate.trans hpower, ?_⟩
  rwa [u.supplyAlert_log]

/-! ### The fall to STANDBY (R454) -/

theorem exec_overvoltage_standby (ha : s.alive = true) (h0 : 46000 < v) (h1 : v ≤ 50000) :
    exec (.overvoltage v) s = .next ((s.set Pwr.vin v).fallBack 2) :=
  congrArg Host.Outcome.next ((if_neg (by omega)).trans (if_pos (by simp [ha, h0])))

theorem State.fallBack_runState (s : State) (cause : Nat) : (s.fallBack cause).get Cmd.runState = 0 := by
  rw [State.fallBack, State.showFault, State.get_set_ne _ _ (by decide), State.get_set_ne _ _ (by decide), State.standby_runState]

/-- FAULT_N is driven while FAULT_CAUSE names one (R466). -/
theorem State.fallBack_faultOut (s : State) {cause : Nat} (hc : cause % 16 ≠ 0) : (s.fallBack cause).get Side.faultOut = 1 := by
  have hcause : (s.standby.set Side.faultCause cause).get Side.faultCause = cause % 16 := State.get_set_same ..
  rw [State.fallBack, State.showFault, State.get_set_same, hcause]
  simp [hc, b2n, Side.faultOut]

theorem State.fallBack_inactive (s : State) (cause : Nat) : (s.fallBack cause).active = false := by
  simp [State.active, State.fallBack_powerState]

/-! ### OFF (R454, R469) -/

/-- The input of a module that is off: no excursion goes on, VIN is measured. -/
def State.inputAt (s : State) (v : Nat) : State := { s with excursion := false }.set Pwr.vin v

theorem State.inputAt_get (s : State) (v : Nat) {f : Field} (h : f.key ≠ Pwr.vin.key) : (s.inputAt v).get f = s.get f :=
  (State.get_set_ne _ _ h).trans rfl

theorem exec_inputOff (hp : s.get Cmd.powerState ≠ 0) (hv : v < 34000 ∨ 50000 < v) : exec (.inputOff v) s = .next (s.powerOff.inputAt v) :=
  congrArg Host.Outcome.next ((if_pos hv).trans (if_neg hp))

theorem exec_overvoltage_off (hp : s.get Cmd.powerState ≠ 0) (hv : 50000 < v) : exec (.overvoltage v) s = .next (s.powerOff.inputAt v) :=
  congrArg Host.Outcome.next ((if_pos hv).trans (if_neg hp))

theorem State.powerOff_powerState (s : State) : s.powerOff.get Cmd.powerState = 0 := by
  unfold State.powerOff
  generalize s.powerOnReset = u
  exact State.get_setAll_mem (v := 0) (by decide) (List.mem_cons_self ..)

/-- Off, the module holds no byte of memory and no entry of the log. -/
theorem State.powerOff_empty (s : State) : s.powerOff.mem = [] ∧ s.powerOff.log = [] := by
  obtain ⟨hmem, -, -, hlog⟩ := s.powerOnReset_idle
  rw [State.powerOff, State.setAll_part State.mem fun _ _ _ => rfl, State.setAll_part State.log fun _ _ _ => rfl]
  exact ⟨hmem, hlog⟩

/-- OFF as the input's loss leaves it (R454). -/
theorem State.powerOff_inputAt (s : State) (v : Nat) :
    let t := s.powerOff.inputAt v
    t.get Cmd.powerState = 0 ∧ t.alive = false ∧ t.mem = [] ∧ t.log = [] := by
  have hstate := s.powerOff_powerState
  obtain ⟨hmem, hlog⟩ := s.powerOff_empty
  generalize s.powerOff = u at *
  have hoff := (u.inputAt_get v (by decide)).trans hstate
  exact ⟨hoff, by simp [State.alive, hoff], hmem, hlog⟩

/-! ### A measurement (R454, R455, R471) -/

/-- The registers of a measurement. -/
def measureWrites (v iin pin avg : Nat) : List (Field × Nat) := [(Pwr.vin, v), (Pwr.iin, iin), (Pwr.pin, pin), (Pwr.pinAvg, avg)]

theorem measureWrites_nodup (v iin pin avg : Nat) : ((measureWrites v iin pin avg).map (·.1.key)).Nodup := by
  change [Pwr.vin.key, Pwr.iin.key, Pwr.pin.key, Pwr.pinAvg.key].Nodup
  decide

theorem exec_powerMeasurement (hp : s.get Cmd.powerState ≠ 0) (iin pin avg : Nat) :
    exec (.powerMeasurement v iin pin avg) s =
      .next { s.setAll (measureWrites v iin pin avg) with excursion := s.excursion && inExcursion v } :=
  congrArg Host.Outcome.next (if_pos hp)

theorem State.get_excursion (s : State) (x : Bool) (f : Field) : State.get { s with excursion := x } f = s.get f := rfl

/-- A measurement is what the registers show, and nothing else changes. -/
theorem powerMeasurement_shows (hp : s.get Cmd.powerState ≠ 0) (iin pin avg : Nat) :
    ∃ t, exec (.powerMeasurement v iin pin avg) s = .next t ∧ t.get Pwr.vin = v % 2 ^ 16 ∧ t.get Pwr.pinAvg = avg % 2 ^ 11 ∧
      t.mem = s.mem ∧ t.get Cmd.powerState = s.get Cmd.powerState := by
  have hwrites := measureWrites_nodup v iin pin avg
  have hvin : (s.setAll (measureWrites v iin pin avg)).get Pwr.vin = v % 2 ^ 16 :=
    State.get_setAll_mem hwrites (by simp [measureWrites])
  have havg : (s.setAll (measureWrites v iin pin avg)).get Pwr.pinAvg = avg % 2 ^ 11 :=
    State.get_setAll_mem hwrites (by simp [measureWrites])
  have hstate : (s.setAll (measureWrites v iin pin avg)).get Cmd.powerState = s.get Cmd.powerState :=
    State.get_setAll_ne _ _ (by simp only [measureWrites, List.forall_mem_cons]; decide)
  have hmem : (s.setAll (measureWrites v iin pin avg)).mem = s.mem := State.setAll_part State.mem (fun _ _ _ => rfl) _ _
  exact ⟨_, exec_powerMeasurement hp iin pin avg, (State.get_excursion ..).trans hvin, (State.get_excursion ..).trans havg, hmem,
    (State.get_excursion ..).trans hstate⟩

end Sys2Proof.Machine

open Sys2Proof Sys2Proof.Machine Sys2Proof.Safety

/-- Settles O55: each band of the input by its command's equation, and what the log entry, the fall to STANDBY and the power-on reset
write. -/
theorem theInputDecidesThePowerState : Obligations.TheInputDecidesThePowerState := by
  intro s v iin pin avg
  refine ⟨fun ha hv => ⟨fun hx => ?begins, fun hx => ?goesOn⟩, fun ha h0 h1 => ?standby, fun hp hv => ?off, fun hp => ?measured⟩
  case begins => exact supplyExcursion_begins ha (inExcursion_of_band hv) hx
  case goesOn => rw [exec_supplyExcursion ha (inExcursion_of_band hv), if_pos hx]
  case standby =>
    exact ⟨_, exec_overvoltage_standby ha h0 h1, State.fallBack_powerState _ 2, State.fallBack_faultCause _ 2,
      State.fallBack_faultOut _ (by decide), State.fallBack_runState _ 2, State.fallBack_inactive _ 2⟩
  case off =>
    obtain ⟨hstate, halive, hmem, hlog⟩ := s.powerOff_inputAt v
    exact ⟨_, exec_inputOff hp hv, exec_overvoltage_off hp, hstate, halive, hmem, hlog⟩
  case measured => exact powerMeasurement_shows hp iin pin avg

end

section
/-! SUPPORT. The TAP's instruction register and the SMBus target (R467, R468). -/

namespace Sys2Proof.Machine

open Sys2Proof Safety

variable {s : State}

/-! ### The TAP (R467) -/

/-- With the hub rails up the TAP takes an instruction. -/
theorem State.tapLoad_on (h : s.get Cmd.powerState ≠ 0) (ir : Nat) (drive : Bool) :
    s.tapLoad ir drive = { s with tapIr := ir, tapDrive := drive } := if_neg h

theorem exec_extest (s : State) : exec .extest s = .next (if s.flag Side.resetNIn then s.tapLoad 255 false else s.tapLoad 0 true) := rfl

/-! ### Reads of the SMBus (R468) -/

/-- The addresses that the SMBus may read: the sideband and the power and thermal blocks. -/
def smbReadable (a : Nat) : Prop := 0x3F00000B0000 ≤ a ∧ a < 0x3F00000D0000

theorem leBytes_length (k n : Nat) : (leBytes k n).length = k := by
  induction k generalizing n with
  | zero => rfl
  | succ k ih => rw [leBytes, List.length_cons, ih]

/-- A word of ones is eight bytes of ones. -/
theorem leBytes_ones : leBytes 8 (2 ^ 64 - 1) = List.replicate 8 0xFF := by decide

theorem State.smbWord_of_regs {a : Nat} {fs : List Field} (ha : smbReadable a) (hl : locate a = .regs fs) : s.smbWord a = s.readFields fs := by
  have hread : decide (0x3F00000B0000 ≤ a ∧ a < 0x3F00000D0000) = true := decide_eq_true ha
  rw [State.smbWord, hread, hl]

theorem State.smbWord_of_unreadable {a : Nat} (ha : ¬ smbReadable a) : s.smbWord a = (2 ^ 64 - 1, s) := by
  have hread : decide (0x3F00000B0000 ≤ a ∧ a < 0x3F00000D0000) = false := decide_eq_false ha
  rw [State.smbWord, hread]

theorem State.readField_csr (s : State) (f : Field) : (s.readField f).2.csr = s.csr := by
  unfold State.readField
  split
  · rfl
  · split <;> rfl

theorem State.readFields_csr (s : State) (fs : List Field) : (s.readFields fs).2.csr = s.csr := by
  induction fs generalizing s with
  | nil => rfl
  | cons f fs ih => exact (ih _).trans (s.readField_csr f)

/-- A read changes no register. -/
theorem State.smbWord_csr (s : State) (a : Nat) : (s.smbWord a).2.csr = s.csr := by
  unfold State.smbWord
  split
  · exact s.readFields_csr _
  · rfl

/-- The word that holds an address, read, and the word after it. -/
def State.smbWords (s : State) : (Nat × State) × (Nat × State) :=
  let v := s.smbWord (s.smbAddr / 8 * 8)
  (v, v.2.smbWord (s.smbAddr / 8 * 8 + 8))

/-- The 8 bytes from an offset on in two words. -/
def smbBytes (v w off : Nat) : List Byte := ((leBytes 8 v ++ leBytes 8 w).drop off).take 8

theorem smbBytes_length (v w : Nat) {off : Nat} (h : off < 8) : (smbBytes v w off).length = 8 := by
  simp only [smbBytes, List.length_take, List.length_drop, List.length_append, leBytes_length]
  omega

/-- From a word's start on the bytes are the word's. -/
theorem smbBytes_start (v w : Nat) : smbBytes v w 0 = leBytes 8 v := by
  rw [smbBytes, List.drop_zero, List.take_append_of_le_length (leBytes_length 8 v).ge, List.take_of_length_le (leBytes_length 8 v).le]

theorem smbBytes_ones {off : Nat} (h : off < 8) : smbBytes (2 ^ 64 - 1) (2 ^ 64 - 1) off = List.replicate 8 0xFF := by
  rw [smbBytes, leBytes_ones, List.replicate_append_replicate, List.drop_replicate, List.take_replicate]
  congr 1
  omega

theorem exec_blockRead (ha : s.alive = true) : exec .blockRead s = .next { s.smbWords.2.2 with
    smbOut := smbBytes s.smbWords.1.1 s.smbWords.2.1 (s.smbAddr % 8), smbAddr := (s.smbAddr + 8) % 2 ^ 48 } :=
  congrArg Host.Outcome.next (if_pos ha)

/-- Where none of the 8 bytes may be read, all are ones: the bytes of a word are readable together. -/
theorem State.smbWords_of_unreadable (h : ∀ k, k < 8 → ¬ smbReadable (s.smbAddr + k)) :
    smbBytes s.smbWords.1.1 s.smbWords.2.1 (s.smbAddr % 8) = List.replicate 8 0xFF := by
  have h0 := h 0 (by decide)
  have h7 := h 7 (by decide)
  simp only [smbReadable] at h0 h7
  have hfirst : s.smbWord (s.smbAddr / 8 * 8) = (2 ^ 64 - 1, s) := State.smbWord_of_unreadable (by simp only [smbReadable]; omega)
  by_cases hstart : s.smbAddr % 8 = 0
  · rw [hstart, smbBytes_start, ← leBytes_ones]
    exact congrArg (fun x => leBytes 8 (Prod.fst x)) hfirst
  · have hsecond : s.smbWord (s.smbAddr / 8 * 8 + 8) = (2 ^ 64 - 1, s) :=
      State.smbWord_of_unreadable (by simp only [smbReadable]; omega)
    simp only [State.smbWords, hfirst, hsecond]
    exact smbBytes_ones (Nat.mod_lt _ (by decide))

end Sys2Proof.Machine

open Sys2Proof Sys2Proof.Machine Sys2Proof.Safety

/-- Settles O58: an instruction of the TAP by the hub rails and RESET_N, a read of the SMBus by the two words that its bytes lie in. -/
theorem theTapAndTheSmbusAnswer : Obligations.TheTapAndTheSmbusAnswer := by
  intro s bytes
  refine ⟨fun hp => ?tap, fun ha hb => ?write, fun ha => ?read⟩
  case tap =>
    have hload {ir : Nat} : (.next (s.tapLoad ir false) : Host.Outcome State Fault Refusal) = .next { s with tapIr := ir, tapDrive := false } :=
      congrArg _ (State.tapLoad_on hp ir false)
    refine ⟨hload, hload, hload, hload, fun hr => ?_, fun hr => ?_⟩
    · rw [exec_extest, hr, State.tapLoad_on hp 0 true]
      rfl
    · rw [exec_extest, hr, if_pos rfl, State.tapLoad_on hp]
  case write => exact congrArg Host.Outcome.next (if_pos (by simp [ha, hb]))
  case read =>
    have hoff : s.smbAddr % 8 < 8 := Nat.mod_lt _ (by decide)
    refine ⟨_, exec_blockRead ha, smbBytes_length _ _ hoff, rfl, ?_, fun hstart => ?_, fun hnone => State.smbWords_of_unreadable fun k hk hr => ?_,
      fun fs h0 h1 => State.smbWord_of_regs ⟨h0, h1⟩⟩
    · exact (State.smbWord_csr _ _).trans (s.smbWord_csr _)
    · have haddr : s.smbAddr / 8 * 8 = s.smbAddr := by omega
      dsimp only
      rw [hstart, smbBytes_start, State.smbWords, haddr]
    · obtain ⟨h0, h1⟩ := hr
      have := hnone k hk
      omega

end

section
/-! SUPPORT. The checks of a mailbox command in their order, and GLOBAL_STOP's acceptance (R393, R396-R399). -/

namespace Sys2Proof.Machine

open Sys2Proof Safety

/-! ### The commands whose parameters the model and the table of R398 read in different forms -/

theorem bits_low (v n : Nat) : bits v 0 n = v % 2 ^ n := by rw [bits, pow_zero, Nat.div_one]

theorem State.readCsr_eq (s : State) (h : HostHdr) (w : List W64) : s.readCsr h w =
    s.mailbox h w 0x08 .any (needsDie (param w 0 % 2 ^ 48) (param w 0 / 2 ^ 48 % 2 ^ 8)) false
      (h.form == 0 && w.length == 1 && csrWord (param w 0))
      (State.readWords 0x08 (param w 0 / 2 ^ 48 % 2 ^ 8) (param w 0 % 2 ^ 48) []) := by
  rw [← bits_low]
  rfl

theorem State.writeCsr_eq (s : State) (h : HostHdr) (w : List W64) : s.writeCsr h w =
    s.mailbox h w 0x09 .any (needsDie (param w 0 % 2 ^ 48) (param w 0 / 2 ^ 48 % 2 ^ 8)) false
      (h.form == 0 && w.length == 1 + param w 0 / 2 ^ 48 % 2 ^ 8 && csrWord (param w 0))
      (State.writeWords 0x09 0 (param w 0 % 2 ^ 48) ((w.drop 1).map BitVec.toNat)) := by
  rw [← bits_low]
  rfl

/-- W0 of GET_COUNTERS in range: COUNT takes the eight bits above FIRST. -/
theorem countersWord_eq (v : Nat) :
    (decide (v < 2 ^ 44) && decide (1 ≤ bits v 36 8 ∧ bits v 36 8 ≤ 128)) = callOf.countersWord v := by
  rw [Bool.eq_iff_iff]
  simp only [callOf.countersWord, Bool.and_eq_true, decide_eq_true_eq]
  refine and_congr_right fun hv => ?_
  rw [bits, Nat.mod_eq_of_lt (by omega)]

theorem State.getCounters_eq (s : State) (h : HostHdr) (w : List W64) : s.getCounters h w =
    s.mailbox h w 0x50 .any (callOf.countersDie (param w 0)) false (h.form == 0 && w.length == 1 && callOf.countersWord (param w 0))
      (State.counters (param w 0 % 16) (param w 0 / 2 ^ 4 % 2 ^ 32) (param w 0 / 2 ^ 36 % 2 ^ 8)) := by
  have hset : bits (param w 0) 0 4 = param w 0 % 16 := bits_low ..
  rw [State.getCounters, hset, Bool.and_assoc (h.form == 0 && w.length == 1), countersWord_eq]
  rfl

/-- W0 of GET_LOG in range: COUNT takes the five bits above FIRST, and is not 0. -/
theorem logWord_eq (v : Nat) : (decide (v < 2 ^ 37) && bits v 32 5 != 0) = (decide (v < 2 ^ 37) && decide (1 ≤ v / 2 ^ 32)) := by
  rw [Bool.eq_iff_iff]
  simp only [bits, Bool.and_eq_true, decide_eq_true_eq, bne_iff_ne]
  omega

theorem State.getLog_eq (s : State) (h : HostHdr) (w : List W64) : s.getLog h w =
    s.mailbox h w 0x51 .any false false
      (h.form == 0 && w.length == 1 && decide (param w 0 < 2 ^ 37) && decide (1 ≤ param w 0 / 2 ^ 32))
      (State.logRead (param w 0 % 2 ^ 32) (param w 0 / 2 ^ 32 % 2 ^ 5)) := by
  rw [State.getLog, Bool.and_assoc (h.form == 0 && w.length == 1), logWord_eq, ← Bool.and_assoc, bits_low]
  rfl

theorem State.setPairing_eq (s : State) (h : HostHdr) (w : List W64) : s.setPairing h w =
    s.mailbox h w 0x30 .stopped true false (decide (h.form.toNat ≤ 2) && w.length == 1 && decide (param w 0 < 2 ^ 20))
      fun t => if h.form = 2 then t.adopt (param w 0) else t.pairStart h (param w 0) (h.form == 1) := rfl

/-! ### The shared path of every mailbox command (R396) -/

/-- A mailbox command is the shared path with its row of R398 and a work of its own. -/
theorem exec_of_callOf {c : Instr} {m : Call} (h : callOf c = some m) (s : State) : ∃ body,
    exec c s = .next (if s.alive then s.mailbox m.hdr m.words m.op m.accepted m.die m.long m.shape body else s) := by
  cases c
  all_goals cases h
  case setPair h w => exact ⟨_, congrArg (fun t => Host.Outcome.next (if s.alive = true then t else s)) (s.setPairing_eq h w)⟩
  case setPairAdopt h w => exact ⟨_, congrArg (fun t => Host.Outcome.next (if s.alive = true then t else s)) (s.setPairing_eq h w)⟩
  case readCsr h w => exact ⟨_, congrArg (fun t => Host.Outcome.next (if s.alive = true then t else s)) (s.readCsr_eq h w)⟩
  case writeCsr h w => exact ⟨_, congrArg (fun t => Host.Outcome.next (if s.alive = true then t else s)) (s.writeCsr_eq h w)⟩
  case retireBench h w => exact ⟨_, congrArg (fun t => Host.Outcome.next (if s.alive = true then t else s)) (s.retire_eq h w)⟩
  case retireChannel h w => exact ⟨_, congrArg (fun t => Host.Outcome.next (if s.alive = true then t else s)) (s.retire_eq h w)⟩
  case retireLane h w => exact ⟨_, congrArg (fun t => Host.Outcome.next (if s.alive = true then t else s)) (s.retire_eq h w)⟩
  case getCounters h w => exact ⟨_, congrArg (fun t => Host.Outcome.next (if s.alive = true then t else s)) (s.getCounters_eq h w)⟩
  case getLog h w => exact ⟨_, congrArg (fun t => Host.Outcome.next (if s.alive = true then t else s)) (s.getLog_eq h w)⟩
  all_goals exact ⟨_, rfl⟩

/-! ### GLOBAL_STOP (R399) -/

/-- The registers above the mailbox blocks read as before once a mailbox has taken a command. -/
theorem taken_flag_above (s : State) (h : HostHdr) (w : List W64) {f : Field} (hf : aboveMailboxes f) : (taken s h w).flag f = s.flag f :=
  congrArg (· != 0) (taken_get_above s h w hf)

theorem taken_stopAt (s : State) (h : HostHdr) (w : List W64) : (taken s h w).stopAt = s.stopAt :=
  taken_part State.stopAt (fun _ _ _ => rfl) (fun _ _ _ => rfl) (fun _ _ _ => rfl) s h w

theorem State.countOk_iff (s : State) (c : Nat) : s.countOk c = true ↔ s.now + 50000 ≤ c ∧ c ≤ s.now + 60000000000 := decide_eq_true_iff

/-- The work of GLOBAL_STOP by its three checks. -/
theorem State.globalWork_cases (s : State) (h : HostHdr) (c : Nat) :
    (s.flag Tb.tbLock = false → State.globalWork h c s = .err s stNotReady) ∧
    (s.flag Tb.tbLock = true → s.countOk c = false → State.globalWork h c s = .err s stBadParam) ∧
    (s.flag Tb.tbLock = true → s.countOk c = true → s.stopAt ≠ none → State.globalWork h c s = .err s stBusy) ∧
    (s.flag Tb.tbLock = true → s.countOk c = true → s.stopAt = none → State.globalWork h c s = .later { s with stopAt := some (c, h) }) := by
  refine ⟨fun hl => ?_, fun hl hc => ?_, fun hl hc hs => ?_, fun hl hc hs => ?_⟩
  · simp [State.globalWork, hl]
  · simp [State.globalWork, hl, hc]
  · simp [State.globalWork, hl, hc, Option.isSome_iff_ne_none.2 hs]
  · simp [State.globalWork, hl, hc, hs]

end Sys2Proof.Machine

open Sys2Proof Sys2Proof.Machine Sys2Proof.Safety

/-- Settles O20: each check by its branch of the shared path, whatever the command's own work. -/
theorem mailboxCommandsAreCheckedInOrder : Obligations.MailboxCommandsAreCheckedInOrder := by
  intro c m s hc tag r
  obtain ⟨body, hexec⟩ := exec_of_callOf hc s
  obtain ⟨hheader, hpending, hrefused, -⟩ := mailbox_cases s m.hdr m.words m.op m.accepted m.die m.long m.shape body
  have halive (ha : s.alive = true) := hexec.trans (congrArg Host.Outcome.next (if_pos ha))
  refine ⟨fun ha => ?_, fun ha hh => ?_, fun ha hh hp => ?_, fun st ha hh hp hr => ?_⟩
  · rw [hexec, if_neg (by simp [ha])]
  · rw [halive ha, hheader hh]
  · rw [halive ha, hpending hh hp]
  · rw [halive ha, hrefused st hh hp hr]
    rfl

/-- Settles O31: the command's own checks in their order, on registers that its mailbox's taking of it leaves. -/
theorem globalStopNeedsTheTimebase : Obligations.GlobalStopNeedsTheTimebase := by
  intro s h w ha t c
  have hlock : t.flag Tb.tbLock = s.flag Tb.tbLock := taken_flag_above s h w (by decide)
  have hstop : t.stopAt = s.stopAt := taken_stopAt s h w
  have hcount : t.countOk c = true ↔ s.now + 50000 ≤ c ∧ c ≤ s.now + 60000000000 := by
    rw [State.countOk_iff, taken_now]
  obtain ⟨hunlocked, hrange, hbusy, hwaits⟩ := t.globalWork_cases h c
  rw [hlock] at hunlocked hrange hbusy hwaits
  rw [hstop] at hbusy hwaits
  rw [exec_of_admitted ha rfl (body := State.globalWork h c) rfl]
  refine ⟨fun hl => ?_, fun hl hc => ?_, fun hl hlo hhi hs => ?_, fun hl hlo hhi hs => ?_⟩
  · rw [hunlocked hl, next_settle_err]
  · rw [hrange hl (Bool.eq_false_iff.2 (mt hcount.1 hc)), next_settle_err]
  · rw [hbusy hl (hcount.2 ⟨hlo, hhi⟩) hs, next_settle_err]
  · rw [hwaits hl (hcount.2 ⟨hlo, hhi⟩) hs]
    rfl

end

section
/-! SUPPORT. What a mailbox keeps of a command: its taking, its completion and the stored reply (R393, R401, R440). -/

namespace Sys2Proof.Machine

open Sys2Proof Safety

/-! ### The latch areas (R440) -/

/-- The latches of a command's start and end lie in its mailbox's area. -/
theorem State.rd_latchArea {s : State} {m e a : Nat} (he : e ≤ 1) (ha : ¬ (latchAddr m 0 ≤ a ∧ a < latchAddr m 274)) :
    (s.latchArea m e).rd a = s.rd a := by
  have hsums : (((List.range 136).map fun j => leBytes 8 (s.convSum j)).flatten).length = 1088 := by
    simp [List.length_flatten, Function.comp_def, leBytes_length]
  simp only [latchAddr] at ha
  rw [State.latchArea, State.rd_store, hsums, if_neg (by simp only [latchAddr]; omega), State.storeNat, State.rd_store, leBytes_length,
    if_neg (by simp only [latchAddr]; omega)]

/-! ### A mailbox that takes a command (R401) -/

section
variable (s : State) (h : HostHdr) (w : List W64)

theorem received_mbState : (s.received w).get (Mb.mbState (h.tag.toNat % 32)) = s.get (Mb.mbState (h.tag.toNat % 32)) :=
  (State.get_bump_ne _ _ (mailbox_of_tag (fun n => (Mb.mbState n).key ≠ Cmd.cmds.key) (by decide) _)).trans rfl

/-- The taking of a command shows as pending. -/
theorem taken_mbState : (taken s h w).get (Mb.mbState (h.tag.toNat % 32)) = 1 :=
  State.get_set_same (if (s.received w).get (Mb.mbState (h.tag.toNat % 32)) = 2 then (s.received w).set Cmd.mbOverwriteEvt 1 else s.received w)
    (Mb.mbState (h.tag.toNat % 32)) 1

/-- An unread result that the taking displaces shows in MB_OVERWRITE_EVT. -/
theorem taken_overwrites (hu : s.get (Mb.mbState (h.tag.toNat % 32)) = 2) : (taken s h w).get Cmd.mbOverwriteEvt = 1 := by
  have hkey : Cmd.mbOverwriteEvt.key ≠ (Mb.mbState (h.tag.toNat % 32)).key :=
    mailbox_of_tag (fun n => Cmd.mbOverwriteEvt.key ≠ (Mb.mbState n).key) (by decide) _
  have hlatch (t : State) (m e : Nat) : (t.latchArea m e).get Cmd.mbOverwriteEvt = t.get Cmd.mbOverwriteEvt := rfl
  unfold taken State.mailboxTake
  rw [hlatch, State.get_set_ne _ _ hkey, if_pos ((received_mbState s h w).trans hu), State.get_set_same]
  rfl

theorem taken_completion : (taken s h w).get (Mb.completion (h.tag.toNat % 32)) = s.get (Mb.completion (h.tag.toNat % 32)) :=
  taken_get s h w _
    (mailbox_of_tag (fun n => (Mb.completion n).key ≠ (Mb.mbState n).key) (by decide) _)
    (mailbox_of_tag (fun n => (Mb.completion n).key ≠ Cmd.mbOverwriteEvt.key) (by decide) _)
    (mailbox_of_tag (fun n => (Mb.completion n).key ≠ Cmd.cmds.key) (by decide) _)

theorem taken_mailboxes : (taken s h w).mailboxes = s.mailboxes :=
  taken_part State.mailboxes (fun _ _ _ => rfl) (fun _ _ _ => rfl) (fun _ _ _ => rfl) s h w

/-- Of memory the taking writes its mailbox's latch area alone (R440). -/
theorem taken_rd {a : Nat} (ha : ¬ (latchAddr (h.tag.toNat % 32) 0 ≤ a ∧ a < latchAddr (h.tag.toNat % 32) 274)) :
    (taken s h w).rd a = s.rd a := by
  unfold taken State.mailboxTake
  rw [State.rd_latchArea (by decide) ha, State.rd_set]
  split <;> rfl

end

/-! ### A command that completes (R393, R401) -/

/-- A reply's status counted: NOT_OK and HW_FAULT_EVT (R409). -/
def State.replyCounts (s : State) (status : Nat) : State :=
  let s := if status = stOk then s else s.bump Cmd.notOk 1
  if status = stHwFault then s.set Cmd.hwFaultEvt 1 else s

section
variable {α : Type} (p : State → α) (hset : ∀ t f v, p (State.set t f v) = p t)
  (hlink : ∀ (t : State) d w q b, p { t with dreril := d, wire := w, statusQ := q, bulkQ := b } = p t)

include hset in
theorem State.replyCounts_part (s : State) (st : Nat) : p (s.replyCounts st) = p s := by
  unfold State.replyCounts
  split <;> split <;> simp only [State.bump, hset]

include hlink

theorem State.sendFlit_part (s : State) (ch : Nat) : p (s.sendFlit ch) = p s := by
  unfold State.sendFlit
  split
  · rfl
  · split
    · exact hlink s _ _ _ _
    · rfl

theorem State.sendFlits_part (s : State) (ch n : Nat) : p (s.sendFlits ch n) = p s := by
  induction n generalizing s with
  | zero => rfl
  | succ n ih => exact (ih _).trans (State.sendFlit_part p hlink s ch)

theorem State.drainDreril_part (s : State) : p s.drainDreril = p s :=
  (State.sendFlits_part p hlink _ 2 _).trans (State.sendFlits_part p hlink s 1 _)

include hset

/-- A reply changes registers and the Dreril Link's outgoing side alone (R393). -/
theorem State.reply_part (s : State) (r : Reply) : p (s.reply r) = p s :=
  (State.drainDreril_part p hlink _).trans
    ((hlink (s.replyCounts r.status) _ (s.replyCounts r.status).wire _ (s.replyCounts r.status).bulkQ).trans
      (State.replyCounts_part p hset s r.status))

end

/-- The registers that a completion writes. -/
def completeWrites (m seq tag op status : Nat) : List (Field × Nat) :=
  [(Mb.completion m, packDetail [(seq, 32), (tag, 16), (op, 8), (status, 8)]), (Mb.mbState m, 2)]

theorem completeWrites_nodup (n seq tag op status : Nat) : ((completeWrites (n % 32) seq tag op status).map (·.1.key)).Nodup := by
  change [(Mb.completion (n % 32)).key, (Mb.mbState (n % 32)).key].Nodup
  simpa using mailbox_of_tag (fun m => (Mb.completion m).key ≠ (Mb.mbState m).key) (by decide) n

section
variable (s : State) (op tag status fault : Nat) (words : List Nat)

/-- What a completion writes of its mailbox is what stands there after its reply. -/
theorem State.complete_get_written {f : Field} {v : Nat} (hn : f.key ≠ Cmd.notOk.key) (hw : f.key ≠ Cmd.hwFaultEvt.key)
    (h : (f, v) ∈ completeWrites (tag % 32) ((bits (s.get (Mb.completion (tag % 32))) 0 32 + 1) % 2 ^ 32) tag op status) :
    (s.complete op tag status fault words).get f = v % 2 ^ f.width :=
  (State.reply_get _ _ (by simp [hn, hw])).trans (State.get_setAll_mem (completeWrites_nodup ..) h)

theorem State.complete_mbState : (s.complete op tag status fault words).get (Mb.mbState (tag % 32)) = 2 :=
  State.complete_get_written s op tag status fault words (v := 2)
    (mailbox_of_tag (fun m => (Mb.mbState m).key ≠ Cmd.notOk.key) (by decide) tag)
    (mailbox_of_tag (fun m => (Mb.mbState m).key ≠ Cmd.hwFaultEvt.key) (by decide) tag) (by simp [completeWrites])

/-- The completion word: SEQ, TAG, OPCODE and STATUS (R401). -/
theorem State.complete_completion (htag : tag < 2 ^ 16) (hop : op < 2 ^ 8) (hst : status < 2 ^ 8) :
    (s.complete op tag status fault words).get (Mb.completion (tag % 32)) =
      (s.get (Mb.completion (tag % 32)) % 2 ^ 32 + 1) % 2 ^ 32 + tag * 2 ^ 32 + op * 2 ^ 48 + status * 2 ^ 56 := by
  refine (State.complete_get_written s op tag status fault words
    (mailbox_of_tag (fun m => (Mb.completion m).key ≠ Cmd.notOk.key) (by decide) tag)
    (mailbox_of_tag (fun m => (Mb.completion m).key ≠ Cmd.hwFaultEvt.key) (by decide) tag) (List.mem_cons_self ..)).trans ?_
  have hlow : bits (s.get (Mb.completion (tag % 32))) 0 32 = s.get (Mb.completion (tag % 32)) % 2 ^ 32 := by simp [bits]
  rw [hlow]
  generalize s.get (Mb.completion (tag % 32)) = c
  change packDetail _ % 2 ^ 64 = _
  simp only [packDetail]
  omega

/-- The mailbox holds the reply (R393). -/
theorem State.complete_mailbox :
    Tab.find (s.complete op tag status fault words).mailboxes (tag % 32) = some ⟨op, tag, status, fault, words.map (BitVec.ofNat 64)⟩ := by
  have hparts (v : State) (l : List (Field × Nat)) (r : Reply) : ((v.setAll l).reply r).mailboxes = v.mailboxes :=
    (State.reply_part State.mailboxes (fun _ _ _ => rfl) (fun _ _ _ _ _ => rfl) _ _).trans
      (State.setAll_part State.mailboxes (fun _ _ _ => rfl) v l)
  exact (congrArg (Tab.find · (tag % 32)) (hparts _ _ _)).trans (Tab.find_put_same ..)

end

end Sys2Proof.Machine

open Sys2Proof Sys2Proof.Machine Sys2Proof.Safety

/-- Settles O21: the taking writes the mailbox's state and its latch area, the completion its word, state and stored reply, and the reply
that follows leaves all three. -/
theorem mailboxesKeepTheReply : Obligations.MailboxesKeepTheReply := by
  intro s h w op status fault ws m t u
  exact ⟨taken_mbState s h w, taken_overwrites s h w, taken_completion s h w, taken_mailboxes s h w,
    fun f hm he hc => taken_get s h w f hm he hc, fun a ha => taken_rd s h w ha,
    State.complete_mbState .., State.complete_mailbox .., State.complete_completion _ _ _ _ _ _ h.tag.isLt⟩

end

section
/-! SUPPORT. What the direct commands reply with: identity, features, status and a mailbox's result (R393, R398, R402). -/

namespace Sys2Proof.Machine

open Sys2Proof Safety

/-! ### The arrival of a command (R396) -/

section
variable (s : State) (w : List W64)

/-- The arrival of a command counts it in CMDS and leaves the other registers. -/
theorem received_get {f : Field} (hf : f.key ≠ Cmd.cmds.key) : (s.received w).get f = s.get f := (State.get_bump_ne _ _ hf).trans rfl

theorem received_now : (s.received w).now = s.now := received_get s w (f := Tb.count) (by decide)

/-- A word of registers without CMDS reads as before a command's arrival. -/
theorem received_readWord {fs : List Field} (hfs : ∀ f ∈ fs, f.key ≠ Cmd.cmds.key) : (s.received w).readWord fs = s.readWord fs :=
  congrArg List.sum (List.map_congr_left fun f hf => by rw [received_get s w (hfs f hf)])

/-- CMDS is in none of the FEATn words (R2). -/
theorem featField_ne_cmds : ∀ n < 8, ∀ f ∈ fieldsAt (0x3F0000000000 + 8 * n), f.key ≠ Cmd.cmds.key := by decide

theorem received_featWords : (List.range 8).map (s.received w).featWord =
    (List.range 8).map fun n => s.readWord (fieldsAt (0x3F0000000000 + 8 * n)) :=
  List.map_congr_left fun n hn => received_readWord s w (featField_ne_cmds n (List.mem_range.1 hn))

theorem received_identity : (s.received w).identity =
    [0x5120 + 0xA1 * 2 ^ 16 + 2 ^ 24, Config.serial.toNat, s.get Fab.deviceId + s.get Sec.activeSlot * 2 ^ 20, s.fwVersion] := by
  have hver : (s.received w).fwVersion = s.fwVersion := by
    unfold State.fwVersion
    rw [received_get s w (f := Sec.activeSlot) (by decide), received_get s w (by split <;> decide)]
  rw [State.identity, received_get s w (by decide), received_get s w (by decide), hver]

theorem received_deviceStatus : (s.received w).deviceStatus =
    [s.get Cmd.runState + 4 * s.get Cmd.routingStopped + 8 * s.get Cmd.powerState, s.get Upd.committed, s.now, s.get Coll.epoch] := by
  rw [State.deviceStatus, received_now]
  repeat rw [received_get s w (by decide)]

theorem received_storedReply (m : Nat) : (s.received w).storedReply m = s.storedReply m := rfl

theorem received_completion (m : Nat) (hm : m < 32) : (s.received w).get (Mb.completion m) = s.get (Mb.completion m) :=
  received_get s w (Nat.mod_eq_of_lt hm ▸ mailbox_of_tag (fun n => (Mb.completion n).key ≠ Cmd.cmds.key) (by decide) m)

theorem received_mailboxState (m : Nat) (hm : m < 32) : (s.received w).get (Mb.mbState m) = s.get (Mb.mbState m) :=
  received_get s w (Nat.mod_eq_of_lt hm ▸ mailbox_of_tag (fun n => (Mb.mbState n).key ≠ Cmd.cmds.key) (by decide) m)

end

/-! ### The shared path of a direct command (R393, R396) -/

/-- A direct command that passes its checks replies with its words. -/
theorem direct_of_ok {s : State} {h : HostHdr} {w : List W64} {op : Nat} {shape : Bool} {body : State → State × Nat × List Nat}
    (hok : directOk s h w op) (hshape : shape = true) {u : State} {st : Nat} {ws : List Nat} (hb : body (s.received w) = (u, st, ws)) :
    Host.Outcome.next (if s.alive then s.direct h w op shape body else s) = replies u op h st ws := by
  obtain ⟨halive, hheader, hrec⟩ := hok
  have hrec' : (s.received w).recovering op = false := (congrArg (fun v => (v != 0) && _) (received_get s w (by decide))).trans hrec
  simp [State.direct, replies, halive, hheader, hrec', hshape, hb]

theorem exec_identify {s : State} {h : HostHdr} {w : List W64} (hok : directOk s h w 0x01) (hform : h.form = 0) (hw : w = []) :
    exec (.identify h w) s = replies (s.received w) 0x01 h stOk (s.received w).identity :=
  direct_of_ok hok (by simp [hform, hw]) rfl

theorem exec_getFeatures {s : State} {h : HostHdr} {w : List W64} (hok : directOk s h w 0x02) (hform : h.form = 0) (hw : w = []) :
    exec (.getFeatures h w) s = replies (s.received w) 0x02 h stOk ((List.range 8).map (s.received w).featWord) :=
  direct_of_ok hok (by simp [hform, hw]) rfl

theorem exec_getStatus {s : State} {h : HostHdr} {w : List W64} (hok : directOk s h w 0x03) (hform : h.form = 0) (hw : w = []) :
    exec (.getStatus h w) s = replies (s.received w) 0x03 h stOk (s.received w).deviceStatus :=
  direct_of_ok hok (by simp [hform, hw]) (if_pos hform)

/-- GET_STATUS FORM 1 replies with what its mailbox shows (R402). -/
theorem exec_getStatusMailbox {s : State} {h : HostHdr} {w : List W64} (hok : directOk s h w 0x03) (hform : h.form = 1)
    (hw : w.length = 1) (hm : param w 0 < 32) {u : State} {st : Nat} {ws : List Nat}
    (hb : (s.received w).mailboxStatus (param w 0) = (u, st, ws)) : exec (.getStatusMailbox h w) s = replies u 0x03 h st ws :=
  direct_of_ok hok (by simp [hform, hw, hm]) ((if_neg (by simp [hform])).trans hb)

/-! ### What a mailbox shows (R402) -/

section
variable (s : State) (m : Nat)

theorem State.mailboxStatus_unread (h : s.get (Mb.mbState m) = 2) :
    s.mailboxStatus m = (s.set (Mb.mbState m) 3, stOk, s.get (Mb.completion m) :: s.storedReply m) := by
  simp only [State.mailboxStatus, h]

theorem State.mailboxStatus_read (h : s.get (Mb.mbState m) = 3) :
    s.mailboxStatus m = (s, stDone, s.get (Mb.completion m) :: s.storedReply m) := by
  simp only [State.mailboxStatus, h]

theorem State.mailboxStatus_none (h : s.get (Mb.mbState m) ≤ 1) : s.mailboxStatus m = (s, stNotReady, [s.get (Mb.completion m)]) := by
  unfold State.mailboxStatus
  split
  · omega
  · omega
  · rfl

end

end Sys2Proof.Machine

open Sys2Proof Sys2Proof.Machine Sys2Proof.Safety

/-- Settles O22: a direct command changes CMDS and the link's counts before its words are read, and none of the words shows either. -/
theorem directCommandsReply : Obligations.DirectCommandsReply := by
  intro s h w t
  refine ⟨fun hok hform hw => ?_, fun hok hform hw => ?_, fun hok hform hw => ?_, fun hok hform hw hm => ?_⟩
  · rw [exec_identify hok hform hw, received_identity]
  · rw [exec_getFeatures hok hform hw, received_featWords]
  · rw [exec_getStatus hok hform hw, received_deviceStatus]
  · intro m
    have hcomp := received_completion s w m hm
    have hst : t.get (Mb.mbState m) = s.get (Mb.mbState m) := received_mailboxState s w m hm
    refine ⟨fun h2 => exec_getStatusMailbox hok hform hw hm ?_, fun h3 => exec_getStatusMailbox hok hform hw hm ?_,
      fun h1 => exec_getStatusMailbox hok hform hw hm ?_⟩
    · rw [State.mailboxStatus_unread _ _ (hst.trans h2), hcomp, received_storedReply]
    · rw [State.mailboxStatus_read _ _ (hst.trans h3), hcomp, received_storedReply]
    · rw [State.mailboxStatus_none _ _ (hst.trans_le h1), hcomp]

end

section
/-! SUPPORT. READ_CSR and WRITE_CSR by the words they take, up to the first that is refused (R400, R405). -/

namespace Sys2Proof.Machine

open Sys2Proof Safety

/-! ### Words read (R398, R405) -/

/-- Words that are all readable are read in their order; u k is the state before word k. -/
theorem State.readWords_ok (op n a : Nat) (acc : List Nat) (v : Nat → Nat) (u : Nat → State)
    (h : ∀ k < n, (u k).readAt (a + 8 * k) = .word (v k) (u (k + 1))) :
    State.readWords op n a acc (u 0) = .ok (u n) (acc.reverse ++ (List.range n).map v) := by
  induction n generalizing a acc v u with
  | zero => simp [State.readWords]
  | succ n ih =>
    have hfirst : (u 0).readAt a = .word (v 0) (u 1) := h 0 (Nat.succ_pos n)
    have hrest := ih (a + 8) (v 0 :: acc) (fun k => v (k + 1)) (fun k => u (k + 1)) fun k hk => by
      rw [show a + 8 + 8 * k = a + 8 * (k + 1) by omega]
      exact h (k + 1) (by omega)
    simp only [State.readWords, hfirst]
    rw [hrest, List.range_succ_eq_map]
    simp [Function.comp_def]

/-- A word that is no register ends the reading, whatever was read before it. -/
theorem State.readWords_violation (op n a : Nat) (acc : List Nat) (v : Nat → Nat) (u : Nat → State) (k : Nat) (hk : k < n)
    (h : ∀ j < k, (u j).readAt (a + 8 * j) = .word (v j) (u (j + 1))) (hbad : (u k).readAt (a + 8 * k) = .violation) :
    State.readWords op n a acc (u 0) = .violation (u k) op (a + 8 * k) [] := by
  induction k generalizing n a acc v u with
  | zero =>
    obtain ⟨n, rfl⟩ := Nat.exists_eq_succ_of_ne_zero hk.ne'
    rw [Nat.mul_zero, Nat.add_zero] at hbad ⊢
    simp only [State.readWords, hbad]
  | succ k ih =>
    obtain ⟨n, rfl⟩ := Nat.exists_eq_succ_of_ne_zero (Nat.ne_zero_of_lt hk)
    have hfirst : (u 0).readAt a = .word (v 0) (u 1) := h 0 (Nat.succ_pos k)
    have hnext (j : Nat) : a + 8 + 8 * j = a + 8 * (j + 1) := by omega
    have hrest := ih n (a + 8) (v 0 :: acc) (fun j => v (j + 1)) (fun j => u (j + 1)) (by omega)
      (fun j hj => hnext j ▸ h (j + 1) (by omega)) (hnext k ▸ hbad)
    simp only [State.readWords, hfirst]
    rw [hrest, hnext]

/-! ### Words written (R400) -/

/-- Words that are all taken are written in their order. -/
theorem State.writeWords_ok (op n a : Nat) (vs : List Nat) (u : Nat → State)
    (h : ∀ k (hk : k < vs.length), (u k).writeAt (a + 8 * k) vs[k] = .ok (u (k + 1))) :
    State.writeWords op n a vs (u 0) = .ok (u vs.length) [n + vs.length] := by
  induction vs generalizing n a u with
  | nil => rfl
  | cons v vs ih =>
    have hfirst : (u 0).writeAt a v = .ok (u 1) := h 0 (Nat.succ_pos _)
    have hrest := ih (n + 1) (a + 8) (fun k => u (k + 1)) fun k hk => by
      rw [show a + 8 + 8 * k = a + 8 * (k + 1) by omega]
      exact h (k + 1) (Nat.succ_lt_succ hk)
    simp only [State.writeWords, hfirst]
    rw [hrest, List.length_cons, Nat.add_right_comm, Nat.add_assoc]

/-- The first word refused ends the writing; those before it stay written and are counted. -/
theorem State.writeWords_refused (op n a : Nat) (vs : List Nat) (u : Nat → State) (k st : Nat) (x : State) (hk : k < vs.length)
    (h : ∀ j (hj : j < k), (u j).writeAt (a + 8 * j) vs[j] = .ok (u (j + 1))) (hbad : (u k).writeAt (a + 8 * k) vs[k] = .refused x st) :
    State.writeWords op n a vs (u 0) = .done x st 0 [n + k] := by
  induction k generalizing n a vs u with
  | zero =>
    obtain ⟨v, vs, rfl⟩ := List.exists_cons_of_length_pos hk
    rw [Nat.mul_zero, Nat.add_zero] at hbad
    simp only [State.writeWords, show (u 0).writeAt a v = .refused x st from hbad, Nat.add_zero]
  | succ k ih =>
    obtain ⟨v, vs, rfl⟩ := List.exists_cons_of_length_pos (Nat.zero_lt_of_lt hk)
    have hfirst : (u 0).writeAt a v = .ok (u 1) := h 0 (Nat.succ_pos k)
    have hnext (j : Nat) : a + 8 + 8 * j = a + 8 * (j + 1) := by omega
    have hrest := ih (n + 1) (a + 8) vs (fun j => u (j + 1)) (Nat.lt_of_succ_lt_succ hk)
      (fun j hj => (hnext j).symm ▸ h (j + 1) (by omega)) ((hnext k).symm ▸ hbad)
    simp only [State.writeWords, hfirst]
    rw [hrest, Nat.add_right_comm, Nat.add_assoc]

/-! ### The commands (R398) -/

section
variable {s : State} {h : HostHdr} {w : List W64}

theorem exec_readCsr (ha : admitted (.readCsr h w) s) : exec (.readCsr h w) s =
    .next (State.settle 0x08 h.tag.toNat
      (State.readWords 0x08 (param w 0 / 2 ^ 48 % 2 ^ 8) (param w 0 % 2 ^ 48) [] (taken s h w))) :=
  exec_of_admitted ha rfl (congrArg (fun t => Host.Outcome.next (if s.alive = true then t else s)) (s.readCsr_eq h w))

theorem exec_writeCsr (ha : admitted (.writeCsr h w) s) : exec (.writeCsr h w) s =
    .next (State.settle 0x09 h.tag.toNat
      (State.writeWords 0x09 0 (param w 0 % 2 ^ 48) ((w.drop 1).map BitVec.toNat) (taken s h w))) :=
  exec_of_admitted ha rfl (congrArg (fun t => Host.Outcome.next (if s.alive = true then t else s)) (s.writeCsr_eq h w))

/-- An admitted WRITE_CSR carries as many words as its COUNT says. -/
theorem writeCsr_length (ha : admitted (.writeCsr h w) s) : ((w.drop 1).map BitVec.toNat).length = param w 0 / 2 ^ 48 % 2 ^ 8 := by
  have hshape := shape_of_admitted ha rfl
  simp only [Bool.and_eq_true, beq_iff_eq] at hshape
  obtain ⟨⟨-, hlen⟩, -⟩ := hshape
  rw [List.length_map, List.length_drop, hlen, Nat.add_sub_cancel_left]

theorem nth_of_lt {α : Type} (d : α) (l : List α) (k : Nat) (hk : k < l.length) : nth d l k = l[k] := by
  induction l generalizing k with
  | nil => cases hk
  | cons x l ih =>
    cases k with
    | zero => rfl
    | succ k => exact ih k (Nat.lt_of_succ_lt_succ hk)

/-- Word k of a WRITE_CSR is its parameter k + 1. -/
theorem writeCsr_word (w : List W64) (k : Nat) (hk : k < ((w.drop 1).map BitVec.toNat).length) :
    ((w.drop 1).map BitVec.toNat)[k] = param w (k + 1) := by
  rw [List.length_map, List.length_drop] at hk
  rw [param, nth_of_lt _ w (k + 1) (by omega)]
  simp

end

end Sys2Proof.Machine

open Sys2Proof Sys2Proof.Machine Sys2Proof.Safety

/-- Settles O23, by induction on the words taken before the command ends. -/
theorem csrAccessesGoWordByWord : Obligations.CsrAccessesGoWordByWord := by
  intro s h w t a n
  refine ⟨fun ha v u h0 hu => ?_, fun ha v u k h0 hk hu hbad => ?_, fun ha u h0 hu => ?_, fun ha u k st x h0 hk hu hbad => ?_⟩
  · rw [exec_readCsr ha, show taken s h w = u 0 from h0.symm, State.readWords_ok 0x08 n a [] v u hu, next_settle_ok, List.reverse_nil,
      List.nil_append]
  · rw [exec_readCsr ha, show taken s h w = u 0 from h0.symm, State.readWords_violation 0x08 n a [] v u k hk hu hbad]
    rfl
  · have hlen := writeCsr_length ha
    have hall := State.writeWords_ok 0x09 0 a _ u fun k hk => (writeCsr_word w k hk) ▸ hu k (hk.trans_eq hlen)
    rw [exec_writeCsr ha, show taken s h w = u 0 from h0.symm, hall, next_settle_ok, hlen, Nat.zero_add]
  · have hk' := hk.trans_eq (writeCsr_length ha).symm
    rw [exec_writeCsr ha, show taken s h w = u 0 from h0.symm, State.writeWords_refused 0x09 0 a _ u k st x hk'
      (fun j hj => (writeCsr_word w j (hj.trans hk')) ▸ hu j hj) ((writeCsr_word w k hk') ▸ hbad), Nat.zero_add]
    rfl

end

section
/-! SUPPORT. Commands that read: the conversion counters, the log, the list of impressions and the signed report (R398, R425, R436). -/

namespace Sys2Proof.Machine

open Sys2Proof Safety

/-! ### GET_COUNTERS and GET_LOG (R398, R436) -/

section
variable {s : State} {h : HostHdr} {w : List W64}

theorem exec_getCounters (ha : admitted (.getCounters h w) s) : exec (.getCounters h w) s =
    .next (State.settle 0x50 h.tag.toNat
      (State.counters (param w 0 % 16) (param w 0 / 2 ^ 4 % 2 ^ 32) (param w 0 / 2 ^ 36) (taken s h w))) := by
  have hshape := shape_of_admitted ha rfl
  simp only [callOf.countersWord, Bool.and_eq_true, decide_eq_true_eq] at hshape
  obtain ⟨-, hlt, -⟩ := hshape
  rw [exec_of_admitted ha rfl (congrArg (fun t => Host.Outcome.next (if s.alive = true then t else s)) (s.getCounters_eq h w)),
    Nat.mod_eq_of_lt (a := param w 0 / 2 ^ 36) (by omega)]

theorem exec_getLog (ha : admitted (.getLog h w) s) : exec (.getLog h w) s =
    .next (State.settle 0x51 h.tag.toNat (State.logRead (param w 0 % 2 ^ 32) (param w 0 / 2 ^ 32) (taken s h w))) := by
  have hshape := shape_of_admitted ha rfl
  simp only [Bool.and_eq_true, decide_eq_true_eq] at hshape
  obtain ⟨⟨-, hlt⟩, -⟩ := hshape
  rw [exec_of_admitted ha rfl (congrArg (fun t => Host.Outcome.next (if s.alive = true then t else s)) (s.getLog_eq h w)),
    Nat.mod_eq_of_lt (a := param w 0 / 2 ^ 32) (by omega)]

end

section
variable (s : State) (h : HostHdr) (w : List W64)

theorem taken_convCount (b f k : Nat) : (taken s h w).get (Conv.count b f k) = s.get (Conv.count b f k) :=
  taken_get_above s h w (by simp only [aboveMailboxes, Field.key, Conv.count, benchBase, forgeBase]; omega)

theorem taken_logEntry (n : Nat) : (taken s h w).logEntry n = s.logEntry n := by
  rw [State.logEntry, State.logHeld, taken_log, taken_get_above s h w (f := Elog.oldest) (by decide),
    taken_get_above s h w (f := Elog.next) (by decide)]
  rfl

theorem taken_imps : (taken s h w).imps = s.imps :=
  taken_part State.imps (fun _ _ _ => rfl) (fun _ _ _ => rfl) (fun _ _ _ => rfl) s h w

end

/-- Set 0 up to the last of its 5,440 counters. -/
theorem State.counters_conv (s : State) {first n : Nat} (h : first + n ≤ 5440) : State.counters 0 first n s =
    .ok s ((List.range n).map fun j => s.get (Conv.count ((first + j) / 136) ((first + j) % 136 / 8) ((first + j) % 8))) := by
  rw [State.counters, if_neg (by omega), List.map_map]
  rfl

theorem State.counters_beyond (s : State) {first n : Nat} (h : 5440 < first + n) : State.counters 0 first n s = .err s stBadParam :=
  if_pos h

/-! ### ATTEST (R425) -/

theorem padTo_length (k : Nat) (bs : List Byte) : (padTo k bs).length = k := by
  simp only [padTo, List.length_take, List.length_append, List.length_replicate]
  omega

theorem measEntry_length (kind index : Nat) (active : Bool) (m : Meas) : (measEntry kind index active m).length = 64 := leBytes_length ..

theorem State.slotEntry_length (s : State) (k : Nat) : ∀ e ∈ (s.slotEntry k).1, e.length = 64 := by
  unfold State.slotEntry
  split
  · simp [measEntry_length]
  · simp

/-- Entries made of the measurements that are held. -/
theorem measFilter_length {α : Type} (l : List α) (f : α → Option Meas) (g : α → Meas → List Byte) (hg : ∀ a m, (g a m).length = 64) :
    ∀ e ∈ l.filterMap (fun a => (f a).map (g a)), e.length = 64 := by
  simp only [List.mem_filterMap, Option.map_eq_some_iff]
  rintro e ⟨a, -, m, -, rfl⟩
  exact hg a m

theorem State.bankEntries_length (s : State) (kind : Nat) : ∀ e ∈ s.bankEntries kind, e.length = 64 := by
  simp only [State.bankEntries, List.mem_flatten, List.mem_map]
  rintro e ⟨_, ⟨b, -, rfl⟩, he⟩
  exact measFilter_length _ _ _ (fun _ _ => measEntry_length ..) e he

/-- Every measurement entry of a report has 64 bytes. -/
theorem State.measEntries_length (s : State) : ∀ e ∈ s.measEntries.1, e.length = 64 := by
  simp only [State.measEntries, List.mem_cons, List.mem_append]
  rintro e (rfl | ((((ha | hb) | h3) | h4) | hsets) | hjob)
  · exact measEntry_length ..
  · exact State.slotEntry_length _ _ e ha
  · exact State.slotEntry_length _ _ e hb
  · exact State.bankEntries_length _ _ e h3
  · exact State.bankEntries_length _ _ e h4
  · exact measFilter_length _ _ _ (fun _ _ => measEntry_length ..) e hsets
  · obtain ⟨m, -, rfl⟩ := List.mem_map.1 hjob
    exact measEntry_length ..

theorem flatten_length_of_const {α : Type} {l : List (List α)} {k : Nat} (h : ∀ e ∈ l, e.length = k) : l.flatten.length = k * l.length := by
  rw [List.length_flatten, List.map_congr_left (g := fun _ => k) h, List.map_const', List.sum_replicate, smul_eq_mul, Nat.mul_comm]

theorem reportParts_length (head entries certs rsa slh : List Byte) : (head ++ entries ++ certs ++ padTo 384 rsa ++ padTo 35664 slh).length =
    head.length + entries.length + certs.length + 384 + 35664 := by
  simp only [List.length_append, padTo_length]

theorem State.reportHead_length (s : State) (n nonce : Nat) : (s.reportHead n nonce).length = 128 := leBytes_length ..

theorem State.report_bytes (s : State) (nonce : Nat) : ∃ rsa slh, (s.report nonce).1 =
    s.reportHead s.measEntries.1.length nonce ++ s.measEntries.1.flatten ++ Config.certificates ++ padTo 384 rsa ++ padTo 35664 slh :=
  ⟨_, _, rfl⟩

/-- The report has the size of its header, its entries, the certificates and the two signatures (R425). -/
theorem State.report_length (s : State) (nonce : Nat) :
    (s.report nonce).1.length = 128 + 64 * s.measEntries.1.length + Config.certificates.length + 384 + 35664 := by
  obtain ⟨rsa, slh, hbytes⟩ := s.report_bytes nonce
  rw [hbytes, reportParts_length, State.reportHead_length, flatten_length_of_const s.measEntries_length]

theorem sum_range_four (f : Nat → Nat) : ((List.range 4).map f).sum = f 0 + f 1 + f 2 + f 3 := by
  have hrange : List.range 4 = [0, 1, 2, 3] := rfl
  simp only [hrange, List.map_cons, List.map_nil, List.sum_cons, List.sum_nil, Nat.add_zero, Nat.add_assoc]

/-- Four words from bit 0 up, as one number. -/
theorem fourWords_sum (p : Nat → Nat) : ((List.range 4).map fun k => p k * 2 ^ (64 * k)).sum =
    p 0 + p 1 * 2 ^ 64 + p 2 * 2 ^ 128 + p 3 * 2 ^ 192 := by
  have hlow : p 0 * 2 ^ (64 * 0) = p 0 := Nat.mul_one _
  rw [sum_range_four, hlow]

end Sys2Proof.Machine

open Sys2Proof Sys2Proof.Machine Sys2Proof.Safety

/-- Settles O26: what is read is not what a mailbox's taking writes, and the report's length is the sum of its parts' lengths. -/
theorem readingCommandsAnswer : Obligations.ReadingCommandsAnswer := by
  intro s h w t v
  refine ⟨fun ha hset => ⟨fun hle => ?_, fun hlt => ?_⟩, fun ha => ?_, fun ha hform => ?_, fun ha => ?_⟩
  · rw [exec_getCounters ha, show param w 0 % 16 = 0 from hset, State.counters_conv _ hle, next_settle_ok]
    simp only [taken_convCount]
    rfl
  · rw [exec_getCounters ha, show param w 0 % 16 = 0 from hset, State.counters_beyond _ hlt, next_settle_err]
  · rw [exec_getLog ha, State.logRead]
    simp only [taken_logEntry, taken_get_above s h w (f := Elog.oldest) (by decide), taken_get_above s h w (f := Elog.next) (by decide)]
    exact next_settle_ok ..
  · rw [exec_of_admitted ha rfl (body := State.impressWork h.form.toNat h.tag.toNat (param w 0)) rfl, hform, ← taken_imps s h w]
    exact next_settle_ok ..
  · intro r
    refine ⟨?_, State.report_length ..⟩
    rw [exec_of_admitted ha rfl (body := State.attestWork h.tag.toNat w) rfl, State.attestWork, fourWords_sum]
    exact next_settle_ok ..

end

section
/-! SUPPORT. STOP and START of the device and of the routing function (R174, R403). -/

namespace Sys2Proof.Machine

open Sys2Proof Safety

/-! ### A bench stopped where it stands (R174, R403) -/

/-- The registers that the stop of a running bench writes. -/
def suspendWrites (b : Nat) : List (Field × Nat) := [(Ben.state b, 0), (Rgn.state b, 1)]

/-- A pending swap of the Compositor takes place: it waits no more and is idle. -/
def State.cmpSwapNow (s : State) (b : Nat) : State :=
  if s.flag (Cmp.swapPending b) then ((s.swapCmp b).waitDone b).set (Stn.state b 15) 0 else s

theorem State.suspendBench_eq (s : State) (b : Nat) : s.suspendBench b = ((s.setAll (suspendWrites b)).cmpSwapNow b).tmpBoundary b := rfl

/-! ### What the stop of the benches leaves -/

section
variable {α : Type} (p : State → α) (hset : ∀ t f v, p (State.set t f v) = p t) (hcsr : ∀ (t : State) x, p { t with csr := x } = p t)
  (hstore : ∀ t a bs, p (State.store t a bs) = p t) (hfifo : ∀ (t : State) x, p { t with traceFifo := x } = p t)
  (hcomps : ∀ (t : State) x, p { t with comps := x } = p t)
include hset hstore hfifo hcomps

/-- The end of a Compositor's wait leaves every part but registers, memory, the Compositors and the trace. -/
theorem State.waitDone_part (s : State) (b : Nat) : p (s.waitDone b) = p s := by
  cases hw : (s.comp b).waiting with
  | none => rw [State.waitDone_of_none hw]
  | some w =>
    obtain ⟨l, hl⟩ := State.waitDone_of_some hw
    rw [hl, State.trace_part p hset hstore hfifo, State.setAll_part p hset]
    exact hcomps s _

theorem State.cmpSwapNow_part (s : State) (b : Nat) : p (s.cmpSwapNow b) = p s := by
  unfold State.cmpSwapNow
  split
  · rw [hset, State.waitDone_part p hset hstore hfifo hcomps, State.swapCmp, State.setAll_part p hset]
  · rfl

include hcsr

theorem State.suspendBench_part (s : State) (b : Nat) : p (s.suspendBench b) = p s := by
  rw [State.suspendBench_eq, Safety.onlyFields_part p hcsr (State.tmpBoundary_only _ b),
    State.cmpSwapNow_part p hset hstore hfifo hcomps, State.setAll_part p hset]

theorem State.suspendAll_part (s : State) : p s.suspendAll = p s :=
  List.foldlRecOn (motive := fun t : State => p t = p s) _ _ rfl fun t ht b _ =>
    (State.suspendBench_part p hset hcsr hstore hfifo hcomps t b).trans ht

end

/-! ### STATE of the benches (R145, R403) -/

theorem Ben.state_key_ne_rgn {b c : Nat} (hc : c < 40) : (Ben.state b).key ≠ (Rgn.state c).key := by
  simp only [Field.key, Ben.state, Rgn.state, rgnBase_bench hc, benchBase, forgeBase]
  omega

theorem Ben.state_key_inj {b c : Nat} (h : (Ben.state b).key = (Ben.state c).key) : b = c := by
  simp only [Field.key, Ben.state, benchBase, forgeBase] at h
  omega

theorem Ben.state_key_ne_swap (b c : Nat) : ∀ g ∈ Stn.state c 15 :: swapCmpFields c ++ swapTmpFields c, (Ben.state b).key ≠ g.key := by
  simp only [swapCmpFields, swapTmpFields, List.cons_append, List.nil_append, List.forall_mem_cons, List.not_mem_nil, false_imp_iff,
    implies_true, and_true, Field.key, Ben.state, Stn.state, Cmp.activeBank, Cmp.swapPending, Cmp.shadowValid, Stn.tmpActiveBank,
    Stn.tmpSwapPending, stnBase, benchBase, forgeBase, if_true, if_neg (by decide : ¬ 2 = 15)]
  omega

theorem Ben.state_key_ne_waitDone {b : Nat} (hb : b < 40) (c : Nat) : ∀ e ∈ waitDoneWrites c, (Ben.state b).key ≠ e.1.key := by
  simp only [waitDoneWrites, List.cons_append, List.nil_append, List.forall_mem_cons, List.not_mem_nil, false_imp_iff, implies_true,
    and_true, Field.key, Ben.state, Cmp.waitKind, Cmp.waitStn, Cmp.waitHandle, Cmp.waitIndex, Cmp.waitMask, Stn.state, Aoc.waitSince,
    stnBase, if_true, benchBase, forgeBase]
  omega

/-- The end of a Compositor's wait leaves the benches' STATE. -/
theorem State.waitDone_benState (s : State) (c : Nat) {b : Nat} (hb : b < 40) : (s.waitDone c).get (Ben.state b) = s.get (Ben.state b) := by
  cases hw : (s.comp c).waiting with
  | none => rw [State.waitDone_of_none hw]
  | some w =>
    obtain ⟨l, hl⟩ := State.waitDone_of_some hw
    rw [hl, State.trace_get_die _ _ _ _ (inDies_of_benchRegister hb (by simp)), State.get_setAll_ne _ _ (Ben.state_key_ne_waitDone hb c)]
    rfl

theorem State.cmpSwapNow_benState (s : State) (c : Nat) {b : Nat} (hb : b < 40) :
    (s.cmpSwapNow c).get (Ben.state b) = s.get (Ben.state b) := by
  have hne := Ben.state_key_ne_swap b c
  unfold State.cmpSwapNow
  split
  · rw [State.get_set_ne _ _ (hne _ (by simp)), State.waitDone_benState _ _ hb, (s.swapCmp_only c).2 _ fun g hg => hne g (by simp [hg])]
  · rfl

/-- The stop of bench c leaves the STATE of the others, and its own is 0. -/
theorem State.suspendBench_benState (s : State) {b c : Nat} (hb : b < 40) (hc : c < 40) :
    (s.suspendBench c).get (Ben.state b) = if b = c then 0 else s.get (Ben.state b) := by
  rw [State.suspendBench_eq, (State.tmpBoundary_only _ c).2 _ fun g hg => Ben.state_key_ne_swap b c g (by simp [hg]),
    State.cmpSwapNow_benState _ _ hb]
  split
  case isTrue h =>
    subst h
    exact State.get_setAll_mem (v := 0) (by simp [suspendWrites, Ben.state_key_ne_rgn hb]) (by simp [suspendWrites])
  case isFalse h =>
    refine State.get_setAll_ne _ _ ?_
    simp only [suspendWrites, List.forall_mem_cons, List.not_mem_nil, false_imp_iff, implies_true, and_true]
    exact ⟨fun hk => h (Ben.state_key_inj hk), Ben.state_key_ne_rgn hc⟩

/-- Of a list of benches stopped each shows STATE 0, and so does a bench that did. -/
theorem State.suspendList_benState (l : List Nat) (hl : ∀ c ∈ l, c < 40) {b : Nat} (hb : b < 40) (s : State)
    (h : b ∈ l ∨ s.get (Ben.state b) = 0) : (l.foldl State.suspendBench s).get (Ben.state b) = 0 := by
  induction l generalizing s with
  | nil => exact h.resolve_left List.not_mem_nil
  | cons c l ih =>
    obtain ⟨hc, hl⟩ := List.forall_mem_cons.1 hl
    refine ih hl (s.suspendBench c) ?_
    rw [State.suspendBench_benState s hb hc]
    by_cases hbc : b = c
    · exact .inr (if_pos hbc)
    · exact h.imp (fun hmem => (List.mem_cons.1 hmem).resolve_left hbc) fun h0 => (if_neg hbc).trans h0

theorem State.lt_of_mem_liveBenches {s : State} {b : Nat} (h : b ∈ s.liveBenches) : b < 40 := List.mem_range.1 (List.mem_filter.1 h).1

/-- Every live bench that ran is stopped. -/
theorem State.suspendAll_benState (s : State) {b : Nat} (hb : b ∈ s.liveBenches) (hrun : s.get (Ben.state b) = 1) :
    s.suspendAll.get (Ben.state b) = 0 :=
  State.suspendList_benState _ (fun _ hc => State.lt_of_mem_liveBenches (List.mem_filter.1 hc).1) (State.lt_of_mem_liveBenches hb) s
    (.inl (List.mem_filter.2 ⟨hb, by simp [hrun]⟩))

/-! ### The work of STOP and START (R403) -/

theorem State.stopDevice_stopped {s : State} (h : s.get Cmd.runState = 0) : s.stopDevice = .err s stDone := by
  simp only [State.stopDevice, h]

theorem State.stopDevice_running {s : State} (h : s.get Cmd.runState = 2) : s.stopDevice = .ok (s.suspendAll.set Cmd.runState 0) [] := by
  simp only [State.stopDevice, h]

theorem State.stopDevice_between {s : State} (h : s.get Cmd.runState = 1 ∨ s.get Cmd.runState = 3) : s.stopDevice = .err s stBusy := by
  obtain h | h := h <;> simp only [State.stopDevice, h]

theorem State.startDevice_refused {s : State} {sched : Schedule} (h : (State.startChecks { s with sched := sched }).2 ≠ stOk) :
    s.startDevice sched =
      ({ (State.startChecks { s with sched := sched }).1 with sched := s.sched }, (State.startChecks { s with sched := sched }).2) :=
  if_neg h

theorem State.startDevice_ok {s : State} {sched : Schedule} (h : (State.startChecks { s with sched := sched }).2 = stOk) :
    s.startDevice sched = ((State.startChecks { s with sched := sched }).1.startGo s.sched, stOk) :=
  if_pos h

section
variable {s : State} {h : HostHdr} {w : List W64} {sched : Schedule}

theorem exec_stop (ha : admitted (.stop h w) s) (hform : h.form = 0) :
    exec (.stop h w) s = .next (State.settle 0x18 h.tag.toNat (taken s h w).stopDevice) := by
  rw [exec_of_admitted ha rfl (body := fun t => if h.form = 1 then t.stopRoutes else t.stopDevice) rfl, if_neg (by simp [hform])]

theorem exec_stopRouting (ha : admitted (.stopRouting h w) s) (hform : h.form = 1) :
    exec (.stopRouting h w) s = .next (State.settle 0x18 h.tag.toNat (taken s h w).stopRoutes) := by
  rw [exec_of_admitted ha rfl (body := fun t => if h.form = 1 then t.stopRoutes else t.stopDevice) rfl, if_pos hform]

theorem exec_startRouting (ha : admitted (.startRouting h w) s) (hform : h.form = 1) :
    exec (.startRouting h w) s = .next (State.settle 0x19 h.tag.toNat (taken s h w).startRoutes) := by
  rw [exec_of_admitted ha rfl (body := fun t => if h.form = 1 then t.startRoutes else startAnswer (t.startDevice s.sched)) rfl, if_pos hform]

theorem exec_start (ha : admitted (.start h w sched) s) (hform : h.form = 0) :
    exec (.start h w sched) s = .next (State.settle 0x19 h.tag.toNat (startAnswer ((taken s h w).startDevice sched))) := by
  rw [exec_of_admitted ha rfl (body := fun t => if h.form = 1 then t.startRoutes else startAnswer (t.startDevice sched)) rfl,
    if_neg (by simp [hform])]

end

section
variable (s : State) (h : HostHdr) (w : List W64)

theorem taken_routingStopped : (taken s h w).flag Cmd.routingStopped = s.flag Cmd.routingStopped :=
  congrArg (· != 0) (taken_get s h w _ (mailbox_of_tag (fun n => Cmd.routingStopped.key ≠ (Mb.mbState n).key) (by decide) _)
    (by decide) (by decide))

theorem taken_sched : (taken s h w).sched = s.sched :=
  taken_part State.sched (fun _ _ _ => rfl) (fun _ _ _ => rfl) (fun _ _ _ => rfl) s h w

theorem taken_loading : (taken s h w).loading = s.loading :=
  taken_part State.loading (fun _ _ _ => rfl) (fun _ _ _ => rfl) (fun _ _ _ => rfl) s h w

theorem taken_benState (b : Nat) : (taken s h w).get (Ben.state b) = s.get (Ben.state b) :=
  taken_get_above s h w (by simp only [aboveMailboxes, Field.key, Ben.state, benchBase, forgeBase]; omega)

theorem taken_liveBenches : (taken s h w).liveBenches = s.liveBenches := by
  refine List.filter_congr fun b _ => ?_
  have hvalid : (taken s h w).flag (Ben.lvalid b) = s.flag (Ben.lvalid b) :=
    taken_flag_above s h w (by simp only [aboveMailboxes, Field.key, Ben.lvalid, benchBase, forgeBase]; omega)
  rw [hvalid, taken_benState]

/-- What the stop of a running device leaves of the state before its command. -/
theorem taken_suspendAll_part {α : Type} (p : State → α) (hset : ∀ t f v, p (State.set t f v) = p t)
    (hcsr : ∀ (t : State) x, p { t with csr := x } = p t) (hstore : ∀ t a bs, p (State.store t a bs) = p t)
    (hfifo : ∀ (t : State) x, p { t with traceFifo := x } = p t) (hcomps : ∀ (t : State) x, p { t with comps := x } = p t)
    (hlatch : ∀ t m e, p (State.latchArea t m e) = p t) (hflits : ∀ t ch n, p (State.takeFlits t ch n) = p t) :
    p ((taken s h w).suspendAll.set Cmd.runState 0) = p s :=
  (hset ..).trans ((State.suspendAll_part p hset hcsr hstore hfifo hcomps _).trans (taken_part p hset hlatch hflits s h w))

end

/-- The stop of a running device: it is stopped, its links and its schedule stay, and each bench that ran is stopped. -/
theorem stoppedDevice_spec (s : State) (h : HostHdr) (w : List W64) : let u := (taken s h w).suspendAll.set Cmd.runState 0
    u.get Cmd.runState = 0 ∧ u.ports = s.ports ∧ u.dsts = s.dsts ∧ u.srcs = s.srcs ∧ u.sched = s.sched ∧
      ∀ b ∈ s.liveBenches, s.get (Ben.state b) = 1 → u.get (Ben.state b) = 0 := by
  refine ⟨State.get_set_same .., ?_, ?_, ?_, ?_, fun b hb hrun => ?_⟩
  · exact taken_suspendAll_part s h w State.ports (fun _ _ _ => rfl) (fun _ _ => rfl) (fun _ _ _ => rfl) (fun _ _ => rfl) (fun _ _ => rfl)
      (fun _ _ _ => rfl) (fun _ _ _ => rfl)
  · exact taken_suspendAll_part s h w State.dsts (fun _ _ _ => rfl) (fun _ _ => rfl) (fun _ _ _ => rfl) (fun _ _ => rfl) (fun _ _ => rfl)
      (fun _ _ _ => rfl) (fun _ _ _ => rfl)
  · exact taken_suspendAll_part s h w State.srcs (fun _ _ _ => rfl) (fun _ _ => rfl) (fun _ _ _ => rfl) (fun _ _ => rfl) (fun _ _ => rfl)
      (fun _ _ _ => rfl) (fun _ _ _ => rfl)
  · exact taken_suspendAll_part s h w State.sched (fun _ _ _ => rfl) (fun _ _ => rfl) (fun _ _ _ => rfl) (fun _ _ => rfl) (fun _ _ => rfl)
      (fun _ _ _ => rfl) (fun _ _ _ => rfl)
  · have hne : (Ben.state b).key ≠ Cmd.runState.key := by
      simp only [Field.key, Ben.state, Cmd.runState, benchBase, forgeBase]
      omega
    exact (State.get_set_ne _ _ hne).trans
      (State.suspendAll_benState _ (taken_liveBenches s h w ▸ hb) ((taken_benState s h w b).trans hrun))

end Sys2Proof.Machine

open Sys2Proof Sys2Proof.Machine Sys2Proof.Safety

/-- Settles O29: each command's work by the run state, or by the outcome of START's checks. -/
theorem stopAndStartChangeTheRunState : Obligations.StopAndStartChangeTheRunState := by
  intro s h w sched t
  refine ⟨fun ha hform => ?_, fun ha hform => ?_, fun ha hform hload => ?_, fun ha hform => ?_⟩
  · rw [exec_stop ha hform]
    have hrun := taken_runState s h w
    refine ⟨fun h0 => ?_, fun h2 => ⟨_, ?_, stoppedDevice_spec s h w⟩, fun h13 => ?_⟩
    · rw [State.stopDevice_stopped (hrun.trans h0), next_settle_err]
    · rw [State.stopDevice_running (hrun.trans h2), next_settle_ok]
    · rw [State.stopDevice_between (hrun ▸ h13), next_settle_err]
  · rw [exec_stopRouting ha hform, State.stopRoutes, taken_routingStopped]
    refine ⟨fun h0 => ?_, fun h1 => ?_⟩
    · rw [if_neg (by simp [h0]), next_settle_ok]
    · rw [if_pos h1, next_settle_err]
  · rw [exec_startRouting ha hform, State.startRoutes, taken_loading, taken_routingStopped, taken_get_above s h w (f := Coll.epoch) (by decide),
      if_neg (by simp [hload])]
    refine ⟨fun h1 => ?_, fun h0 => ?_⟩
    · rw [if_pos h1, next_settle_ok]
    · rw [if_neg (by simp [h0]), next_settle_err]
  · intro c
    rw [exec_start ha hform, settle_startAnswer, ← taken_sched s h w]
    refine ⟨fun hbad => ?_, fun hok => ?_⟩
    · rw [State.startDevice_refused hbad, if_neg hbad]
    · rw [State.startDevice_ok hok, if_pos rfl]

end

section
/-! SUPPORT. Route sets, firmware slots and the sending of a pinned impression (R378, R400, R422-R424). -/

namespace Sys2Proof.Machine

open Sys2Proof Safety

/-! ### Route sets (R380, R400) -/

/-- The words of route set k that its unloading writes. -/
def routeSetWrites (k : Nat) : List (Field × Nat) :=
  [(Surv.valid k, 0), (Surv.navoid k, 0), (Surv.avoid0 k, 0), (Surv.avoid1 k, 0), (Surv.avoid2 k, 0), (Surv.avoid3 k, 0),
    (Surv.avoid4 k, 0), (Surv.avoid5 k, 0), (Surv.avoid6 k, 0), (Surv.avoid7 k, 0), (Surv.avoid8 k, 0)]

theorem State.showRouteSet_none (s : State) (k : Nat) : s.showRouteSet k false [] = s.setAll (routeSetWrites k) := rfl

theorem routeSetWrites_nodup : ∀ k < 4, ((routeSetWrites k).map (·.1.key)).Nodup := by decide

/-- What the selection of a route set writes, if none suits too (R380). -/
def chooseFields : List Field := [Surv.routeSet, Surv.noRouteSet, Side.alertPend, Side.alertCount, Side.alertOut]

theorem valid_key_ne_chooseFields : ∀ k < 4, ∀ g ∈ chooseFields, (Surv.valid k).key ≠ g.key := by decide

theorem State.chooseRoute_get (s : State) {f : Field} (h : ∀ g ∈ chooseFields, f.key ≠ g.key) : s.chooseRoute.get f = s.get f := by
  simp only [chooseFields, List.forall_mem_cons, List.not_mem_nil, false_imp_iff, implies_true, and_true] at h
  obtain ⟨hset, hnone, halert⟩ := h
  unfold State.chooseRoute
  split
  · exact State.get_set_ne _ _ hset
  · exact (State.alert_get _ (by simpa using halert)).trans (State.get_set_ne _ _ hnone)

theorem State.chooseRoute_routes (s : State) : s.chooseRoute.routes = s.routes := by
  unfold State.chooseRoute
  split <;> rfl

/-- A route set unloaded is neither held nor shown as valid. -/
theorem State.clearRoutes_spec (s : State) {k : Nat} (hk : k < 4) :
    Tab.find (s.clearRoutes k).routes k = none ∧ (s.clearRoutes k).get (Surv.valid k) = 0 := by
  constructor
  · rw [State.clearRoutes, State.chooseRoute_routes, State.showRouteSet_none,
      State.setAll_part State.routes (fun _ _ _ => rfl)]
    exact Tab.find_del_same ..
  · exact (State.chooseRoute_get _ (valid_key_ne_chooseFields k hk)).trans
      (State.get_setAll_mem (v := 0) (routeSetWrites_nodup k hk) (by simp [routeSetWrites]))

theorem State.routesWork_clears {h : HostHdr} {w : List W64} (hc : param w 0 / 4 % 2 = 1) (s : State) :
    State.routesWork h w s = .ok (s.clearRoutes (param w 0 % 4)) [] := by
  rw [State.routesWork, if_pos (by simp [bitAt, hc]), bits_low]
  rfl

theorem State.routesWork_waits {h : HostHdr} {w : List W64} (hc : param w 0 / 4 % 2 = 0) (s : State) :
    State.routesWork h w s = s.longStart h w 0x20 (some (param w 1)) 0 :=
  if_neg (by simp [bitAt, hc])

/-- A long command that begins waits behind those before it. -/
theorem settle_longStart (s : State) (h : HostHdr) (w : List W64) (op : Nat) (need : Option Nat) : ∃ u,
    (.next (State.settle op h.tag.toNat ((taken s h w).longStart h w op need 0)) : Host.Outcome State Fault Refusal) = .next u ∧
      u.longs = s.longs ++ [⟨op, h, w, need, [], 0⟩] :=
  ⟨_, rfl, congrArg (· ++ _) (taken_part State.longs (fun _ _ _ => rfl) (fun _ _ _ => rfl) (fun _ _ _ => rfl) s h w)⟩

/-! ### Firmware slots (R423, R424) -/

theorem State.copyFeats_get (s : State) {f : Field} (hf : besideDies f) :
    ((List.range 40).foldl State.copyFeat s).get f = s.get f :=
  List.foldlRecOn (motive := fun t : State => t.get f = s.get f) _ _ rfl fun _ ht _ hb =>
    (State.copyFeat_get _ (List.mem_range.1 hb) hf).trans ht

/-- The state whose slot is switched: the dies hold the features, and MONO counts. -/
def State.beforeSwitch (s : State) : State := (if s.active then (List.range 40).foldl State.copyFeat s else s).bump Sec.mono 1

theorem State.beforeSwitch_get (s : State) {f : Field} (hf : besideDies f) (hm : f.key ≠ Sec.mono.key) :
    s.beforeSwitch.get f = s.get f := by
  refine (State.get_bump_ne _ _ hm).trans ?_
  split
  · exact s.copyFeats_get hf
  · rfl

theorem State.beforeSwitch_mono (s : State) : s.beforeSwitch.get Sec.mono = (s.get Sec.mono + 1) % 2 ^ 64 := by
  refine (State.get_bump_same ..).trans (congrArg (fun n => (n + 1) % 2 ^ 64) ?_)
  split
  · exact s.copyFeats_get ⟨by decide, by decide⟩
  · rfl

/-- The registers that the switch of the slot writes. -/
def switchWrites (k : Nat) : List (Field × Nat) := [(Sec.activeSlot, k), (Sec.confirmPending, 1)]

theorem switchWrites_nodup (k : Nat) : ((switchWrites k).map (·.1.key)).Nodup := by
  change [Sec.activeSlot.key, Sec.confirmPending.key].Nodup
  decide

theorem mono_key_ne_switchWrites (k : Nat) : ∀ e ∈ switchWrites k, Sec.mono.key ≠ e.1.key :=
  fun e he => (by decide : ∀ f ∈ [Sec.activeSlot, Sec.confirmPending], Sec.mono.key ≠ f.key) e.1 (List.mem_map_of_mem (f := (·.1)) he)

theorem State.activate_eq (s : State) (k : Nat) : s.activate k =
    State.setAll { s.beforeSwitch with prevSlot := s.beforeSwitch.get Sec.activeSlot } (switchWrites k) := rfl

/-- The slot is active, its confirmation is due, and the previous slot is kept. -/
theorem State.activate_spec (s : State) {k : Nat} (hk : k < 2) : (s.activate k).get Sec.activeSlot = k ∧
    (s.activate k).get Sec.confirmPending = 1 ∧ (s.activate k).prevSlot = s.get Sec.activeSlot ∧
    (s.activate k).get Sec.mono = (s.get Sec.mono + 1) % 2 ^ 64 := by
  rw [State.activate_eq]
  refine ⟨?_, State.get_set_same .., ?_, ?_⟩
  · exact (State.get_setAll_mem (f := Sec.activeSlot) (v := k) (switchWrites_nodup k) (by simp [switchWrites])).trans (Nat.mod_eq_of_lt hk)
  · rw [State.setAll_part State.prevSlot (fun _ _ _ => rfl)]
    exact s.beforeSwitch_get ⟨by decide, by decide⟩ (by decide)
  · exact (State.get_setAll_ne _ _ (mono_key_ne_switchWrites k)).trans s.beforeSwitch_mono

/-- Why ACTIVATE_FW does not activate a slot outside BOOT_RECOVERY, and that it does otherwise. -/
theorem State.activateWork_cases {s : State} (k : Nat) (hrec : s.flag Sec.bootRecovery = false) :
    (s.get Sec.activeSlot = k → State.activateWork k s = .err s stDone) ∧
    (s.get Sec.activeSlot ≠ k → s.flag (slotValid k) = false → State.activateWork k s = .err s stNotReady) ∧
    (s.get Sec.activeSlot ≠ k → s.flag (slotValid k) = true → s.longs ≠ [] ∨ s.flag Sec.confirmPending = true →
      State.activateWork k s = .err s stBusy) ∧
    (s.get Sec.activeSlot ≠ k → s.flag (slotValid k) = true → s.longs = [] → s.flag Sec.confirmPending = false →
      s.activateFault k = none → State.activateWork k s = .ok (s.activate k) []) := by
  unfold State.activateWork
  rw [if_neg (by simp [hrec])]
  refine ⟨fun h => if_pos h, fun h hv => ?_, fun h hv hbusy => ?_, fun h hv hl hc hf => ?_⟩
  · rw [if_neg h, if_pos (by simp [hv])]
  · rw [if_neg h, if_neg (by simp [hv]), if_pos hbusy]
  · rw [if_neg h, if_neg (by simp [hv]), if_neg (by simp [hl, hc]), hf]

theorem exec_confirmation {s : State} (ha : s.alive = true) (hc : s.flag Sec.confirmPending = true) {x : FwSlot}
    (hx : Tab.find s.fwSlots (s.get Sec.activeSlot) = some x) : exec .confirmation s = .next (s.setAll [(Sec.confirmPending, 0),
      (Sec.svnFloor, max (s.get Sec.svnFloor) x.meas.svn), (Sec.keyRevoked, s.get Sec.keyRevoked ||| x.revoke)]) := by
  change Host.Outcome.next (if (s.alive && s.flag Sec.confirmPending) = true then s.confirm else s) = _
  rw [if_pos (by simp [ha, hc]), State.confirm, hx]
  rfl

/-- The registers of the return to the previous firmware, before the alert. -/
def revertWrites (k : Nat) : List (Field × Nat) := [(Sec.activeSlot, k), (Sec.confirmPending, 0), (Sec.fwRevertEvt, 1)]

theorem revertWrites_nodup (k : Nat) : ((revertWrites k).map (·.1.key)).Nodup := by
  change [Sec.activeSlot.key, Sec.confirmPending.key, Sec.fwRevertEvt.key].Nodup
  decide

theorem revertWrites_key_ne_alert (k : Nat) :
    ∀ e ∈ revertWrites k, ∀ g ∈ [Side.alertPend, Side.alertCount, Side.alertOut], e.1.key ≠ g.key :=
  fun e he => (by decide : ∀ f ∈ [Sec.activeSlot, Sec.confirmPending, Sec.fwRevertEvt],
    ∀ g ∈ [Side.alertPend, Side.alertCount, Side.alertOut], f.key ≠ g.key) e.1 (List.mem_map_of_mem (f := (·.1)) he)

/-- The previous firmware is active, nothing is due, and the event and the alert show. -/
theorem State.revertFw_get (s : State) : (∀ e ∈ revertWrites s.prevSlot, s.revertFw.get e.1 = e.2 % 2 ^ e.1.width) ∧
    s.revertFw.get Side.alertPend = 1 := by
  refine ⟨fun e he => ?_, State.alert_alertPend _⟩
  exact (State.alert_get _ (revertWrites_key_ne_alert _ e he)).trans (State.get_setAll_mem (revertWrites_nodup _) he)

theorem exec_watchdogExpiry {s : State} (ha : s.alive = true) : exec .watchdogExpiry s =
    .next (if s.flag Sec.confirmPending then s.revertFw else (s.warmReset.setAll [(Cmd.powerState, 1), (Side.faultCause, 6)]).reboot) := by
  change Host.Outcome.next (if (!s.alive) = true then s else _) = _
  rw [if_neg (by simp [ha])]

/-! ### A pinned impression sent out (R378) -/

/-- The only impression, pinned and of the step asked for, is the one sent. -/
theorem State.exportImp_of_only {s : State} {i : Impression} (hi : s.imps = [i]) (hp : i.pinned = true) (tag : Nat) :
    s.exportImp tag i.step = .ok (s.bulkOut tag (i.bytes s.me)) [(i.bytes s.me).length] := by
  simp [State.exportImp, hi, hp]

theorem exec_impressExport {s : State} {h : HostHdr} {w : List W64} (ha : admitted (.impressExport h w) s) (hform : h.form = 1) :
    exec (.impressExport h w) s = .next (State.settle 0x40 h.tag.toNat ((taken s h w).exportImp h.tag.toNat (param w 0))) := by
  rw [exec_of_admitted ha rfl (body := State.impressWork h.form.toNat h.tag.toNat (param w 0)) rfl, hform]
  rfl

end Sys2Proof.Machine

open Sys2Proof Sys2Proof.Machine Sys2Proof.Safety

/-- Settles O36: each command by its work's equation, with what the unloading, the activation and the return write. -/
theorem firmwareAndRoutesChange : Obligations.FirmwareAndRoutesChange := by
  intro s h w t
  refine ⟨fun ha => ?_, fun ha => ?_, fun ha hrec => ?_, fun x halive hc hx => exec_confirmation halive hc hx, fun halive hc => ?_,
    fun halive hc => ?_, fun i ha hform hi hp hstep => ?_⟩
  · intro k
    rw [exec_of_admitted ha rfl (body := State.routesWork h w) rfl]
    refine ⟨fun hc => ?_, fun hc => ?_⟩
    · rw [State.routesWork_clears hc, next_settle_ok]
      exact ⟨_, rfl, t.clearRoutes_spec (Nat.mod_lt _ (by decide))⟩
    · rw [State.routesWork_waits hc]
      exact settle_longStart ..
  · rw [exec_of_admitted ha rfl (body := fun t => t.longStart h w 0x61 (some (param w 0)) 0) rfl]
    exact settle_longStart ..
  · intro k
    have hk : k < 2 := by
      have hshape := shape_of_admitted ha rfl
      simp only [Bool.and_eq_true, decide_eq_true_eq] at hshape
      exact hshape.2
    have hget {f : Field} (hf : aboveMailboxes f) : t.get f = s.get f := taken_get_above s h w hf
    have hflag {f : Field} (hf : aboveMailboxes f) : t.flag f = s.flag f := taken_flag_above s h w hf
    have hvalid : t.flag (slotValid k) = s.flag (slotValid k) := hflag (by unfold slotValid; split <;> decide)
    have hlongs : t.longs = s.longs := taken_part State.longs (fun _ _ _ => rfl) (fun _ _ _ => rfl) (fun _ _ _ => rfl) s h w
    have hcases := State.activateWork_cases (s := t) k ((hflag (by decide)).trans hrec)
    rw [hget (by decide), hvalid, hlongs, hflag (f := Sec.confirmPending) (by decide)] at hcases
    obtain ⟨hdone, hnot, hbusy, hok⟩ := hcases
    rw [exec_of_admitted ha rfl (body := State.activateWork (param w 0)) rfl]
    refine ⟨fun h0 => ?_, fun h0 hv => ?_, fun h0 hv hb => ?_, fun h0 hv hl hc hf => ⟨t.activate k, ?_, ?_⟩⟩
    · rw [hdone h0, next_settle_err]
    · rw [hnot h0 hv, next_settle_err]
    · rw [hbusy h0 hv hb, next_settle_err]
    · rw [hok h0 hv hl hc hf, next_settle_ok]
    · have hspec := t.activate_spec hk
      rwa [hget (by decide), hget (by decide)] at hspec
  · rw [exec_watchdogExpiry halive, if_pos hc]
    obtain ⟨hget, halert⟩ := s.revertFw_get
    exact ⟨_, rfl, hget (Sec.activeSlot, s.prevSlot) (by simp [revertWrites]), hget (Sec.confirmPending, 0) (by simp [revertWrites]),
      hget (Sec.fwRevertEvt, 1) (by simp [revertWrites]), halert⟩
  · rw [exec_watchdogExpiry halive, if_neg (by simp [hc])]
  · have hme : t.me = s.me := taken_get_above s h w (f := Fab.deviceId) (by decide)
    rw [exec_impressExport ha hform, ← hstep, State.exportImp_of_only ((taken_imps s h w).trans hi) hp, next_settle_ok, hme]

end

section
/-! SUPPORT. SET_PAIR: what the packet that it sends leaves of the pairing, and the adoption of a replica (R359, R360, R370). -/

namespace Sys2Proof.Machine

open Sys2Proof Safety

/-! ### The pairing in progress -/

/-- PAIR_STATE and what the model holds of a pairing in progress (R359). -/
def State.pairing (s : State) : Nat × Option (Nat × Bool) × Option HostHdr × Option (Nat × Nat) :=
  (s.get Surv.pairState, s.pairWith, s.pairCmd, s.pairPeer)

section
variable (s : State)

theorem State.pairing_set {g : Field} (v : Nat) (hg : g.key ≠ Surv.pairState.key) : (s.set g v).pairing = s.pairing := by
  rw [State.pairing, State.get_set_ne _ _ hg.symm]
  rfl

theorem State.pairing_bump {g : Field} (n : Nat) (hg : g.key ≠ Surv.pairState.key) : (s.bump g n).pairing = s.pairing := s.pairing_set _ hg

theorem State.pairing_setAll {fs : List Field} {l : List (Field × Nat)} (hfs : ∀ g ∈ fs, g.key ≠ Surv.pairState.key)
    (hl : ∀ e ∈ l, e.1 ∈ fs) : (s.setAll l).pairing = s.pairing :=
  List.foldlRecOn (motive := fun t : State => t.pairing = s.pairing) l _ rfl fun t ht e he =>
    (t.pairing_set e.2 (hfs e.1 (hl e he))).trans ht

/-- The registers above the hub's own are not PAIR_STATE. -/
theorem pairState_key_ne_high {g : Field} (h : 0x3F0001000000 ≤ g.addr) : g.key ≠ Surv.pairState.key := by
  simp only [Field.key, Surv.pairState]
  omega

theorem pairState_key_ne_pool (m i : Nat) : ∀ g ∈ poolFields m i, g.key ≠ Surv.pairState.key := fun g hg =>
  pairState_key_ne_high (by
    revert g
    simp only [poolFields, List.forall_mem_cons, List.not_mem_nil, false_imp_iff, implies_true, and_true, Pool.head, Pool.free, Pool.lowWater,
      Pool.closed, Pool.fallbacks, Pool.badPool, Pool.badOp, Pool.badPtr, Pool.poolEvt, Pool.poolPointers, portDieBase]
    omega)

theorem pairState_key_ne_slice (n : Nat) : ∀ g ∈ sliceFields n, g.key ≠ Surv.pairState.key := fun g hg =>
  pairState_key_ne_high (by
    revert g
    simp only [sliceFields, List.forall_mem_cons, List.not_mem_nil, false_imp_iff, implies_true, and_true, Sl.stagingUsed, Sl.stagingMax,
      forgeBase]
    omega)

theorem pairState_key_ne_event {r : Nat} (hr : r < 72) : (Rgn.event r).key ≠ Surv.pairState.key :=
  (by decide : ∀ r < 72, (Rgn.event r).key ≠ Surv.pairState.key) r hr

theorem pairState_key_ne_log (cls : Nat) (u : LogUnit) : ∀ g ∈ logFields cls u, Surv.pairState.key ≠ g.key := by
  simp only [logFields, List.mem_append, Option.mem_toList]
  rintro g ((h | h) | h)
  · have hcount : g ∈ [Elog.next, Elog.oldest, Elog.logLost, Elog.logEvt] ∨ g = Elog.classCount cls := by
      simpa only [List.mem_cons, List.not_mem_nil, or_false, or_assoc] using h
    obtain h | rfl := hcount
    · exact (by decide : ∀ g ∈ [Elog.next, Elog.oldest, Elog.logLost, Elog.logEvt], Surv.pairState.key ≠ g.key) g h
    · exact (pairState_key_ne_high (by simp only [Elog.classCount]; omega)).symm
  · cases u <;> simp only [LogUnit.errors, reduceCtorEq, Option.some.injEq] at h <;> subst h <;>
      refine (pairState_key_ne_high ?_).symm <;> simp only [Aoc.benchErrors, Aoc.portErrors, Aoc.chanErrors, Aoc.ringErrors] <;> omega
  · exact (by decide : ∀ g ∈ traceFields, Surv.pairState.key ≠ g.key) g h

/-! ### What leaves it: records, log entries and buffers -/

theorem State.pairing_trace (r kind : Nat) (l : List (Nat × Nat)) : (s.trace r kind l).pairing = s.pairing :=
  Prod.ext (s.trace_get r kind l (by decide))
    (State.trace_part (fun t => (t.pairWith, t.pairCmd, t.pairPeer)) (fun _ _ _ => rfl) (fun _ _ _ => rfl) (fun _ _ => rfl) s r kind l)

theorem State.pairing_logE (cls : Nat) (u : LogUnit) (a : Nat) (l : List (Nat × Nat)) : (s.logE cls u a l).pairing = s.pairing :=
  Prod.ext (s.logE_get cls u a l (pairState_key_ne_log cls u))
    (State.logE_part (fun t => (t.pairWith, t.pairCmd, t.pairPeer)) (fun _ _ _ => rfl) (fun _ _ _ => rfl) (fun _ _ => rfl) (fun _ _ => rfl)
      s cls u a l)

theorem State.pairing_poolBad (m i off op : Nat) : (s.poolBad m i off op).pairing = s.pairing := by
  have hp := pairState_key_ne_pool m i
  exact (State.pairing_bump _ _ (hp _ (by simp [poolFields]))).trans
    ((State.pairing_setAll _ hp (by simp [poolFields])).trans (s.pairing_logE _ _ _ _))

theorem State.pairing_poolTake (m i : Nat) : (s.poolTake m i).2.pairing = s.pairing := by
  have hp := pairState_key_ne_pool m i
  unfold State.poolTake
  dsimp only
  split
  · rfl
  · split
    · exact (State.pairing_setAll _ hp (by simp [poolFields])).trans rfl
    · exact (State.pairing_setAll _ hp (by simp [poolFields])).trans (s.pairing_poolBad _ _ _ _)

theorem State.pairing_poolAlloc (m i : Nat) (fallback : Bool) (k : Nat) : (s.poolAlloc m i fallback k).2.pairing = s.pairing := by
  induction k generalizing s i fallback with
  | zero => rfl
  | succ k ih =>
    have ht := s.pairing_poolTake m i
    unfold State.poolAlloc
    split
    next off t htake =>
      rw [htake] at ht
      refine Eq.trans ?_ ht
      split
      · exact State.pairing_bump _ _ (pairState_key_ne_pool m i _ (by simp [poolFields]))
      · rfl
    next t htake =>
      rw [htake] at ht
      exact (ih t _ _).trans ht

theorem State.pairing_poolFree (m i off : Nat) : (s.poolFree m i off).pairing = s.pairing := by
  unfold State.poolFree
  split
  · exact (State.pairing_setAll _ (pairState_key_ne_pool m i) (by simp [poolFields])).trans rfl
  · exact s.pairing_poolBad _ _ _ _

theorem State.pairing_bufFree (b : Option (Nat × Nat)) : (s.bufFree b).pairing = s.pairing := by
  cases b with
  | none => rfl
  | some k => exact s.pairing_poolFree _ _ _

theorem State.pairing_returnCredit (p : Nat) (pkt : Pkt) : (s.returnCredit p pkt).pairing = s.pairing := by
  unfold State.returnCredit
  split
  · obtain ⟨n, x, c, h⟩ := s.grantCredit_sent p [(creditKey pkt, creditUnits (pktLen pkt))]
    rw [h]
    rfl
  · rfl

/-! ### What leaves it: a packet on its way out (R264, R267, R284) -/

theorem State.pairing_stage (n bytes : Nat) : (s.stage n bytes).pairing = s.pairing :=
  State.pairing_setAll s (pairState_key_ne_slice n) (by simp [sliceFields])

theorem State.pairing_unstage (n bytes : Nat) : (s.unstage n bytes).pairing = s.pairing :=
  s.pairing_set _ (pairState_key_ne_slice n _ (by simp [sliceFields]))

theorem State.pairing_release (q : Queued) : (s.release q).pairing = s.pairing := by
  unfold State.release
  dsimp only
  cases q.slice <;> cases q.input <;> simp only [State.pairing_returnCredit, State.pairing_unstage, State.pairing_bufFree]

theorem State.pairing_ringHop (pkt : Pkt) (dir : Nat) {i : Nat} (hi : i < 12) : (s.ringHop pkt dir i).pairing = s.pairing := by
  have hring : ringFor pkt ≤ 1 := by unfold ringFor; split <;> omega
  have hevent := pairState_key_ne_event (r := 48 + (12 * ringFor pkt + if dir = 0 then (i + 11) % 12 else i)) (by split <;> omega)
  refine (State.pairing_trace ..).trans ((State.pairing_bump _ _ hevent).trans ((State.pairing_bump _ _ ?_).trans rfl))
  split <;> exact pairState_key_ne_high (by simp only [Aoc.bytesFwd, Aoc.bytesRev]; omega)

theorem State.pairing_ringLeave (pkt : Pkt) (dir i : Nat) : (s.ringLeave pkt dir i).pairing = s.pairing := rfl

theorem State.pairing_ringCross (pkt : Pkt) (a b : Nat) : (s.ringCross pkt a b).pairing = s.pairing :=
  List.foldlRecOn (motive := fun t : State => t.pairing = s.pairing) _ _ rfl fun t ht i hi =>
    (State.pairing_ringLeave _ pkt _ i).trans ((t.pairing_ringHop pkt _ (mem_ringWay hi)).trans ht)

theorem State.pairing_accept (e : Nat) (q : Queued) : (s.accept e q).pairing = s.pairing := by
  have ha : (s.bufAlloc (pdOf e) q.pkt.payload.length).2.pairing = s.pairing := s.pairing_poolAlloc ..
  unfold State.accept
  dsimp only
  split
  · rfl
  · split
    · exact (State.pairing_release _ q).trans (s.pairing_ringCross _ _ _)
    · split
      · rfl
      · split
        next k t htake =>
          refine ((State.pairing_release _ q).trans (t.pairing_ringCross _ _ _)).trans ?_
          exact (congrArg (fun r => r.2.pairing) htake).symm.trans ha
        next t htake => exact (congrArg (fun r => r.2.pairing) htake).symm.trans ha

theorem State.pairing_pathDown (m : Nat) : (s.pathDown m).pairing = s.pairing := by
  refine (State.pairing_set _ _ (pairState_key_ne_high ?_)).trans (s.pairing_bump _ (pairState_key_ne_high ?_)) <;>
    simp only [Tm.pathDownDrops, Tm.pathDownEvt, portDieBase] <;> omega

theorem State.pairing_depart (m : Nat) (q : Queued) : (s.depart m q).pairing = s.pairing := by
  unfold State.depart
  split
  · exact (State.pairing_pathDown _ m).trans (s.pairing_release q)
  · split
    · exact (State.pairing_logE ..).trans (s.pairing_release q)
    · split
      · exact (State.pairing_logE ..).trans (s.pairing_release q)
      · split
        · exact (State.pairing_pathDown ..).trans (s.pairing_release q)
        · exact s.pairing_accept _ q

/-- Firmware's packets leave by slice 0 (log entry 11). -/
theorem State.pairing_sendOut (via : Option Nat) (pkt : Pkt) : (s.sendOut 0 via pkt).pairing = s.pairing := by
  have hstaged : (s.stagePkt 0 pkt).pairing = s.pairing :=
    (State.pairing_trace ..).trans ((State.pairing_bump _ _ (pairState_key_ne_event (by decide))).trans
      ((State.pairing_stage ..).trans (s.pairing_bump _ (by decide))))
  cases via with
  | none => exact (State.pairing_depart _ 0 { pkt := pkt, slice := some 0 }).trans hstaged
  | some e => exact (State.pairing_accept _ e { pkt := pkt, slice := some 0 }).trans hstaged

theorem State.pairing_sendMgmt (dst : Nat) (payload : List Byte) : (s.sendMgmt dst payload).pairing = s.pairing := by
  unfold State.sendMgmt State.send State.inject State.sendTo
  dsimp only
  split
  · split
    · exact (State.pairing_set _ _ (by decide)).trans (State.pairing_logE ..)
    · split
      · exact (State.pairing_sendOut ..).trans rfl
      · rfl
  · exact s.pairing_sendOut _ _

end

/-! ### SET_PAIR (R359, R360, R370) -/

/-- An exchange that meets no message held from the partner is under way: PAIR_STATE is 1, and the reply is due. -/
theorem State.pairBegin_pairing {s : State} (hp : s.pairPeer = none) (h : HostHdr) (d : Nat) (override : Bool) :
    (s.pairBegin h d override).pairing = (1, some (d, override), some h, none) := by
  have hbegun : (State.set { s with pairWith := some (d, override), pairCmd := some h } Surv.pairState 1).pairing =
      (1, some (d, override), some h, none) := by
    rw [State.pairing, State.get_set_same, ← hp]
    rfl
  generalize hx : State.set { s with pairWith := some (d, override), pairCmd := some h } Surv.pairState 1 = x at hbegun
  have hsent : (x.sendMsg d 4 (b2n override) (x.get Surv.fdTag) 0 16).pairing = (1, some (d, override), some h, none) :=
    (x.pairing_sendMgmt _ _).trans hbegun
  have hnone : (x.sendMsg d 4 (b2n override) (x.get Surv.fdTag) 0 16).pairPeer = none := congrArg (fun r => r.2.2.2) hsent
  rw [State.pairBegin, hx, hnone]
  exact hsent

section
variable {s : State} {h : HostHdr} {d : Nat} {override : Bool}

theorem State.pairStart_refused (hbad : d = s.me ∨ (override = true ∧ s.get Imp.impN % 2 = 1 ∧ 1 < s.get Imp.impN)) :
    State.pairStart h d override s = .err s stBadParam :=
  if_pos hbad

theorem State.pairStart_busy (hok : ¬ (d = s.me ∨ (override = true ∧ s.get Imp.impN % 2 = 1 ∧ 1 < s.get Imp.impN)))
    (hcmd : s.pairCmd ≠ none) : State.pairStart h d override s = .err s stBusy :=
  (if_neg hok).trans (if_pos (Option.isSome_iff_ne_none.2 hcmd))

theorem State.pairStart_begins (hok : ¬ (d = s.me ∨ (override = true ∧ s.get Imp.impN % 2 = 1 ∧ 1 < s.get Imp.impN)))
    (hcmd : s.pairCmd = none) : State.pairStart h d override s = .later (s.pairBegin h d override) :=
  (if_neg hok).trans (if_neg (by simp [hcmd]))

end

section
variable {s : State} {h : HostHdr} {w : List W64}

theorem exec_setPair (ha : admitted (.setPair h w) s) (hform : h.form ≠ 2) : exec (.setPair h w) s =
    .next (State.settle 0x30 h.tag.toNat (State.pairStart h (param w 0) (h.form == 1) (taken s h w))) := by
  rw [exec_of_admitted ha rfl (congrArg (fun t => Host.Outcome.next (if s.alive = true then t else s)) (s.setPairing_eq h w)), if_neg hform]

theorem exec_setPairAdopt (ha : admitted (.setPairAdopt h w) s) (hform : h.form = 2) : exec (.setPairAdopt h w) s =
    .next (State.settle 0x30 h.tag.toNat (State.adopt (param w 0) (taken s h w))) := by
  rw [exec_of_admitted ha rfl (congrArg (fun t => Host.Outcome.next (if s.alive = true then t else s)) (s.setPairing_eq h w)), if_pos hform]

end

end Sys2Proof.Machine

open Sys2Proof Sys2Proof.Machine Sys2Proof.Safety

/-- Settles O27: the exchange's packet leaves what the pairing is held by, and adoption adds the buckets to those noted. -/
theorem pairingCommandsBegin : Obligations.PairingCommandsBegin := by
  intro s h w t d
  have hpart : t.adopting = s.adopting ∧ t.pairCmd = s.pairCmd ∧ t.pairPeer = s.pairPeer := by
    have hall := taken_part (fun t => (t.adopting, t.pairCmd, t.pairPeer)) (fun _ _ _ => rfl) (fun _ _ _ => rfl) (fun _ _ _ => rfl) s h w
    simpa using hall
  obtain ⟨hadopting, hcmd, hpeer⟩ := hpart
  have hme : t.me = s.me := taken_get_above s h w (f := Fab.deviceId) (by decide)
  have himp : t.get Imp.impN = s.get Imp.impN := taken_get_above s h w (by decide)
  refine ⟨fun ha hform => ?_, fun ha hform => ?_⟩
  · have hf2 : h.form ≠ 2 := by obtain hf | hf := hform <;> rw [hf] <;> decide
    intro odd
    rw [exec_setPair ha hf2]
    have hodd : (d = t.me ∨ ((h.form == 1) = true ∧ t.get Imp.impN % 2 = 1 ∧ 1 < t.get Imp.impN)) ↔ d = s.me ∨ odd := by
      rw [hme, himp, beq_iff_eq]
    refine ⟨fun hbad => ?_, fun hd ho hc => ?_, fun hd ho hc hp => ?_⟩
    · rw [State.pairStart_refused (hodd.2 hbad), next_settle_err]
    · rw [State.pairStart_busy (fun hx => (hodd.1 hx).elim hd ho) (hcmd ▸ hc), next_settle_err]
    · rw [State.pairStart_begins (fun hx => (hodd.1 hx).elim hd ho) (hcmd.trans hc)]
      have hbegun := State.pairBegin_pairing (hpeer.trans hp) h d (h.form == 1)
      exact ⟨_, rfl, congrArg Prod.fst hbegun, congrArg (fun r => r.2.1) hbegun, congrArg (fun r => r.2.2.1) hbegun⟩
  · rw [exec_setPairAdopt ha hform]
    refine ⟨fun hnone => ?_, fun hsome => ⟨{ t with adopting := (t.adopting ++ t.adoptable d).dedup }, ?_, rfl, fun k => ?_⟩⟩
    · rw [State.adopt, if_pos hnone, next_settle_err]
    · rw [State.adopt, if_neg hsome, next_settle_ok]
    · rw [List.mem_dedup, List.mem_append, hadopting]

end

section
/-! SUPPORT. The survival timers: heartbeats, a lost peer, a pairing without an answer, refill and stragglers (R359, R362, R363, R373, R383). -/

namespace Sys2Proof.Machine

open Sys2Proof Safety

/-! ### An event reported with its alert (R466) -/

/-- What an event that raises ALERT_N writes, the flag of its own first. -/
def flagAlertFields (g : Field) : List Field := [g, Side.alertPend, Side.alertCount, Side.alertOut]

section
variable (s : State) (g : Field)

theorem State.flagAlert_get {f : Field} (hf : ∀ x ∈ flagAlertFields g, f.key ≠ x.key) : (s.set g 1).alert.get f = s.get f := by
  rw [flagAlertFields, List.forall_mem_cons] at hf
  obtain ⟨hg, ha⟩ := hf
  exact (State.alert_get _ ha).trans (State.get_set_ne _ _ hg)

theorem State.flagAlert_self (hg : ∀ x ∈ [Side.alertPend, Side.alertCount, Side.alertOut], g.key ≠ x.key) (hw : g.width = 1) :
    (s.set g 1).alert.get g = 1 := by
  rw [State.alert_get _ hg, State.get_set_same, hw]
  rfl

theorem State.flagAlert_part {α : Type} (p : State → α) (hset : ∀ t f v, p (State.set t f v) = p t) : p (s.set g 1).alert = p s :=
  (hset ..).trans ((hset ..).trans ((hset ..).trans (hset ..)))

end

/-! ### Heartbeats (R362, R363) -/

theorem exec_heartbeatSend {s : State} (ha : s.active = true) (hr : s.running = true) {peer : Nat} (hp : s.peers = [peer]) :
    exec .heartbeatSend s = .next (s.sendMsg peer 2 0 (s.get Upd.committed) 0 16) := by
  change Host.Outcome.next (if (s.active && s.running) = true then _ else s) = _
  rw [if_pos (by simp [ha, hr]), hp]
  rfl

theorem exec_heartbeatSend_stopped {s : State} (hr : s.running = false) : exec .heartbeatSend s = .next s :=
  congrArg Host.Outcome.next (if_neg (by simp [hr]))

/-- The log entry, the flag and the alert of a peer that is lost (R363). -/
def State.peerLost (s : State) (peer : Nat) : State := ((s.logE clE2eTimeout .hub peer []).set Surv.peerLostEvt 1).alert

theorem exec_hbMiss {s : State} (ha : s.active = true) {peer : Nat} (hp : peer ∈ s.peers) : exec (.hbMiss peer) s = .next (s.peerLost peer) :=
  congrArg Host.Outcome.next (if_pos (by simp [ha, hp]))

theorem exec_hbMiss_of_other {s : State} {peer : Nat} (hp : peer ∉ s.peers) : exec (.hbMiss peer) s = .next s :=
  congrArg Host.Outcome.next (if_neg (by simp [hp]))

/-- Of the registers a lost peer changes those of its log entry, its flag and the alert's alone. -/
theorem State.peerLost_get (s : State) (peer : Nat) {f : Field}
    (hf : ∀ g ∈ logFields clE2eTimeout .hub ++ flagAlertFields Surv.peerLostEvt, f.key ≠ g.key) :
    (s.peerLost peer).get f = s.get f := by
  rw [List.forall_mem_append] at hf
  obtain ⟨hlog, hflag⟩ := hf
  exact (State.flagAlert_get _ _ hflag).trans (s.logE_get _ _ _ _ hlog)

theorem State.peerLost_part {α : Type} (p : State → α) (hset : ∀ t f v, p (State.set t f v) = p t)
    (hlog : ∀ (t : State) x, p { t with log := x } = p t) (s : State) (peer : Nat) : p (s.peerLost peer) = p s :=
  (State.flagAlert_part _ _ p hset).trans (State.logE_part_of_no_region p hset hlog s _ rfl peer [])

/-- The entry of a lost peer is in the log (R432). -/
theorem State.peerLost_logs (s : State) (peer : Nat) : ∃ n x, Tab.find (s.peerLost peer).log n = some x ∧ x.cls = clE2eTimeout := by
  obtain ⟨n, x, hfind, hcls, -⟩ := s.logE_find clE2eTimeout .hub peer []
  refine ⟨n, x, ?_, hcls⟩
  rw [State.peerLost, State.flagAlert_part _ _ State.log (fun _ _ _ => rfl)]
  exact hfind

/-! ### A pairing that nobody answers (R359) -/

theorem exec_pairTimeout {s : State} (ha : s.active = true) {h : HostHdr} (hc : s.pairCmd = some h) :
    exec .pairTimeout s = completes { s with pairCmd := none, pairWith := none } 0x30 h stNotReady [] := by
  change Host.Outcome.next (if (s.active && s.pairCmd.isSome) = true then s.pairReply stNotReady else s) = _
  rw [if_pos (by simp [ha, hc]), State.pairReply, hc]
  rfl

theorem exec_pairTimeout_answered {s : State} (hc : s.pairCmd = none) : exec .pairTimeout s = .next s :=
  congrArg Host.Outcome.next (if_neg (by simp [hc]))

/-! ### Refill and stragglers (R373, R383) -/

theorem exec_refillSweeper {s : State} (ha : s.active = true) (hr : s.running = true) (hstep : 1 ≤ s.step)
    (hfill : (s.owned.filter fun e => pmState e.2 == 1).length < s.get Surv.fillPar) : exec .refillSweeper s = .next s.refillSweep :=
  congrArg Host.Outcome.next (if_pos ⟨ha, hr, hstep, hfill⟩)

/-- An entry for each source that is missing. -/
def State.logMissing (s : State) (bucket : Nat) (missing : List Nat) : State :=
  missing.foldl (fun t d => t.logE clE2eTimeout .hub d [(bucket, 24)]) s

theorem State.logMissing_get (s : State) (bucket : Nat) (missing : List Nat) {f : Field}
    (hf : ∀ g ∈ logFields clE2eTimeout .hub, f.key ≠ g.key) : (s.logMissing bucket missing).get f = s.get f :=
  List.foldlRecOn (motive := fun t : State => t.get f = s.get f) missing _ rfl fun t ht _ _ => (t.logE_get _ _ _ _ hf).trans ht

theorem State.logMissing_part {α : Type} (p : State → α) (hset : ∀ t f v, p (State.set t f v) = p t)
    (hlog : ∀ (t : State) x, p { t with log := x } = p t) (s : State) (bucket : Nat) (missing : List Nat) :
    p (s.logMissing bucket missing) = p s :=
  List.foldlRecOn (motive := fun t : State => p t = p s) missing _ rfl fun t ht _ _ =>
    (State.logE_part_of_no_region p hset hlog t _ rfl _ _).trans ht

theorem exec_straggleUs {s : State} (ha : s.active = true) (hr : s.running = true) (hus : s.get Surv.straggleUs ≠ 0) (bucket : Nat)
    {missing : List Nat} (hm : missing ≠ []) :
    exec (.straggleUs bucket missing) s = .next ((s.logMissing bucket missing).set Surv.straggleEvt 1).alert :=
  congrArg Host.Outcome.next (if_pos (by simp [ha, hr, hus, hm]))

end Sys2Proof.Machine

open Sys2Proof Sys2Proof.Machine Sys2Proof.Safety

/-- Settles O51: each timer's work by its equation; a report writes the log, its flag and the alert alone. -/
theorem survivalTimersReport : Obligations.SurvivalTimersReport := by
  intro s peer bucket missing h ha
  refine ⟨fun hr hp => exec_heartbeatSend ha hr hp, exec_heartbeatSend_stopped, fun hp => ⟨_, exec_hbMiss ha hp, ?_⟩, exec_hbMiss_of_other,
    fun hc => ⟨_, exec_pairTimeout ha hc, rfl, rfl⟩, exec_pairTimeout_answered, exec_refillSweeper ha,
    fun hr hus hm => ⟨_, exec_straggleUs ha hr hus bucket hm, ?_⟩⟩
  · exact ⟨State.flagAlert_self _ _ (by decide) rfl, State.alert_alertPend _, s.peerLost_get peer (by decide), s.peerLost_get peer (by decide),
      State.peerLost_part State.sched (fun _ _ _ => rfl) (fun _ _ => rfl) s peer,
      State.peerLost_part State.routes (fun _ _ _ => rfl) (fun _ _ => rfl) s peer,
      State.peerLost_part State.mem (fun _ _ _ => rfl) (fun _ _ => rfl) s peer, s.peerLost_logs peer⟩
  · exact ⟨State.flagAlert_self _ _ (by decide) rfl, State.alert_alertPend _,
      (State.flagAlert_part _ _ State.buckets (fun _ _ _ => rfl)).trans
        (State.logMissing_part State.buckets (fun _ _ _ => rfl) (fun _ _ => rfl) s bucket missing),
      (State.flagAlert_part _ _ State.chans (fun _ _ _ => rfl)).trans
        (State.logMissing_part State.chans (fun _ _ _ => rfl) (fun _ _ => rfl) s bucket missing),
      (State.flagAlert_get _ _ (by decide)).trans (s.logMissing_get bucket missing (by decide))⟩

end

section
/-! SUPPORT. A station's step by what its form's position comes to, and the commands of the forms (R49, R127, R131, R141). -/

namespace Sys2Proof.Machine

open Sys2Proof Safety

/-! ### A step of a form (R127, R141) -/

section
variable {s : State} {b i kind form : Nat} {x : Stream} {work : State → Stream → Res}

/-- A station that works and whose memory slot is its own takes the position of its form. -/
theorem State.formStep_of_works (hw : works s b i kind form x) (c : Check) :
    s.formStep b i kind form c work = s.position b i c work := by
  obtain ⟨hx, -, hi, hk, hf, -⟩ := hw
  simp only [State.formStep, hx, hk, hf, hi, and_self, if_true]

/-- The commands of a form do its positions. -/
theorem formDoes_of_formStep {cmd : Check → Sys2Proof.Instr} (hcmd : ∀ c, exec (cmd c) s = .next (s.formStep b i kind form c work)) :
    formDoes s b i kind form cmd work := by
  intro x hw
  have hexec : ∀ c, exec (cmd c) s = .next (s.position b i c work) := fun c => (hcmd c).trans (congrArg _ (State.formStep_of_works hw c))
  obtain ⟨hx, -, -, -, -, hr, hn, hc, hstate, hslot⟩ := hw
  have hgo : s.stnGo b i = s := if_neg (by simp [hstate])
  refine ⟨fun u hu => ⟨?_, ?_, fun a => ?_⟩, fun u hu => ?_, fun a u hu => ?_, fun hu => ?_⟩ <;>
    rw [hexec, State.position] <;> simp [hx, hr, hn, hc, hslot, hgo, hu]

/-- A position of a form that completes. -/
theorem exec_of_works {cmd : Check → Sys2Proof.Instr} (hd : formDoes s b i kind form cmd work) (hw : works s b i kind form x) {u : State}
    (hu : work s x = .ok u) : exec (cmd .pass) s = .next (u.slotServed b i) :=
  ((hd x hw).1 u hu).1

end

/-! ### The commands of the forms (R131) -/

section
variable (s : State) (b i : Nat)

theorem formDoes_scale : formDoes s b i 1 0 (.scale b i) fun t x => t.scaleWork b i x := formDoes_of_formStep fun _ => rfl
theorem formDoes_sum : formDoes s b i 1 1 (.sum b i) fun t x => t.sumWork b i 1 x := formDoes_of_formStep fun _ => rfl
theorem formDoes_sumsp : formDoes s b i 1 2 (.sumsp b i) fun t x => t.sumWork b i 2 x := formDoes_of_formStep fun _ => rfl
theorem formDoes_norm : formDoes s b i 1 3 (.norm b i) fun t x => t.normWork b i x := formDoes_of_formStep fun _ => rfl
theorem formDoes_rowsum : formDoes s b i 1 4 (.rowsum b i) fun t x => t.lineSumWork b i false x := formDoes_of_formStep fun _ => rfl
theorem formDoes_colsum : formDoes s b i 1 5 (.colsum b i) fun t x => t.lineSumWork b i true x := formDoes_of_formStep fun _ => rfl
theorem formDoes_max : formDoes s b i 1 6 (.max b i) fun t x => t.maxWork b i true x := formDoes_of_formStep fun _ => rfl
theorem formDoes_min : formDoes s b i 1 7 (.min b i) fun t x => t.maxWork b i false x := formDoes_of_formStep fun _ => rfl
theorem formDoes_update : formDoes s b 2 2 0 (.update b) fun t x => t.temperWork b false x := formDoes_of_formStep fun _ => rfl
theorem formDoes_replay : formDoes s b 2 2 1 (.replay b) fun t x => t.temperWork b true x := formDoes_of_formStep fun _ => rfl
theorem formDoes_convert : formDoes s b i 3 0 (.convert b i) fun t x => t.convertWork b i x := formDoes_of_formStep fun _ => rfl
theorem formDoes_finish : formDoes s b i 3 1 (.finish b i) fun t x => t.finishWork b i x := formDoes_of_formStep fun _ => rfl
theorem formDoes_zfill : formDoes s b i 3 2 (.zfill b i) fun t x => t.zfillWork b i x := formDoes_of_formStep fun _ => rfl
theorem formDoes_gather : formDoes s b 5 4 0 (.gather b) fun t x => t.gatherWork b 5 x := formDoes_of_formStep fun _ => rfl
theorem formDoes_scatter : formDoes s b 5 4 1 (.scatter b) fun t x => t.scatterWork b 5 x := formDoes_of_formStep fun _ => rfl
theorem formDoes_permute : formDoes s b 5 4 2 (.permute b) fun t x => t.permuteWork b 5 x := formDoes_of_formStep fun _ => rfl
theorem formDoes_strided : formDoes s b 5 4 3 (.strided b) fun t x => t.stridedWork b 5 x := formDoes_of_formStep fun _ => rfl
theorem formDoes_select : formDoes s b 6 5 0 (.select b) fun t x => t.selectWork b 6 x := formDoes_of_formStep fun _ => rfl
theorem formDoes_topk : formDoes s b 6 5 1 (.topk b) fun t x => t.topkWork b 6 x := formDoes_of_formStep fun _ => rfl
theorem formDoes_sort : formDoes s b 7 6 0 (.sort b) fun t x => t.galleyWork b 7 0 x := formDoes_of_formStep fun _ => rfl
theorem formDoes_merge : formDoes s b 7 6 1 (.merge b) fun t x => t.galleyWork b 7 1 x := formDoes_of_formStep fun _ => rfl
theorem formDoes_matvec : formDoes s b 8 7 0 (.matvec b) fun t x => t.matvecWork b 8 x := formDoes_of_formStep fun _ => rfl
theorem formDoes_outer : formDoes s b 8 7 1 (.outer b) fun t x => t.outerWork b 8 x := formDoes_of_formStep fun _ => rfl
theorem formDoes_digestPkt : formDoes s b 9 8 0 (.digestPkt b) fun t x => t.proofWork b 9 0 x := formDoes_of_formStep fun _ => rfl
theorem formDoes_digestTile : formDoes s b 9 8 1 (.digestTile b) fun t x => t.proofWork b 9 1 x := formDoes_of_formStep fun _ => rfl

end

end Sys2Proof.Machine
end

section
/-! SUPPORT. What a station's work leaves before and after its token: counters, units, and inputs released (R91, R127, R140, R144, R166). -/

namespace Sys2Proof.Machine

open Sys2Proof Safety

/-! ### The registers that a station's work moves (R93, R144) -/

/-- The keys of the registers in which a station's work counts: those of its own block but for TOKENS_OUT (R144), and its bench's conversion
counters (R93). -/
def workKey (b i k : Nat) : Prop :=
  (64 * stnBase b i ≤ k ∧ k < 64 * (stnBase b i + 0x1000) ∧ k ≠ (Stn.tokensOut b i).key) ∨
    (64 * (benchBase b + 0xE000) ≤ k ∧ k < 64 * (benchBase b + 0xF000))

section
variable {b i : Nat}

theorem stnBase_of_lt (hi : i < 10) : stnBase b i = benchBase b + 0x1000 * (i + 1) := if_neg (by omega)

/-- A register of the station's block that is not TOKENS_OUT. -/
theorem workKey_of_stn {f : Field} (h0 : stnBase b i ≤ f.addr) (h1 : f.addr < stnBase b i + 0x1000) (h2 : f.addr ≠ stnBase b i + 0x18)
    (hl : f.lo < 64) : workKey b i f.key :=
  .inl (by simp only [Field.key, Stn.tokensOut]; omega)

theorem workKey_of_conv {f k : Nat} (hf : f < 32) (hk : k < 8) : workKey b i (Conv.count b f k).key :=
  .inr (by simp only [Field.key, Conv.count]; omega)

theorem not_workKey_tokensOut (hi : i < 10) : ¬ workKey b i (Stn.tokensOut b i).key := by
  simp only [workKey, Field.key, Stn.tokensOut, stnBase_of_lt hi]
  omega

theorem not_workKey_stoneWin (hi : i < 10) : ¬ workKey b i (Ben.stoneWin b).key := by
  simp only [workKey, Field.key, Ben.stoneWin, stnBase_of_lt hi]
  omega

/-- No register of the Compositor's block is one of a station's work. -/
theorem not_workKey_of_compositor (hi : i < 10) {f : Field} (h : benchBase b + 0x10000 ≤ f.addr) : ¬ workKey b i f.key := by
  simp only [workKey, Field.key, stnBase_of_lt hi]
  omega

theorem not_workKey_spareEn (hi : i < 10) (n : Nat) : ¬ workKey b i (Mc.spareEn n).key := by
  simp only [workKey, Field.key, Mc.spareEn, stnBase_of_lt hi, benchBase, forgeBase]
  omega

theorem not_workKey_traceStall (hi : i < 10) : ¬ workKey b i Obs.traceStall.key := by
  simp only [workKey, Field.key, Obs.traceStall, stnBase_of_lt hi, benchBase, forgeBase]
  omega

end

/-! ### Work before the token: counters and units (R91, R140) -/

/-- From s, the work of station i of bench b has counted: registers of its work, its counters and the units of its stream differ at most. -/
structure Counted (b i : Nat) (s t : State) : Prop where
  eq : t = { s with csr := t.csr, stnCnt := t.stnCnt, streams := t.streams }
  get : ∀ f : Field, ¬ workKey b i f.key → t.get f = s.get f
  stream : ∀ x, s.stream b i = some x → ∃ n, t.stream b i = some { x with units := n }

namespace Counted

variable {b i : Nat} {s t u : State}

theorem refl (s : State) : Counted b i s s := ⟨rfl, fun _ _ => rfl, fun x hx => ⟨x.units, hx⟩⟩

theorem trans (h : Counted b i s t) (k : Counted b i t u) : Counted b i s u := by
  refine ⟨by rw [k.eq, h.eq], fun f hf => (k.get f hf).trans (h.get f hf), fun x hx => ?_⟩
  obtain ⟨n, hn⟩ := h.stream x hx
  obtain ⟨m, hm⟩ := k.stream _ hn
  exact ⟨m, hm⟩

theorem set (h : Counted b i s t) {g : Field} (v : Nat) (hg : workKey b i g.key) : Counted b i s (t.set g v) :=
  h.trans ⟨rfl, fun _ hf => State.get_set_ne t v fun e => hf (e ▸ hg), fun x hx => ⟨x.units, hx⟩⟩

theorem bump (h : Counted b i s t) {g : Field} (n : Nat) (hg : workKey b i g.key) : Counted b i s (t.bump g n) := h.set _ hg

theorem countKind (h : Counted b i s t) {f k : Nat} (n : Nat) (hf : f < 32) (hk : k < 8) : Counted b i s (t.countKind b i f k n) := by
  unfold State.countKind
  split
  · exact h
  · exact bump (by exact h.trans ⟨rfl, fun _ _ => rfl, fun x hx => ⟨x.units, hx⟩⟩) n (workKey_of_conv hf hk)

theorem countIn (h : Counted b i s t) {f : Nat} (vs : List Val) (hf : f < 32) : Counted b i s (t.countIn b i f vs) :=
  (h.countKind _ hf (by decide)).countKind _ hf (by decide)

theorem countToks (h : Counted b i s t) {ts : List Tok} (hts : ∀ k ∈ ts, k.fmt < 32) : Counted b i s (t.countToks b i ts) :=
  List.foldlRecOn ts _ h fun _ hu k hk => hu.countIn _ (hts k hk)

theorem addUnits (h : Counted b i s t) (n : Nat) : Counted b i s (t.addUnits b i n) := by
  refine h.trans ?_
  unfold State.addUnits State.onStream
  cases hx : t.stream b i with
  | none => exact refl t
  | some x =>
    refine ⟨rfl, fun _ _ => rfl, fun y hy => ⟨x.units + n, ?_⟩⟩
    cases hx.symm.trans hy
    exact Tab.find_put_same ..

variable (h : Counted b i s t)
include h

/-- What no register, counter or stream changes is as it was. -/
theorem part {α : Type} (p : State → α) (hp : ∀ (v : State) c n l, p { v with csr := c, stnCnt := n, streams := l } = p v) : p t = p s := by
  rw [h.eq, hp]

theorem queues : t.queues = s.queues := h.part State.queues fun _ _ _ _ => rfl

variable (hi : i < 10)
include hi

theorem window : t.window b = s.window b := congrArg (stoneBase (b / 5) + ·) (h.get _ (not_workKey_stoneWin hi))

theorem inSpare (a : Nat) : t.inSpare a = s.inSpare a := by
  rw [State.inSpare, State.inSpare, State.flag, State.flag, h.get _ (not_workKey_spareEn hi _)]

theorem mayWrite (a n : Nat) (sc : Bool) : t.mayWrite b i a n sc = s.mayWrite b i a n sc := by
  have hsig : t.signalIn a n = s.signalIn a n := h.part (fun v => v.signalIn a n) fun _ _ _ _ => rfl
  have hres : t.inResult b a n = s.inResult b a n := h.part (fun v => v.inResult b a n) fun _ _ _ _ => rfl
  simp only [State.mayWrite, State.ramOk, hsig, hres, h.window hi, h.inSpare hi]

theorem permitted {a n : Nat} {sc : Bool} (hp : permitted s b i a n sc) : permitted t b i a n sc :=
  ⟨(h.mayWrite hi a n sc).trans hp.1, (h.part (fun v => v.storeErr a n) fun _ _ _ _ => rfl).trans hp.2⟩

theorem queueBase (q : Nat) : t.get (Cmp.queueBase b q) = s.get (Cmp.queueBase b q) :=
  h.get _ (not_workKey_of_compositor hi (by simp only [Cmp.queueBase, stnBase, if_true]; omega))

theorem queueSlots (q : Nat) : t.get (Cmp.queueSlots b q) = s.get (Cmp.queueSlots b q) :=
  h.get _ (not_workKey_of_compositor hi (by simp only [Cmp.queueSlots, stnBase, if_true]; omega))

theorem queueSlotb (q : Nat) : t.get (Cmp.queueSlotb b q) = s.get (Cmp.queueSlotb b q) :=
  h.get _ (not_workKey_of_compositor hi (by simp only [Cmp.queueSlotb, stnBase, if_true]; omega))

theorem outAddr (x : Stream) (p n : Nat) (addr : Option Int) : outAddr t b x p n addr = outAddr s b x p n addr := by
  simp only [Safety.outAddr, h.window hi, h.queues, h.queueBase hi, h.queueSlots hi, h.queueSlotb hi]

theorem takesOut {x : Stream} {p : Nat} {k : Tok} {addr : Option Int} (ho : takesOut s b i x p k addr) : takesOut t b i x p k addr := by
  have hspace : t.space b x p = s.space b x p := by
    simp only [State.space, h.queues, h.queueSlots hi]
  obtain ⟨hs, hk⟩ := ho
  refine ⟨hspace.trans hs, hk.imp_right (Or.imp ?_ ?_)⟩
  · rintro ⟨hq, hf, hlen, a, ha, hp⟩
    exact ⟨hq, hf, (h.queueSlotb hi _).symm ▸ hlen, a, (h.outAddr hi ..).trans ha, h.permitted hi hp⟩
  · rintro ⟨hq, hf, d, a, hd, hs, ha, hp⟩
    exact ⟨hq, hf, d, a, hd, hs, (h.outAddr hi ..).trans ha, h.permitted hi hp⟩

end Counted

/-! ### Inputs released (R127, R166) -/

/-- The slot, or the staging stone, of a released token given back to its producer. -/
def State.freeTok (s : State) (b : Nat) (v : Binding) : State :=
  if v.kind = 1 then
    let q := Tab.get s.queues {} (64 * b + v.id)
    { s with queues := Tab.set s.queues {} (64 * b + v.id) { q with toks := q.toks.drop 1, released := q.released + 1 } }
  else if v.kind = 3 then
    let c := Tab.get s.chans [] (chanKey b v.id)
    let t := s.unstage (b / 5) (((c.head?).map (·.bytes.length)).getD 0)
    { t with chans := Tab.set t.chans [] (chanKey b v.id) (c.drop 1) }
  else s

section
variable {s : State} {b i : Nat} {f : Field}

theorem State.freeTok_mem (v : Binding) : (s.freeTok b v).mem = s.mem := by
  unfold State.freeTok
  split
  · rfl
  · split <;> rfl

theorem State.freeTok_streams (v : Binding) : (s.freeTok b v).streams = s.streams := by
  unfold State.freeTok
  split
  · rfl
  · split <;> rfl

theorem State.freeTok_get (v : Binding) (hf : f.key ≠ (Sl.stagingUsed (b / 5)).key) : (s.freeTok b v).get f = s.get f := by
  unfold State.freeTok
  split
  · rfl
  · split
    · exact State.get_set_ne s _ hf
    · rfl

theorem State.freeTok_queues {v : Binding} {q : Nat} (hq : v.kind = 1 → v.id ≠ q) :
    Tab.get (s.freeTok b v).queues {} (64 * b + q) = Tab.get s.queues {} (64 * b + q) := by
  unfold State.freeTok
  split
  · exact Tab.get_set_ne _ _ _ _ fun e => hq ‹_› (by omega)
  · split <;> rfl

/-- An input token released: the stream has taken it, TOKENS_IN counts it, and its place is given back. -/
theorem State.consume_eq {x : Stream} (hx : s.stream b i = some x) (p : Nat) :
    ∃ y : Stream, y.ins = x.ins ∧ y.fold = x.fold ∧
      s.consume b i p = ((s.setStream b i y).bump (Stn.tokensIn b i) 1).freeTok b (nth ⟨0, 0, 0⟩ x.ins p) := by
  unfold State.consume
  rw [hx]
  refine ⟨_, ?_, ?_, rfl⟩ <;> rfl

theorem State.consume_of_none (hx : s.stream b i = none) (p : Nat) : s.consume b i p = s := by
  unfold State.consume
  rw [hx]

theorem State.stream_setStream (x : Stream) : (s.setStream b i x).stream b i = some x := Tab.find_put_same ..

theorem State.consume_mem (p : Nat) : (s.consume b i p).mem = s.mem := by
  cases hx : s.stream b i with
  | none => rw [State.consume_of_none hx]
  | some x =>
    obtain ⟨y, -, -, he⟩ := State.consume_eq hx p
    rw [he]
    exact State.freeTok_mem _

/-- A stream on the station stays there, with its bindings and its fold. -/
theorem State.consume_stream {x : Stream} (hx : s.stream b i = some x) (p : Nat) :
    ∃ y, (s.consume b i p).stream b i = some y ∧ y.ins = x.ins ∧ y.fold = x.fold := by
  obtain ⟨y, hins, hfold, he⟩ := State.consume_eq hx p
  refine ⟨y, ?_, hins, hfold⟩
  rw [he, State.stream, State.freeTok_streams]
  exact State.stream_setStream y

theorem nth_of_length_le {α : Type} (d : α) {l : List α} {j : Nat} (h : l.length ≤ j) : nth d l j = d := by
  induction l generalizing j with
  | nil => rfl
  | cons e l ih =>
    cases j with
    | zero => simp at h
    | succ j => exact ih (by simpa using h)

theorem State.consume_queues {x : Stream} (hx : s.stream b i = some x) (p : Nat) {q : Nat} (hq : ∀ v ∈ x.ins, v.kind = 1 → v.id ≠ q) :
    Tab.get (s.consume b i p).queues {} (64 * b + q) = Tab.get s.queues {} (64 * b + q) := by
  obtain ⟨y, -, -, he⟩ := State.consume_eq hx p
  rw [he]
  refine State.freeTok_queues fun hk => ?_
  by_cases hp : p < x.ins.length
  · rw [nth_of_lt _ _ _ hp] at hk ⊢
    exact hq _ (List.getElem_mem hp) hk
  · rw [nth_of_length_le _ (Nat.not_lt.1 hp)] at hk
    exact absurd hk (by decide)

/-- A register of the station's block but TOKENS_IN. -/
structure Beside (b i : Nat) (f : Field) : Prop where
  lo : stnBase b i ≤ f.addr
  hi : f.addr < stnBase b i + 0x1000
  ne : f.addr ≠ stnBase b i + 0x10
  bit : f.lo < 64

variable (hb : i < 10)
include hb

theorem Beside.ne_staging (hf : Beside b i f) : f.key ≠ (Sl.stagingUsed (b / 5)).key := by
  obtain ⟨h0, h1, -, hl⟩ := hf
  rw [stnBase_of_lt hb] at h0 h1
  simp only [Field.key, Sl.stagingUsed, benchBase] at h0 h1 ⊢
  omega

theorem State.consume_get (hf : Beside b i f) (p : Nat) : (s.consume b i p).get f = s.get f := by
  cases hx : s.stream b i with
  | none => rw [State.consume_of_none hx]
  | some x =>
    obtain ⟨y, -, -, he⟩ := State.consume_eq hx p
    rw [he, State.freeTok_get _ (hf.ne_staging hb)]
    refine State.get_bump_ne _ _ ?_
    have := hf.ne
    have := hf.bit
    simp only [Field.key, Stn.tokensIn]
    omega

theorem State.consume_tokensIn {x : Stream} (hx : s.stream b i = some x) (p : Nat) :
    (s.consume b i p).get (Stn.tokensIn b i) = (s.get (Stn.tokensIn b i) + 1) % 2 ^ 64 := by
  obtain ⟨y, -, -, he⟩ := State.consume_eq hx p
  rw [he, State.freeTok_get]
  · exact State.get_bump_same _ _ _
  · simp only [Field.key, Stn.tokensIn, Sl.stagingUsed, stnBase_of_lt hb, benchBase]
    omega

end

end Sys2Proof.Machine
end

section
/-! SUPPORT. A token written to its output port, and what the station's work after it leaves (R123, R126, R127, R166, R167). -/

namespace Sys2Proof.Machine

open Sys2Proof Safety

/-! ### The token word (R123) -/

/-- The count and format of a token word, whatever stands above it. -/
theorem tokWord_fields (tag last dflag count fmt piece addr len above : Nat) :
    let w := tokWord tag last dflag count fmt piece addr len + above * 2 ^ 96
    bits w 10 11 = count % 2 ^ 11 ∧ bits w 21 5 = fmt % 2 ^ 5 ∧ w / 2 ^ 96 = above := by
  simp only [tokWord, packDetail, bits]
  omega

/-- A word that stands for a token: its count, its format, and the value of an exact sum. -/
def wordOf (t : Tok) (w : Nat) : Prop :=
  bits w 10 11 = t.count % 2 ^ 11 ∧ bits w 21 5 = t.fmt % 2 ^ 5 ∧ (t.fmt = exactFmt → w / 2 ^ 96 = leNat t.bytes)

/-! ### Bytes stored by a station (R148, R154, R172) -/

section
variable {s : State} {b i : Nat}

theorem State.stnWrite_of_permitted {a : Nat} {bs : List Byte} {sc : Bool} (hp : permitted s b i a bs.length sc) :
    s.stnWrite b i a bs sc = .ok (s.stnPut b i a bs) := by
  obtain ⟨hm, he⟩ := hp
  simp [State.stnWrite, hm, he]

theorem State.stnPut_eq (s : State) (b i a : Nat) (bs : List Byte) :
    ∃ v, s.stnPut b i a bs = { (s.store a bs).fireMons a bs.length with veils := v } := by
  unfold State.stnPut
  split
  · split <;> exact ⟨_, rfl⟩
  · exact ⟨_, rfl⟩

/-- Bytes stored leave every part but registers, memory, its errors, Compositors and veils. -/
theorem State.stnPut_part {α : Type} (q : State → α)
    (hq : ∀ (v : State) c m k w n o, q { v with csr := c, mem := m, poison := k, badWords := w, comps := n, veils := o } = q v)
    (s : State) (b i a : Nat) (bs : List Byte) : q (s.stnPut b i a bs) = q s := by
  obtain ⟨v, hv⟩ := s.stnPut_eq b i a bs
  rw [hv, ((s.store a bs).fireMons_monitorsOnly a bs.length).eq]
  exact hq s _ _ _ _ _ _

theorem State.stnPut_mem (s : State) (b i a : Nat) (bs : List Byte) : (s.stnPut b i a bs).mem = memWrite s.mem a bs := by
  obtain ⟨v, hv⟩ := s.stnPut_eq b i a bs
  rw [hv, ((s.store a bs).fireMons_monitorsOnly a bs.length).eq]
  rfl

theorem State.stnPut_get (s : State) (b i a : Nat) (bs : List Byte) {f : Field}
    (hf : ∀ c, f.key ≠ (Cmp.monArmed c).key ∧ f.key ≠ (Cmp.monFired c).key) : (s.stnPut b i a bs).get f = s.get f := by
  obtain ⟨v, hv⟩ := s.stnPut_eq b i a bs
  rw [hv]
  exact ((s.store a bs).fireMons_monitorsOnly a bs.length).get f hf

theorem State.stnPut_stream (a : Nat) (bs : List Byte) : (s.stnPut b i a bs).stream b i = s.stream b i :=
  State.stnPut_part (fun v => v.stream b i) (fun _ _ _ _ _ _ _ => rfl) s b i a bs

theorem stnBase_compositor (b : Nat) : stnBase b 15 = benchBase b + 0x10000 := rfl

theorem tokensOut_ne_mons (hi : i < 10) (c : Nat) :
    (Stn.tokensOut b i).key ≠ (Cmp.monArmed c).key ∧ (Stn.tokensOut b i).key ≠ (Cmp.monFired c).key := by
  simp only [Field.key, Stn.tokensOut, Cmp.monArmed, Cmp.monFired, stnBase_of_lt hi, stnBase_compositor, benchBase, forgeBase]
  omega

theorem traceStall_ne_mons (c : Nat) : Obs.traceStall.key ≠ (Cmp.monArmed c).key ∧ Obs.traceStall.key ≠ (Cmp.monFired c).key := by
  simp only [Field.key, Obs.traceStall, Cmp.monArmed, Cmp.monFired, stnBase, if_true, benchBase, forgeBase]
  omega

/-- Bytes read back where memory is what their write made of it. -/
theorem State.rdBytes_of_memWrite {m : List Host.Cell} {a : Nat} {bs : List Byte} (h : s.mem = memWrite m a bs) :
    s.rdBytes a bs.length = bs := by
  refine List.ext_getElem (by simp [State.rdBytes]) fun k _ hk => ?_
  simp only [State.rdBytes, List.getElem_map, List.getElem_range, State.rd, h, memRead_write]
  rw [if_pos (by omega), Nat.add_sub_cancel_left, List.getD_eq_getElem _ _ hk]

/-! ### A token counted (R126, R437, R442) -/

/-- The stream's place at port p, TOKENS_OUT, the bench's token count and its region's event, one higher each. -/
def State.countOut (s : State) (b i p : Nat) (x : Stream) : State :=
  (((s.setStream b i { x with outPos := setNth x.outPos p (nth 0 x.outPos p + 1), tokensOut := x.tokensOut + 1 }).bump
    (Stn.tokensOut b i) 1).bump (Aoc.tokens b) 1).bump (Rgn.event b) 1

variable {x : Stream} (hx : s.stream b i = some x) (p w : Nat)
include hx

theorem State.emitted_eq : ∃ l, s.emitted b i p w = (s.countOut b i p x).trace b 3 l := by
  unfold State.emitted
  rw [hx]
  exact ⟨_, rfl⟩

theorem State.emitted_queues : (s.emitted b i p w).queues = s.queues := by
  obtain ⟨l, hl⟩ := State.emitted_eq hx p w
  rw [hl]
  have htrace := State.trace_part State.queues (fun _ _ _ => rfl) (fun _ _ _ => rfl) (fun _ _ => rfl) (s.countOut b i p x) b 3 l
  rw [htrace]
  simp only [State.countOut, State.bump_queues, State.setStream]

theorem State.emitted_stream : ∃ y, (s.emitted b i p w).stream b i = some y ∧ y.ins = x.ins := by
  obtain ⟨l, hl⟩ := State.emitted_eq hx p w
  rw [hl]
  refine ⟨_, (congrArg (Tab.find · (16 * b + i)) (State.trace_streams _ b 3 l)).trans (Tab.find_put_same ..), rfl⟩

/-- Without TRACE_STALL the trace record of a token writes no memory (R443). -/
theorem State.emitted_mem (hb : b < 40) (hi : i < 10) (hstall : s.flag Obs.traceStall = false) : (s.emitted b i p w).mem = s.mem := by
  obtain ⟨l, hl⟩ := State.emitted_eq hx p w
  have hset : Unstalled s (s.setStream b i { x with outPos := setNth x.outPos p (nth 0 x.outPos p + 1), tokensOut := x.tokensOut + 1 }) :=
    ⟨rfl, hstall⟩
  rw [hl]
  refine ((((hset.bump 1 ?_ ?_).bump 1 ?_ ?_).bump 1 (rgnEvent_addr_ne b) (by simp [Rgn.event])).trace b 3 l).mem
  · simp only [Stn.tokensOut, stnBase_of_lt hi, benchBase, forgeBase]; omega
  · simp [Stn.tokensOut]
  · simp only [Aoc.tokens]; omega
  · simp [Aoc.tokens]

theorem State.emitted_tokensOut (hb : b < 40) (hi : i < 10) :
    (s.emitted b i p w).get (Stn.tokensOut b i) = (s.get (Stn.tokensOut b i) + 1) % 2 ^ 64 := by
  obtain ⟨l, hl⟩ := State.emitted_eq hx p w
  have hdie : inDies (Stn.tokensOut b i).key = true :=
    inDies_of_stn hb (.inl hi) (by simp [Stn.tokensOut]) (by simp [Stn.tokensOut]) (by simp [Stn.tokensOut])
  rw [hl, State.trace_get_die _ _ _ _ hdie, State.countOut, State.get_bump_ne, State.get_bump_ne]
  · exact State.get_bump_same _ _ _
  · simp only [Field.key, Stn.tokensOut, Aoc.tokens, stnBase_of_lt hi, benchBase, forgeBase]; omega
  · simp only [Field.key, Stn.tokensOut, Rgn.event, rgnBase_bench hb, stnBase_of_lt hi]; omega

end

/-! ### A token written to its port (R123-R127, R166, R167) -/

/-- A token word added to a queue. -/
def State.pushTok (s : State) (k : Nat) (q : Queue) (w : Nat) : State :=
  { s with queues := Tab.set s.queues {} k { q with toks := q.toks ++ [w], made := q.made + 1 } }

section
variable {s : State} {b i p : Nat} {x : Stream} {t : Tok} {addr : Option Int} (hx : s.stream b i = some x)
include hx

/-- The queue's key and the queue as a stream's output port p finds it. -/
theorem State.emitTok_exact (hk : (outPort x p).kind = 1) (hf : t.fmt = exactFmt) :
    ∃ w, wordOf t w ∧ s.emitTok b i p t addr = .ok ((s.pushTok (64 * b + (outPort x p).id)
      (Tab.get s.queues {} (64 * b + (outPort x p).id)) w).emitted b i p w) := by
  have hk' : (nth ⟨0, 0, 0⟩ x.outs p).kind = 1 := hk
  unfold State.emitTok
  rw [hx]
  simp only [hk', hf, if_true]
  refine ⟨_, ?_, rfl⟩
  obtain ⟨hcount, hfmt, habove⟩ := tokWord_fields (nth 0 x.outPos p % 256) (b2n (nth 0 x.outPos p + 1 == (nth ⟨0, 0, 0⟩ x.outs p).count))
    t.dflag t.count t.fmt t.piece 0 t.bytes.length (leNat t.bytes)
  exact hf ▸ ⟨hcount, hfmt, fun _ => habove⟩

theorem State.emitTok_queue (hk : (outPort x p).kind = 1) (hf : t.fmt ≠ exactFmt)
    (hlen : t.bytes.length ≤ 32 * s.get (Cmp.queueSlotb b (outPort x p).id)) {a : Nat} (ha : outAddr s b x p t.count addr = some a)
    (hp : permitted s b i a t.bytes.length false) :
    ∃ w v, wordOf t w ∧ s.emitTok b i p t addr = .ok (((s.stnPut b i a t.bytes).pushTok (64 * b + (outPort x p).id)
      (Tab.get s.queues {} (64 * b + (outPort x p).id)) w).emitted b i p v) := by
  obtain rfl := Option.some.inj ((if_pos hk).symm.trans ha)
  simp only [outPort] at hk hlen hp ⊢
  unfold State.emitTok
  rw [hx]
  simp only [hk, hf, if_false, if_neg (Nat.not_lt.2 hlen), State.stnWrite_of_permitted hp]
  refine ⟨_, _, ?_, rfl⟩
  rw [Nat.add_assoc, show t.mask % 2 ^ 32 * 2 ^ 96 + t.contrib * 2 ^ 128 = (t.mask % 2 ^ 32 + t.contrib * 2 ^ 32) * 2 ^ 96 by omega]
  obtain ⟨hcount, hfmt, -⟩ := tokWord_fields (nth 0 x.outPos p % 256) (b2n (nth 0 x.outPos p + 1 == (nth ⟨0, 0, 0⟩ x.outs p).count))
    t.dflag t.count t.fmt t.piece _ t.bytes.length (t.mask % 2 ^ 32 + t.contrib * 2 ^ 32)
  exact ⟨hcount, hfmt, fun h => absurd h hf⟩

theorem State.emitTok_tensor (hk : (outPort x p).kind = 2) {d : Desc} (hd : x.descOf b (outPort x p).id = some d) (hs : d.space ≠ 3)
    {a : Nat} (ha : outAddr s b x p t.count addr = some a) (hp : permitted s b i a t.bytes.length (x.form == 0)) :
    ∃ v, s.emitTok b i p t addr = .ok ((s.stnPut b i a t.bytes).emitted b i p v) := by
  simp only [outPort] at hk hd
  unfold Safety.outAddr at ha
  unfold State.emitTok
  rw [hx]
  simp only [outPort, hk, hd, Option.bind_some, OfNat.ofNat_ne_one, if_false] at ha
  obtain ⟨c, hc, rfl⟩ := Option.map_eq_some_iff.1 ha
  have hput := State.stnWrite_of_permitted hp
  cases addr with
  | some e =>
    cases hc
    simp only [hk, hd, hs, if_false, hput]
    exact ⟨_, rfl⟩
  | none =>
    simp only [hk, hd, hs, if_false, hc, hput]
    exact ⟨_, rfl⟩

end

/-- Port p of station i has passed a token from s: TOKENS_OUT has counted it, and its bytes and its word stand where the port takes them;
the stream keeps its bindings. -/
structure Emits (s : State) (b i : Nat) (x : Stream) (p : Nat) (t : Tok) (addr : Option Int) (u : State) : Prop where
  count : u.get (Stn.tokensOut b i) = (s.get (Stn.tokensOut b i) + 1) % 2 ^ 64
  bytes : s.flag Obs.traceStall = false → t.fmt ≠ exactFmt → ∀ a, outAddr s b x p t.count addr = some a → u.mem = memWrite s.mem a t.bytes
  word : (outPort x p).kind = 1 → ∃ w, w ∈ (Tab.get u.queues {} (64 * b + (outPort x p).id)).toks ∧ wordOf t w
  stream : ∃ y, u.stream b i = some y ∧ y.ins = x.ins

theorem State.mem_pushTok (s : State) (k w : Nat) (q : Queue) : w ∈ (Tab.get (s.pushTok k q w).queues {} k).toks := by
  simp [State.pushTok]

section
variable {s : State} {b i p : Nat} {x : Stream} {t : Tok} {addr : Option Int} (hb : b < 40) (hi : i < 10) (hx : s.stream b i = some x)
include hb hi hx

omit hx in
/-- A token counted in a state that differs from s by its bytes and its word. -/
theorem emits_of_emitted {z : State} (hz : z.stream b i = some x) (hout : z.get (Stn.tokensOut b i) = s.get (Stn.tokensOut b i))
    (hstall : z.flag Obs.traceStall = s.flag Obs.traceStall)
    (hmem : t.fmt ≠ exactFmt → ∀ a, outAddr s b x p t.count addr = some a → z.mem = memWrite s.mem a t.bytes)
    (hword : (outPort x p).kind = 1 → ∃ w, w ∈ (Tab.get z.queues {} (64 * b + (outPort x p).id)).toks ∧ wordOf t w) (v : Nat) :
    Emits s b i x p t addr (z.emitted b i p v) where
  count := hout ▸ State.emitted_tokensOut hz p v hb hi
  bytes := fun h hf a ha => (State.emitted_mem hz p v hb hi (hstall.trans h)).trans (hmem hf a ha)
  word := fun h => (State.emitted_queues hz p v).symm ▸ hword h
  stream := State.emitted_stream hz p v

/-- Where a port takes a token, the token is written, and the position goes on. -/
theorem State.emitTok_emits (ho : takesOut s b i x p t addr) : ∃ u, s.emitTok b i p t addr = .ok u ∧ Emits s b i x p t addr u := by
  have hstream : ∀ a bs, (s.stnPut b i a bs).stream b i = some x := fun a bs => (State.stnPut_stream a bs).trans hx
  have hout : ∀ a bs, (s.stnPut b i a bs).get (Stn.tokensOut b i) = s.get (Stn.tokensOut b i) := fun a bs =>
    State.stnPut_get s b i a bs (tokensOut_ne_mons hi)
  have hstall : ∀ a bs, (s.stnPut b i a bs).flag Obs.traceStall = s.flag Obs.traceStall := fun a bs =>
    congrArg (· != 0) (State.stnPut_get s b i a bs traceStall_ne_mons)
  have hmem : ∀ {a}, outAddr s b x p t.count addr = some a → ∀ c, outAddr s b x p t.count addr = some c →
      (s.stnPut b i a t.bytes).mem = memWrite s.mem c t.bytes := fun ha c hc =>
    Option.some.inj (ha.symm.trans hc) ▸ State.stnPut_mem s b i _ t.bytes
  obtain ⟨-, ⟨hk, hf⟩ | ⟨hk, hf, hlen, a, ha, hp⟩ | ⟨hk, hf, d, a, hd, hs, ha, hp⟩⟩ := ho
  · obtain ⟨w, hw, he⟩ := State.emitTok_exact (addr := addr) hx hk hf
    exact ⟨_, he, emits_of_emitted (s := s) (z := s.pushTok _ _ w) hb hi hx rfl rfl (fun h => absurd hf h) (fun _ => ⟨w, State.mem_pushTok .., hw⟩) w⟩
  · obtain ⟨w, v, hw, he⟩ := State.emitTok_queue hx hk hf hlen ha hp
    exact ⟨_, he, emits_of_emitted hb hi (by exact hstream ..) (by exact hout ..) (by exact hstall ..) (fun _ => by exact hmem ha)
      (fun _ => ⟨w, State.mem_pushTok .., hw⟩) v⟩
  · obtain ⟨v, he⟩ := State.emitTok_tensor hx hk hd hs ha hp
    exact ⟨_, he, emits_of_emitted hb hi (hstream ..) (hout ..) (hstall ..) (fun _ => hmem ha)
      (fun h => absurd (h.symm.trans hk) (by decide)) v⟩

end

/-! ### Work after the token: inputs released, counters and units (R91, R127, R140) -/

/-- From z, the station's work after its token has left what the token made: memory, TOKENS_OUT, its queue, and the stream's bindings. -/
structure After (b i : Nat) (ins : List Binding) (z t : State) : Prop where
  mem : t.mem = z.mem
  count : t.get (Stn.tokensOut b i) = z.get (Stn.tokensOut b i)
  queue : ∀ q, (∀ v ∈ ins, v.kind = 1 → v.id ≠ q) → Tab.get t.queues {} (64 * b + q) = Tab.get z.queues {} (64 * b + q)
  stream : ∃ y, t.stream b i = some y ∧ y.ins = ins

namespace After

variable {b i : Nat} {ins : List Binding} {z t u : State} (h : After b i ins z t)

theorem refl {x : Stream} (hx : z.stream b i = some x) (hins : x.ins = ins) : After b i ins z z := ⟨rfl, rfl, fun _ _ => rfl, x, hx, hins⟩

include h

/-- A change of no part that the token made. -/
theorem other (hm : u.mem = t.mem) (hc : u.get (Stn.tokensOut b i) = t.get (Stn.tokensOut b i)) (hq : u.queues = t.queues)
    (hs : u.stream b i = t.stream b i) : After b i ins z u :=
  ⟨hm.trans h.mem, hc.trans h.count, fun q hv => hq ▸ h.queue q hv, hs ▸ h.stream⟩

theorem set {g : Field} (v : Nat) (hg : (Stn.tokensOut b i).key ≠ g.key) : After b i ins z (t.set g v) :=
  h.other rfl (State.get_set_ne t v hg) rfl rfl

theorem bump {g : Field} (n : Nat) (hg : (Stn.tokensOut b i).key ≠ g.key) : After b i ins z (t.bump g n) := h.set _ hg

theorem slotServed : After b i ins z (t.slotServed b i) := h.other rfl rfl rfl rfl

/-- The stream changed, but not its bindings. -/
theorem onStream {f : Stream → Stream} (hf : ∀ y, (f y).ins = y.ins) : After b i ins z (t.onStream b i f) := by
  obtain ⟨y, hy, hins⟩ := h.stream
  have he : t.onStream b i f = t.setStream b i (f y) := by rw [State.onStream, hy]
  rw [he]
  exact ⟨h.mem, h.count, h.queue, f y, State.stream_setStream _, (hf y).trans hins⟩

theorem addUnits (n : Nat) : After b i ins z (t.addUnits b i n) := h.onStream fun _ => rfl

variable (hi : i < 10)
include hi

theorem countKind (f k n : Nat) : After b i ins z (t.countKind b i f k n) := by
  unfold State.countKind
  split
  · exact h
  · refine bump (by exact h.other rfl rfl rfl rfl) n ?_
    simp only [Field.key, Stn.tokensOut, Conv.count, stnBase_of_lt hi]
    omega

theorem countIn (f : Nat) (vs : List Val) : After b i ins z (t.countIn b i f vs) := (h.countKind hi ..).countKind hi ..

theorem consume (p : Nat) : After b i ins z (t.consume b i p) := by
  obtain ⟨y, hy, hins⟩ := h.stream
  obtain ⟨y', hy', hins', -⟩ := State.consume_stream hy p
  refine ⟨(State.consume_mem p).trans h.mem, (State.consume_get hi ?_ p).trans h.count, fun q hq => ?_, y', hy', hins'.trans hins⟩
  · exact ⟨by simp [Stn.tokensOut], by simp [Stn.tokensOut], by simp [Stn.tokensOut], by simp [Stn.tokensOut]⟩
  · exact (State.consume_queues hy p (hins ▸ hq)).trans (h.queue q hq)

theorem consumeN (p n : Nat) : After b i ins z (t.consumeN b i p n) := by
  induction n generalizing t with
  | zero => exact h
  | succ n ih => exact ih (h.consume hi p)

theorem consumeAll (x : Stream) : After b i ins z (t.consumeAll b i x) := List.foldlRecOn _ _ h fun _ hu p _ => hu.consume hi p

theorem consumeRest (x : Stream) : After b i ins z (t.consumeRest b i x) := List.foldlRecOn _ _ h fun _ hu p _ => hu.consumeN hi p _

/-- The end of a stream that holds its inputs to the end. -/
theorem lastOut (x : Stream) (n : Nat) {f : State → State} (hf : ∀ u, After b i ins z u → After b i ins z (f u)) :
    After b i ins z (t.lastOut b i x n f) := by
  unfold State.lastOut
  split
  · exact (hf _ (h.consumeRest hi x)).addUnits n
  · exact h

end After

/-- A position whose token has left, and whose work after it is done. -/
theorem Emits.gives {s u v : State} {b i p : Nat} {x : Stream} {t : Tok} {addr : Option Int} (h : Emits s b i x p t addr u)
    (k : After b i x.ins u v) : gives s b i x p t addr (.next v) := by
  refine ⟨v, rfl, k.count.trans h.count, fun hs hf a ha => State.rdBytes_of_memWrite (k.mem.trans (h.bytes hs hf a ha)), fun hk hq => ?_⟩
  rw [k.queue _ hq]
  exact h.word hk

/-! ### Positions that pass a token (R127) -/

/-- A position of station i that has passed a token through port p, and after which the station's work may go on. -/
def Passes (s : State) (b i : Nat) (x : Stream) (p : Nat) (t : Tok) (addr : Option Int) (r : Res) : Prop :=
  ∃ z u, r = .ok u ∧ After b i x.ins z u ∧ ∀ v, After b i x.ins z v → gives s b i x p t addr (.next v)

section
variable {s t : State} {b i p : Nat} {x : Stream} {k : Tok} {addr : Option Int}

theorem Passes.map {r : Res} (h : Passes s b i x p k addr r) {f : State → State}
    (hf : ∀ z u, After b i x.ins z u → After b i x.ins z (f u)) : Passes s b i x p k addr (r.map f) := by
  obtain ⟨z, u, rfl, ha, hg⟩ := h
  exact ⟨z, f u, rfl, hf z u ha, hg⟩

/-- The command of a form whose position passes a token. -/
theorem Passes.exec {kind form : Nat} {cmd : Check → Sys2Proof.Instr} {work : State → Stream → Res} (h : Passes s b i x p k addr (work s x))
    (hd : formDoes s b i kind form cmd work) (hw : works s b i kind form x) : gives s b i x p k addr (Machine.exec (cmd .pass) s) := by
  obtain ⟨z, u, hu, ha, hg⟩ := h
  rw [exec_of_works hd hw hu]
  exact hg _ ha.slotServed

/-- A station that has counted passes a token where its port takes it. -/
theorem Counted.passes (h : Counted b i s t) (hb : b < 40) (hi : i < 10) (hx : s.stream b i = some x)
    (ho : Safety.takesOut s b i x p k addr) : Passes s b i x p k addr (t.emitTok b i p k addr) := by
  obtain ⟨n, hn⟩ := h.stream x hx
  obtain ⟨u, hu, he⟩ := State.emitTok_emits hb hi hn (addr := addr) (by exact h.takesOut hi ho)
  obtain ⟨y, hy, hins⟩ := he.stream
  have hs : Emits s b i x p k addr u := by
    refine ⟨he.count.trans ?_, fun hs hf a ha => ?_, he.word, he.stream⟩
    · rw [h.get _ (not_workKey_tokensOut hi)]
    · have hmem := he.bytes ((congrArg (· != 0) (h.get _ (not_workKey_traceStall hi))).trans hs) hf a ((h.outAddr hi ..).trans ha)
      rwa [h.part State.mem fun _ _ _ _ => rfl] at hmem
  exact ⟨u, u, hu, After.refl hy hins, fun v hv => hs.gives hv⟩

end

end Sys2Proof.Machine
end

section
/-! SUPPORT. The positions of Forme and Proof: rows moved, and items digested (R135, R139). -/

namespace Sys2Proof.Machine

open Sys2Proof Safety

/-! ### Tokens collected (R127, R128) -/

theorem nth_of_forall {α : Type} {P : α → Prop} {d : α} {l : List α} (h : ∀ e ∈ l, P e) (hd : P d) (j : Nat) : P (nth d l j) := by
  induction l generalizing j with
  | nil => exact hd
  | cons e l ih =>
    cases j with
    | zero => exact h e (List.mem_cons_self ..)
    | succ j => exact ih (fun u hu => h u (List.mem_cons_of_mem _ hu)) j

section
variable {s : State} {b i : Nat} {x : Stream} {ok : Tok → Bool}

/-- Every token of a collection is one that the form accepts. -/
theorem State.collect_accepts {l : List (Nat × Nat)} {acc ts : List Tok} (h : s.collect b i x ok l acc = .toks ts)
    (hacc : ∀ t ∈ acc, ok t = true) : ∀ t ∈ ts, ok t = true := by
  induction l generalizing acc with
  | nil => cases h; exact hacc
  | cons e l ih =>
    obtain ⟨p, j⟩ := e
    rw [State.collect] at h
    split at h
    · cases h
    · cases h
    · split at h
      · rename_i t _ hok
        refine ih h fun u hu => ?_
        obtain hu | hu := List.mem_append.1 hu
        · exact hacc u hu
        · cases List.mem_singleton.1 hu
          exact (Bool.and_eq_true_iff.1 hok).1
      · cases h

theorem State.collect_single {p j : Nat} {t : Tok} (hp : s.peek b i p j x = .tok t) (hok : ok t = true)
    (hpiece : t.piece = 0 ∨ kindCode i = 4) : s.collect b i x ok [(p, j)] [] = .toks [t] := by
  have hc : (ok t && (t.piece == 0 || kindCode i == 4)) = true := by simpa [hok] using hpiece
  simp [State.collect, hp, hc]

end

/-! ### Forme (R135) -/

theorem After.releaseIdx {b i : Nat} {ins : List Binding} {z t : State} (h : After b i ins z t) (hi : i < 10) (e : Nat) (ts : List Tok) (off : Nat) :
    After b i ins z (t.releaseIdx b i e ts off) := by
  induction ts generalizing t off with
  | nil => exact h.onStream fun _ => rfl
  | cons k ts ih =>
    rw [State.releaseIdx]
    split
    · exact ih (h.consume hi 0) _
    · exact h.onStream fun _ => rfl

/-- The place of Forme's next bytes in a tensor: behind those before (R135). -/
def Stream.formePlace (x : Stream) (b : Nat) : Option Nat := (x.portDesc b (outPort x 0)).map fun e => e.base + nth 0 x.outBytes 0

section
variable {s : State} {b : Nat} {x : Stream}

/-- A position whose port has space and lacks tokens does not wait for either. -/
theorem State.not_waits_for_space (hs : s.space b x 0 = true) (hout : nth 0 x.outPos 0 < (outPort x 0).count) :
    ¬ (!s.space b x 0 || decide ((nth ⟨0, 0, 0⟩ x.outs 0).count ≤ nth 0 x.outPos 0)) = true := by
  rw [hs, Bool.not_true, Bool.false_or, decide_eq_true_iff]
  exact Nat.not_le.2 hout

theorem Counted.emitForme_passes {t : State} {i : Nat} {k : Tok} (h : Counted b i s t) (hb : b < 40) (hi : i < 10) (hx : s.stream b i = some x)
    (ho : Safety.takesOut s b i x 0 k (x.formePlace b)) : Passes s b i x 0 k (x.formePlace b) (t.emitForme b i x k) := by
  unfold State.emitForme
  refine Passes.map (h.passes hb hi hx ho) fun z u hu => ?_
  split
  · exact hu.addUnits _
  · exact (hu.onStream (by exact fun _ => rfl)).addUnits _

/-- The rows of the indices that an output token holds, packed, leave as one token. -/
theorem State.gatherTok_passes {i : Nat} (hb : b < 40) (hi : i < 10) (hx : s.stream b i = some x) {d : Desc} {S k off : Nat} {idx : List Nat}
    {row : Tok} (hS : d.rowLen ≤ S) (hrow : s.readRows b i d ((idx.drop (k * (S / d.rowLen) - off)).take (S / d.rowLen)) [] 0 = .toks [row])
    (ho : takesOut s b i x 0 row (x.formePlace b)) : Passes s b i x 0 row (x.formePlace b) (s.gatherTok b i x d S k off idx) := by
  have hc : ∀ n, Counted b i s (s.bump (Stn.fmSkips b i) n) := fun n =>
    (Counted.refl s).bump n (workKey_of_stn (by simp [Stn.fmSkips]) (by simp [Stn.fmSkips]) (by simp [Stn.fmSkips]) (by simp [Stn.fmSkips]))
  rw [State.gatherTok, if_pos hS]
  dsimp only
  rw [hrow]
  exact (hc _).emitForme_passes hb hi hx ho

/-- GATHER: the rows that the next indices name. -/
theorem exec_gather {d : Desc} {ts : List Tok} {row : Tok} (hw : works s b 5 4 0 x) (hd : x.descOf b x.p0 = some d)
    (hS : d.rowLen ≤ s.formeSlot b x) (hout : nth 0 x.outPos 0 < (outPort x 0).count)
    (hts : s.collectUntil b 5 x (fun t => t.fmt == 12) (·.count) 0
      ((nth 0 x.outPos 0 + 1) * (s.formeSlot b x / d.rowLen) - nth 0 x.fold 0) ((nth ⟨0, 0, 0⟩ x.ins 0).count - nth 0 x.inPos 0)
      (nth 0 x.inPos 0) [] = .toks ts)
    (hlo : nth 0 x.outPos 0 * (s.formeSlot b x / d.rowLen) < nth 0 x.fold 0 + (ts.map (·.count)).sum)
    (hhi : nth 0 x.fold 0 + (ts.map (·.count)).sum ≤ maxIndices)
    (hrow : s.readRows b 5 d (((ts.map tokIdx).flatten.drop (nth 0 x.outPos 0 * (s.formeSlot b x / d.rowLen) - nth 0 x.fold 0)).take
      (s.formeSlot b x / d.rowLen)) [] 0 = .toks [row])
    (ho : takesOut s b 5 x 0 row (x.formePlace b)) : gives s b 5 x 0 row (x.formePlace b) (exec (.gather b .pass) s) := by
  refine Passes.exec ?_ (formDoes_gather s b) hw
  obtain ⟨hx, hb, hi, -⟩ := hw
  have hstart : idxStart d.rowLen (s.formeSlot b x) (nth 0 x.outPos 0) = nth 0 x.outPos 0 * (s.formeSlot b x / d.rowLen) := if_pos hS
  have hwork : s.gatherWork b 5 x = (s.gatherTok b 5 x d (s.formeSlot b x) (nth 0 x.outPos 0) (nth 0 x.fold 0) (ts.map tokIdx).flatten).map
      fun u => u.releaseIdx b 5 (idxEnd d.rowLen (s.formeSlot b x) (nth 0 x.outPos 0)) ts (nth 0 x.fold 0) := by
    rw [State.gatherWork, hd]
    dsimp only
    rw [if_neg (by exact Nat.not_le.2 hout), if_neg (by simp [ho.1]), if_pos hS, hts]
    exact if_neg (by rw [hstart]; omega)
  rw [hwork]
  exact (State.gatherTok_passes hb hi hx hS hrow ho).map fun z u hu => hu.releaseIdx hi _ _ _

/-- PERMUTE: the rows that the next entries of the table name. -/
theorem exec_permute {d t : Desc} {row : Tok} {places : List Nat} (hw : works s b 5 4 2 x) (hd : x.descOf b x.p0 = some d)
    (ht : x.descOf b x.p1 = some t) (hS : d.rowLen ≤ s.formeSlot b x) (hout : nth 0 x.outPos 0 < (outPort x 0).count)
    (hplaces : places = (List.range (min (s.formeSlot b x / d.rowLen) (t.size - nth 0 x.outPos 0 * (s.formeSlot b x / d.rowLen)))).map fun q =>
      let e := t.elemPlace (nth 0 x.outPos 0 * (s.formeSlot b x / d.rowLen) + q); t.deviceAddr b (e.1 + (4 * e.2 : Nat)))
    (hread : ∀ a ∈ places, s.mayRead b t a 4 = true ∧ s.readErr a 4 = none)
    (hrow : s.readRows b 5 d (places.map fun a => s.rdNat a 4) [] 0 = .toks [row])
    (ho : takesOut s b 5 x 0 row (x.formePlace b)) : gives s b 5 x 0 row (x.formePlace b) (exec (.permute b .pass) s) := by
  refine Passes.exec ?_ (formDoes_permute s b) hw
  obtain ⟨hx, hb, hi, -⟩ := hw
  have hwork : s.permuteWork b 5 x = s.gatherTok b 5 x d (s.formeSlot b x) (nth 0 x.outPos 0)
      (nth 0 x.outPos 0 * (s.formeSlot b x / d.rowLen)) (places.map fun a => s.rdNat a 4) := by
    rw [State.permuteWork, hd, ht]
    dsimp only
    rw [if_neg (State.not_waits_for_space ho.1 hout), if_pos hS, if_pos hS, ← hplaces, List.findSome?_eq_none_iff.2 fun a ha => ?_]
    obtain ⟨hm, he⟩ := hread a ha
    rw [hm, he]
    rfl
  rw [hwork]
  refine State.gatherTok_passes hb hi hx hS ?_ ho
  rwa [Nat.sub_self, List.drop_zero, List.take_of_length_le (by simp [hplaces])]

/-- STRIDED: the next tile of the source. -/
theorem exec_strided {d : Desc} {t : Tok} (hw : works s b 5 4 3 x) (hd : x.descOf b x.p0 = some d)
    (hout : nth 0 x.outPos 0 < (outPort x 0).count) (ht : s.peekTensor b 5 15 (nth 0 x.outPos 0) { x with loop := none } d = .tok t)
    (ho : takesOut s b 5 x 0 t none) : gives s b 5 x 0 t none (exec (.strided b .pass) s) := by
  refine Passes.exec ?_ (formDoes_strided s b) hw
  obtain ⟨hx, hb, hi, -⟩ := hw
  have hwork : s.stridedWork b 5 x = (s.emitTok b 5 0 t none).map fun u => u.addUnits b 5 t.bytes.length := by
    rw [State.stridedWork, hd]
    dsimp only
    rw [if_neg (State.not_waits_for_space ho.1 hout), ht]
  rw [hwork]
  exact ((Counted.refl s).passes hb hi hx ho).map fun z u hu => hu.addUnits _

/-! ### SCATTER (R135) -/

section
variable {i : Nat}

theorem State.onStream_mem (s : State) (b i : Nat) (f : Stream → Stream) : (s.onStream b i f).mem = s.mem := by
  unfold State.onStream
  split <;> rfl

theorem State.onStream_get (s : State) (b i : Nat) (f : Stream → Stream) (g : Field) : (s.onStream b i f).get g = s.get g := by
  unfold State.onStream
  split <;> rfl

/-- SCATTER goes on to its next index: the next of the token, or of the next token. -/
def State.scatterNext (u : State) (b i : Nat) (t : Tok) (j used : Nat) : State :=
  if t.count ≤ j + 1 then (u.onStream b i fun y => { y with fold := [0, used] }).consume b i 0
  else u.onStream b i fun y => { y with fold := [j + 1, used] }

theorem State.scatterNext_mem (u : State) (b i : Nat) (t : Tok) (j used : Nat) : (u.scatterNext b i t j used).mem = u.mem := by
  unfold State.scatterNext
  split
  · exact (State.consume_mem 0).trans (State.onStream_mem ..)
  · exact State.onStream_mem ..

theorem State.scatterNext_get (u : State) (hi : i < 10) (t : Tok) (j used : Nat) {f : Field} (hf : Beside b i f) :
    (u.scatterNext b i t j used).get f = u.get f := by
  unfold State.scatterNext
  split
  · exact (State.consume_get hi hf 0).trans (State.onStream_get ..)
  · exact State.onStream_get ..

theorem State.releaseRows_mem (s : State) (b i : Nat) (rs : List Tok) (used : Nat) : (s.releaseRows b i rs used).2.mem = s.mem := by
  induction rs generalizing s used with
  | nil => rfl
  | cons t rs ih =>
    rw [State.releaseRows]
    split
    · exact (ih ..).trans (State.consume_mem 1)
    · rfl

end

section
variable {d : Desc} {t : Tok} (hw : works s b 5 4 1 x) (hd : x.descOf b x.p0 = some d)
  (hin : nth 0 x.inPos 0 < (nth ⟨0, 0, 0⟩ x.ins 0).count) (ht : s.peek b 5 0 (nth 0 x.inPos 0) x = .tok t) (hf : t.fmt = 12) (hc : t.count ≠ 0)
include hw hd hin ht hf hc

theorem exec_scatter_skip (hk : nth skipIdx (tokIdx t) (nth 0 x.fold 0) = skipIdx) :
    ∃ u, exec (.scatter b .pass) s = .next u ∧ u.get (Stn.fmSkips b 5) = (s.get (Stn.fmSkips b 5) + 1) % 2 ^ 64 ∧ u.mem = s.mem := by
  have hwork : s.scatterWork b 5 x = .ok ((s.bump (Stn.fmSkips b 5) 1).scatterNext b 5 t (nth 0 x.fold 0) (nth 0 x.fold 1)) := by
    rw [State.scatterWork, hd]
    dsimp only
    rw [if_neg (Nat.not_le.2 hin), State.collect_single ht (by simp [hf]) (.inr rfl)]
    simp only [Got.andThen, nth, hc, hk, if_false, if_true]
    rfl
  refine ⟨_, exec_of_works (formDoes_scatter s b) hw hwork, ?_, ?_⟩
  · refine (State.scatterNext_get _ (by decide) t _ _ ?_).trans (State.get_bump_same ..)
    exact ⟨by simp [Stn.fmSkips], by simp [Stn.fmSkips], by simp [Stn.fmSkips], by simp [Stn.fmSkips]⟩
  · exact State.scatterNext_mem ..

theorem exec_scatter_row {rs : List Tok} (hlt : nth skipIdx (tokIdx t) (nth 0 x.fold 0) < d.rows)
    (hk : nth skipIdx (tokIdx t) (nth 0 x.fold 0) ≠ skipIdx)
    (hrs : s.collectUntil b 5 x (fun _ => true) (·.bytes.length) 1 (nth 0 x.fold 1 + d.rowLen)
      ((nth ⟨0, 0, 0⟩ x.ins 1).count - nth 0 x.inPos 1) (nth 0 x.inPos 1) [] = .toks rs) {a : Nat}
    (ha : a = d.deviceAddr b (d.base + d.rowOff (nth skipIdx (tokIdx t) (nth 0 x.fold 0)))) {row : List Byte}
    (hrow : row = ((rs.map (·.bytes)).flatten.drop (nth 0 x.fold 1)).take d.rowLen) (hlen : row.length = d.rowLen)
    (hp : permitted s b 5 a d.rowLen false) :
    ∃ u, exec (.scatter b .pass) s = .next u ∧ u.rdBytes a d.rowLen = row ∧ ∀ y, ¬ (a ≤ y ∧ y < a + d.rowLen) → u.rd y = s.rd y := by
  have hput : s.stnWrite b 5 a row false = .ok (s.stnPut b 5 a row) := State.stnWrite_of_permitted (hlen ▸ hp)
  have hwork : s.scatterWork b 5 x = .ok ((((s.stnPut b 5 a row).releaseRows b 5 rs (nth 0 x.fold 1 + d.rowLen)).2.scatterNext b 5 t
      (nth 0 x.fold 0) ((s.stnPut b 5 a row).releaseRows b 5 rs (nth 0 x.fold 1 + d.rowLen)).1).addUnits b 5 d.rowLen) := by
    rw [State.scatterWork, hd]
    dsimp only
    rw [if_neg (Nat.not_le.2 hin), State.collect_single ht (by simp [hf]) (.inr rfl)]
    simp only [Got.andThen, nth, hc, hk, if_false, if_neg (Nat.not_le.2 hlt), hrs, ← hrow, ← ha, if_neg (Nat.not_lt.2 hlen.ge), hput]
    rfl
  have hmem : ((s.stnPut b 5 a row).releaseRows b 5 rs (nth 0 x.fold 1 + d.rowLen)).2.mem = memWrite s.mem a row :=
    (State.releaseRows_mem ..).trans (State.stnPut_mem ..)
  replace hmem : ∀ j used, (((((s.stnPut b 5 a row).releaseRows b 5 rs (nth 0 x.fold 1 + d.rowLen)).2.scatterNext b 5 t j used).addUnits b 5
      d.rowLen).slotServed b 5).mem = memWrite s.mem a row := fun _ _ =>
    (State.onStream_mem ..).trans <| (State.scatterNext_mem ..).trans hmem
  refine ⟨_, exec_of_works (formDoes_scatter s b) hw hwork, ?_, fun y hy => ?_⟩
  · exact (congrArg _ hlen.symm).trans (State.rdBytes_of_memWrite (hmem _ _))
  · rw [State.rd, hmem, memRead_write, hlen, if_neg hy]
    rfl

end

/-! ### Proof (R139) -/

/-- Both forms of Proof fold their items by one work. -/
theorem formDoes_digest (s : State) (b : Nat) {form : Nat} (hf : form < 2) :
    formDoes s b 9 8 form (fun c => if form = 0 then .digestPkt b c else .digestTile b c) fun t x => t.proofWork b 9 form x := by
  obtain rfl | rfl : form = 0 ∨ form = 1 := by omega
  · exact formDoes_digestPkt s b
  · exact formDoes_digestTile s b

/-- An item's bytes under a form of Proof. -/
def proofItem (x : Stream) (form : Nat) (t : Tok) : List Byte :=
  if form = 0 then t.bytes else tileLabel x t.fmt (nth 0 x.inPos 0) ++ t.bytes

/-- The digest with one more item. -/
def State.digestWith (s : State) (b i : Nat) (item : List Byte) : Nat :=
  (s.get (Stn.prfDigestLo b i) + s.get (Stn.prfDigestHi b i) * 2 ^ 64 + itemDigest item) % 2 ^ 128

/-- The digest of n kept, and its item counted. -/
def State.digested (s : State) (b i n units : Nat) : State :=
  ((s.setAll [(Stn.prfDigestLo b i, n % 2 ^ 64), (Stn.prfDigestHi b i, n / 2 ^ 64)]).bump (Stn.prfItems b i) 1).addUnits b i units

theorem State.digested_counted (s : State) (b i n units : Nat) : Counted b i s (s.digested b i n units) := by
  have hk : ∀ g ∈ [Stn.prfDigestLo b i, Stn.prfDigestHi b i, Stn.prfItems b i], workKey b i g.key := by
    intro g hg
    simp only [List.mem_cons, List.not_mem_nil, or_false] at hg
    obtain rfl | rfl | rfl := hg <;>
      exact workKey_of_stn (Nat.le_add_right _ _) (Nat.add_lt_add_left (by decide) _) (by simp [Stn.prfDigestLo, Stn.prfDigestHi, Stn.prfItems])
        (by simp [Stn.prfDigestLo, Stn.prfDigestHi, Stn.prfItems])
  exact ((((Counted.refl s).set _ (hk _ (by simp))).set _ (hk _ (by simp))).bump 1 (hk _ (by simp))).addUnits units

theorem State.digested_get (s : State) (b i : Nat) {n : Nat} (hn : n < 2 ^ 128) (units : Nat) :
    (s.digested b i n units).get (Stn.prfDigestLo b i) = n % 2 ^ 64 ∧ (s.digested b i n units).get (Stn.prfDigestHi b i) = n / 2 ^ 64 ∧
      (s.digested b i n units).get (Stn.prfItems b i) = (s.get (Stn.prfItems b i) + 1) % 2 ^ 64 := by
  have hhi : n / 2 ^ 64 < 2 ^ 64 := by omega
  refine ⟨?_, ?_, ?_⟩ <;> rw [State.digested, State.addUnits, State.onStream_get]
  · rw [State.get_bump_ne _ _ (by simp [Field.key, Stn.prfDigestLo, Stn.prfItems])]
    refine (State.get_set_ne _ _ (by simp [Field.key, Stn.prfDigestLo, Stn.prfDigestHi])).trans ?_
    exact (State.get_set_same ..).trans (Nat.mod_mod _ _)
  · rw [State.get_bump_ne _ _ (by simp [Field.key, Stn.prfDigestHi, Stn.prfItems])]
    exact (State.get_set_same ..).trans (Nat.mod_eq_of_lt hhi)
  · refine (State.get_bump_same ..).trans (congrArg (fun v => (v + 1) % 2 ^ 64) ?_)
    refine State.get_setAll_ne s _ fun e he => ?_
    simp only [List.mem_cons, List.not_mem_nil, or_false] at he
    obtain rfl | rfl := he <;> simp [Field.key, Stn.prfDigestLo, Stn.prfDigestHi, Stn.prfItems]

section
variable {form : Nat} {t : Tok} (hform : form < 2) (hw : works s b 9 8 form x) (ht : s.peek b 9 0 (nth 0 x.inPos 0) x = .tok t)
  (hpiece : t.piece = 0)
include hform hw ht hpiece

theorem exec_digest_more (hin : nth 0 x.inPos 0 + 1 < (nth ⟨0, 0, 0⟩ x.ins 0).count) :
    ∃ u, exec (if form = 0 then .digestPkt b .pass else .digestTile b .pass) s = .next u ∧
      u.get (Stn.prfDigestLo b 9) = s.digestWith b 9 (proofItem x form t) % 2 ^ 64 ∧
      u.get (Stn.prfDigestHi b 9) = s.digestWith b 9 (proofItem x form t) / 2 ^ 64 ∧
      u.get (Stn.prfItems b 9) = (s.get (Stn.prfItems b 9) + 1) % 2 ^ 64 ∧ u.mem = s.mem := by
  have hcol : s.collect b 9 x (fun _ => true) [(0, nth 0 x.inPos 0)] [] = .toks [t] := State.collect_single ht rfl (.inl hpiece)
  have hwork : s.proofWork b 9 form x = .ok ((s.digested b 9 (s.digestWith b 9 (proofItem x form t))
      (128 * ceilDiv ((proofItem x form t).length + 17) 128)).consume b 9 0) := by
    simp only [State.proofWork, decide_eq_false (Nat.not_le.2 hin), Bool.false_and, Bool.false_eq_true, if_false,
      hcol]
    rfl
  obtain ⟨hlo, hhi, hitems⟩ := s.digested_get b 9 (n := s.digestWith b 9 (proofItem x form t)) (Nat.mod_lt _ (by decide))
    (128 * ceilDiv ((proofItem x form t).length + 17) 128)
  have hget : ∀ {u : State} {f : Field} {v : Nat}, Beside b 9 f → u.get f = v → ((u.consume b 9 0).slotServed b 9).get f = v := fun hf h =>
    (State.consume_get (by decide) hf 0).trans h
  refine ⟨_, exec_of_works (formDoes_digest s b hform) hw hwork, hget ?_ hlo, hget ?_ hhi, hget ?_ hitems, ?_⟩
  · constructor <;> simp [Stn.prfDigestLo]
  · constructor <;> simp [Stn.prfDigestHi]
  · constructor <;> simp [Stn.prfItems]
  · exact (State.consume_mem 0).trans ((s.digested_counted b 9 _ _).part State.mem fun _ _ _ _ => rfl)

theorem exec_digest_last (hin : (nth ⟨0, 0, 0⟩ x.ins 0).count ≤ nth 0 x.inPos 0 + 1) {tok : Tok}
    (htok : tok = { fmt := 9, count := 16, bytes := leBytes 16 (s.digestWith b 9 (proofItem x form t)) })
    {place : Option Int} (hplace : place = (x.portDesc b (outPort x 0)).map fun d => (d.base : Int))
    (ho : takesOut s b 9 x 0 tok place) :
    gives s b 9 x 0 tok place (exec (if form = 0 then .digestPkt b .pass else .digestTile b .pass) s) := by
  refine Passes.exec ?_ (formDoes_digest s b hform) hw
  obtain ⟨hx, hb, hi, -⟩ := hw
  have hcol : s.collect b 9 x (fun _ => true) [(0, nth 0 x.inPos 0)] [] = .toks [t] := State.collect_single ht rfl (.inl hpiece)
  have hwork : s.proofWork b 9 form x = ((s.digested b 9 (s.digestWith b 9 (proofItem x form t))
      (128 * ceilDiv ((proofItem x form t).length + 17) 128)).emitTok b 9 0 tok place).map fun u => u.consume b 9 0 := by
    simp only [State.proofWork, decide_eq_true hin, ho.1, Bool.not_true, Bool.and_false, Bool.false_eq_true, if_false, if_true,
      hcol, htok, hplace]
    rfl
  rw [hwork]
  exact ((s.digested_counted b 9 _ _).passes hb hi hx ho).map fun z u hu => hu.consume hi 0

end

end

end Sys2Proof.Machine
end

section
/-! SUPPORT. The positions of Hardy, Galley and Platen: selections, sorts and exact products (R136-R138). -/

namespace Sys2Proof.Machine

open Sys2Proof Safety

/-! ### Formats of the inputs (R79) -/

theorem fmt_lt_of_isKeyFmt {f : Nat} (h : isKeyFmt f = true) : f < 32 := by
  simp only [isKeyFmt, Bool.or_eq_true, decide_eq_true_eq, beq_iff_eq] at h
  omega

theorem fmt_lt_of_isPlatenFmt {f : Nat} (h : isPlatenFmt f = true) : f < 32 := by
  simp only [isPlatenFmt, isMaxFmt, isMx, Bool.or_eq_true, decide_eq_true_eq, beq_iff_eq] at h
  omega

theorem fmt_lt_of_descOf {x : Stream} {b h : Nat} {d : Desc} (hd : x.descOf b h = some d) : d.fmt < 32 := by
  obtain ⟨w, -, rfl⟩ := Option.map_eq_some_iff.1 hd
  exact Nat.mod_lt _ (by decide)

/-! ### Tokens folded (R127) -/

section
variable {s : State} {b i : Nat} {x : Stream}

theorem tokensOut_key_ne {g : Field} (h : g.addr ≠ stnBase b i + 0x18) (hl : g.lo < 64) : (Stn.tokensOut b i).key ≠ g.key := by
  simp only [Field.key, Stn.tokensOut]
  omega

/-- Counting operands moves conversion counters alone. -/
theorem State.countIn_get {g : Field} (hg : ∀ f k, g.key ≠ (Conv.count b f k).key) (s : State) (f : Nat) (vs : List Val) :
    (s.countIn b i f vs).get g = s.get g := by
  have hkind : ∀ (t : State) k n, (t.countKind b i f k n).get g = t.get g := by
    intro t k n
    unfold State.countKind
    split
    · rfl
    · exact State.get_bump_ne _ _ (hg f k)
  exact (hkind ..).trans (hkind ..)

theorem State.countToks_tokensIn (hi : i < 10) (s : State) (ts : List Tok) :
    (s.countToks b i ts).get (Stn.tokensIn b i) = s.get (Stn.tokensIn b i) := by
  refine List.foldlRecOn (motive := fun u : State => u.get (Stn.tokensIn b i) = s.get (Stn.tokensIn b i)) ts _ rfl fun u hu k _ =>
    (State.countIn_get (fun f k => ?_) u _ _).trans hu
  simp only [Field.key, Stn.tokensIn, Conv.count, stnBase_of_lt hi]
  omega

/-- One token each of some ports released: TOKENS_IN counts them, and the fold stays. -/
theorem State.foldl_consume (hi : i < 10) {l : List Nat} (hl : l ≠ []) (hx : s.stream b i = some x) :
    (∃ y, (l.foldl (fun t p => t.consume b i p) s).stream b i = some y ∧ y.fold = x.fold) ∧
      (l.foldl (fun t p => t.consume b i p) s).get (Stn.tokensIn b i) = (s.get (Stn.tokensIn b i) + l.length) % 2 ^ 64 := by
  induction l generalizing s x with
  | nil => exact absurd rfl hl
  | cons p l ih =>
    obtain ⟨y, hy, -, hfold⟩ := State.consume_stream hx p
    have hin := State.consume_tokensIn hi hx p
    by_cases h : l = []
    · subst h
      exact ⟨⟨y, hy, hfold⟩, hin⟩
    · obtain ⟨⟨z, hz, hzf⟩, hzin⟩ := ih h hy
      refine ⟨⟨z, hz, hzf.trans hfold⟩, hzin.trans ?_⟩
      rw [hin, Nat.mod_add_mod, List.length_cons, Nat.add_assoc, Nat.add_comm 1]

theorem Stream.ins_ne_of_hasInput (h : x.hasInput = true) : List.range x.ins.length ≠ [] := by
  intro he
  rw [Stream.hasInput, Stream.openPort, he] at h
  exact Bool.false_ne_true h

/-- A token of every input folded into a list stream's state. -/
theorem State.foldList_folds (hi : i < 10) (hx : s.stream b i = some x) (hin : x.hasInput = true) {ts : List Tok}
    (hts : ∀ t ∈ ts, t.fmt < 32) (l : List Nat) :
    ∃ u, s.foldList b i x ts l = .ok u ∧ (∃ y, u.stream b i = some y ∧ y.fold = l) ∧
      u.get (Stn.tokensIn b i) = (s.get (Stn.tokensIn b i) + x.ins.length) % 2 ^ 64 := by
  obtain ⟨n, hn⟩ := ((Counted.refl s).countToks hts).stream x hx
  have hfold : ((s.countToks b i ts).onStream b i fun y => { y with fold := l }).stream b i = some { x with units := n, fold := l } := by
    rw [State.onStream, hn]
    exact State.stream_setStream _
  obtain ⟨⟨y, hy, hyl⟩, hcount⟩ := State.foldl_consume hi (Stream.ins_ne_of_hasInput hin) hfold
  obtain ⟨m, hm⟩ := ((Counted.refl _).addUnits ((ts.map (·.count)).headD 0)).stream y hy
  refine ⟨_, rfl, ⟨_, hm, hyl⟩, (State.onStream_get ..).trans (hcount.trans ?_)⟩
  rw [List.length_range, State.onStream_get, State.countToks_tokensIn hi]

/-- The command of a list form whose position folds its tokens. -/
theorem folds_of_foldList {kind form : Nat} {cmd : Check → Sys2Proof.Instr} {work : State → Stream → Res} {ts : List Tok} {l : List Nat}
    (hd : formDoes s b i kind form cmd work) (hw : works s b i kind form x) (hin : x.hasInput = true) (hts : ∀ t ∈ ts, t.fmt < 32)
    (hwork : work s x = s.foldList b i x ts l) : folds s b i x.ins.length l (exec (cmd .pass) s) := by
  obtain ⟨hx, -, hi, -⟩ := id hw
  obtain ⟨u, hu, ⟨y, hy, hyl⟩, hcount⟩ := State.foldList_folds hi hx hin hts l
  exact ⟨u.slotServed b i, y, exec_of_works hd hw (hwork.trans hu), hy, hyl, hcount⟩

end

/-! ### Hardy (R136) -/

section
variable {s : State} {b : Nat} {x : Stream} {ts : List Tok}

theorem State.nextKeys_fmt {i : Nat} (hts : s.nextKeys b i x = .toks ts) : ∀ t ∈ ts, t.fmt < 32 := fun t ht =>
  fmt_lt_of_isKeyFmt (State.collect_accepts hts (by simp) t ht)

/-- Which elements of a step's tokens a SELECT selects. -/
def selectedBits (x : Stream) (ts : List Tok) : List Bool := selectBits x (tokCodes [nth noTok ts 0]) (tokCodes (ts.drop 1))

/-- The mask token of a step of SELECT: one bit per element. -/
def maskTok (x : Stream) (ts : List Tok) : Tok :=
  let sel := selectedBits x ts
  let m := (sel.zip (List.range sel.length)).map fun e => if e.1 then 2 ^ e.2 else 0
  let n := ceilDiv (nth noTok ts 0).count 8
  { fmt := 9, count := n, bytes := leBytes n m.sum }

section
variable (hw : works s b 6 5 0 x) (hin : x.hasInput = true) (hts : s.nextKeys b 6 x = .toks ts)
  (hfit : constFits x (nth noTok ts 0).fmt = true) (hcount : x.ins.length = 2 → (nth noTok ts 1).count = (nth noTok ts 0).count)
include hw hin hts hfit hcount

theorem exec_select_mask (hm : s.masks b x = true) (ho : takesOut s b 6 x 0 (maskTok x ts) none) :
    gives s b 6 x 0 (maskTok x ts) none (exec (.select b .pass) s) := by
  refine Passes.exec ?_ (formDoes_select s b) hw
  obtain ⟨hx, hb, hi, -⟩ := hw
  have hwork : s.selectWork b 6 x = ((s.countToks b 6 ts).emitTok b 6 0 (maskTok x ts) none).map fun u =>
      (u.consumeAll b 6 x).addUnits b 6 (nth noTok ts 0).count := by
    rw [State.selectWork, if_pos hm, if_neg (by simp [ho.1, hin]), hts]
    exact if_neg (by simpa [hfit] using hcount)
  rw [hwork]
  exact (((Counted.refl s).countToks (State.nextKeys_fmt hts)).passes hb hi hx ho).map fun z u hu => (hu.consumeAll hi x).addUnits _

theorem exec_select_fold (hm : s.masks b x = false) :
    folds s b 6 x.ins.length ([nth 0 x.fold 0 + (nth noTok ts 0).count, nth 0 x.fold 1 + (trueAt (selectedBits x ts)).length] ++
      ((x.fold.drop 2) ++ (trueAt (selectedBits x ts)).map fun j => keptOf (nth 0 x.fold 0 + j) (0, 0)).take x.p0)
      (exec (.select b .pass) s) := by
  refine folds_of_foldList (formDoes_select s b) hw hin (State.nextKeys_fmt hts) ?_
  rw [State.selectWork, hm, if_neg (by decide), if_pos hin, hts]
  exact if_neg (by simpa [hfit] using hcount)

end

theorem exec_topk_fold (hw : works s b 6 5 1 x) (hin : x.hasInput = true) (hts : s.nextKeys b 6 x = .toks ts)
    (hmax : nth 0 x.fold 0 + (nth noTok ts 0).count ≤ maxIndices) {kept : List Nat}
    (hkept : kept = topKept x.desc x.p0 (x.fold.drop 2 ++ keptToks (nth 0 x.fold 0) (nth noTok ts 0))) :
    folds s b 6 x.ins.length ([nth 0 x.fold 0 + (nth noTok ts 0).count, kept.length] ++ kept) (exec (.topk b .pass) s) := by
  refine folds_of_foldList (formDoes_topk s b) hw hin (State.nextKeys_fmt hts) ?_
  rw [State.topkWork, if_pos hin, hts, hkept]
  exact if_neg (Nat.not_lt.2 hmax)

/-- The next token of a list whose inputs are all folded. -/
theorem State.emitList_passes {i cap : Nat} (hb : b < 40) (hi : i < 10) (hx : s.stream b i = some x)
    (hout : nth 0 x.outPos 0 < (outPort x 0).count)
    (ho : takesOut s b i x 0 (listTok (keptIndices (x.fold.drop 2)) cap (nth 0 x.outPos 0)) none) :
    Passes s b i x 0 (listTok (keptIndices (x.fold.drop 2)) cap (nth 0 x.outPos 0)) none (s.emitList b i x cap) := by
  rw [State.emitList, if_neg (State.not_waits_for_space ho.1 hout)]
  refine ((Counted.refl s).passes hb hi hx ho).map fun z u hu => ?_
  split
  · exact (hu.bump _ (tokensOut_key_ne (by simp [Stn.hdSelected]) (by simp [Stn.hdSelected]))).bump _
      (tokensOut_key_ne (by simp [Stn.hdDropped]) (by simp [Stn.hdDropped]))
  · exact hu

theorem exec_select_list (hw : works s b 6 5 0 x) (hin : x.hasInput = false) (hm : s.masks b x = false)
    (hout : nth 0 x.outPos 0 < (outPort x 0).count)
    (ho : takesOut s b 6 x 0 (listTok (keptIndices (x.fold.drop 2)) x.p0 (nth 0 x.outPos 0)) none) :
    gives s b 6 x 0 (listTok (keptIndices (x.fold.drop 2)) x.p0 (nth 0 x.outPos 0)) none (exec (.select b .pass) s) := by
  refine Passes.exec ?_ (formDoes_select s b) hw
  obtain ⟨hx, hb, hi, -⟩ := hw
  have hwork : s.selectWork b 6 x = s.emitList b 6 x x.p0 := by simp only [State.selectWork, hm, hin, Bool.false_eq_true, if_false]
  rw [hwork]
  exact State.emitList_passes hb hi hx hout ho

theorem exec_topk_list (hw : works s b 6 5 1 x) (hin : x.hasInput = false) (hout : nth 0 x.outPos 0 < (outPort x 0).count)
    (ho : takesOut s b 6 x 0 (listTok (keptIndices (x.fold.drop 2)) x.p0 (nth 0 x.outPos 0)) none) :
    gives s b 6 x 0 (listTok (keptIndices (x.fold.drop 2)) x.p0 (nth 0 x.outPos 0)) none (exec (.topk b .pass) s) := by
  refine Passes.exec ?_ (formDoes_topk s b) hw
  obtain ⟨hx, hb, hi, -⟩ := hw
  have hwork : s.topkWork b 6 x = s.emitList b 6 x x.p0 := by simp only [State.topkWork, hin, Bool.false_eq_true, if_false]
  rw [hwork]
  exact State.emitList_passes hb hi hx hout ho

end

/-! ### Galley (R137) -/

/-- Both forms of Galley put their keys in order by one work. -/
theorem formDoes_galley (s : State) (b : Nat) {form : Nat} (hf : form < 2) :
    formDoes s b 7 6 form (fun c => if form = 0 then .sort b c else .merge b c) fun t x => t.galleyWork b 7 form x := by
  obtain rfl | rfl : form = 0 ∨ form = 1 := by omega
  · exact formDoes_sort s b
  · exact formDoes_merge s b

/-- Token k of the sorted keys, or of their payloads. -/
def sortedTok (x : Stream) (runs : List (List Keyed)) (f p k : Nat) : Tok :=
  let l := runs.flatten.mergeSort (keyedLe x.desc)
  if p = 0 then keyTok l k else payTok f l k

section
variable {s : State} {b : Nat} {x : Stream}

theorem exec_galley {p form f : Nat} {runs : List (List Keyed)} (hform : form < 2) (hw : works s b 7 6 form x) (hnext : x.nextOut = some p)
    (hruns : s.galleyRuns b 7 x (payBytes x != 0) x.keyPorts [] 0 = (none, runs, f))
    (hmerge : form = 1 → ∀ r ∈ runs, unsortedAt x.desc r = none) (hsort : form = 0 → (runs.map List.length).sum ≤ 1048576)
    (hcount : ∀ q, q < x.outs.length → (outPort x q).count = galleyCount x f (runs.map List.length).sum q)
    (ho : takesOut s b 7 x p (sortedTok x runs f p (nth 0 x.outPos p)) none) :
    gives s b 7 x p (sortedTok x runs f p (nth 0 x.outPos p)) none (exec (if form = 0 then .sort b .pass else .merge b .pass) s) := by
  refine Passes.exec ?_ (formDoes_galley s b hform) hw
  obtain ⟨hx, hb, hi, -⟩ := hw
  have hsorted : (if form = 1 then runs.findSome? (unsortedAt x.desc) else none) = none := by
    split
    · exact List.findSome?_eq_none_iff.2 (hmerge ‹_›)
    · rfl
  have hfits : ¬ ((form = 0 ∧ 1048576 < (runs.map List.length).sum) ∨ ((List.range x.outs.length).any fun q =>
      (nth ⟨0, 0, 0⟩ x.outs q).count != galleyCount x f (runs.map List.length).sum q) = true) := by
    rintro (⟨h0, hlt⟩ | h)
    · exact Nat.not_lt.2 (hsort h0) hlt
    · obtain ⟨q, hq, hne⟩ := List.any_eq_true.1 h
      exact bne_iff_ne.1 hne (hcount q (List.mem_range.1 hq))
  rw [State.galleyWork]
  simp only [hnext, ho.1, hruns, hsorted, Bool.not_true, Bool.false_eq_true, if_false, if_neg hfits]
  refine Passes.map ((Counted.refl s).passes hb hi hx ho) fun z u hu => ?_
  have hways : (Stn.tokensOut b 7).key ≠ (Stn.galWays b 7).key := tokensOut_key_ne (by simp [Stn.galWays]) (by simp [Stn.galWays])
  split
  · exact (((((hu.countIn hi _ _).consumeRest hi x).set _ hways).bump _
      (tokensOut_key_ne (by simp [Stn.galPasses]) (by simp [Stn.galPasses]))).addUnits _)
  · exact hu.set _ hways

end

/-! ### Platen (R138) -/

section
variable {s : State} {b : Nat} {x : Stream}

theorem State.collectAll_fmt {i p : Nat} {ts : List Tok} (hts : s.collectAll b i x (fun t => isPlatenFmt t.fmt) p = .toks ts) (j : Nat) :
    (nth noTok ts j).fmt < 32 :=
  nth_of_forall (P := fun t => t.fmt < 32) (fun t ht => fmt_lt_of_isPlatenFmt (State.collect_accepts hts (by simp) t ht)) (by decide) j

theorem workKey_plFmt (b i : Nat) : workKey b i (Stn.plFmtX b i).key ∧ workKey b i (Stn.plFmtA b i).key := by
  constructor <;> refine workKey_of_stn ?_ ?_ ?_ ?_ <;> simp [Stn.plFmtX, Stn.plFmtA]

/-- The values of some tokens. -/
def tokensVals (ts : List Tok) : List Val := (ts.map fun t => tileVals t.fmt t.count t.bytes).flatten

theorem tokensVals_eq (ts : List Tok) : (ts.map fun t => tileVals t.fmt t.count t.bytes).flatten = tokensVals ts := rfl

theorem exec_matvec {d : Desc} {ts : List Tok} (hw : works s b 8 7 0 x) (hd : x.descOf b x.p0 = some d)
    (hout : nth 0 x.outPos 0 < (outPort x 0).count) (hts : s.collectAll b 8 x (fun t => isPlatenFmt t.fmt) 0 = .toks ts)
    (hlen : (tokensVals ts).length = d.row) (hread : s.mayRead b d (d.deviceAddr b (d.base + d.rowOff (nth 0 x.outPos 0))) d.rowLen = true)
    (herr : s.readErr (d.deviceAddr b (d.base + d.rowOff (nth 0 x.outPos 0))) d.rowLen = none) {r sum : Val}
    (hr : r = (dotVals (s.matrixRow b d (nth 0 x.outPos 0)) (tokensVals ts)).1)
    (hsum : sum = if isIntFmt (nth noTok ts 0).fmt && isIntFmt d.fmt then (satInt32 r).1 else r) {tok : Tok}
    (htok : tok = { fmt := exactFmt, count := 1, bytes := exactBytes (exactOf sum) }) (ho : takesOut s b 8 x 0 tok none) :
    gives s b 8 x 0 tok none (exec (.matvec b .pass) s) := by
  refine Passes.exec ?_ (formDoes_matvec s b) hw
  obtain ⟨hx, hb, hi, -⟩ := hw
  have hsat : (if isIntFmt (nth noTok ts 0).fmt && isIntFmt d.fmt then satInt32 r else (r, false)).1 = sum := by
    rw [hsum, apply_ite Prod.fst]
  have hcounted : ∀ n m vs v, Counted b 8 s ((((s.countKind b 8 11 3 n).countKind b 8 d.fmt 5 m).countIn b 8 d.fmt vs).set (Stn.plFmtX b 8) v) :=
    fun _ _ _ _ => ((((Counted.refl s).countKind _ (by decide) (by decide)).countKind _ (fmt_lt_of_descOf hd) (by decide)).countIn _
      (fmt_lt_of_descOf hd)).set _ (workKey_plFmt b 8).1
  rw [State.matvecWork, hd]
  dsimp only
  rw [if_neg (State.not_waits_for_space ho.1 hout), hts]
  simp only [Got.andThen]
  rw [if_neg (by exact not_not.2 hlen), if_neg (by simp [hread]), herr]
  simp only [tokensVals_eq, ← hr, hsat, ← htok]
  refine Passes.map ((hcounted ..).passes hb hi hx ho) fun z u hu => ?_
  exact (hu.lastOut hi x 0 fun v hv => hv.countIn hi _ _).addUnits _

theorem exec_outer {ts us : List Tok} (hw : works s b 8 7 1 x) (hout : nth 0 x.outPos 0 < (outPort x 0).count)
    (hts : s.collectAll b 8 x (fun t => isPlatenFmt t.fmt) 0 = .toks ts) (hus : s.collectAll b 8 x (fun t => isPlatenFmt t.fmt) 1 = .toks us)
    {tiles : Nat} (htiles : tiles = ceilDiv (tokensVals us).length 1024) {ps : List Val}
    (hps : ps = (((tokensVals us).drop (1024 * (nth 0 x.outPos 0 % tiles))).take 1024).map fun v =>
      (Val.mul (nth (.fin false 0 0) (tokensVals ts) (nth 0 x.outPos 0 / tiles)) v).1) {tok : Tok}
    (htok : tok = { fmt := exactFmt, count := ps.length, bytes := (ps.map fun v => exactBytes (exactOf v)).flatten })
    (hcount : (outPort x 0).count = (tokensVals ts).length * tiles) (hrow : (tokensVals ts).length ≤ 65536)
    (hcol : (tokensVals us).length ≤ 4096) (ho : takesOut s b 8 x 0 tok none) :
    gives s b 8 x 0 tok none (exec (.outer b .pass) s) := by
  refine Passes.exec ?_ (formDoes_outer s b) hw
  obtain ⟨hx, hb, hi, -⟩ := hw
  have hcounted : ∀ n v w, Counted b 8 s (((s.countKind b 8 (nth noTok ts 0).fmt 5 n).set (Stn.plFmtA b 8) v).set (Stn.plFmtX b 8) w) :=
    fun _ _ _ => (((Counted.refl s).countKind _ (State.collectAll_fmt hts 0) (by decide)).set _ (workKey_plFmt b 8).2).set _ (workKey_plFmt b 8).1
  have hfits : ¬ ((nth ⟨0, 0, 0⟩ x.outs 0).count ≠ (tokensVals ts).length * tiles ∨ 65536 < (tokensVals ts).length ∨
      4096 < (tokensVals us).length) := by
    rintro (h | h | h)
    · exact h hcount
    · exact Nat.not_lt.2 hrow h
    · exact Nat.not_lt.2 hcol h
  have hfst : ((((tokensVals us).drop (1024 * (nth 0 x.outPos 0 % tiles))).take 1024).map fun v =>
      Val.mul (nth (.fin false 0 0) (tokensVals ts) (nth 0 x.outPos 0 / tiles)) v).map (·.1) = ps := by
    rw [hps, List.map_map]
    rfl
  rw [State.outerWork, if_neg (State.not_waits_for_space ho.1 hout), hts]
  simp only [Got.andThen]
  rw [hus]
  simp only [tokensVals_eq, ← htiles, if_neg hfits, hfst, ← htok]
  refine Passes.map ((hcounted ..).passes hb hi hx ho) fun z u hu => ?_
  exact (hu.lastOut hi x 0 fun v hv => (hv.countIn hi _ _).countIn hi _ _).addUnits _

end

end Sys2Proof.Machine

open Sys2Proof Sys2Proof.Machine Sys2Proof.Safety

/-- Settles O12: each command is a step of its form; each position is its form's work, whose token the port takes or whose tokens are folded. -/
theorem stationFormsWork : Obligations.StationFormsWork := by
  intro s b i x
  refine ⟨⟨formDoes_scale s b i, formDoes_sum s b i, formDoes_sumsp s b i, formDoes_norm s b i, formDoes_rowsum s b i, formDoes_colsum s b i,
      formDoes_max s b i, formDoes_min s b i, formDoes_update s b, formDoes_replay s b, formDoes_convert s b i, formDoes_finish s b i,
      formDoes_zfill s b i, formDoes_gather s b, formDoes_scatter s b, formDoes_permute s b, formDoes_strided s b, formDoes_select s b,
      formDoes_topk s b, formDoes_sort s b, formDoes_merge s b, formDoes_matvec s b, formDoes_outer s b, formDoes_digestPkt s b,
      formDoes_digestTile s b⟩, ?_, ?_, ?_, ?_, ?_, ?_, ?_, ?_, ?_, ?_, ?_, ?_⟩
  · exact fun d ts row hw hd _ hS hout hts hlo hhi hrow ho => exec_gather hw hd hS hout hts hlo hhi hrow ho
  · exact fun d t row hw hd ht _ hS hout hread hrow ho => exec_permute hw hd ht hS hout rfl hread hrow ho
  · exact fun d t hw hd hout ht ho => exec_strided hw hd hout ht ho
  · exact fun d t rs hw hd hin ht hf hc => ⟨fun hk => exec_scatter_skip hw hd hin ht hf hc hk,
      fun hlt hk hrs hlen hp => exec_scatter_row hw hd hin ht hf hc hlt hk hrs rfl rfl hlen hp⟩
  · exact fun ts hw hin hts hfit hcount => ⟨fun hm ho => exec_select_mask hw hin hts hfit hcount hm ho,
      fun hm => exec_select_fold hw hin hts hfit hcount hm⟩
  · exact fun hw hin hm hout ho => exec_select_list hw hin hm hout ho
  · exact fun ts hw hin hts hmax => exec_topk_fold hw hin hts hmax rfl
  · exact fun hw hin hout ho => exec_topk_list hw hin hout ho
  · exact fun p form runs f hform hw hnext hruns hmerge hsort hcount ho => exec_galley hform hw hnext hruns hmerge hsort hcount ho
  · exact fun d ts hw hd hout hts hlen hread herr ho => exec_matvec hw hd hout hts hlen hread herr rfl rfl rfl ho
  · exact fun ts us hw hout hts hus hcount hrow hcol ho => exec_outer hw hout hts hus rfl rfl rfl hcount hrow hcol ho
  · exact fun form t hform hw ht hpiece => ⟨fun hin => exec_digest_more hform hw ht hpiece hin,
      fun hin ho => exec_digest_last hform hw ht hpiece hin rfl rfl ho⟩

end
